-- ==== Sys2Proof/Word.lean ====
section
/-! DEFINITION. Words, bytes and the plainest arithmetic on them (R5, R29, R86). -/
namespace Sys2Proof

/-- A 64-bit scalar register value (R29). -/
abbrev Word := BitVec 64
/-- A byte of memory. -/
abbrev Byte := BitVec 8
/-- A 16-bit halfword of a code store (R65). -/
abbrev Half := BitVec 16
/-- A halfword address of a code store (R65). -/
abbrev CodeAddr := BitVec 14
/-- A 128-bit vector register value (R29). -/
abbrev Vec := BitVec 128
/-- A 16-bit predicate register value (R29). -/
abbrev Pred := BitVec 16
/-- The number of a scalar or vector register (R70). -/
abbrev Reg := Fin 32

/-- Bits `lo + n - 1 .. lo` of a natural number: `X[h:l]` of the dialect (R86). -/
def bits (x lo n : Nat) : Nat := x / 2 ^ lo % 2 ^ n

/-- Bit `i` of a natural number (R86). -/
def bit (x i : Nat) : Bool := x / 2 ^ i % 2 = 1

/-- `SExt(x, n)`: the low `n` bits of `x` read as signed two's complement (R87). -/
def sext (x n : Nat) : Int :=
  let y := x % 2 ^ n
  if n ≠ 0 ∧ 2 ^ (n - 1) ≤ y then (y : Int) - (2 : Int) ^ n else (y : Int)

/-- An integer taken into a register of 64 bits: its value modulo 2^64 (R86). -/
def wrap (x : Int) : Word := BitVec.ofInt 64 x

/-- A Boolean as a register value, 1 or 0. -/
def ofBool (b : Bool) : Word := if b then 1 else 0

end Sys2Proof
end

