-- ==== Sys2Proof/Config.lean ====
section
/-! DEFINITION. What one implementation fixes, and the free values: values the spec leaves open.

A free value is a constant without a body, so no proof can see what it is (log 6). -/
namespace Sys2Proof.Config

/-- The fresh free value number `n`: State counts how many have been used (log 6). -/
opaque freeWord : Nat → Nat

/-- A message command that names a tag slot ends with SWIZZLE, as R177 has it, and not with PARAM, as R267 has it: the spec says
both, and this constant says which of the two a part does (log 40). -/
opaque slotByMessage : Bool

/-- A firmware signature or an SPDM answer over a measured value (R406; log 7). -/
opaque sign : Nat → Nat → Nat

/-- The SHA-384 digest that attestation reports over numbers (R406; log 7). -/
opaque digest : List Nat → Nat

/-- Slots of a cell's inbox (R31). -/
def inboxSlots : Nat := 64
/-- Compute cells' PCELLs lie below this (R64). -/
def computeCells : Nat := 0x8400
/-- The first depot cell's PCELL (R64). -/
def depotBase : Nat := 0x10000
/-- Depot cells (R27). -/
def depotCells : Nat := 192
/-- The first system core's PCELL (R64). -/
def systemBase : Nat := 0x10100
/-- System cores (R27). -/
def systemCores : Nat := 8
/-- Bytes of a scratchpad row (R172). -/
def rowBytes : Nat := 128
/-- Bytes of this module's HBM: 2,304 GiB (R178). -/
def hbmBytes : Nat := 0x24000000000
/-- L2 slices, HBM stacks and Caravan engines of a module (R183, R193, R322). -/
def stackCount : Nat := 48

end Sys2Proof.Config
end

