-- ==== Sys2Proof/Syntax.lean ====
section
/-! DEFINITION. The instructions and events of the part: one constructor for each row of the opcode table.

A row with an encoding carries its fields from the low bit up.  The switch marker S, which plays no part
in decoding (R66), is read beside the instruction and held in State while it executes.
A row without an encoding is an EVENT: a step the hardware takes by itself or on behalf of the
module's environment.  What it acts on is an `EventArg`, which State holds while it executes (log 3).
The rows without operand fields stand last: Lean's runtime bounds the number of constructors that have any. -/
namespace Sys2Proof

/-- The three kinds of cell that run Troiv code (R27). -/
inductive CellKind where
  | compute | depot | system
  deriving DecidableEq, Repr

/-- A message between modules, as its header flit and payload carry it (R305). -/
structure Packet where
  ddev : Nat
  dcell : Nat
  sdev : Nat
  scell : Nat
  cls : Nat
  rel : Bool
  retx : Bool
  first : Bool
  seq : Nat
  launch : Nat
  paylen : Nat
  spcell : Nat
  args : List Nat
  path : Nat
  paddr : Nat
  rnd : Nat
  payload : List Nat
  deriving DecidableEq, Repr

/-- No packet. -/
def Packet.none : Packet :=
  ⟨0, 0, 0, 0, 0, false, false, false, 0, 0, 0, 0, [0, 0, 0, 0], 0, 0, 0, []⟩

/-- The arguments of an event: up to three numbers, a flag, a list and a packet.  Each event's
docstring names the ones it reads. -/
structure EventArg where
  a : Nat := 0
  b : Nat := 0
  c : Nat := 0
  flag : Bool := true
  data : List Nat := []
  p : Packet := Packet.none
  deriving DecidableEq, Repr

/-- One constructor for each row of the opcode table. -/
inductive Instr where
  /-- ADD (R90). Writes the 64-bit wrapping sum of s[A] and s[B] to s[D]. -/
  | add (d a b : Reg)
  /-- SUB (R90). Writes the 64-bit wrapping difference s[A] minus s[B] to s[D]. -/
  | sub (d a b : Reg)
  /-- AND (R90). Writes the bitwise AND of s[A] and s[B] to s[D]. -/
  | and (d a b : Reg)
  /-- OR (R90). Writes the bitwise OR of s[A] and s[B] to s[D]. -/
  | or (d a b : Reg)
  /-- XOR (R90). Writes the bitwise XOR of s[A] and s[B] to s[D]. -/
  | xor (d a b : Reg)
  /-- ANDN (R90). Writes s[A] AND NOT s[B] to s[D]. -/
  | andn (d a b : Reg)
  /-- ORN (R90). Writes s[A] OR NOT s[B] to s[D]. -/
  | orn (d a b : Reg)
  /-- SLL (R90). Shifts s[A] left by s[B][5:0] into s[D]. -/
  | sll (d a b : Reg)
  /-- SRL (R90). Shifts s[A] right logically by s[B][5:0] into s[D]. -/
  | srl (d a b : Reg)
  /-- SRA (R90). Shifts s[A] right arithmetically by s[B][5:0] into s[D]. -/
  | sra (d a b : Reg)
  /-- SLT (R90). Writes 1 to s[D] if s[A] is signed less than s[B], else 0. -/
  | slt (d a b : Reg)
  /-- SLTU (R90). Writes 1 to s[D] if s[A] is unsigned less than s[B], else 0. -/
  | sltu (d a b : Reg)
  /-- MIN (R90). Writes the signed minimum of s[A] and s[B] to s[D]. -/
  | min (d a b : Reg)
  /-- MAX (R90). Writes the signed maximum of s[A] and s[B] to s[D]. -/
  | max (d a b : Reg)
  /-- MINU (R90). Writes the unsigned minimum of s[A] and s[B] to s[D]. -/
  | minu (d a b : Reg)
  /-- MAXU (R90). Writes the unsigned maximum of s[A] and s[B] to s[D]. -/
  | maxu (d a b : Reg)
  /-- SEQ (R90). Writes 1 to s[D] if s[A] equals s[B], else 0. -/
  | seq (d a b : Reg)
  /-- ADDI (R91). Adds the sign-extended I14 immediate to s[A] into s[D]. -/
  | addi (d a : Reg) (i : BitVec 14)
  /-- ANDI (R91). ANDs s[A] with the sign-extended immediate into s[D]. -/
  | andi (d a : Reg) (i : BitVec 14)
  /-- ORI (R91). ORs s[A] with the sign-extended immediate into s[D]. -/
  | ori (d a : Reg) (i : BitVec 14)
  /-- XORI (R91). XORs s[A] with the sign-extended immediate into s[D]. -/
  | xori (d a : Reg) (i : BitVec 14)
  /-- SLTI (R91). Signed compare of s[A] against the immediate into s[D]. -/
  | slti (d a : Reg) (i : BitVec 14)
  /-- SLTIU (R91). Unsigned compare of s[A] against the sign-extended immediate into s[D]. -/
  | sltiu (d a : Reg) (i : BitVec 14)
  /-- SLLI (R92). Shifts s[A] left by the immediate count into s[D]. -/
  | slli (d a : Reg) (h : BitVec 6)
  /-- SRLI (R92). Shifts s[A] right logically by the immediate count into s[D]. -/
  | srli (d a : Reg) (h : BitVec 6)
  /-- SRAI (R92). Shifts s[A] right arithmetically by the immediate count into s[D]. -/
  | srai (d a : Reg) (h : BitVec 6)
  /-- LI (R93). Loads the sign-extended I19 immediate into s[D]. -/
  | li (d : Reg) (i : BitVec 19)
  /-- LIH (R94). Replaces quarter q of s[D] with the 16-bit immediate h. -/
  | lih (d : Reg) (h : BitVec 16) (q : BitVec 2)
  /-- MUL (R95). Writes the low 64 bits of s[A] times s[B] to s[D]. -/
  | mul (d a b : Reg)
  /-- MULH (R95). Writes the high 64 bits of the signed product to s[D]. -/
  | mulh (d a b : Reg)
  /-- MULHSU (R95). Writes the high 64 bits of signed s[A] times unsigned s[B] to s[D]. -/
  | mulhsu (d a b : Reg)
  /-- MULHU (R95). Writes the high 64 bits of the unsigned product to s[D]. -/
  | mulhu (d a b : Reg)
  /-- DIV (R95). Writes the signed quotient truncated towards zero, with fixed results for zero and overflow. -/
  | div (d a b : Reg)
  /-- DIVU (R95). Writes the unsigned quotient, all ones for a zero divisor. -/
  | divu (d a b : Reg)
  /-- REM (R95). Writes the signed remainder with the dividend's sign. -/
  | rem (d a b : Reg)
  /-- REMU (R95). Writes the unsigned remainder, the dividend for a zero divisor. -/
  | remu (d a b : Reg)
  /-- CLZ (R96). Counts the leading zero bits of s[A] into s[D]. -/
  | clz (d a : Reg)
  /-- CTZ (R96). Counts the trailing zero bits of s[A] into s[D]. -/
  | ctz (d a : Reg)
  /-- POPC (R96). Counts the one bits of s[A] into s[D]. -/
  | popc (d a : Reg)
  /-- BSWAP (R96). Reverses the byte order of s[A] into s[D]. -/
  | bswap (d a : Reg)
  /-- BREV (R96). Reverses the bit order of s[A] into s[D]. -/
  | brev (d a : Reg)
  /-- ROL (R96). Rotates s[A] left by s[B][5:0] into s[D]. -/
  | rol (d a b : Reg)
  /-- ROR (R96). Rotates s[A] right by s[B][5:0] into s[D]. -/
  | ror (d a b : Reg)
  /-- RAND (R97). Draws Mix(key, SRCTR) into s[D] and advances SRCTR at retirement. -/
  | rand (d : Reg)
  /-- BEQ (R98). Branches by O11 halfwords when s[A] equals s[B]. -/
  | beq (a b : Reg) (o : BitVec 11)
  /-- BNE (R98). Branches when s[A] differs from s[B]. -/
  | bne (a b : Reg) (o : BitVec 11)
  /-- BLT (R98). Branches when s[A] is signed less than s[B]. -/
  | blt (a b : Reg) (o : BitVec 11)
  /-- BGE (R98). Branches when s[A] is signed greater than or equal to s[B]. -/
  | bge (a b : Reg) (o : BitVec 11)
  /-- BLTU (R98). Branches when s[A] is unsigned less than s[B]. -/
  | bltu (a b : Reg) (o : BitVec 11)
  /-- BGEU (R98). Branches when s[A] is unsigned greater than or equal to s[B]. -/
  | bgeu (a b : Reg) (o : BitVec 11)
  /-- JMP (R99). Jumps by the O24 halfword offset modulo 2^14. -/
  | jmp (o : BitVec 24)
  /-- CALL (R99). Writes the return address to s1 and jumps by O24. -/
  | call (o : BitVec 24)
  /-- JREG (R100). Jumps to s[A] plus I14 modulo 2^14 and links into s[D]. -/
  | jreg (d a : Reg) (i : BitVec 14)
  /-- LOOP (R104). Opens hardware loop level k with count s[A] and end at PC plus I14. -/
  | loop (a : Reg) (i : BitVec 14)
  /-- ENDTASK (R109). Parks for outstanding results, closes any join, sends the join result and LIVE update and frees the context. -/
  | endtask (a : Reg)
  /-- SPAWN_PATH (R112). Posts a child task placed by the hash of its fork path and counts it in LIVE. -/
  | spawnPath (d a : Reg) (c : BitVec 6) (r : BitVec 1)
  /-- SPAWN_NEAR (R112). Posts a child task placed by a NEAR walk towards a hint cluster. -/
  | spawnNear (d a : Reg) (c : BitVec 6) (r : BitVec 1)
  /-- SPAWN_STEAL (R112). Pushes a child task onto the spawner's steal deque. -/
  | spawnSteal (d a : Reg) (c : BitVec 6) (r : BitVec 1)
  /-- JOIN (R115). Closes any armed join, writes the join record open and arms a join, adding 1 to LIVE. -/
  | join (d a : Reg) (k : BitVec 8)
  /-- YIELDCHK (R117). Writes PRQ into s[D]. -/
  | yieldchk (d : Reg)
  /-- FOLLOW (R118). Parks the follower until the leader issues the named code address. -/
  | follow (a : Reg) (k : BitVec 10)
  /-- CANCEL (R119). Sets CANCEL in a level record by an indivisible OR at its home. -/
  | cancel (a : Reg)
  /-- RTQUIET (R120). Returns GEN of a class and whether no activation of an older binding runs. -/
  | rtquiet (d a : Reg) (k : BitVec 8)
  /-- CSRRW (R121). Swaps s[A] into a CSR and returns the old value. -/
  | csrrw (d a : Reg) (k : BitVec 10)
  /-- CSRRS (R121). Sets CSR bits from s[A] and returns the old value. -/
  | csrrs (d a : Reg) (k : BitVec 10)
  /-- CSRRC (R121). Clears CSR bits from s[A] and returns the old value. -/
  | csrrc (d a : Reg) (k : BitVec 10)
  /-- LD (R224). Loads a global value of size Z as a variable-latency result. -/
  | ld (d a : Reg) (z : BitVec 3) (o : BitVec 11)
  /-- ST (R225). Stores the low bytes of s[D] to global memory. -/
  | st (d a : Reg) (z : BitVec 3) (o : BitVec 11)
  /-- LDL (R224). Loads from the private local rows, interlocked. -/
  | ldl (d a : Reg) (z : BitVec 3) (o : BitVec 11)
  /-- STL (R225). Stores to the private local rows. -/
  | stl (d a : Reg) (z : BitVec 3) (o : BitVec 11)
  /-- LDC (R224). Loads from the cluster window. -/
  | ldc (d a : Reg) (z : BitVec 3) (o : BitVec 11)
  /-- STC (R225). Stores to the cluster window. -/
  | stc (d a : Reg) (z : BitVec 3) (o : BitVec 11)
  /-- LDV (R226). Loads the active bytes of a 16-byte vector from the chosen space. -/
  | ldv (d a b : Reg) (p : Fin 8) (n y : BitVec 3)
  /-- STV (R226). Stores the active bytes of a vector to the chosen space. -/
  | stv (d a b : Reg) (p : Fin 8) (n y : BitVec 3)
  /-- AMOSWAP (R228). Atomically writes s[B] and returns the old value. -/
  | amoswap (d a b : Reg) (z : BitVec 1) (u : BitVec 2)
  /-- AMOADD (R228). Atomically adds s[B] with wrap and returns the old value. -/
  | amoadd (d a b : Reg) (z : BitVec 1) (u : BitVec 2)
  /-- AMOAND (R228). Atomically ANDs s[B] into the location. -/
  | amoand (d a b : Reg) (z : BitVec 1) (u : BitVec 2)
  /-- AMOOR (R228). Atomically ORs s[B] into the location. -/
  | amoor (d a b : Reg) (z : BitVec 1) (u : BitVec 2)
  /-- AMOXOR (R228). Atomically XORs s[B] into the location. -/
  | amoxor (d a b : Reg) (z : BitVec 1) (u : BitVec 2)
  /-- AMOMIN (R228). Atomically writes the signed minimum. -/
  | amomin (d a b : Reg) (z : BitVec 1) (u : BitVec 2)
  /-- AMOMAX (R228). Atomically writes the signed maximum. -/
  | amomax (d a b : Reg) (z : BitVec 1) (u : BitVec 2)
  /-- AMOMINU (R228). Atomically writes the unsigned minimum. -/
  | amominu (d a b : Reg) (z : BitVec 1) (u : BitVec 2)
  /-- AMOMAXU (R228). Atomically writes the unsigned maximum. -/
  | amomaxu (d a b : Reg) (z : BitVec 1) (u : BitVec 2)
  /-- AMOCAS (R229). Writes s[B] if the old value equals s[D]; returns the old value. -/
  | amocas (d a b : Reg) (z : BitVec 1) (u : BitVec 2)
  /-- AMOFADD (R228). Atomically adds an f32 with RNE and returns the old value and flags. -/
  | amofadd (d a b : Reg) (u : BitVec 2)
  /-- AMOBFPADD (R230). Adds a bx8 operand block to a global bx8 block as one operation at its home. -/
  | amobfpadd (d a b : Reg)
  /-- FENCE (R232). Orders covered earlier accesses of its scope before later events, parking when S is set. -/
  | fence (t : BitVec 4)
  /-- PHINIT (R233). Writes a whole phase word with new targets and zero counts, GEN and ERR. -/
  | phinit (a b : Reg) (t : BitVec 4)
  /-- PHARR (R234). Sends one arrival with release ordering and parks until the home replies. -/
  | pharr (a : Reg) (t : BitVec 4)
  /-- PHADD (R234). Sends a byte update of s[B] and parks until the home replies. -/
  | phadd (a b : Reg) (t : BitVec 4)
  /-- PHWAIT (R235). Waits at the home until GEN differs from s[B] and returns GEN and ERR, holding later accesses. -/
  | phwait (d a b : Reg) (t : BitVec 4)
  /-- PHREAD (R236). Reads one half of a phase word as a plain atomic read. -/
  | phread (d a b : Reg) (t : BitVec 4)
  /-- TAGLK (R237). Looks up a VA in the tag table, returning a slot, -1 or -2. -/
  | taglk (d a : Reg)
  /-- TAGSET (R238). Writes a whole tag entry in one step. -/
  | tagset (d a b : Reg)
  /-- TAGINV (R238). Clears VALID, DIRTY and EVICTED of a tag slot without write-back. -/
  | taginv (a : Reg)
  /-- TAGSTAT (R238). Reads one half of a tag entry. -/
  | tagstat (d a b : Reg)
  /-- XFER (R239). Hands a parameter block to the cluster copy engine. -/
  | xfer (a : Reg)
  /-- XFERN (R240). Returns the number of the context's transfers not yet completed. -/
  | xfern (d : Reg)
  /-- SEND (R349). Posts a message with payload from a send block. -/
  | send (a : Reg)
  /-- SEND_REL (R351). Posts a message held until earlier accesses are performed. -/
  | sendRel (a : Reg)
  /-- REPLY (R350). Sends to the return address in s[B]. -/
  | reply (a b : Reg)
  /-- REPLY_REL (R350). Sends to a return address with release ordering. -/
  | replyRel (a b : Reg)
  /-- SENDLB (R352). Reinjects a slot image into the own inbox through the loop-back port. -/
  | sendlb (a : Reg)
  /-- GQCREATE (R354). Writes a gradient-queue record and empties the queue. -/
  | gqcreate (a b : Reg)
  /-- GQPUSH (R355). Sends a packet to a gradient queue; the grant returns later. -/
  | gqpush (d a b : Reg)
  /-- GQPOP (R356). Pops the head packet after checking its type and block. -/
  | gqpop (d a b : Reg)
  /-- GQPOP_DROP (R356). Pops the head packet without comparing its sideband. -/
  | gqpopDrop (d a b : Reg)
  /-- GQSTAT (R357). Reads one doubleword of a queue record. -/
  | gqstat (d a b : Reg)
  /-- MIXCFG (R360). Configures a block with LEN, X zero and W 2^40. -/
  | mixcfg (a b : Reg)
  /-- MIXJOIN (R360). Configures a block with X zero and W zero. -/
  | mixjoin (a b : Reg)
  /-- MIXPEER (R361). Writes a block's peer list, stride and offset. -/
  | mixpeer (a b : Reg)
  /-- MIXADD (R362). Adds a contribution to a block and returns its status. -/
  | mixadd (d a b : Reg)
  /-- MIXTICK (R363). Ticks a block, possibly sending a half. -/
  | mixtick (a : Reg)
  /-- MIXREAD (R364). Writes X divided by mass into the private rows and returns MIXST. -/
  | mixread (d a b : Reg)
  /-- MIXSTAT (R365). Reads one word of a block record or waybill. -/
  | mixstat (d a b : Reg)
  /-- MIXLEAVE (R341). Sends the whole block and mass to a peer and marks the block left. -/
  | mixleave (a : Reg)
  /-- MIXHOLD (R363). Sets or clears HOLD on a block. -/
  | mixhold (a b : Reg)
  /-- MFMT (R288). Queues a write of the member's format context and stream counter. -/
  | mfmt (a b : Reg)
  /-- MMA (R289). Queues a matrix multiply-accumulate into a tile. -/
  | mma (a : Reg)
  /-- MMAS (R289). Queues a matrix multiply-subtract into a tile. -/
  | mmas (a : Reg)
  /-- MWAIT (R293). Waits for covered commands, releases the tile and returns the first error status. -/
  | mwait (d a : Reg)
  /-- MAR (R295). Reads a group of tile elements into a vector, rounded to OTY. -/
  | mar (d a : Reg)
  /-- MAW (R295). Writes four f32 lanes into tile elements. -/
  | maw (d a : Reg)
  /-- MSTAT (R297). Reads the context's queue, tile ownership and ROWPROG. -/
  | mstat (d : Reg)
  /-- MSREC (R288). Queues setting the context's scale-record VA. -/
  | msrec (a : Reg)
  /-- MTOUT (R292). Queues writing a tile corner to global memory. -/
  | mtout (a : Reg)
  /-- MREM (R298). Sends a matrix command to another cluster's unit as a message. -/
  | mrem (a : Reg) (t : BitVec 4)
  /-- MKEY (R300). Writes a leased context's key and resets it. -/
  | mkey (a b : Reg)
  /-- MCAP (R300). Returns a capability with its TAG filled in. -/
  | mcap (d a : Reg)
  /-- MNORM (R290). Queues computing column and row norms into the norm buffer. -/
  | mnorm (a : Reg)
  /-- MXS (R291). Queues a sampled product with a variance bound. -/
  | mxs (a b : Reg)
  /-- MXSRD (R297). Reads a tile's sampling record. -/
  | mxsrd (d a : Reg)
  /-- STGCFG (R381). Loads and configures the module's stage table. -/
  | stgcfg (a b : Reg)
  /-- STGDONE (R382). Completes the running stage entry with a value. -/
  | stgdone (a : Reg)
  /-- STGTMPL (R382). Writes a stage-table template. -/
  | stgtmpl (a b : Reg)
  /-- STGSREC (R382). Sets SRBASE of the stash scale records. -/
  | stgsrec (a : Reg)
  /-- STGSTAT (R382). Reads a stage-table status word. -/
  | stgstat (d a : Reg)
  /-- VADD (R157). Element-wise add under the governing predicate. -/
  | vadd (d a b : Reg) (p : Fin 8) (y : BitVec 3)
  /-- VSUB (R157). Element-wise subtract. -/
  | vsub (d a b : Reg) (p : Fin 8) (y : BitVec 3)
  /-- VMUL (R157). Element-wise multiply. -/
  | vmul (d a b : Reg) (p : Fin 8) (y : BitVec 3)
  /-- VMIN (R157). Element-wise signed or floating minimum. -/
  | vmin (d a b : Reg) (p : Fin 8) (y : BitVec 3)
  /-- VMAX (R157). Element-wise signed or floating maximum. -/
  | vmax (d a b : Reg) (p : Fin 8) (y : BitVec 3)
  /-- VMINU (R157). Element-wise unsigned minimum. -/
  | vminu (d a b : Reg) (p : Fin 8) (y : BitVec 3)
  /-- VMAXU (R157). Element-wise unsigned maximum. -/
  | vmaxu (d a b : Reg) (p : Fin 8) (y : BitVec 3)
  /-- VFMA (R149). Fused a times b plus the destination. -/
  | vfma (d a b : Reg) (p : Fin 8) (y : BitVec 3)
  /-- VFMS (R149). Fused a times b minus the destination. -/
  | vfms (d a b : Reg) (p : Fin 8) (y : BitVec 3)
  /-- VFNMA (R149). Fused minus a times b plus the destination. -/
  | vfnma (d a b : Reg) (p : Fin 8) (y : BitVec 3)
  /-- VFNMS (R149). Fused minus a times b minus the destination. -/
  | vfnms (d a b : Reg) (p : Fin 8) (y : BitVec 3)
  /-- VDOT (R158). Signed or floating dot-product accumulation into 32-bit lanes. -/
  | vdot (d a b : Reg) (p : Fin 8) (y : BitVec 3)
  /-- VDOTU (R158). Unsigned dot-product accumulation into 32-bit lanes. -/
  | vdotu (d a b : Reg) (p : Fin 8) (y : BitVec 3)
  /-- VADDS (R159). Signed saturating add. -/
  | vadds (d a b : Reg) (p : Fin 8) (y : BitVec 3)
  /-- VADDSU (R159). Unsigned saturating add. -/
  | vaddsu (d a b : Reg) (p : Fin 8) (y : BitVec 3)
  /-- VSUBS (R159). Signed saturating subtract. -/
  | vsubs (d a b : Reg) (p : Fin 8) (y : BitVec 3)
  /-- VSUBSU (R159). Unsigned saturating subtract. -/
  | vsubsu (d a b : Reg) (p : Fin 8) (y : BitVec 3)
  /-- VNEGS (R159). Saturating negate. -/
  | vnegs (d a : Reg) (p : Fin 8) (y : BitVec 3)
  /-- VAND (R160). Element-wise bitwise AND. -/
  | vand (d a b : Reg) (p : Fin 8) (y : BitVec 3)
  /-- VOR (R160). Element-wise bitwise OR. -/
  | vor (d a b : Reg) (p : Fin 8) (y : BitVec 3)
  /-- VXOR (R160). Element-wise bitwise XOR. -/
  | vxor (d a b : Reg) (p : Fin 8) (y : BitVec 3)
  /-- VANDN (R160). Element-wise AND NOT. -/
  | vandn (d a b : Reg) (p : Fin 8) (y : BitVec 3)
  /-- VSLL (R160). Element-wise shift left. -/
  | vsll (d a b : Reg) (p : Fin 8) (y : BitVec 3)
  /-- VSRL (R160). Element-wise logical shift right. -/
  | vsrl (d a b : Reg) (p : Fin 8) (y : BitVec 3)
  /-- VSRA (R160). Element-wise arithmetic shift right. -/
  | vsra (d a b : Reg) (p : Fin 8) (y : BitVec 3)
  /-- VCMPEQ (R162). Sets predicate bits where elements are equal. -/
  | vcmpeq (d a b : Reg) (p : Fin 8) (y : BitVec 3)
  /-- VCMPNE (R162). Sets predicate bits where elements differ. -/
  | vcmpne (d a b : Reg) (p : Fin 8) (y : BitVec 3)
  /-- VCMPLT (R162). Sets predicate bits where a is less than b. -/
  | vcmplt (d a b : Reg) (p : Fin 8) (y : BitVec 3)
  /-- VCMPLE (R162). Sets predicate bits where a is at most b. -/
  | vcmple (d a b : Reg) (p : Fin 8) (y : BitVec 3)
  /-- VCMPLTU (R162). Unsigned less-than compare into a predicate. -/
  | vcmpltu (d a b : Reg) (p : Fin 8) (y : BitVec 3)
  /-- VCMPLEU (R162). Unsigned at-most compare into a predicate. -/
  | vcmpleu (d a b : Reg) (p : Fin 8) (y : BitVec 3)
  /-- VMV (R163). Copies active element bits. -/
  | vmv (d a : Reg) (p : Fin 8) (y : BitVec 3)
  /-- VBCAST (R163). Broadcasts low bits of a scalar to active elements. -/
  | vbcast (d a : Reg) (p : Fin 8) (y : BitVec 3)
  /-- VINS (R163). Inserts a scalar into one element. -/
  | vins (d a b : Reg) (y : BitVec 3)
  /-- VEXT (R163). Extracts one element sign-extended into a scalar. -/
  | vext (d a b : Reg) (y : BitVec 3)
  /-- VEXTU (R163). Extracts one element zero-extended into a scalar. -/
  | vextu (d a b : Reg) (y : BitVec 3)
  /-- VRSUM (R165). Pairwise-tree sum of active elements into a scalar. -/
  | vrsum (d a : Reg) (p : Fin 8) (y : BitVec 3)
  /-- VRSUMU (R165). Unsigned lane sum into a scalar. -/
  | vrsumu (d a : Reg) (p : Fin 8) (y : BitVec 3)
  /-- VRMIN (R165). Lane minimum into a scalar. -/
  | vrmin (d a : Reg) (p : Fin 8) (y : BitVec 3)
  /-- VRMAX (R165). Lane maximum into a scalar. -/
  | vrmax (d a : Reg) (p : Fin 8) (y : BitVec 3)
  /-- VRMINU (R165). Unsigned lane minimum into a scalar. -/
  | vrminu (d a : Reg) (p : Fin 8) (y : BitVec 3)
  /-- VRMAXU (R165). Unsigned lane maximum into a scalar. -/
  | vrmaxu (d a : Reg) (p : Fin 8) (y : BitVec 3)
  /-- VABS (R161). Element-wise absolute value. -/
  | vabs (d a : Reg) (p : Fin 8) (y : BitVec 3)
  /-- VNEG (R161). Element-wise negate. -/
  | vneg (d a : Reg) (p : Fin 8) (y : BitVec 3)
  /-- VCLZ (R161). Element-wise leading-zero count. -/
  | vclz (d a : Reg) (p : Fin 8) (y : BitVec 3)
  /-- VPOPC (R161). Element-wise population count. -/
  | vpopc (d a : Reg) (p : Fin 8) (y : BitVec 3)
  /-- VCVT (R167). Converts a register group between element types under a mode. -/
  | vcvt (d a b : Reg) (w x m : BitVec 3)
  /-- VRCP (R166). Correctly rounded reciprocal. -/
  | vrcp (d a : Reg) (p : Fin 8) (y : BitVec 3)
  /-- VRSQRT (R166). Correctly rounded reciprocal square root. -/
  | vrsqrt (d a : Reg) (p : Fin 8) (y : BitVec 3)
  /-- VSQRT (R166). Correctly rounded square root. -/
  | vsqrt (d a : Reg) (p : Fin 8) (y : BitVec 3)
  /-- VEXP2 (R166). Correctly rounded 2 to the x. -/
  | vexp2 (d a : Reg) (p : Fin 8) (y : BitVec 3)
  /-- VLOG2 (R166). Correctly rounded base-2 logarithm. -/
  | vlog2 (d a : Reg) (p : Fin 8) (y : BitVec 3)
  /-- VDIV (R166). Correctly rounded division. -/
  | vdiv (d a b : Reg) (p : Fin 8) (y : BitVec 3)
  /-- VTIE (R154). Interpolates each element through a table slot. -/
  | vtie (d a b : Reg) (p : Fin 8) (y : BitVec 3)
  /-- VTLOAD (R153). Loads a table image from private rows into a table slot. -/
  | vtload (d : BitVec 1) (a b : Reg)
  /-- VSHUF (R164). Permutes elements by an index vector. -/
  | vshuf (d a b : Reg) (p : Fin 8) (y : BitVec 3)
  /-- VSPLAT (R164). Copies one element to every active lane. -/
  | vsplat (d a b : Reg) (p : Fin 8) (y : BitVec 3)
  /-- VSLIDEDN (R164). Slides elements down by an immediate. -/
  | vslidedn (d a b : Reg) (p : Fin 8) (y : BitVec 3)
  /-- VSLIDEUP (R164). Slides elements up by an immediate. -/
  | vslideup (d a b : Reg) (p : Fin 8) (y : BitVec 3)
  /-- PLEN (R155). Sets a predicate for the first count elements. -/
  | plen (d a : Reg) (y : BitVec 3)
  /-- PAND (R156). Predicate AND under a governing predicate. -/
  | pand (d a b : Reg) (p : Fin 8)
  /-- POR (R156). Predicate OR. -/
  | por (d a b : Reg) (p : Fin 8)
  /-- PXOR (R156). Predicate XOR. -/
  | pxor (d a b : Reg) (p : Fin 8)
  /-- PANDN (R156). Predicate AND NOT. -/
  | pandn (d a b : Reg) (p : Fin 8)
  /-- PGET (R156). Copies a predicate into a scalar. -/
  | pget (d a : Reg)
  /-- PSET (R156). Copies a scalar's low 16 bits into a predicate. -/
  | pset (d a : Reg)
  /-- PCNT (R156). Counts active elements of a predicate. -/
  | pcnt (d a : Reg) (y : BitVec 3)
  /-- TRAP (R259). Takes trap TRAP with s[A] in TRAPVAL. -/
  | trap (a : Reg)
  /-- CODEW (R259). Writes 32 bits into a cell's code store. -/
  | codew (a b : Reg)
  /-- RTSET (R259). Writes a routine-table entry of a cell. -/
  | rtset (a b : Reg)
  /-- INBHEAD (R259). Returns the inbox slot at the head of a channel. -/
  | inbhead (d a : Reg)
  /-- INBRD (R259). Reads a doubleword of an inbox slot. -/
  | inbrd (d a b : Reg)
  /-- INBFREE (R259). Frees an inbox slot by spill or discard. -/
  | inbfree (a b : Reg)
  /-- FBSTAT (R259). Reads a slice's fault-buffer status. -/
  | fbstat (d a : Reg)
  /-- FBREAD (R259). Reads a fault-buffer entry. -/
  | fbread (d a b : Reg)
  /-- FBCLR (R259). Clears a fault-buffer entry. -/
  | fbclr (a b : Reg)
  /-- REPLAYALL (R199). Re-issues every access parked in the named slices and clears DROPPED and OVF. -/
  | replayall (a : Reg)
  /-- TLBINV (R259). Invalidates translations in every TLB and parks until complete. -/
  | tlbinv (a b : Reg)
  /-- SGLOAD (R259). Loads a stride-gather pattern entry. -/
  | sgload (a b : Reg)
  /-- KEYW (R259). Writes an XTS key pair into a key register. -/
  | keyw (a b : Reg)
  /-- PREEMPT (R259). Raises PRQ with a deadline on every running task of a launch. -/
  | preempt (a b : Reg)
  /-- CTXREST (R254). Restores a committed save record into a free context. -/
  | ctxrest (d a : Reg)
  /-- BNCSET (R259). Enters a logical cell into the bounce table with a ring. -/
  | bncset (d a b : Reg)
  /-- BNCCLR (R259). Applies and removes a bounce entry. -/
  | bncclr (a : Reg)
  /-- DBGRD (R257). Reads an item of a halted cell. -/
  | dbgrd (d a b : Reg)
  /-- DBGWR (R257). Writes SSCR0 into an item of a halted cell. -/
  | dbgwr (a b : Reg)
  /-- DBGSTEP (R257). Lets a halted context retire one instruction or trap entry. -/
  | dbgstep (a : Reg)
  /-- OPSET (R389). Requests an operating-point change of a cell or matrix unit. -/
  | opset (d a b : Reg)
  /-- ROWQ (R393). Reads a cell's row, capacity, OP or mesh-place state. -/
  | rowq (d a b : Reg)
  /-- C_MV (R78). Compact form of addi d, a, 0. -/
  | cMv (d a : Reg)
  /-- C_ADD (R78). Compact form of add d, d, a. -/
  | cAdd (d a : Reg)
  /-- C_SUB (R78). Compact form of sub d, d, a. -/
  | cSub (d a : Reg)
  /-- C_AND (R78). Compact form of and d, d, a. -/
  | cAnd (d a : Reg)
  /-- C_OR (R78). Compact form of or d, d, a. -/
  | cOr (d a : Reg)
  /-- C_XOR (R78). Compact form of xor d, d, a. -/
  | cXor (d a : Reg)
  /-- C_ADDI (R78). Compact form of addi d, d, imm. -/
  | cAddi (d : Reg) (i : BitVec 5)
  /-- C_LI (R78). Compact form of li d, imm. -/
  | cLi (d : Reg) (i : BitVec 5)
  /-- C_SLLI (R78). Compact form of slli d, d, n. -/
  | cSlli (d : Reg) (i : BitVec 5)
  /-- C_SRLI (R78). Compact form of srli d, d, n. -/
  | cSrli (d : Reg) (i : BitVec 5)
  /-- C_SRAI (R78). Compact form of srai d, d, n. -/
  | cSrai (d : Reg) (i : BitVec 5)
  /-- C_LDL (R78). Compact form of ldl.i64 d, 0(a). -/
  | cLdl (d a : Reg)
  /-- C_STL (R78). Compact form of stl.i64 d, 0(a). -/
  | cStl (d a : Reg)
  /-- C_BNEZ (R78). Compact branch when s[D] is non-zero. -/
  | cBnez (d : Reg) (i : BitVec 5)
  /-- C_JREG (R78). Compact form of jreg s0, a, 0. -/
  | cJreg (a : Reg)
  /-- LEXIT (R106). Clears the count of the innermost active loop. -/
  | lexit
  /-- UNFOLLOW (R118). Ends follow mode in a follower; on cell 0 is passed in the stream. -/
  | unfollow
  /-- ERET (R245). Returns from a trap or ends a context-3 activation. -/
  | eret
  /-- BKPT (R259). Takes trap BKPT with TRAPVAL 0. -/
  | bkpt
  /-- HALT (R256). Stops every compute and depot cell of the module. -/
  | halt
  /-- RESUME (R256). Restarts every halted cell. -/
  | resume
  /-- C_ENDTASK (R78). Compact form of endtask. -/
  | cEndtask
  /-- MESSAGE_ADMISSION (R31). A waiting message is admitted into a free inbox slot once enough slots are free.  Reads a = cell, b = k. -/
  | messageAdmission
  /-- OVERFLOW_ROUTINE_START (R31). With 8 or fewer free slots and context 3 idle, the cell starts the overflow routine on context 3.  Reads a = cell. -/
  | overflowRoutineStart
  /-- DISPATCH (R37). A free context takes the head message of the highest-priority eligible channel.  Reads a = cell. -/
  | dispatch
  /-- UNBOUND_TRAP (R35). A strict unbound message is taken out of its channel and traps UNBOUND on context 3 once it is free.  Reads a = cell. -/
  | unboundTrap
  /-- RLOAD (R307). Built-in remote load read at the home and answered by LREPLY.  Reads a = sdev, b = scell. -/
  | rload
  /-- RSTORE (R307). Built-in remote store written at the home.  Reads a = sdev, b = scell. -/
  | rstore
  /-- RAMO (R307). Built-in remote AMO or phase update performed at the home as one event.  Reads a = sdev, b = scell. -/
  | ramo
  /-- LREPLY (R307). Reply that completes an outstanding remote result at the requester.  Reads ; p = p. -/
  | lreply
  /-- NACK (R307). Negative acknowledgement handled by its cause: busy, payload range or CAPDENY.  Reads ; p = p. -/
  | nack
  /-- MARKER (R315). Round marker received and counted towards ending a receive round.  Reads ; p = p. -/
  | marker
  /-- SLOTRET (R312). Cumulative slot return acknowledging messages of a flow at the sender.  Reads ; p = p. -/
  | slotret
  /-- DRAIN (R318). Drain notice on a global port before a circuit plan change.  Reads p = packet; data = groups left without a route. -/
  | drain
  /-- HALF (R336). A Caravan half chunk is staged by source, block and half SEQ.  Reads a = sdev, b = scell. -/
  | half
  /-- TRAILER (R336). The mass trailer of a half arrives and the half is applied or refused.  Reads a = sdev, b = scell. -/
  | trailer
  /-- ACK (R337). Half acknowledgement frees or reclaims the sender's waybill.  Reads a = sdev, b = scell. -/
  | ack
  /-- MXCMD (R298). A remote matrix command arrives at the target unit.  Reads a = sdev, b = scell. -/
  | mxcmd
  /-- STAGE_MESSAGE (R376). An activation, gradient or slot return arrives at a stage table.  Reads a = sdev, b = scell. -/
  | stageMessage
  /-- RESERVED_CLASS_DISCARD (R307). A message of class 13-15 is discarded and counted in FABERR.  Reads ; p = p. -/
  | reservedClassDiscard
  /-- LIVE_UPDATE (R46). The home bank applies an addition or subtraction to a level record's LIVE.  Reads a = k. -/
  | liveUpdate
  /-- JOIN_CHILD_UPDATE (R57). A child's end writes its result and increments NDONE at the record's home.  Reads a = k. -/
  | joinChildUpdate
  /-- JOIN_CLOSE_UPDATE (R116). The close writes NCHILD at the record's home.  Reads a = k. -/
  | joinCloseUpdate
  /-- CANCEL_PROPAGATE (R49). The command processor sets CANCEL in every live launch beneath a cancelled level.  Reads a = k. -/
  | cancelPropagate
  /-- DLINE_EXPIRY (R249). DLINE reaches 0 with PRQ set: terminate, force a save, or wait for ERET.  Reads a = cell, b = c. -/
  | dlineExpiry
  /-- FORCED_SAVE (R251). The context-save engine writes a save record and commits it, freeing the context.  Reads a = cell, b = c. -/
  | forcedSave
  /-- NEAR_PLACEMENT (R54). A NEAR message walks towards its hint and is placed on a qualifying cell or queued.  Reads a = k. -/
  | nearPlacement
  /-- NEAR_QUEUE_TAKE (R54). The first cell of the hint cluster to qualify takes a task from its NEAR queue.  Reads a = cell. -/
  | nearQueueTake
  /-- STEAL_REQUEST (R56). An idle cell sends a steal request to the next victim.  Reads a = cell, b = hosted. -/
  | stealRequest
  /-- STEAL_VICTIM_REPLY (R56). The victim gives up its deque's top entry or replies empty.  Reads a = cell. -/
  | stealVictimReply
  /-- STEAL_BACKOFF_EXPIRY (R56). The thief's doubling wait after an empty reply expires.  Reads a = cell. -/
  | stealBackoffExpiry
  /-- FOLLOW_ENGAGE (R43). The leader issues the named address and the follower starts executing its stream.  Reads a = cell, b = c. -/
  | followEngage
  /-- RESULT_RETURN (R41). A variable-latency result arrives, is written, and a parked context may resume.  Reads a = id, b = keep. -/
  | resultReturn
  /-- HOME_ACCESS (R229). A load, store or AMO is applied at its home one at a time.  Reads a = id. -/
  | homeAccess
  /-- PHASE_UPDATE_AT_HOME (R187). An arrival or byte update is applied or rejected at the phase word's home.  Reads a = id. -/
  | phaseUpdateAtHome
  /-- PHWAIT_RESOLVE (R235). The home answers a waiting PHWAIT once GEN differs.  Reads a = id. -/
  | phwaitResolve
  /-- SLICE_WALK (R195). An L1 miss is translated by its L2 slice: translation, permission failure or parked.  Reads a = slice, b = victim. -/
  | sliceWalk
  /-- MISS_PORT_ENTRY (R200). A miss waiting at the L1 miss port enters a slice as replay-queue room appears.  Reads a = cluster, b = k. -/
  | missPortEntry
  /-- XFER_START (R180). The copy engine reads the parameter block and checks it, completing with PARAM on error.  Reads a = cluster, b = k. -/
  | xferStart
  /-- XFER_ROW_COPY (R181). The copy engine copies box elements, reading a mode-3 index as its row is due.  Reads a = cluster, b = k. -/
  | xferRowCopy
  /-- XFER_COMPLETION (R184). A finished transfer stamps a slot, adds phase bytes and posts its completion.  Reads a = cluster, b = k. -/
  | xferCompletion
  /-- XFER_RESTART (R185). A parked transfer restarts from its first unwritten element, rereading its block.  Reads a = cluster, b = k. -/
  | xferRestart
  /-- CHECK_REFETCH (R203). A check-value mismatch in transit requests the line again up to three times.  Reads a = id; flag = good. -/
  | checkRefetch
  /-- HARDWARE_FAULT_KILL (R204). A hardware fault kills a task, ending it or redispatching it from its retained message.  Reads a = cell, b = c. -/
  | hardwareFaultKill
  /-- TRAP_ENTRY (R243). A synchronous trap sets the trap registers and enters system mode at TRAPVEC.  Reads a = cell, b = c. -/
  | trapEntry
  /-- BOUNCE_RECEIVE (R255). A plain write to an absent logical cell's rows is appended to its bounce ring.  Reads a = k. -/
  | bounceReceive
  /-- MATRIX_REQUEST (R269). The unit arbitrates one request of up to 32 k-steps or 16 samples of a ready command.  Reads a = cluster, b = most k-steps. -/
  | matrixRequest
  /-- ALIAS_TABLE_BUILD (R278). MXS forms the weights and builds the Vose alias table on the alias unit.  Reads a = cluster, b = format context. -/
  | aliasTableBuild
  /-- MATRIX_RESTART (R271). A command parked on an operand continues at k = ROWPROG after replay.  Reads a = cluster, b = format context. -/
  | matrixRestart
  /-- MATRIX_COMPLETION (R274). A command completes with its status, recording errors in ERRSUM.  Reads a = cluster, b = format context. -/
  | matrixCompletion
  /-- TILE_OWNERSHIP_TAKE (R272). A freed tile is taken by the waiting command first issued.  Reads a = cluster, b = tile. -/
  | tileOwnershipTake
  /-- MESSAGE_ARRIVAL (R306). The receiving port checks a message's flits and payload range and places its payload.  Reads ; p = p; flag = good. -/
  | messageArrival
  /-- SLOT_RETURN_RESEND (R312). 1,024 router cycles after its last return the receiver sends the slot return again.  Reads a = sdev, b = scell. -/
  | slotReturnResend
  /-- RETRANSMIT_TIMEOUT (R313). An unacknowledged message is resent with RETX after RTO, doubling the wait.  Reads a = scell, b = ddev, c = seq. -/
  | retransmitTimeout
  /-- NACK_RESEND (R310). After a busy NACK's wait the sender resends every unacknowledged message of the flow.  Reads a = scell, b = ddev. -/
  | nackResend
  /-- FLOW_RECORD_RELEASE (R309). A flow record idle for 65,536 router cycles is released.  Reads a = scell, b = ddev. -/
  | flowRecordRelease
  /-- SERAI_SLOT_RELEASE (R310). A serai slot idle for 65,536 router cycles is released.  Reads a = sdev, b = scell. -/
  | seraiSlotRelease
  /-- ROUND_TICK (R315). A timed or stage-table tick ends the send round when the receive round before it has ended. -/
  | roundTick
  /-- MARKER_RESEND (R315). Every 1,024 router cycles the latest marker is resent. -/
  | markerResend
  /-- PORT_RELOCK (R318). Ports retrain after a plan change and held sends resume.  Reads a = port; data = groups left without a route. -/
  | portRelock
  /-- REACH_WRITE (R318). A write of REACH reads the new reach mask and completes flows to removed modules.  Reads a = value. -/
  | reachWrite
  /-- RNDSET_WRITE (R319). A write of RNDSET reads the new round-set mask.  Reads a = value. -/
  | rndsetWrite
  /-- WAVELENGTH_PARK (R319). After PARKIDLE of empty queue a port parks up to PARKMAX wavelengths.  Reads a = port, b = n. -/
  | wavelengthPark
  /-- WAVELENGTH_WAKE (R319). A queue reaching WAKEQ flits starts waking all wavelengths.  Reads a = port. -/
  | wavelengthWake
  /-- WAKE_DONE (R319). Woken wavelengths come live and the port runs at full width.  Reads a = port. -/
  | wakeDone
  /-- MIX_OPERATION_APPLY (R344). The Caravan engine applies one issued mixing operation whole to a block.  Reads a = group. -/
  | mixOperationApply
  /-- WAYBILL_DEADLINE (R338). An unacknowledged waybill's deadline retransmits it and may put it in doubt.  Reads a = group, b = block, c = pos. -/
  | waybillDeadline
  /-- ENGINE_NACK_RESEND (R335). After a busy NACK's wait the engine resends every outstanding half of the flow from its waybills.  Reads a = group, b = ddev. -/
  | engineNackResend
  /-- GQ_PUSH_ARRIVAL (R326). A push reaches its queue and is accepted or waits, and a waiting pop may be served.  Reads a = k. -/
  | gqPushArrival
  /-- GQ_POP_SERVE (R327). The queue checks the head packet's sideband and delivers it or traps GQTYPE.  Reads a = group, b = q; flag = good check values. -/
  | gqPopServe
  /-- STAGE_ROUND_START (R377). At a table round start, arrivals are applied, the entry at STGPTR evaluated and a tick requested. -/
  | stageRoundStart
  /-- STAGE_FREE_EVALUATE (R378). In free mode the table evaluates STGPTR's entry on each state change. -/
  | stageFreeEvaluate
  /-- STAGE_BUBBLE_TIMER (R378). Every 1,024 router cycles in free mode a bubble is sampled. -/
  | stageBubbleTimer
  /-- OP_STEP (R390). The power controller checks and performs an operating-point change.  Reads a = cell, b = unit, c = reading. -/
  | opStep
  /-- ROW_COMPACTION (R388). When a hosted logical cell leaves, the cells above it are copied down to close the gap.  Reads a = cell, b = k. -/
  | rowCompaction
  /-- THERMAL_MIGRATION (R394). A hot cell moves an idle hosted logical cell to a cooler cell of its cluster.  Reads a = cell, b = k, c = member; data = temps. -/
  | thermalMigration
  /-- THERMAL_TRIP (R398). A junction reading of 125 C halts every cell and holds the module until reset.  Reads a = reading. -/
  | thermalTrip
  /-- CURRENT_GOVERNOR (R396). The governor holds cells not ready and stretches clocks to limit current rise and level.  Reads a = load, b = microseconds, data = what it holds. -/
  | currentGovernor
  /-- BALLAST_DRAW (R397). Ballast units draw the difference when load falls faster than 1,500 A/us.  Reads a = fall, b = us. -/
  | ballastDraw
  /-- DOORBELL (R401). A host write of a job record VA is queued on the port.  Reads a = port, b = va. -/
  | doorbell
  /-- DOORBELL_POST (R401). A queued doorbell is posted as a message to the firmware's system core.  Reads a = port. -/
  | doorbellPost
  /-- HOST_REGISTER_WRITE (R400). A host write to APBASE or a host window register.  Reads a = port, b = reg, c = value. -/
  | hostRegisterWrite
  /-- BAR2_INBOUND_WRITE (R399). An inbound host write through BAR2 takes check values at the port.  Reads a = port, b = off; data = data. -/
  | bar2InboundWrite
  /-- JOB_START (R403). The planner checks a job and its node records, failing the job on a bad value.  Reads a = va, b = port; data = records. -/
  | jobStart
  /-- NODE_START (R403). A node whose predecessors flipped cleanly is mapped, loaded and started.  Reads a = va, b = node; data = plan. -/
  | nodeStart
  /-- MAPPING_VALID_DELIVERY (R58). A message held for an invalid entry is placed and admitted once the entry is valid.  Reads a = k. -/
  | mappingValidDelivery
  /-- CKDESC (R404). A write of CKDESC starts a checkpoint at the named round edge.  Reads a = value. -/
  | ckdesc
  /-- PROTECTED_WRITE_COPY (R405). A write reaching a protected line parks while its frame is copied out of turn.  Reads a = id. -/
  | protectedWriteCopy
  /-- CHECKPOINT_COMPLETION (R405). The checkpoint engine finishes, sets CKSTAT and posts its completion message. -/
  | checkpointCompletion
  /-- RESET (R406). Reset runs the boot ROM, verifies firmware and brings the module up at OP4.  Reads a = firmware, b = code; flag = good, data = settings. -/
  | reset
  /-- GET_MEASUREMENTS (R406). SPDM request for measurements of boot ROM, firmware, partition table and row maps. -/
  | getMeasurements
  /-- CHALLENGE (R406). SPDM challenge-response authentication request.  Reads a = nonce. -/
  | challenge
  /-- KEY_EXCHANGE (R406). SPDM key exchange that opens a session.  Reads a = share. -/
  | keyExchange
  /-- READING_FALLS_BELOW_LIMIT (R394). When a stretched hot cell's temperature reading falls below the thermal limit, its clock returns to its OP's full rate.  Reads a = cell, b = reading. -/
  | readingFallsBelowLimit
  /-- PARTITION_TABLE_ACCEPT (R406). Verified firmware accepts a host-signed partition table, which sets the DEVIDX values the module may reach and the default reach mask.  Reads ; data = devs; flag = good. -/
  | partitionTableAccept
  deriving DecidableEq, Repr

end Sys2Proof
end

