-- ==== Sys2Proof/Decode.lean ====
section
/-! DEFINITION. Framing and decoding of instructions (R65-R80), the operand values an encoding may
hold (R70-R72, R80), the encoder, and the host's word reader.

`decode32` and `decode16` read the fixed bits of the encoding tables; `legal` and `allowedOn` say
which operand values and which kinds of cell the chapters accept.  What either refuses traps ILLEGAL. -/
namespace Sys2Proof

/-- Why a word is no instruction (R80). -/
inductive DecodeError where
  /-- The all-zero halfword, and every 16-bit encoding with OP4 = 0. -/
  | compactZero
  /-- A 16-bit encoding with OP4 = 0xF and D ≠ 0. -/
  | compactUnassigned
  /-- A major of 0x31-0x3E. -/
  | reservedMajor
  /-- Major 0x3F, the all-ones word among its encodings. -/
  | permanentlyIllegal
  /-- A function field that the major's map leaves unassigned, or a non-zero reserved field. -/
  | unassigned (major : Nat)
  /-- No halfword, or the second halfword of a 32-bit instruction, is missing. -/
  | truncated
  deriving DecidableEq, Repr

/-- A register field at bit `lo`. -/
def regAt (w lo : Nat) : Reg := Fin.ofNat 32 (w / 2 ^ lo)
/-- A three-bit predicate field at bit `lo`. -/
def predAt (w lo : Nat) : Fin 8 := Fin.ofNat 8 (w / 2 ^ lo)
/-- A field of `n` bits at bit `lo`. -/
def fieldAt (w lo n : Nat) : BitVec n := BitVec.ofNat n (w / 2 ^ lo)
/-- The switch marker, bit 1 (R66). -/
def swAt (w : Nat) : Bool := w / 2 % 2 == 1
/-- Bits `lo + n - 1 .. lo` hold `v`. -/
abbrev holds (w lo n v : Nat) : Bool := w / 2 ^ lo % 2 ^ n == v

/-- Major 0x00 of the opcode map (R73): ADD, SUB, AND, OR, XOR, ANDN, ORN, SLL, SRL, SRA, SLT, SLTU, MIN, MAX, MINU, MAXU, SEQ. -/
def decodeMajor00 (w : Nat) : Except DecodeError Instr :=
  if holds w 23 9 0 then
    .ok (.add (regAt w 8) (regAt w 13) (regAt w 18)) else
  if holds w 23 9 1 then
    .ok (.sub (regAt w 8) (regAt w 13) (regAt w 18)) else
  if holds w 23 9 2 then
    .ok (.and (regAt w 8) (regAt w 13) (regAt w 18)) else
  if holds w 23 9 3 then
    .ok (.or (regAt w 8) (regAt w 13) (regAt w 18)) else
  if holds w 23 9 4 then
    .ok (.xor (regAt w 8) (regAt w 13) (regAt w 18)) else
  if holds w 23 9 5 then
    .ok (.andn (regAt w 8) (regAt w 13) (regAt w 18)) else
  if holds w 23 9 6 then
    .ok (.orn (regAt w 8) (regAt w 13) (regAt w 18)) else
  if holds w 23 9 7 then
    .ok (.sll (regAt w 8) (regAt w 13) (regAt w 18)) else
  if holds w 23 9 8 then
    .ok (.srl (regAt w 8) (regAt w 13) (regAt w 18)) else
  if holds w 23 9 9 then
    .ok (.sra (regAt w 8) (regAt w 13) (regAt w 18)) else
  if holds w 23 9 10 then
    .ok (.slt (regAt w 8) (regAt w 13) (regAt w 18)) else
  if holds w 23 9 11 then
    .ok (.sltu (regAt w 8) (regAt w 13) (regAt w 18)) else
  if holds w 23 9 12 then
    .ok (.min (regAt w 8) (regAt w 13) (regAt w 18)) else
  if holds w 23 9 13 then
    .ok (.max (regAt w 8) (regAt w 13) (regAt w 18)) else
  if holds w 23 9 14 then
    .ok (.minu (regAt w 8) (regAt w 13) (regAt w 18)) else
  if holds w 23 9 15 then
    .ok (.maxu (regAt w 8) (regAt w 13) (regAt w 18)) else
  if holds w 23 9 16 then
    .ok (.seq (regAt w 8) (regAt w 13) (regAt w 18)) else
  .error (.unassigned 0)

/-- Major 0x01 of the opcode map (R73): ADDI. -/
def decodeMajor01 (w : Nat) : Except DecodeError Instr :=
  .ok (.addi (regAt w 8) (regAt w 13) (fieldAt w 18 14))

/-- Major 0x02 of the opcode map (R73): ANDI. -/
def decodeMajor02 (w : Nat) : Except DecodeError Instr :=
  .ok (.andi (regAt w 8) (regAt w 13) (fieldAt w 18 14))

/-- Major 0x03 of the opcode map (R73): ORI. -/
def decodeMajor03 (w : Nat) : Except DecodeError Instr :=
  .ok (.ori (regAt w 8) (regAt w 13) (fieldAt w 18 14))

/-- Major 0x04 of the opcode map (R73): XORI. -/
def decodeMajor04 (w : Nat) : Except DecodeError Instr :=
  .ok (.xori (regAt w 8) (regAt w 13) (fieldAt w 18 14))

/-- Major 0x05 of the opcode map (R73): SLTI. -/
def decodeMajor05 (w : Nat) : Except DecodeError Instr :=
  .ok (.slti (regAt w 8) (regAt w 13) (fieldAt w 18 14))

/-- Major 0x06 of the opcode map (R73): SLTIU. -/
def decodeMajor06 (w : Nat) : Except DecodeError Instr :=
  .ok (.sltiu (regAt w 8) (regAt w 13) (fieldAt w 18 14))

/-- Major 0x07 of the opcode map (R73): SLLI, SRLI, SRAI. -/
def decodeMajor07 (w : Nat) : Except DecodeError Instr :=
  if holds w 24 8 0 then
    .ok (.slli (regAt w 8) (regAt w 13) (fieldAt w 18 6)) else
  if holds w 24 8 1 then
    .ok (.srli (regAt w 8) (regAt w 13) (fieldAt w 18 6)) else
  if holds w 24 8 2 then
    .ok (.srai (regAt w 8) (regAt w 13) (fieldAt w 18 6)) else
  .error (.unassigned 7)

/-- Major 0x08 of the opcode map (R73): LI. -/
def decodeMajor08 (w : Nat) : Except DecodeError Instr :=
  .ok (.li (regAt w 8) (fieldAt w 13 19))

/-- Major 0x09 of the opcode map (R73): LIH. -/
def decodeMajor09 (w : Nat) : Except DecodeError Instr :=
  if holds w 31 1 0 then
    .ok (.lih (regAt w 8) (fieldAt w 13 16) (fieldAt w 29 2)) else
  .error (.unassigned 9)

/-- Major 0x0A of the opcode map (R73): MUL, MULH, MULHSU, MULHU, DIV, DIVU, REM, REMU. -/
def decodeMajor0A (w : Nat) : Except DecodeError Instr :=
  if holds w 23 9 0 then
    .ok (.mul (regAt w 8) (regAt w 13) (regAt w 18)) else
  if holds w 23 9 1 then
    .ok (.mulh (regAt w 8) (regAt w 13) (regAt w 18)) else
  if holds w 23 9 2 then
    .ok (.mulhsu (regAt w 8) (regAt w 13) (regAt w 18)) else
  if holds w 23 9 3 then
    .ok (.mulhu (regAt w 8) (regAt w 13) (regAt w 18)) else
  if holds w 23 9 4 then
    .ok (.div (regAt w 8) (regAt w 13) (regAt w 18)) else
  if holds w 23 9 5 then
    .ok (.divu (regAt w 8) (regAt w 13) (regAt w 18)) else
  if holds w 23 9 6 then
    .ok (.rem (regAt w 8) (regAt w 13) (regAt w 18)) else
  if holds w 23 9 7 then
    .ok (.remu (regAt w 8) (regAt w 13) (regAt w 18)) else
  .error (.unassigned 10)

/-- Major 0x0B of the opcode map (R73): CLZ, CTZ, POPC, BSWAP, BREV, ROL, ROR, RAND. -/
def decodeMajor0B (w : Nat) : Except DecodeError Instr :=
  if holds w 18 14 0 then
    .ok (.clz (regAt w 8) (regAt w 13)) else
  if holds w 18 14 32 then
    .ok (.ctz (regAt w 8) (regAt w 13)) else
  if holds w 18 14 64 then
    .ok (.popc (regAt w 8) (regAt w 13)) else
  if holds w 18 14 96 then
    .ok (.bswap (regAt w 8) (regAt w 13)) else
  if holds w 18 14 128 then
    .ok (.brev (regAt w 8) (regAt w 13)) else
  if holds w 23 9 5 then
    .ok (.rol (regAt w 8) (regAt w 13) (regAt w 18)) else
  if holds w 23 9 6 then
    .ok (.ror (regAt w 8) (regAt w 13) (regAt w 18)) else
  if holds w 13 19 7168 then
    .ok (.rand (regAt w 8)) else
  .error (.unassigned 11)

/-- Major 0x0C of the opcode map (R73): BEQ, BNE, BLT, BGE, BLTU, BGEU. -/
def decodeMajor0C (w : Nat) : Except DecodeError Instr :=
  if holds w 18 3 0 then
    .ok (.beq (regAt w 8) (regAt w 13) (fieldAt w 21 11)) else
  if holds w 18 3 1 then
    .ok (.bne (regAt w 8) (regAt w 13) (fieldAt w 21 11)) else
  if holds w 18 3 2 then
    .ok (.blt (regAt w 8) (regAt w 13) (fieldAt w 21 11)) else
  if holds w 18 3 3 then
    .ok (.bge (regAt w 8) (regAt w 13) (fieldAt w 21 11)) else
  if holds w 18 3 4 then
    .ok (.bltu (regAt w 8) (regAt w 13) (fieldAt w 21 11)) else
  if holds w 18 3 5 then
    .ok (.bgeu (regAt w 8) (regAt w 13) (fieldAt w 21 11)) else
  .error (.unassigned 12)

/-- Major 0x0D of the opcode map (R73): JMP. -/
def decodeMajor0D (w : Nat) : Except DecodeError Instr :=
  .ok (.jmp (fieldAt w 8 24))

/-- Major 0x0E of the opcode map (R73): CALL. -/
def decodeMajor0E (w : Nat) : Except DecodeError Instr :=
  .ok (.call (fieldAt w 8 24))

/-- Major 0x0F of the opcode map (R73): JREG. -/
def decodeMajor0F (w : Nat) : Except DecodeError Instr :=
  .ok (.jreg (regAt w 8) (regAt w 13) (fieldAt w 18 14))

/-- Major 0x10 of the opcode map (R73): LOOP, LEXIT. -/
def decodeMajor10 (w : Nat) : Except DecodeError Instr :=
  if holds w 8 5 0 then
    .ok (.loop (regAt w 13) (fieldAt w 18 14)) else
  if holds w 8 24 1 then
    .ok (.lexit) else
  .error (.unassigned 16)

/-- Major 0x11 of the opcode map (R73): ENDTASK, SPAWN_PATH, SPAWN_NEAR, SPAWN_STEAL, JOIN, YIELDCHK, FOLLOW, CANCEL, RTQUIET, CSRRW, CSRRS, CSRRC, UNFOLLOW. -/
def decodeMajor11 (w : Nat) : Except DecodeError Instr :=
  if holds w 8 5 0 && holds w 18 14 0 then
    .ok (.endtask (regAt w 13)) else
  if holds w 24 2 0 && holds w 27 5 2 then
    .ok (.spawnPath (regAt w 8) (regAt w 13) (fieldAt w 18 6) (fieldAt w 26 1)) else
  if holds w 24 2 1 && holds w 27 5 2 then
    .ok (.spawnNear (regAt w 8) (regAt w 13) (fieldAt w 18 6) (fieldAt w 26 1)) else
  if holds w 24 2 2 && holds w 27 5 2 then
    .ok (.spawnSteal (regAt w 8) (regAt w 13) (fieldAt w 18 6) (fieldAt w 26 1)) else
  if holds w 26 6 8 then
    .ok (.join (regAt w 8) (regAt w 13) (fieldAt w 18 8)) else
  if holds w 13 19 98304 then
    .ok (.yieldchk (regAt w 8)) else
  if holds w 8 5 0 && holds w 28 4 4 then
    .ok (.follow (regAt w 13) (fieldAt w 18 10)) else
  if holds w 8 5 0 && holds w 18 14 6144 then
    .ok (.cancel (regAt w 13)) else
  if holds w 26 6 28 then
    .ok (.rtquiet (regAt w 8) (regAt w 13) (fieldAt w 18 8)) else
  if holds w 28 4 8 then
    .ok (.csrrw (regAt w 8) (regAt w 13) (fieldAt w 18 10)) else
  if holds w 28 4 9 then
    .ok (.csrrs (regAt w 8) (regAt w 13) (fieldAt w 18 10)) else
  if holds w 28 4 10 then
    .ok (.csrrc (regAt w 8) (regAt w 13) (fieldAt w 18 10)) else
  if holds w 8 24 5242880 then
    .ok (.unfollow) else
  .error (.unassigned 17)

/-- Major 0x12 of the opcode map (R73): LD. -/
def decodeMajor12 (w : Nat) : Except DecodeError Instr :=
  .ok (.ld (regAt w 8) (regAt w 13) (fieldAt w 18 3) (fieldAt w 21 11))

/-- Major 0x13 of the opcode map (R73): ST. -/
def decodeMajor13 (w : Nat) : Except DecodeError Instr :=
  .ok (.st (regAt w 8) (regAt w 13) (fieldAt w 18 3) (fieldAt w 21 11))

/-- Major 0x14 of the opcode map (R73): LDL. -/
def decodeMajor14 (w : Nat) : Except DecodeError Instr :=
  .ok (.ldl (regAt w 8) (regAt w 13) (fieldAt w 18 3) (fieldAt w 21 11))

/-- Major 0x15 of the opcode map (R73): STL. -/
def decodeMajor15 (w : Nat) : Except DecodeError Instr :=
  .ok (.stl (regAt w 8) (regAt w 13) (fieldAt w 18 3) (fieldAt w 21 11))

/-- Major 0x16 of the opcode map (R73): LDC. -/
def decodeMajor16 (w : Nat) : Except DecodeError Instr :=
  .ok (.ldc (regAt w 8) (regAt w 13) (fieldAt w 18 3) (fieldAt w 21 11))

/-- Major 0x17 of the opcode map (R73): STC. -/
def decodeMajor17 (w : Nat) : Except DecodeError Instr :=
  .ok (.stc (regAt w 8) (regAt w 13) (fieldAt w 18 3) (fieldAt w 21 11))

/-- Major 0x18 of the opcode map (R73): LDV. -/
def decodeMajor18 (w : Nat) : Except DecodeError Instr :=
  .ok (.ldv (regAt w 8) (regAt w 13) (regAt w 18) (predAt w 23) (fieldAt w 26 3) (fieldAt w 29 3))

/-- Major 0x19 of the opcode map (R73): STV. -/
def decodeMajor19 (w : Nat) : Except DecodeError Instr :=
  .ok (.stv (regAt w 8) (regAt w 13) (regAt w 18) (predAt w 23) (fieldAt w 26 3) (fieldAt w 29 3))

/-- Major 0x1A of the opcode map (R73): AMOSWAP, AMOADD, AMOAND, AMOOR, AMOXOR, AMOMIN, AMOMAX, AMOMINU, AMOMAXU, AMOCAS, AMOFADD, AMOBFPADD. -/
def decodeMajor1A (w : Nat) : Except DecodeError Instr :=
  if holds w 23 5 0 && holds w 31 1 0 then
    .ok (.amoswap (regAt w 8) (regAt w 13) (regAt w 18) (fieldAt w 28 1) (fieldAt w 29 2)) else
  if holds w 23 5 1 && holds w 31 1 0 then
    .ok (.amoadd (regAt w 8) (regAt w 13) (regAt w 18) (fieldAt w 28 1) (fieldAt w 29 2)) else
  if holds w 23 5 2 && holds w 31 1 0 then
    .ok (.amoand (regAt w 8) (regAt w 13) (regAt w 18) (fieldAt w 28 1) (fieldAt w 29 2)) else
  if holds w 23 5 3 && holds w 31 1 0 then
    .ok (.amoor (regAt w 8) (regAt w 13) (regAt w 18) (fieldAt w 28 1) (fieldAt w 29 2)) else
  if holds w 23 5 4 && holds w 31 1 0 then
    .ok (.amoxor (regAt w 8) (regAt w 13) (regAt w 18) (fieldAt w 28 1) (fieldAt w 29 2)) else
  if holds w 23 5 5 && holds w 31 1 0 then
    .ok (.amomin (regAt w 8) (regAt w 13) (regAt w 18) (fieldAt w 28 1) (fieldAt w 29 2)) else
  if holds w 23 5 6 && holds w 31 1 0 then
    .ok (.amomax (regAt w 8) (regAt w 13) (regAt w 18) (fieldAt w 28 1) (fieldAt w 29 2)) else
  if holds w 23 5 7 && holds w 31 1 0 then
    .ok (.amominu (regAt w 8) (regAt w 13) (regAt w 18) (fieldAt w 28 1) (fieldAt w 29 2)) else
  if holds w 23 5 8 && holds w 31 1 0 then
    .ok (.amomaxu (regAt w 8) (regAt w 13) (regAt w 18) (fieldAt w 28 1) (fieldAt w 29 2)) else
  if holds w 23 5 9 && holds w 31 1 0 then
    .ok (.amocas (regAt w 8) (regAt w 13) (regAt w 18) (fieldAt w 28 1) (fieldAt w 29 2)) else
  if holds w 23 6 10 && holds w 31 1 0 then
    .ok (.amofadd (regAt w 8) (regAt w 13) (regAt w 18) (fieldAt w 29 2)) else
  if holds w 23 9 11 then
    .ok (.amobfpadd (regAt w 8) (regAt w 13) (regAt w 18)) else
  .error (.unassigned 26)

/-- Major 0x1B of the opcode map (R73): FENCE, PHINIT, PHARR, PHADD, PHWAIT, PHREAD. -/
def decodeMajor1B (w : Nat) : Except DecodeError Instr :=
  if holds w 8 20 0 then
    .ok (.fence (fieldAt w 28 4)) else
  if holds w 8 5 0 && holds w 23 5 1 then
    .ok (.phinit (regAt w 13) (regAt w 18) (fieldAt w 28 4)) else
  if holds w 8 5 0 && holds w 18 10 64 then
    .ok (.pharr (regAt w 13) (fieldAt w 28 4)) else
  if holds w 8 5 0 && holds w 23 5 3 then
    .ok (.phadd (regAt w 13) (regAt w 18) (fieldAt w 28 4)) else
  if holds w 23 5 4 then
    .ok (.phwait (regAt w 8) (regAt w 13) (regAt w 18) (fieldAt w 28 4)) else
  if holds w 23 5 5 then
    .ok (.phread (regAt w 8) (regAt w 13) (regAt w 18) (fieldAt w 28 4)) else
  .error (.unassigned 27)

/-- Major 0x1C of the opcode map (R73): TAGLK, TAGSET, TAGINV, TAGSTAT. -/
def decodeMajor1C (w : Nat) : Except DecodeError Instr :=
  if holds w 18 14 0 then
    .ok (.taglk (regAt w 8) (regAt w 13)) else
  if holds w 23 9 1 then
    .ok (.tagset (regAt w 8) (regAt w 13) (regAt w 18)) else
  if holds w 8 5 0 && holds w 18 14 64 then
    .ok (.taginv (regAt w 13)) else
  if holds w 23 9 3 then
    .ok (.tagstat (regAt w 8) (regAt w 13) (regAt w 18)) else
  .error (.unassigned 28)

/-- Major 0x1D of the opcode map (R73): XFER, XFERN. -/
def decodeMajor1D (w : Nat) : Except DecodeError Instr :=
  if holds w 8 5 0 && holds w 18 14 0 then
    .ok (.xfer (regAt w 13)) else
  if holds w 13 19 1024 then
    .ok (.xfern (regAt w 8)) else
  .error (.unassigned 29)

/-- Major 0x1E of the opcode map (R73): SEND, SEND_REL, REPLY, REPLY_REL, SENDLB. -/
def decodeMajor1E (w : Nat) : Except DecodeError Instr :=
  if holds w 8 5 0 && holds w 18 14 0 then
    .ok (.send (regAt w 13)) else
  if holds w 8 5 0 && holds w 18 14 32 then
    .ok (.sendRel (regAt w 13)) else
  if holds w 8 5 0 && holds w 23 9 2 then
    .ok (.reply (regAt w 13) (regAt w 18)) else
  if holds w 8 5 0 && holds w 23 9 3 then
    .ok (.replyRel (regAt w 13) (regAt w 18)) else
  if holds w 8 5 0 && holds w 18 14 128 then
    .ok (.sendlb (regAt w 13)) else
  .error (.unassigned 30)

/-- Major 0x1F of the opcode map (R73): GQCREATE, GQPUSH, GQPOP, GQPOP_DROP, GQSTAT. -/
def decodeMajor1F (w : Nat) : Except DecodeError Instr :=
  if holds w 8 5 0 && holds w 23 9 0 then
    .ok (.gqcreate (regAt w 13) (regAt w 18)) else
  if holds w 23 9 1 then
    .ok (.gqpush (regAt w 8) (regAt w 13) (regAt w 18)) else
  if holds w 23 9 2 then
    .ok (.gqpop (regAt w 8) (regAt w 13) (regAt w 18)) else
  if holds w 23 9 34 then
    .ok (.gqpopDrop (regAt w 8) (regAt w 13) (regAt w 18)) else
  if holds w 23 9 3 then
    .ok (.gqstat (regAt w 8) (regAt w 13) (regAt w 18)) else
  .error (.unassigned 31)

/-- Major 0x20 of the opcode map (R73): MIXCFG, MIXJOIN, MIXPEER, MIXADD, MIXTICK, MIXREAD, MIXSTAT, MIXLEAVE, MIXHOLD. -/
def decodeMajor20 (w : Nat) : Except DecodeError Instr :=
  if holds w 8 5 0 && holds w 23 9 0 then
    .ok (.mixcfg (regAt w 13) (regAt w 18)) else
  if holds w 8 5 0 && holds w 23 9 1 then
    .ok (.mixjoin (regAt w 13) (regAt w 18)) else
  if holds w 8 5 0 && holds w 23 9 2 then
    .ok (.mixpeer (regAt w 13) (regAt w 18)) else
  if holds w 23 9 3 then
    .ok (.mixadd (regAt w 8) (regAt w 13) (regAt w 18)) else
  if holds w 8 5 0 && holds w 18 14 128 then
    .ok (.mixtick (regAt w 13)) else
  if holds w 23 9 5 then
    .ok (.mixread (regAt w 8) (regAt w 13) (regAt w 18)) else
  if holds w 23 9 6 then
    .ok (.mixstat (regAt w 8) (regAt w 13) (regAt w 18)) else
  if holds w 8 5 0 && holds w 18 14 224 then
    .ok (.mixleave (regAt w 13)) else
  if holds w 8 5 0 && holds w 23 9 8 then
    .ok (.mixhold (regAt w 13) (regAt w 18)) else
  .error (.unassigned 32)

/-- Major 0x21 of the opcode map (R73): MFMT, MMA, MMAS, MWAIT, MAR, MAW, MSTAT, MSREC, MTOUT, MREM, MKEY, MCAP. -/
def decodeMajor21 (w : Nat) : Except DecodeError Instr :=
  if holds w 8 5 0 && holds w 23 9 0 then
    .ok (.mfmt (regAt w 13) (regAt w 18)) else
  if holds w 8 5 0 && holds w 18 14 32 then
    .ok (.mma (regAt w 13)) else
  if holds w 8 5 0 && holds w 18 14 64 then
    .ok (.mmas (regAt w 13)) else
  if holds w 18 14 96 then
    .ok (.mwait (regAt w 8) (regAt w 13)) else
  if holds w 18 14 128 then
    .ok (.mar (regAt w 8) (regAt w 13)) else
  if holds w 18 14 160 then
    .ok (.maw (regAt w 8) (regAt w 13)) else
  if holds w 13 19 6144 then
    .ok (.mstat (regAt w 8)) else
  if holds w 8 5 0 && holds w 18 14 224 then
    .ok (.msrec (regAt w 13)) else
  if holds w 8 5 0 && holds w 18 14 256 then
    .ok (.mtout (regAt w 13)) else
  if holds w 8 5 0 && holds w 18 10 288 then
    .ok (.mrem (regAt w 13) (fieldAt w 28 4)) else
  if holds w 8 5 0 && holds w 23 9 10 then
    .ok (.mkey (regAt w 13) (regAt w 18)) else
  if holds w 18 14 352 then
    .ok (.mcap (regAt w 8) (regAt w 13)) else
  .error (.unassigned 33)

/-- Major 0x22 of the opcode map (R73): MNORM, MXS, MXSRD. -/
def decodeMajor22 (w : Nat) : Except DecodeError Instr :=
  if holds w 8 5 0 && holds w 18 14 0 then
    .ok (.mnorm (regAt w 13)) else
  if holds w 8 5 0 && holds w 23 9 1 then
    .ok (.mxs (regAt w 13) (regAt w 18)) else
  if holds w 18 14 64 then
    .ok (.mxsrd (regAt w 8) (regAt w 13)) else
  .error (.unassigned 34)

/-- Major 0x23 of the opcode map (R73): STGCFG, STGDONE, STGTMPL, STGSREC, STGSTAT. -/
def decodeMajor23 (w : Nat) : Except DecodeError Instr :=
  if holds w 8 5 0 && holds w 23 9 0 then
    .ok (.stgcfg (regAt w 13) (regAt w 18)) else
  if holds w 8 5 0 && holds w 18 14 32 then
    .ok (.stgdone (regAt w 13)) else
  if holds w 8 5 0 && holds w 23 9 2 then
    .ok (.stgtmpl (regAt w 13) (regAt w 18)) else
  if holds w 8 5 0 && holds w 18 14 96 then
    .ok (.stgsrec (regAt w 13)) else
  if holds w 18 14 128 then
    .ok (.stgstat (regAt w 8) (regAt w 13)) else
  .error (.unassigned 35)

/-- Major 0x24 of the opcode map (R73): VADD, VSUB, VMUL, VMIN, VMAX, VMINU, VMAXU. -/
def decodeMajor24 (w : Nat) : Except DecodeError Instr :=
  if holds w 26 3 0 then
    .ok (.vadd (regAt w 8) (regAt w 13) (regAt w 18) (predAt w 23) (fieldAt w 29 3)) else
  if holds w 26 3 1 then
    .ok (.vsub (regAt w 8) (regAt w 13) (regAt w 18) (predAt w 23) (fieldAt w 29 3)) else
  if holds w 26 3 2 then
    .ok (.vmul (regAt w 8) (regAt w 13) (regAt w 18) (predAt w 23) (fieldAt w 29 3)) else
  if holds w 26 3 3 then
    .ok (.vmin (regAt w 8) (regAt w 13) (regAt w 18) (predAt w 23) (fieldAt w 29 3)) else
  if holds w 26 3 4 then
    .ok (.vmax (regAt w 8) (regAt w 13) (regAt w 18) (predAt w 23) (fieldAt w 29 3)) else
  if holds w 26 3 5 then
    .ok (.vminu (regAt w 8) (regAt w 13) (regAt w 18) (predAt w 23) (fieldAt w 29 3)) else
  if holds w 26 3 6 then
    .ok (.vmaxu (regAt w 8) (regAt w 13) (regAt w 18) (predAt w 23) (fieldAt w 29 3)) else
  .error (.unassigned 36)

/-- Major 0x25 of the opcode map (R73): VFMA, VFMS, VFNMA, VFNMS, VDOT, VDOTU. -/
def decodeMajor25 (w : Nat) : Except DecodeError Instr :=
  if holds w 26 3 0 then
    .ok (.vfma (regAt w 8) (regAt w 13) (regAt w 18) (predAt w 23) (fieldAt w 29 3)) else
  if holds w 26 3 1 then
    .ok (.vfms (regAt w 8) (regAt w 13) (regAt w 18) (predAt w 23) (fieldAt w 29 3)) else
  if holds w 26 3 2 then
    .ok (.vfnma (regAt w 8) (regAt w 13) (regAt w 18) (predAt w 23) (fieldAt w 29 3)) else
  if holds w 26 3 3 then
    .ok (.vfnms (regAt w 8) (regAt w 13) (regAt w 18) (predAt w 23) (fieldAt w 29 3)) else
  if holds w 26 3 4 then
    .ok (.vdot (regAt w 8) (regAt w 13) (regAt w 18) (predAt w 23) (fieldAt w 29 3)) else
  if holds w 26 3 5 then
    .ok (.vdotu (regAt w 8) (regAt w 13) (regAt w 18) (predAt w 23) (fieldAt w 29 3)) else
  .error (.unassigned 37)

/-- Major 0x26 of the opcode map (R73): VADDS, VADDSU, VSUBS, VSUBSU, VNEGS. -/
def decodeMajor26 (w : Nat) : Except DecodeError Instr :=
  if holds w 26 3 0 then
    .ok (.vadds (regAt w 8) (regAt w 13) (regAt w 18) (predAt w 23) (fieldAt w 29 3)) else
  if holds w 26 3 1 then
    .ok (.vaddsu (regAt w 8) (regAt w 13) (regAt w 18) (predAt w 23) (fieldAt w 29 3)) else
  if holds w 26 3 2 then
    .ok (.vsubs (regAt w 8) (regAt w 13) (regAt w 18) (predAt w 23) (fieldAt w 29 3)) else
  if holds w 26 3 3 then
    .ok (.vsubsu (regAt w 8) (regAt w 13) (regAt w 18) (predAt w 23) (fieldAt w 29 3)) else
  if holds w 18 5 0 && holds w 26 3 4 then
    .ok (.vnegs (regAt w 8) (regAt w 13) (predAt w 23) (fieldAt w 29 3)) else
  .error (.unassigned 38)

/-- Major 0x27 of the opcode map (R73): VAND, VOR, VXOR, VANDN, VSLL, VSRL, VSRA. -/
def decodeMajor27 (w : Nat) : Except DecodeError Instr :=
  if holds w 26 3 0 then
    .ok (.vand (regAt w 8) (regAt w 13) (regAt w 18) (predAt w 23) (fieldAt w 29 3)) else
  if holds w 26 3 1 then
    .ok (.vor (regAt w 8) (regAt w 13) (regAt w 18) (predAt w 23) (fieldAt w 29 3)) else
  if holds w 26 3 2 then
    .ok (.vxor (regAt w 8) (regAt w 13) (regAt w 18) (predAt w 23) (fieldAt w 29 3)) else
  if holds w 26 3 3 then
    .ok (.vandn (regAt w 8) (regAt w 13) (regAt w 18) (predAt w 23) (fieldAt w 29 3)) else
  if holds w 26 3 4 then
    .ok (.vsll (regAt w 8) (regAt w 13) (regAt w 18) (predAt w 23) (fieldAt w 29 3)) else
  if holds w 26 3 5 then
    .ok (.vsrl (regAt w 8) (regAt w 13) (regAt w 18) (predAt w 23) (fieldAt w 29 3)) else
  if holds w 26 3 6 then
    .ok (.vsra (regAt w 8) (regAt w 13) (regAt w 18) (predAt w 23) (fieldAt w 29 3)) else
  .error (.unassigned 39)

/-- Major 0x28 of the opcode map (R73): VCMPEQ, VCMPNE, VCMPLT, VCMPLE, VCMPLTU, VCMPLEU. -/
def decodeMajor28 (w : Nat) : Except DecodeError Instr :=
  if holds w 26 3 0 then
    .ok (.vcmpeq (regAt w 8) (regAt w 13) (regAt w 18) (predAt w 23) (fieldAt w 29 3)) else
  if holds w 26 3 1 then
    .ok (.vcmpne (regAt w 8) (regAt w 13) (regAt w 18) (predAt w 23) (fieldAt w 29 3)) else
  if holds w 26 3 2 then
    .ok (.vcmplt (regAt w 8) (regAt w 13) (regAt w 18) (predAt w 23) (fieldAt w 29 3)) else
  if holds w 26 3 3 then
    .ok (.vcmple (regAt w 8) (regAt w 13) (regAt w 18) (predAt w 23) (fieldAt w 29 3)) else
  if holds w 26 3 4 then
    .ok (.vcmpltu (regAt w 8) (regAt w 13) (regAt w 18) (predAt w 23) (fieldAt w 29 3)) else
  if holds w 26 3 5 then
    .ok (.vcmpleu (regAt w 8) (regAt w 13) (regAt w 18) (predAt w 23) (fieldAt w 29 3)) else
  .error (.unassigned 40)

/-- Major 0x29 of the opcode map (R73): VMV, VBCAST, VINS, VEXT, VEXTU. -/
def decodeMajor29 (w : Nat) : Except DecodeError Instr :=
  if holds w 18 5 0 && holds w 26 3 0 then
    .ok (.vmv (regAt w 8) (regAt w 13) (predAt w 23) (fieldAt w 29 3)) else
  if holds w 18 5 0 && holds w 26 3 1 then
    .ok (.vbcast (regAt w 8) (regAt w 13) (predAt w 23) (fieldAt w 29 3)) else
  if holds w 23 6 16 then
    .ok (.vins (regAt w 8) (regAt w 13) (regAt w 18) (fieldAt w 29 3)) else
  if holds w 23 6 24 then
    .ok (.vext (regAt w 8) (regAt w 13) (regAt w 18) (fieldAt w 29 3)) else
  if holds w 23 6 32 then
    .ok (.vextu (regAt w 8) (regAt w 13) (regAt w 18) (fieldAt w 29 3)) else
  .error (.unassigned 41)

/-- Major 0x2A of the opcode map (R73): VRSUM, VRSUMU, VRMIN, VRMAX, VRMINU, VRMAXU. -/
def decodeMajor2A (w : Nat) : Except DecodeError Instr :=
  if holds w 18 5 0 && holds w 26 3 0 then
    .ok (.vrsum (regAt w 8) (regAt w 13) (predAt w 23) (fieldAt w 29 3)) else
  if holds w 18 5 0 && holds w 26 3 1 then
    .ok (.vrsumu (regAt w 8) (regAt w 13) (predAt w 23) (fieldAt w 29 3)) else
  if holds w 18 5 0 && holds w 26 3 2 then
    .ok (.vrmin (regAt w 8) (regAt w 13) (predAt w 23) (fieldAt w 29 3)) else
  if holds w 18 5 0 && holds w 26 3 3 then
    .ok (.vrmax (regAt w 8) (regAt w 13) (predAt w 23) (fieldAt w 29 3)) else
  if holds w 18 5 0 && holds w 26 3 4 then
    .ok (.vrminu (regAt w 8) (regAt w 13) (predAt w 23) (fieldAt w 29 3)) else
  if holds w 18 5 0 && holds w 26 3 5 then
    .ok (.vrmaxu (regAt w 8) (regAt w 13) (predAt w 23) (fieldAt w 29 3)) else
  .error (.unassigned 42)

/-- Major 0x2B of the opcode map (R73): VABS, VNEG, VCLZ, VPOPC. -/
def decodeMajor2B (w : Nat) : Except DecodeError Instr :=
  if holds w 18 5 0 && holds w 26 3 0 then
    .ok (.vabs (regAt w 8) (regAt w 13) (predAt w 23) (fieldAt w 29 3)) else
  if holds w 18 5 0 && holds w 26 3 1 then
    .ok (.vneg (regAt w 8) (regAt w 13) (predAt w 23) (fieldAt w 29 3)) else
  if holds w 18 5 0 && holds w 26 3 2 then
    .ok (.vclz (regAt w 8) (regAt w 13) (predAt w 23) (fieldAt w 29 3)) else
  if holds w 18 5 0 && holds w 26 3 3 then
    .ok (.vpopc (regAt w 8) (regAt w 13) (predAt w 23) (fieldAt w 29 3)) else
  .error (.unassigned 43)

/-- Major 0x2C of the opcode map (R73): VCVT. -/
def decodeMajor2C (w : Nat) : Except DecodeError Instr :=
  .ok (.vcvt (regAt w 8) (regAt w 13) (regAt w 18) (fieldAt w 23 3) (fieldAt w 26 3) (fieldAt w 29 3))

/-- Major 0x2D of the opcode map (R73): VRCP, VRSQRT, VSQRT, VEXP2, VLOG2, VDIV, VTIE, VTLOAD. -/
def decodeMajor2D (w : Nat) : Except DecodeError Instr :=
  if holds w 18 5 0 && holds w 26 3 0 then
    .ok (.vrcp (regAt w 8) (regAt w 13) (predAt w 23) (fieldAt w 29 3)) else
  if holds w 18 5 0 && holds w 26 3 1 then
    .ok (.vrsqrt (regAt w 8) (regAt w 13) (predAt w 23) (fieldAt w 29 3)) else
  if holds w 18 5 0 && holds w 26 3 2 then
    .ok (.vsqrt (regAt w 8) (regAt w 13) (predAt w 23) (fieldAt w 29 3)) else
  if holds w 18 5 0 && holds w 26 3 3 then
    .ok (.vexp2 (regAt w 8) (regAt w 13) (predAt w 23) (fieldAt w 29 3)) else
  if holds w 18 5 0 && holds w 26 3 4 then
    .ok (.vlog2 (regAt w 8) (regAt w 13) (predAt w 23) (fieldAt w 29 3)) else
  if holds w 26 3 5 then
    .ok (.vdiv (regAt w 8) (regAt w 13) (regAt w 18) (predAt w 23) (fieldAt w 29 3)) else
  if holds w 26 3 6 then
    .ok (.vtie (regAt w 8) (regAt w 13) (regAt w 18) (predAt w 23) (fieldAt w 29 3)) else
  if holds w 9 4 0 && holds w 23 9 56 then
    .ok (.vtload (fieldAt w 8 1) (regAt w 13) (regAt w 18)) else
  .error (.unassigned 45)

/-- Major 0x2E of the opcode map (R73): VSHUF, VSPLAT, VSLIDEDN, VSLIDEUP. -/
def decodeMajor2E (w : Nat) : Except DecodeError Instr :=
  if holds w 26 3 0 then
    .ok (.vshuf (regAt w 8) (regAt w 13) (regAt w 18) (predAt w 23) (fieldAt w 29 3)) else
  if holds w 26 3 1 then
    .ok (.vsplat (regAt w 8) (regAt w 13) (regAt w 18) (predAt w 23) (fieldAt w 29 3)) else
  if holds w 26 3 2 then
    .ok (.vslidedn (regAt w 8) (regAt w 13) (regAt w 18) (predAt w 23) (fieldAt w 29 3)) else
  if holds w 26 3 3 then
    .ok (.vslideup (regAt w 8) (regAt w 13) (regAt w 18) (predAt w 23) (fieldAt w 29 3)) else
  .error (.unassigned 46)

/-- Major 0x2F of the opcode map (R73): PLEN, PAND, POR, PXOR, PANDN, PGET, PSET, PCNT. -/
def decodeMajor2F (w : Nat) : Except DecodeError Instr :=
  if holds w 18 11 0 then
    .ok (.plen (regAt w 8) (regAt w 13) (fieldAt w 29 3)) else
  if holds w 26 6 1 then
    .ok (.pand (regAt w 8) (regAt w 13) (regAt w 18) (predAt w 23)) else
  if holds w 26 6 2 then
    .ok (.por (regAt w 8) (regAt w 13) (regAt w 18) (predAt w 23)) else
  if holds w 26 6 3 then
    .ok (.pxor (regAt w 8) (regAt w 13) (regAt w 18) (predAt w 23)) else
  if holds w 26 6 4 then
    .ok (.pandn (regAt w 8) (regAt w 13) (regAt w 18) (predAt w 23)) else
  if holds w 18 14 1280 then
    .ok (.pget (regAt w 8) (regAt w 13)) else
  if holds w 18 14 1536 then
    .ok (.pset (regAt w 8) (regAt w 13)) else
  if holds w 18 11 1792 then
    .ok (.pcnt (regAt w 8) (regAt w 13) (fieldAt w 29 3)) else
  .error (.unassigned 47)

/-- Major 0x30 of the opcode map (R73): TRAP, CODEW, RTSET, INBHEAD, INBRD, INBFREE, FBSTAT, FBREAD, FBCLR, REPLAYALL, TLBINV, SGLOAD, KEYW, PREEMPT, CTXREST, BNCSET, BNCCLR, DBGRD, DBGWR, DBGSTEP, OPSET, ROWQ, ERET, BKPT, HALT, RESUME. -/
def decodeMajor30 (w : Nat) : Except DecodeError Instr :=
  if holds w 8 5 0 && holds w 18 14 32 then
    .ok (.trap (regAt w 13)) else
  if holds w 8 5 0 && holds w 23 9 4 then
    .ok (.codew (regAt w 13) (regAt w 18)) else
  if holds w 8 5 0 && holds w 23 9 5 then
    .ok (.rtset (regAt w 13) (regAt w 18)) else
  if holds w 18 14 256 then
    .ok (.inbhead (regAt w 8) (regAt w 13)) else
  if holds w 23 9 9 then
    .ok (.inbrd (regAt w 8) (regAt w 13) (regAt w 18)) else
  if holds w 8 5 0 && holds w 23 9 10 then
    .ok (.inbfree (regAt w 13) (regAt w 18)) else
  if holds w 18 14 512 then
    .ok (.fbstat (regAt w 8) (regAt w 13)) else
  if holds w 23 9 17 then
    .ok (.fbread (regAt w 8) (regAt w 13) (regAt w 18)) else
  if holds w 8 5 0 && holds w 23 9 18 then
    .ok (.fbclr (regAt w 13) (regAt w 18)) else
  if holds w 8 5 0 && holds w 18 14 608 then
    .ok (.replayall (regAt w 13)) else
  if holds w 8 5 0 && holds w 23 9 20 then
    .ok (.tlbinv (regAt w 13) (regAt w 18)) else
  if holds w 8 5 0 && holds w 23 9 21 then
    .ok (.sgload (regAt w 13) (regAt w 18)) else
  if holds w 8 5 0 && holds w 23 9 22 then
    .ok (.keyw (regAt w 13) (regAt w 18)) else
  if holds w 8 5 0 && holds w 23 9 32 then
    .ok (.preempt (regAt w 13) (regAt w 18)) else
  if holds w 18 14 1056 then
    .ok (.ctxrest (regAt w 8) (regAt w 13)) else
  if holds w 23 9 34 then
    .ok (.bncset (regAt w 8) (regAt w 13) (regAt w 18)) else
  if holds w 8 5 0 && holds w 18 14 1120 then
    .ok (.bncclr (regAt w 13)) else
  if holds w 23 9 50 then
    .ok (.dbgrd (regAt w 8) (regAt w 13) (regAt w 18)) else
  if holds w 8 5 0 && holds w 23 9 51 then
    .ok (.dbgwr (regAt w 13) (regAt w 18)) else
  if holds w 8 5 0 && holds w 18 14 1664 then
    .ok (.dbgstep (regAt w 13)) else
  if holds w 23 9 64 then
    .ok (.opset (regAt w 8) (regAt w 13) (regAt w 18)) else
  if holds w 23 9 65 then
    .ok (.rowq (regAt w 8) (regAt w 13) (regAt w 18)) else
  if holds w 8 24 0 then
    .ok (.eret) else
  if holds w 8 24 65536 then
    .ok (.bkpt) else
  if holds w 8 24 1572864 then
    .ok (.halt) else
  if holds w 8 24 1605632 then
    .ok (.resume) else
  .error (.unassigned 48)

/-- A 32-bit instruction value (R66, R68, R73): bit 0 is 1. -/
def decode32 (w : Nat) : Except DecodeError Instr :=
  match w / 4 % 64 with
  | 0 => decodeMajor00 w
  | 1 => decodeMajor01 w
  | 2 => decodeMajor02 w
  | 3 => decodeMajor03 w
  | 4 => decodeMajor04 w
  | 5 => decodeMajor05 w
  | 6 => decodeMajor06 w
  | 7 => decodeMajor07 w
  | 8 => decodeMajor08 w
  | 9 => decodeMajor09 w
  | 10 => decodeMajor0A w
  | 11 => decodeMajor0B w
  | 12 => decodeMajor0C w
  | 13 => decodeMajor0D w
  | 14 => decodeMajor0E w
  | 15 => decodeMajor0F w
  | 16 => decodeMajor10 w
  | 17 => decodeMajor11 w
  | 18 => decodeMajor12 w
  | 19 => decodeMajor13 w
  | 20 => decodeMajor14 w
  | 21 => decodeMajor15 w
  | 22 => decodeMajor16 w
  | 23 => decodeMajor17 w
  | 24 => decodeMajor18 w
  | 25 => decodeMajor19 w
  | 26 => decodeMajor1A w
  | 27 => decodeMajor1B w
  | 28 => decodeMajor1C w
  | 29 => decodeMajor1D w
  | 30 => decodeMajor1E w
  | 31 => decodeMajor1F w
  | 32 => decodeMajor20 w
  | 33 => decodeMajor21 w
  | 34 => decodeMajor22 w
  | 35 => decodeMajor23 w
  | 36 => decodeMajor24 w
  | 37 => decodeMajor25 w
  | 38 => decodeMajor26 w
  | 39 => decodeMajor27 w
  | 40 => decodeMajor28 w
  | 41 => decodeMajor29 w
  | 42 => decodeMajor2A w
  | 43 => decodeMajor2B w
  | 44 => decodeMajor2C w
  | 45 => decodeMajor2D w
  | 46 => decodeMajor2E w
  | 47 => decodeMajor2F w
  | 48 => decodeMajor30 w
  | 63 => .error .permanentlyIllegal
  | _ => .error .reservedMajor

/-- A 16-bit instruction value (R77, R78): bit 0 is 0. -/
def decode16 (w : Nat) : Except DecodeError Instr :=
  match w / 4 % 16 with
  | 1 => .ok (.cMv (regAt w 6) (regAt w 11))
  | 2 => .ok (.cAdd (regAt w 6) (regAt w 11))
  | 3 => .ok (.cSub (regAt w 6) (regAt w 11))
  | 4 => .ok (.cAnd (regAt w 6) (regAt w 11))
  | 5 => .ok (.cOr (regAt w 6) (regAt w 11))
  | 6 => .ok (.cXor (regAt w 6) (regAt w 11))
  | 7 => .ok (.cAddi (regAt w 6) (fieldAt w 11 5))
  | 8 => .ok (.cLi (regAt w 6) (fieldAt w 11 5))
  | 9 => .ok (.cSlli (regAt w 6) (fieldAt w 11 5))
  | 10 => .ok (.cSrli (regAt w 6) (fieldAt w 11 5))
  | 11 => .ok (.cSrai (regAt w 6) (fieldAt w 11 5))
  | 12 => .ok (.cLdl (regAt w 6) (regAt w 11))
  | 13 => .ok (.cStl (regAt w 6) (regAt w 11))
  | 14 => .ok (.cBnez (regAt w 6) (fieldAt w 11 5))
  | 15 =>
    if holds w 6 10 0 then .ok .cEndtask
    else if holds w 6 5 0 then .ok (.cJreg (regAt w 11))
    else .error .compactUnassigned
  | _ => .error .compactZero

/-- The instruction whose first halfword is `h0` and, for a 32-bit one, whose second is `h1` (R66). -/
def decodePair (h0 h1 : Nat) : Except DecodeError Instr :=
  if h0 % 2 = 0 then decode16 h0 else decode32 (h1 * 65536 + h0)

/-- Decoding is total on any bytes: the first instruction of a little-endian byte string, its switch
marker and the bytes after it, or the reason there is none. -/
def decode : List Byte → Except DecodeError (Instr × Bool × List Byte)
  | b0 :: b1 :: rest =>
    let h0 := b0.toNat + 256 * b1.toNat
    if h0 % 2 = 0 then (decode16 h0).map (·, swAt h0, rest)
    else match rest with
      | b2 :: b3 :: rest' =>
        (decode32 (h0 + 65536 * (b2.toNat + 256 * b3.toNat))).map (·, swAt h0, rest')
      | _ => .error .truncated
  | _ => .error .truncated

/-- The instruction value of an encodable instruction (R66, R78): the fixed bits of its row and
its fields in their places, S clear.  An event has no encoding; its value is 0. -/
def valueS0 : Instr → Nat
  | .add d a b => 1 + 256 * d.val + 8192 * a.val + 262144 * b.val
  | .sub d a b => 8388609 + 256 * d.val + 8192 * a.val + 262144 * b.val
  | .and d a b => 16777217 + 256 * d.val + 8192 * a.val + 262144 * b.val
  | .or d a b => 25165825 + 256 * d.val + 8192 * a.val + 262144 * b.val
  | .xor d a b => 33554433 + 256 * d.val + 8192 * a.val + 262144 * b.val
  | .andn d a b => 41943041 + 256 * d.val + 8192 * a.val + 262144 * b.val
  | .orn d a b => 50331649 + 256 * d.val + 8192 * a.val + 262144 * b.val
  | .sll d a b => 58720257 + 256 * d.val + 8192 * a.val + 262144 * b.val
  | .srl d a b => 67108865 + 256 * d.val + 8192 * a.val + 262144 * b.val
  | .sra d a b => 75497473 + 256 * d.val + 8192 * a.val + 262144 * b.val
  | .slt d a b => 83886081 + 256 * d.val + 8192 * a.val + 262144 * b.val
  | .sltu d a b => 92274689 + 256 * d.val + 8192 * a.val + 262144 * b.val
  | .min d a b => 100663297 + 256 * d.val + 8192 * a.val + 262144 * b.val
  | .max d a b => 109051905 + 256 * d.val + 8192 * a.val + 262144 * b.val
  | .minu d a b => 117440513 + 256 * d.val + 8192 * a.val + 262144 * b.val
  | .maxu d a b => 125829121 + 256 * d.val + 8192 * a.val + 262144 * b.val
  | .seq d a b => 134217729 + 256 * d.val + 8192 * a.val + 262144 * b.val
  | .addi d a i => 5 + 256 * d.val + 8192 * a.val + 262144 * i.toNat
  | .andi d a i => 9 + 256 * d.val + 8192 * a.val + 262144 * i.toNat
  | .ori d a i => 13 + 256 * d.val + 8192 * a.val + 262144 * i.toNat
  | .xori d a i => 17 + 256 * d.val + 8192 * a.val + 262144 * i.toNat
  | .slti d a i => 21 + 256 * d.val + 8192 * a.val + 262144 * i.toNat
  | .sltiu d a i => 25 + 256 * d.val + 8192 * a.val + 262144 * i.toNat
  | .slli d a h => 29 + 256 * d.val + 8192 * a.val + 262144 * h.toNat
  | .srli d a h => 16777245 + 256 * d.val + 8192 * a.val + 262144 * h.toNat
  | .srai d a h => 33554461 + 256 * d.val + 8192 * a.val + 262144 * h.toNat
  | .li d i => 33 + 256 * d.val + 8192 * i.toNat
  | .lih d h q => 37 + 256 * d.val + 8192 * h.toNat + 536870912 * q.toNat
  | .mul d a b => 41 + 256 * d.val + 8192 * a.val + 262144 * b.val
  | .mulh d a b => 8388649 + 256 * d.val + 8192 * a.val + 262144 * b.val
  | .mulhsu d a b => 16777257 + 256 * d.val + 8192 * a.val + 262144 * b.val
  | .mulhu d a b => 25165865 + 256 * d.val + 8192 * a.val + 262144 * b.val
  | .div d a b => 33554473 + 256 * d.val + 8192 * a.val + 262144 * b.val
  | .divu d a b => 41943081 + 256 * d.val + 8192 * a.val + 262144 * b.val
  | .rem d a b => 50331689 + 256 * d.val + 8192 * a.val + 262144 * b.val
  | .remu d a b => 58720297 + 256 * d.val + 8192 * a.val + 262144 * b.val
  | .clz d a => 45 + 256 * d.val + 8192 * a.val
  | .ctz d a => 8388653 + 256 * d.val + 8192 * a.val
  | .popc d a => 16777261 + 256 * d.val + 8192 * a.val
  | .bswap d a => 25165869 + 256 * d.val + 8192 * a.val
  | .brev d a => 33554477 + 256 * d.val + 8192 * a.val
  | .rol d a b => 41943085 + 256 * d.val + 8192 * a.val + 262144 * b.val
  | .ror d a b => 50331693 + 256 * d.val + 8192 * a.val + 262144 * b.val
  | .rand d => 58720301 + 256 * d.val
  | .beq a b o => 49 + 256 * a.val + 8192 * b.val + 2097152 * o.toNat
  | .bne a b o => 262193 + 256 * a.val + 8192 * b.val + 2097152 * o.toNat
  | .blt a b o => 524337 + 256 * a.val + 8192 * b.val + 2097152 * o.toNat
  | .bge a b o => 786481 + 256 * a.val + 8192 * b.val + 2097152 * o.toNat
  | .bltu a b o => 1048625 + 256 * a.val + 8192 * b.val + 2097152 * o.toNat
  | .bgeu a b o => 1310769 + 256 * a.val + 8192 * b.val + 2097152 * o.toNat
  | .jmp o => 53 + 256 * o.toNat
  | .call o => 57 + 256 * o.toNat
  | .jreg d a i => 61 + 256 * d.val + 8192 * a.val + 262144 * i.toNat
  | .loop a i => 65 + 8192 * a.val + 262144 * i.toNat
  | .endtask a => 69 + 8192 * a.val
  | .spawnPath d a c r => 268435525 + 256 * d.val + 8192 * a.val + 262144 * c.toNat + 67108864 * r.toNat
  | .spawnNear d a c r => 285212741 + 256 * d.val + 8192 * a.val + 262144 * c.toNat + 67108864 * r.toNat
  | .spawnSteal d a c r => 301989957 + 256 * d.val + 8192 * a.val + 262144 * c.toNat + 67108864 * r.toNat
  | .join d a k => 536870981 + 256 * d.val + 8192 * a.val + 262144 * k.toNat
  | .yieldchk d => 805306437 + 256 * d.val
  | .follow a k => 1073741893 + 8192 * a.val + 262144 * k.toNat
  | .cancel a => 1610612805 + 8192 * a.val
  | .rtquiet d a k => 1879048261 + 256 * d.val + 8192 * a.val + 262144 * k.toNat
  | .csrrw d a k => 2147483717 + 256 * d.val + 8192 * a.val + 262144 * k.toNat
  | .csrrs d a k => 2415919173 + 256 * d.val + 8192 * a.val + 262144 * k.toNat
  | .csrrc d a k => 2684354629 + 256 * d.val + 8192 * a.val + 262144 * k.toNat
  | .ld d a z o => 73 + 256 * d.val + 8192 * a.val + 262144 * z.toNat + 2097152 * o.toNat
  | .st d a z o => 77 + 256 * d.val + 8192 * a.val + 262144 * z.toNat + 2097152 * o.toNat
  | .ldl d a z o => 81 + 256 * d.val + 8192 * a.val + 262144 * z.toNat + 2097152 * o.toNat
  | .stl d a z o => 85 + 256 * d.val + 8192 * a.val + 262144 * z.toNat + 2097152 * o.toNat
  | .ldc d a z o => 89 + 256 * d.val + 8192 * a.val + 262144 * z.toNat + 2097152 * o.toNat
  | .stc d a z o => 93 + 256 * d.val + 8192 * a.val + 262144 * z.toNat + 2097152 * o.toNat
  | .ldv d a b p n y => 97 + 256 * d.val + 8192 * a.val + 262144 * b.val + 8388608 * p.val + 67108864 * n.toNat + 536870912 * y.toNat
  | .stv d a b p n y => 101 + 256 * d.val + 8192 * a.val + 262144 * b.val + 8388608 * p.val + 67108864 * n.toNat + 536870912 * y.toNat
  | .amoswap d a b z u => 105 + 256 * d.val + 8192 * a.val + 262144 * b.val + 268435456 * z.toNat + 536870912 * u.toNat
  | .amoadd d a b z u => 8388713 + 256 * d.val + 8192 * a.val + 262144 * b.val + 268435456 * z.toNat + 536870912 * u.toNat
  | .amoand d a b z u => 16777321 + 256 * d.val + 8192 * a.val + 262144 * b.val + 268435456 * z.toNat + 536870912 * u.toNat
  | .amoor d a b z u => 25165929 + 256 * d.val + 8192 * a.val + 262144 * b.val + 268435456 * z.toNat + 536870912 * u.toNat
  | .amoxor d a b z u => 33554537 + 256 * d.val + 8192 * a.val + 262144 * b.val + 268435456 * z.toNat + 536870912 * u.toNat
  | .amomin d a b z u => 41943145 + 256 * d.val + 8192 * a.val + 262144 * b.val + 268435456 * z.toNat + 536870912 * u.toNat
  | .amomax d a b z u => 50331753 + 256 * d.val + 8192 * a.val + 262144 * b.val + 268435456 * z.toNat + 536870912 * u.toNat
  | .amominu d a b z u => 58720361 + 256 * d.val + 8192 * a.val + 262144 * b.val + 268435456 * z.toNat + 536870912 * u.toNat
  | .amomaxu d a b z u => 67108969 + 256 * d.val + 8192 * a.val + 262144 * b.val + 268435456 * z.toNat + 536870912 * u.toNat
  | .amocas d a b z u => 75497577 + 256 * d.val + 8192 * a.val + 262144 * b.val + 268435456 * z.toNat + 536870912 * u.toNat
  | .amofadd d a b u => 83886185 + 256 * d.val + 8192 * a.val + 262144 * b.val + 536870912 * u.toNat
  | .amobfpadd d a b => 92274793 + 256 * d.val + 8192 * a.val + 262144 * b.val
  | .fence t => 109 + 268435456 * t.toNat
  | .phinit a b t => 8388717 + 8192 * a.val + 262144 * b.val + 268435456 * t.toNat
  | .pharr a t => 16777325 + 8192 * a.val + 268435456 * t.toNat
  | .phadd a b t => 25165933 + 8192 * a.val + 262144 * b.val + 268435456 * t.toNat
  | .phwait d a b t => 33554541 + 256 * d.val + 8192 * a.val + 262144 * b.val + 268435456 * t.toNat
  | .phread d a b t => 41943149 + 256 * d.val + 8192 * a.val + 262144 * b.val + 268435456 * t.toNat
  | .taglk d a => 113 + 256 * d.val + 8192 * a.val
  | .tagset d a b => 8388721 + 256 * d.val + 8192 * a.val + 262144 * b.val
  | .taginv a => 16777329 + 8192 * a.val
  | .tagstat d a b => 25165937 + 256 * d.val + 8192 * a.val + 262144 * b.val
  | .xfer a => 117 + 8192 * a.val
  | .xfern d => 8388725 + 256 * d.val
  | .send a => 121 + 8192 * a.val
  | .sendRel a => 8388729 + 8192 * a.val
  | .reply a b => 16777337 + 8192 * a.val + 262144 * b.val
  | .replyRel a b => 25165945 + 8192 * a.val + 262144 * b.val
  | .sendlb a => 33554553 + 8192 * a.val
  | .gqcreate a b => 125 + 8192 * a.val + 262144 * b.val
  | .gqpush d a b => 8388733 + 256 * d.val + 8192 * a.val + 262144 * b.val
  | .gqpop d a b => 16777341 + 256 * d.val + 8192 * a.val + 262144 * b.val
  | .gqpopDrop d a b => 285212797 + 256 * d.val + 8192 * a.val + 262144 * b.val
  | .gqstat d a b => 25165949 + 256 * d.val + 8192 * a.val + 262144 * b.val
  | .mixcfg a b => 129 + 8192 * a.val + 262144 * b.val
  | .mixjoin a b => 8388737 + 8192 * a.val + 262144 * b.val
  | .mixpeer a b => 16777345 + 8192 * a.val + 262144 * b.val
  | .mixadd d a b => 25165953 + 256 * d.val + 8192 * a.val + 262144 * b.val
  | .mixtick a => 33554561 + 8192 * a.val
  | .mixread d a b => 41943169 + 256 * d.val + 8192 * a.val + 262144 * b.val
  | .mixstat d a b => 50331777 + 256 * d.val + 8192 * a.val + 262144 * b.val
  | .mixleave a => 58720385 + 8192 * a.val
  | .mixhold a b => 67108993 + 8192 * a.val + 262144 * b.val
  | .mfmt a b => 133 + 8192 * a.val + 262144 * b.val
  | .mma a => 8388741 + 8192 * a.val
  | .mmas a => 16777349 + 8192 * a.val
  | .mwait d a => 25165957 + 256 * d.val + 8192 * a.val
  | .mar d a => 33554565 + 256 * d.val + 8192 * a.val
  | .maw d a => 41943173 + 256 * d.val + 8192 * a.val
  | .mstat d => 50331781 + 256 * d.val
  | .msrec a => 58720389 + 8192 * a.val
  | .mtout a => 67108997 + 8192 * a.val
  | .mrem a t => 75497605 + 8192 * a.val + 268435456 * t.toNat
  | .mkey a b => 83886213 + 8192 * a.val + 262144 * b.val
  | .mcap d a => 92274821 + 256 * d.val + 8192 * a.val
  | .mnorm a => 137 + 8192 * a.val
  | .mxs a b => 8388745 + 8192 * a.val + 262144 * b.val
  | .mxsrd d a => 16777353 + 256 * d.val + 8192 * a.val
  | .stgcfg a b => 141 + 8192 * a.val + 262144 * b.val
  | .stgdone a => 8388749 + 8192 * a.val
  | .stgtmpl a b => 16777357 + 8192 * a.val + 262144 * b.val
  | .stgsrec a => 25165965 + 8192 * a.val
  | .stgstat d a => 33554573 + 256 * d.val + 8192 * a.val
  | .vadd d a b p y => 145 + 256 * d.val + 8192 * a.val + 262144 * b.val + 8388608 * p.val + 536870912 * y.toNat
  | .vsub d a b p y => 67109009 + 256 * d.val + 8192 * a.val + 262144 * b.val + 8388608 * p.val + 536870912 * y.toNat
  | .vmul d a b p y => 134217873 + 256 * d.val + 8192 * a.val + 262144 * b.val + 8388608 * p.val + 536870912 * y.toNat
  | .vmin d a b p y => 201326737 + 256 * d.val + 8192 * a.val + 262144 * b.val + 8388608 * p.val + 536870912 * y.toNat
  | .vmax d a b p y => 268435601 + 256 * d.val + 8192 * a.val + 262144 * b.val + 8388608 * p.val + 536870912 * y.toNat
  | .vminu d a b p y => 335544465 + 256 * d.val + 8192 * a.val + 262144 * b.val + 8388608 * p.val + 536870912 * y.toNat
  | .vmaxu d a b p y => 402653329 + 256 * d.val + 8192 * a.val + 262144 * b.val + 8388608 * p.val + 536870912 * y.toNat
  | .vfma d a b p y => 149 + 256 * d.val + 8192 * a.val + 262144 * b.val + 8388608 * p.val + 536870912 * y.toNat
  | .vfms d a b p y => 67109013 + 256 * d.val + 8192 * a.val + 262144 * b.val + 8388608 * p.val + 536870912 * y.toNat
  | .vfnma d a b p y => 134217877 + 256 * d.val + 8192 * a.val + 262144 * b.val + 8388608 * p.val + 536870912 * y.toNat
  | .vfnms d a b p y => 201326741 + 256 * d.val + 8192 * a.val + 262144 * b.val + 8388608 * p.val + 536870912 * y.toNat
  | .vdot d a b p y => 268435605 + 256 * d.val + 8192 * a.val + 262144 * b.val + 8388608 * p.val + 536870912 * y.toNat
  | .vdotu d a b p y => 335544469 + 256 * d.val + 8192 * a.val + 262144 * b.val + 8388608 * p.val + 536870912 * y.toNat
  | .vadds d a b p y => 153 + 256 * d.val + 8192 * a.val + 262144 * b.val + 8388608 * p.val + 536870912 * y.toNat
  | .vaddsu d a b p y => 67109017 + 256 * d.val + 8192 * a.val + 262144 * b.val + 8388608 * p.val + 536870912 * y.toNat
  | .vsubs d a b p y => 134217881 + 256 * d.val + 8192 * a.val + 262144 * b.val + 8388608 * p.val + 536870912 * y.toNat
  | .vsubsu d a b p y => 201326745 + 256 * d.val + 8192 * a.val + 262144 * b.val + 8388608 * p.val + 536870912 * y.toNat
  | .vnegs d a p y => 268435609 + 256 * d.val + 8192 * a.val + 8388608 * p.val + 536870912 * y.toNat
  | .vand d a b p y => 157 + 256 * d.val + 8192 * a.val + 262144 * b.val + 8388608 * p.val + 536870912 * y.toNat
  | .vor d a b p y => 67109021 + 256 * d.val + 8192 * a.val + 262144 * b.val + 8388608 * p.val + 536870912 * y.toNat
  | .vxor d a b p y => 134217885 + 256 * d.val + 8192 * a.val + 262144 * b.val + 8388608 * p.val + 536870912 * y.toNat
  | .vandn d a b p y => 201326749 + 256 * d.val + 8192 * a.val + 262144 * b.val + 8388608 * p.val + 536870912 * y.toNat
  | .vsll d a b p y => 268435613 + 256 * d.val + 8192 * a.val + 262144 * b.val + 8388608 * p.val + 536870912 * y.toNat
  | .vsrl d a b p y => 335544477 + 256 * d.val + 8192 * a.val + 262144 * b.val + 8388608 * p.val + 536870912 * y.toNat
  | .vsra d a b p y => 402653341 + 256 * d.val + 8192 * a.val + 262144 * b.val + 8388608 * p.val + 536870912 * y.toNat
  | .vcmpeq d a b p y => 161 + 256 * d.val + 8192 * a.val + 262144 * b.val + 8388608 * p.val + 536870912 * y.toNat
  | .vcmpne d a b p y => 67109025 + 256 * d.val + 8192 * a.val + 262144 * b.val + 8388608 * p.val + 536870912 * y.toNat
  | .vcmplt d a b p y => 134217889 + 256 * d.val + 8192 * a.val + 262144 * b.val + 8388608 * p.val + 536870912 * y.toNat
  | .vcmple d a b p y => 201326753 + 256 * d.val + 8192 * a.val + 262144 * b.val + 8388608 * p.val + 536870912 * y.toNat
  | .vcmpltu d a b p y => 268435617 + 256 * d.val + 8192 * a.val + 262144 * b.val + 8388608 * p.val + 536870912 * y.toNat
  | .vcmpleu d a b p y => 335544481 + 256 * d.val + 8192 * a.val + 262144 * b.val + 8388608 * p.val + 536870912 * y.toNat
  | .vmv d a p y => 165 + 256 * d.val + 8192 * a.val + 8388608 * p.val + 536870912 * y.toNat
  | .vbcast d a p y => 67109029 + 256 * d.val + 8192 * a.val + 8388608 * p.val + 536870912 * y.toNat
  | .vins d a b y => 134217893 + 256 * d.val + 8192 * a.val + 262144 * b.val + 536870912 * y.toNat
  | .vext d a b y => 201326757 + 256 * d.val + 8192 * a.val + 262144 * b.val + 536870912 * y.toNat
  | .vextu d a b y => 268435621 + 256 * d.val + 8192 * a.val + 262144 * b.val + 536870912 * y.toNat
  | .vrsum d a p y => 169 + 256 * d.val + 8192 * a.val + 8388608 * p.val + 536870912 * y.toNat
  | .vrsumu d a p y => 67109033 + 256 * d.val + 8192 * a.val + 8388608 * p.val + 536870912 * y.toNat
  | .vrmin d a p y => 134217897 + 256 * d.val + 8192 * a.val + 8388608 * p.val + 536870912 * y.toNat
  | .vrmax d a p y => 201326761 + 256 * d.val + 8192 * a.val + 8388608 * p.val + 536870912 * y.toNat
  | .vrminu d a p y => 268435625 + 256 * d.val + 8192 * a.val + 8388608 * p.val + 536870912 * y.toNat
  | .vrmaxu d a p y => 335544489 + 256 * d.val + 8192 * a.val + 8388608 * p.val + 536870912 * y.toNat
  | .vabs d a p y => 173 + 256 * d.val + 8192 * a.val + 8388608 * p.val + 536870912 * y.toNat
  | .vneg d a p y => 67109037 + 256 * d.val + 8192 * a.val + 8388608 * p.val + 536870912 * y.toNat
  | .vclz d a p y => 134217901 + 256 * d.val + 8192 * a.val + 8388608 * p.val + 536870912 * y.toNat
  | .vpopc d a p y => 201326765 + 256 * d.val + 8192 * a.val + 8388608 * p.val + 536870912 * y.toNat
  | .vcvt d a b w x m => 177 + 256 * d.val + 8192 * a.val + 262144 * b.val + 8388608 * w.toNat + 67108864 * x.toNat + 536870912 * m.toNat
  | .vrcp d a p y => 181 + 256 * d.val + 8192 * a.val + 8388608 * p.val + 536870912 * y.toNat
  | .vrsqrt d a p y => 67109045 + 256 * d.val + 8192 * a.val + 8388608 * p.val + 536870912 * y.toNat
  | .vsqrt d a p y => 134217909 + 256 * d.val + 8192 * a.val + 8388608 * p.val + 536870912 * y.toNat
  | .vexp2 d a p y => 201326773 + 256 * d.val + 8192 * a.val + 8388608 * p.val + 536870912 * y.toNat
  | .vlog2 d a p y => 268435637 + 256 * d.val + 8192 * a.val + 8388608 * p.val + 536870912 * y.toNat
  | .vdiv d a b p y => 335544501 + 256 * d.val + 8192 * a.val + 262144 * b.val + 8388608 * p.val + 536870912 * y.toNat
  | .vtie d a b p y => 402653365 + 256 * d.val + 8192 * a.val + 262144 * b.val + 8388608 * p.val + 536870912 * y.toNat
  | .vtload d a b => 469762229 + 256 * d.toNat + 8192 * a.val + 262144 * b.val
  | .vshuf d a b p y => 185 + 256 * d.val + 8192 * a.val + 262144 * b.val + 8388608 * p.val + 536870912 * y.toNat
  | .vsplat d a b p y => 67109049 + 256 * d.val + 8192 * a.val + 262144 * b.val + 8388608 * p.val + 536870912 * y.toNat
  | .vslidedn d a b p y => 134217913 + 256 * d.val + 8192 * a.val + 262144 * b.val + 8388608 * p.val + 536870912 * y.toNat
  | .vslideup d a b p y => 201326777 + 256 * d.val + 8192 * a.val + 262144 * b.val + 8388608 * p.val + 536870912 * y.toNat
  | .plen d a y => 189 + 256 * d.val + 8192 * a.val + 536870912 * y.toNat
  | .pand d a b p => 67109053 + 256 * d.val + 8192 * a.val + 262144 * b.val + 8388608 * p.val
  | .por d a b p => 134217917 + 256 * d.val + 8192 * a.val + 262144 * b.val + 8388608 * p.val
  | .pxor d a b p => 201326781 + 256 * d.val + 8192 * a.val + 262144 * b.val + 8388608 * p.val
  | .pandn d a b p => 268435645 + 256 * d.val + 8192 * a.val + 262144 * b.val + 8388608 * p.val
  | .pget d a => 335544509 + 256 * d.val + 8192 * a.val
  | .pset d a => 402653373 + 256 * d.val + 8192 * a.val
  | .pcnt d a y => 469762237 + 256 * d.val + 8192 * a.val + 536870912 * y.toNat
  | .trap a => 8388801 + 8192 * a.val
  | .codew a b => 33554625 + 8192 * a.val + 262144 * b.val
  | .rtset a b => 41943233 + 8192 * a.val + 262144 * b.val
  | .inbhead d a => 67109057 + 256 * d.val + 8192 * a.val
  | .inbrd d a b => 75497665 + 256 * d.val + 8192 * a.val + 262144 * b.val
  | .inbfree a b => 83886273 + 8192 * a.val + 262144 * b.val
  | .fbstat d a => 134217921 + 256 * d.val + 8192 * a.val
  | .fbread d a b => 142606529 + 256 * d.val + 8192 * a.val + 262144 * b.val
  | .fbclr a b => 150995137 + 8192 * a.val + 262144 * b.val
  | .replayall a => 159383745 + 8192 * a.val
  | .tlbinv a b => 167772353 + 8192 * a.val + 262144 * b.val
  | .sgload a b => 176160961 + 8192 * a.val + 262144 * b.val
  | .keyw a b => 184549569 + 8192 * a.val + 262144 * b.val
  | .preempt a b => 268435649 + 8192 * a.val + 262144 * b.val
  | .ctxrest d a => 276824257 + 256 * d.val + 8192 * a.val
  | .bncset d a b => 285212865 + 256 * d.val + 8192 * a.val + 262144 * b.val
  | .bncclr a => 293601473 + 8192 * a.val
  | .dbgrd d a b => 419430593 + 256 * d.val + 8192 * a.val + 262144 * b.val
  | .dbgwr a b => 427819201 + 8192 * a.val + 262144 * b.val
  | .dbgstep a => 436207809 + 8192 * a.val
  | .opset d a b => 536871105 + 256 * d.val + 8192 * a.val + 262144 * b.val
  | .rowq d a b => 545259713 + 256 * d.val + 8192 * a.val + 262144 * b.val
  | .cMv d a => 4 + 64 * d.val + 2048 * a.val
  | .cAdd d a => 8 + 64 * d.val + 2048 * a.val
  | .cSub d a => 12 + 64 * d.val + 2048 * a.val
  | .cAnd d a => 16 + 64 * d.val + 2048 * a.val
  | .cOr d a => 20 + 64 * d.val + 2048 * a.val
  | .cXor d a => 24 + 64 * d.val + 2048 * a.val
  | .cAddi d i => 28 + 64 * d.val + 2048 * i.toNat
  | .cLi d i => 32 + 64 * d.val + 2048 * i.toNat
  | .cSlli d i => 36 + 64 * d.val + 2048 * i.toNat
  | .cSrli d i => 40 + 64 * d.val + 2048 * i.toNat
  | .cSrai d i => 44 + 64 * d.val + 2048 * i.toNat
  | .cLdl d a => 48 + 64 * d.val + 2048 * a.val
  | .cStl d a => 52 + 64 * d.val + 2048 * a.val
  | .cBnez d i => 56 + 64 * d.val + 2048 * i.toNat
  | .cJreg a => 60 + 2048 * a.val
  | .lexit => 321
  | .unfollow => 1342177349
  | .eret => 193
  | .bkpt => 16777409
  | .halt => 402653377
  | .resume => 411041985
  | .cEndtask => 60
  | .messageAdmission => 0
  | .overflowRoutineStart => 0
  | .dispatch => 0
  | .unboundTrap => 0
  | .rload => 0
  | .rstore => 0
  | .ramo => 0
  | .lreply => 0
  | .nack => 0
  | .marker => 0
  | .slotret => 0
  | .drain => 0
  | .half => 0
  | .trailer => 0
  | .ack => 0
  | .mxcmd => 0
  | .stageMessage => 0
  | .reservedClassDiscard => 0
  | .liveUpdate => 0
  | .joinChildUpdate => 0
  | .joinCloseUpdate => 0
  | .cancelPropagate => 0
  | .dlineExpiry => 0
  | .forcedSave => 0
  | .nearPlacement => 0
  | .nearQueueTake => 0
  | .stealRequest => 0
  | .stealVictimReply => 0
  | .stealBackoffExpiry => 0
  | .followEngage => 0
  | .resultReturn => 0
  | .homeAccess => 0
  | .phaseUpdateAtHome => 0
  | .phwaitResolve => 0
  | .sliceWalk => 0
  | .missPortEntry => 0
  | .xferStart => 0
  | .xferRowCopy => 0
  | .xferCompletion => 0
  | .xferRestart => 0
  | .checkRefetch => 0
  | .hardwareFaultKill => 0
  | .trapEntry => 0
  | .bounceReceive => 0
  | .matrixRequest => 0
  | .aliasTableBuild => 0
  | .matrixRestart => 0
  | .matrixCompletion => 0
  | .tileOwnershipTake => 0
  | .messageArrival => 0
  | .slotReturnResend => 0
  | .retransmitTimeout => 0
  | .nackResend => 0
  | .flowRecordRelease => 0
  | .seraiSlotRelease => 0
  | .roundTick => 0
  | .markerResend => 0
  | .portRelock => 0
  | .reachWrite => 0
  | .rndsetWrite => 0
  | .wavelengthPark => 0
  | .wavelengthWake => 0
  | .wakeDone => 0
  | .mixOperationApply => 0
  | .waybillDeadline => 0
  | .engineNackResend => 0
  | .gqPushArrival => 0
  | .gqPopServe => 0
  | .stageRoundStart => 0
  | .stageFreeEvaluate => 0
  | .stageBubbleTimer => 0
  | .opStep => 0
  | .rowCompaction => 0
  | .thermalMigration => 0
  | .thermalTrip => 0
  | .currentGovernor => 0
  | .ballastDraw => 0
  | .doorbell => 0
  | .doorbellPost => 0
  | .hostRegisterWrite => 0
  | .bar2InboundWrite => 0
  | .jobStart => 0
  | .nodeStart => 0
  | .mappingValidDelivery => 0
  | .ckdesc => 0
  | .protectedWriteCopy => 0
  | .checkpointCompletion => 0
  | .reset => 0
  | .getMeasurements => 0
  | .challenge => 0
  | .keyExchange => 0
  | .readingFallsBelowLimit => 0
  | .partitionTableAccept => 0

/-- Halfwords an instruction occupies: 2 or 1 (R66); 0 for an event, which has no encoding. -/
def width : Instr → Nat
  | .add _ _ _ => 2
  | .sub _ _ _ => 2
  | .and _ _ _ => 2
  | .or _ _ _ => 2
  | .xor _ _ _ => 2
  | .andn _ _ _ => 2
  | .orn _ _ _ => 2
  | .sll _ _ _ => 2
  | .srl _ _ _ => 2
  | .sra _ _ _ => 2
  | .slt _ _ _ => 2
  | .sltu _ _ _ => 2
  | .min _ _ _ => 2
  | .max _ _ _ => 2
  | .minu _ _ _ => 2
  | .maxu _ _ _ => 2
  | .seq _ _ _ => 2
  | .addi _ _ _ => 2
  | .andi _ _ _ => 2
  | .ori _ _ _ => 2
  | .xori _ _ _ => 2
  | .slti _ _ _ => 2
  | .sltiu _ _ _ => 2
  | .slli _ _ _ => 2
  | .srli _ _ _ => 2
  | .srai _ _ _ => 2
  | .li _ _ => 2
  | .lih _ _ _ => 2
  | .mul _ _ _ => 2
  | .mulh _ _ _ => 2
  | .mulhsu _ _ _ => 2
  | .mulhu _ _ _ => 2
  | .div _ _ _ => 2
  | .divu _ _ _ => 2
  | .rem _ _ _ => 2
  | .remu _ _ _ => 2
  | .clz _ _ => 2
  | .ctz _ _ => 2
  | .popc _ _ => 2
  | .bswap _ _ => 2
  | .brev _ _ => 2
  | .rol _ _ _ => 2
  | .ror _ _ _ => 2
  | .rand _ => 2
  | .beq _ _ _ => 2
  | .bne _ _ _ => 2
  | .blt _ _ _ => 2
  | .bge _ _ _ => 2
  | .bltu _ _ _ => 2
  | .bgeu _ _ _ => 2
  | .jmp _ => 2
  | .call _ => 2
  | .jreg _ _ _ => 2
  | .loop _ _ => 2
  | .endtask _ => 2
  | .spawnPath _ _ _ _ => 2
  | .spawnNear _ _ _ _ => 2
  | .spawnSteal _ _ _ _ => 2
  | .join _ _ _ => 2
  | .yieldchk _ => 2
  | .follow _ _ => 2
  | .cancel _ => 2
  | .rtquiet _ _ _ => 2
  | .csrrw _ _ _ => 2
  | .csrrs _ _ _ => 2
  | .csrrc _ _ _ => 2
  | .ld _ _ _ _ => 2
  | .st _ _ _ _ => 2
  | .ldl _ _ _ _ => 2
  | .stl _ _ _ _ => 2
  | .ldc _ _ _ _ => 2
  | .stc _ _ _ _ => 2
  | .ldv _ _ _ _ _ _ => 2
  | .stv _ _ _ _ _ _ => 2
  | .amoswap _ _ _ _ _ => 2
  | .amoadd _ _ _ _ _ => 2
  | .amoand _ _ _ _ _ => 2
  | .amoor _ _ _ _ _ => 2
  | .amoxor _ _ _ _ _ => 2
  | .amomin _ _ _ _ _ => 2
  | .amomax _ _ _ _ _ => 2
  | .amominu _ _ _ _ _ => 2
  | .amomaxu _ _ _ _ _ => 2
  | .amocas _ _ _ _ _ => 2
  | .amofadd _ _ _ _ => 2
  | .amobfpadd _ _ _ => 2
  | .fence _ => 2
  | .phinit _ _ _ => 2
  | .pharr _ _ => 2
  | .phadd _ _ _ => 2
  | .phwait _ _ _ _ => 2
  | .phread _ _ _ _ => 2
  | .taglk _ _ => 2
  | .tagset _ _ _ => 2
  | .taginv _ => 2
  | .tagstat _ _ _ => 2
  | .xfer _ => 2
  | .xfern _ => 2
  | .send _ => 2
  | .sendRel _ => 2
  | .reply _ _ => 2
  | .replyRel _ _ => 2
  | .sendlb _ => 2
  | .gqcreate _ _ => 2
  | .gqpush _ _ _ => 2
  | .gqpop _ _ _ => 2
  | .gqpopDrop _ _ _ => 2
  | .gqstat _ _ _ => 2
  | .mixcfg _ _ => 2
  | .mixjoin _ _ => 2
  | .mixpeer _ _ => 2
  | .mixadd _ _ _ => 2
  | .mixtick _ => 2
  | .mixread _ _ _ => 2
  | .mixstat _ _ _ => 2
  | .mixleave _ => 2
  | .mixhold _ _ => 2
  | .mfmt _ _ => 2
  | .mma _ => 2
  | .mmas _ => 2
  | .mwait _ _ => 2
  | .mar _ _ => 2
  | .maw _ _ => 2
  | .mstat _ => 2
  | .msrec _ => 2
  | .mtout _ => 2
  | .mrem _ _ => 2
  | .mkey _ _ => 2
  | .mcap _ _ => 2
  | .mnorm _ => 2
  | .mxs _ _ => 2
  | .mxsrd _ _ => 2
  | .stgcfg _ _ => 2
  | .stgdone _ => 2
  | .stgtmpl _ _ => 2
  | .stgsrec _ => 2
  | .stgstat _ _ => 2
  | .vadd _ _ _ _ _ => 2
  | .vsub _ _ _ _ _ => 2
  | .vmul _ _ _ _ _ => 2
  | .vmin _ _ _ _ _ => 2
  | .vmax _ _ _ _ _ => 2
  | .vminu _ _ _ _ _ => 2
  | .vmaxu _ _ _ _ _ => 2
  | .vfma _ _ _ _ _ => 2
  | .vfms _ _ _ _ _ => 2
  | .vfnma _ _ _ _ _ => 2
  | .vfnms _ _ _ _ _ => 2
  | .vdot _ _ _ _ _ => 2
  | .vdotu _ _ _ _ _ => 2
  | .vadds _ _ _ _ _ => 2
  | .vaddsu _ _ _ _ _ => 2
  | .vsubs _ _ _ _ _ => 2
  | .vsubsu _ _ _ _ _ => 2
  | .vnegs _ _ _ _ => 2
  | .vand _ _ _ _ _ => 2
  | .vor _ _ _ _ _ => 2
  | .vxor _ _ _ _ _ => 2
  | .vandn _ _ _ _ _ => 2
  | .vsll _ _ _ _ _ => 2
  | .vsrl _ _ _ _ _ => 2
  | .vsra _ _ _ _ _ => 2
  | .vcmpeq _ _ _ _ _ => 2
  | .vcmpne _ _ _ _ _ => 2
  | .vcmplt _ _ _ _ _ => 2
  | .vcmple _ _ _ _ _ => 2
  | .vcmpltu _ _ _ _ _ => 2
  | .vcmpleu _ _ _ _ _ => 2
  | .vmv _ _ _ _ => 2
  | .vbcast _ _ _ _ => 2
  | .vins _ _ _ _ => 2
  | .vext _ _ _ _ => 2
  | .vextu _ _ _ _ => 2
  | .vrsum _ _ _ _ => 2
  | .vrsumu _ _ _ _ => 2
  | .vrmin _ _ _ _ => 2
  | .vrmax _ _ _ _ => 2
  | .vrminu _ _ _ _ => 2
  | .vrmaxu _ _ _ _ => 2
  | .vabs _ _ _ _ => 2
  | .vneg _ _ _ _ => 2
  | .vclz _ _ _ _ => 2
  | .vpopc _ _ _ _ => 2
  | .vcvt _ _ _ _ _ _ => 2
  | .vrcp _ _ _ _ => 2
  | .vrsqrt _ _ _ _ => 2
  | .vsqrt _ _ _ _ => 2
  | .vexp2 _ _ _ _ => 2
  | .vlog2 _ _ _ _ => 2
  | .vdiv _ _ _ _ _ => 2
  | .vtie _ _ _ _ _ => 2
  | .vtload _ _ _ => 2
  | .vshuf _ _ _ _ _ => 2
  | .vsplat _ _ _ _ _ => 2
  | .vslidedn _ _ _ _ _ => 2
  | .vslideup _ _ _ _ _ => 2
  | .plen _ _ _ => 2
  | .pand _ _ _ _ => 2
  | .por _ _ _ _ => 2
  | .pxor _ _ _ _ => 2
  | .pandn _ _ _ _ => 2
  | .pget _ _ => 2
  | .pset _ _ => 2
  | .pcnt _ _ _ => 2
  | .trap _ => 2
  | .codew _ _ => 2
  | .rtset _ _ => 2
  | .inbhead _ _ => 2
  | .inbrd _ _ _ => 2
  | .inbfree _ _ => 2
  | .fbstat _ _ => 2
  | .fbread _ _ _ => 2
  | .fbclr _ _ => 2
  | .replayall _ => 2
  | .tlbinv _ _ => 2
  | .sgload _ _ => 2
  | .keyw _ _ => 2
  | .preempt _ _ => 2
  | .ctxrest _ _ => 2
  | .bncset _ _ _ => 2
  | .bncclr _ => 2
  | .dbgrd _ _ _ => 2
  | .dbgwr _ _ => 2
  | .dbgstep _ => 2
  | .opset _ _ _ => 2
  | .rowq _ _ _ => 2
  | .cMv _ _ => 1
  | .cAdd _ _ => 1
  | .cSub _ _ => 1
  | .cAnd _ _ => 1
  | .cOr _ _ => 1
  | .cXor _ _ => 1
  | .cAddi _ _ => 1
  | .cLi _ _ => 1
  | .cSlli _ _ => 1
  | .cSrli _ _ => 1
  | .cSrai _ _ => 1
  | .cLdl _ _ => 1
  | .cStl _ _ => 1
  | .cBnez _ _ => 1
  | .cJreg _ => 1
  | .lexit => 2
  | .unfollow => 2
  | .eret => 2
  | .bkpt => 2
  | .halt => 2
  | .resume => 2
  | .cEndtask => 1
  | .messageAdmission => 0
  | .overflowRoutineStart => 0
  | .dispatch => 0
  | .unboundTrap => 0
  | .rload => 0
  | .rstore => 0
  | .ramo => 0
  | .lreply => 0
  | .nack => 0
  | .marker => 0
  | .slotret => 0
  | .drain => 0
  | .half => 0
  | .trailer => 0
  | .ack => 0
  | .mxcmd => 0
  | .stageMessage => 0
  | .reservedClassDiscard => 0
  | .liveUpdate => 0
  | .joinChildUpdate => 0
  | .joinCloseUpdate => 0
  | .cancelPropagate => 0
  | .dlineExpiry => 0
  | .forcedSave => 0
  | .nearPlacement => 0
  | .nearQueueTake => 0
  | .stealRequest => 0
  | .stealVictimReply => 0
  | .stealBackoffExpiry => 0
  | .followEngage => 0
  | .resultReturn => 0
  | .homeAccess => 0
  | .phaseUpdateAtHome => 0
  | .phwaitResolve => 0
  | .sliceWalk => 0
  | .missPortEntry => 0
  | .xferStart => 0
  | .xferRowCopy => 0
  | .xferCompletion => 0
  | .xferRestart => 0
  | .checkRefetch => 0
  | .hardwareFaultKill => 0
  | .trapEntry => 0
  | .bounceReceive => 0
  | .matrixRequest => 0
  | .aliasTableBuild => 0
  | .matrixRestart => 0
  | .matrixCompletion => 0
  | .tileOwnershipTake => 0
  | .messageArrival => 0
  | .slotReturnResend => 0
  | .retransmitTimeout => 0
  | .nackResend => 0
  | .flowRecordRelease => 0
  | .seraiSlotRelease => 0
  | .roundTick => 0
  | .markerResend => 0
  | .portRelock => 0
  | .reachWrite => 0
  | .rndsetWrite => 0
  | .wavelengthPark => 0
  | .wavelengthWake => 0
  | .wakeDone => 0
  | .mixOperationApply => 0
  | .waybillDeadline => 0
  | .engineNackResend => 0
  | .gqPushArrival => 0
  | .gqPopServe => 0
  | .stageRoundStart => 0
  | .stageFreeEvaluate => 0
  | .stageBubbleTimer => 0
  | .opStep => 0
  | .rowCompaction => 0
  | .thermalMigration => 0
  | .thermalTrip => 0
  | .currentGovernor => 0
  | .ballastDraw => 0
  | .doorbell => 0
  | .doorbellPost => 0
  | .hostRegisterWrite => 0
  | .bar2InboundWrite => 0
  | .jobStart => 0
  | .nodeStart => 0
  | .mappingValidDelivery => 0
  | .ckdesc => 0
  | .protectedWriteCopy => 0
  | .checkpointCompletion => 0
  | .reset => 0
  | .getMeasurements => 0
  | .challenge => 0
  | .keyExchange => 0
  | .readingFallsBelowLimit => 0
  | .partitionTableAccept => 0

/-- The instruction value with its switch marker in bit 1 (R66). -/
def value (i : Instr) (sw : Bool) : Nat := valueS0 i + 2 * sw.toNat

/-- The little-endian bytes of an instruction (R66): four, two, or none for an event. -/
def encode (i : Instr) (sw : Bool) : List Byte :=
  (List.range (2 * width i)).map fun k => BitVec.ofNat 8 (value i sw / 256 ^ k)


/-- The host's reader: the instruction the decoder reads from the `nbits` bits `w`, laid out as the
hardware stores them, every later bit 0. -/
def decodeTableWord (nbits w : Nat) : Option Instr :=
  let w := w % 2 ^ nbits
  match decode ((List.range 4).map fun k => BitVec.ofNat 8 (w / 256 ^ k)) with
  | .ok (i, _, _) => some i
  | .error _ => none

/-- CSR numbers this part assigns (R64, R247, R319, R398, R404). -/
def csrExists (k : BitVec 10) : Bool :=
  let n := k.toNat
  n ≤ 0x009 || (0x010 ≤ n && n ≤ 0x013) || (0x018 ≤ n && n ≤ 0x020) || n == 0x028 || n == 0x029
  || n == 0x030 || n == 0x031 || (0x040 ≤ n && n ≤ 0x043) || (0x048 ≤ n && n ≤ 0x04D)
  || (0x060 ≤ n && n ≤ 0x067) || (0x070 ≤ n && n ≤ 0x077) || (0x100 ≤ n && n ≤ 0x103)
  || n == 0x200 || n == 0x201 || (0x204 ≤ n && n ≤ 0x209) || n == 0x210
  || (0x240 ≤ n && n ≤ 0x26F) || (0x280 ≤ n && n ≤ 0x282) || (0x2C0 ≤ n && n ≤ 0x2C7)
  || n == 0x2D0 || n == 0x2D1 || n == 0x2E0 || n == 0x2E1

/-- CSR numbers that are not marked RO (R64, R121). -/
def csrWritable (k : BitVec 10) : Bool :=
  let n := k.toNat
  (0x010 ≤ n && n ≤ 0x013) || (0x018 ≤ n && n ≤ 0x020) || (0x065 ≤ n && n ≤ 0x067)
  || (0x100 ≤ n && n ≤ 0x103) || n == 0x200 || n == 0x201 || (0x204 ≤ n && n ≤ 0x209) || n == 0x210
  || (0x240 ≤ n && n ≤ 0x26F) || n == 0x2C0 || (0x2C3 ≤ n && n ≤ 0x2C6) || n == 0x2D0 || n == 0x2E0

/-- Registers of one kind of cell: depot-only 0x060-0x067, system cores 0x210 and the module's own (R64, R247). -/
def csrOn (c : CellKind) (k : BitVec 10) : Bool :=
  let n := k.toNat
  if 0x060 ≤ n && n ≤ 0x067 then c == .depot
  else if n == 0x210 || (0x240 ≤ n && n ≤ 0x26F) || 0x2C0 ≤ n then c == .system
  else true

/-- Bytes of one element of a type, taken as 1 for bx8 and bx4 (R71, R226). -/
def elemBytes (y : BitVec 3) : Nat :=
  match y.toNat with
  | 0 => 1 | 1 => 2 | 2 => 4 | 3 => 2 | 4 => 2 | 5 => 4 | _ => 1

/-- Elements of a 128-bit register (R148). -/
def lanes (y : BitVec 3) : Nat := 16 / elemBytes y

/-- bf16, f16 and f32 (R71). -/
def isFloatTy (y : BitVec 3) : Bool := 3 ≤ y.toNat && y.toNat ≤ 5

/-- A register field that names a predicate register to read (R70). -/
def predSrc (r : Reg) : Bool := r.val < 8
/-- A register field that names a predicate register to write: p1-p7 (R70). -/
def predDest (r : Reg) : Bool := 1 ≤ r.val && r.val < 8

/-- LOOP reaches from 3 to 8,191 halfwords ahead (R102). -/
def loopOk (i : BitVec 14) : Bool := 3 ≤ i.toNat && i.toNat ≤ 8191

/-- Bits of one element of a type: bx8 8, bx4 4 (R168). -/
def elemBits (y : BitVec 3) : Nat := if y.toNat = 7 then 4 else 8 * elemBytes y

/-- Elements one VCVT converts: 32 when a side is bx, else 128 / the smaller width (R168). -/
def cvtCount (x w : BitVec 3) : Nat :=
  if 6 ≤ x.toNat || 6 ≤ w.toNat then 32 else 128 / min (elemBits x) (elemBits w)

/-- Registers of one side of a VCVT (R168). -/
def cvtGroup (n : Nat) (y : BitVec 3) : Nat := n * elemBits y / 128

/-- The VCVT encodings R167 and R168 accept: mode, pair, the B field and the two groups.
`x` is the source type, `w` the destination type. -/
def cvtOk (m x w : BitVec 3) (b a d : Reg) : Bool :=
  let n := cvtCount x w
  let ok :=
    if x.toNat < 3 && w.toNat < 3 then
      b.val < 4 && m.toNat == 0 && (x != w || b.val % 2 != b.val / 2 % 2)
    else if x.toNat < 3 && isFloatTy w then b.val < 2
    else if isFloatTy x && w.toNat < 3 then b.val == 0 || b.val == 2
    else if isFloatTy x && isFloatTy w then x != w && b.val == 0
    else (isFloatTy x && 6 ≤ w.toNat) || (6 ≤ x.toNat && isFloatTy w)
  ok && m.toNat != 5 && m.toNat != 6 && a.val % cvtGroup n x == 0 && d.val % cvtGroup n w == 0


/-- The operand values of an instruction that its encoding may hold (R70-R72, R80): every field the
decoder's fixed bits leave open.  An event has none. -/
def legal : Instr → Bool
  | .add _ _ _ => true
  | .sub _ _ _ => true
  | .and _ _ _ => true
  | .or _ _ _ => true
  | .xor _ _ _ => true
  | .andn _ _ _ => true
  | .orn _ _ _ => true
  | .sll _ _ _ => true
  | .srl _ _ _ => true
  | .sra _ _ _ => true
  | .slt _ _ _ => true
  | .sltu _ _ _ => true
  | .min _ _ _ => true
  | .max _ _ _ => true
  | .minu _ _ _ => true
  | .maxu _ _ _ => true
  | .seq _ _ _ => true
  | .addi _ _ _ => true
  | .andi _ _ _ => true
  | .ori _ _ _ => true
  | .xori _ _ _ => true
  | .slti _ _ _ => true
  | .sltiu _ _ _ => true
  | .slli _ _ _ => true
  | .srli _ _ _ => true
  | .srai _ _ _ => true
  | .li _ _ => true
  | .lih _ _ _ => true
  | .mul _ _ _ => true
  | .mulh _ _ _ => true
  | .mulhsu _ _ _ => true
  | .mulhu _ _ _ => true
  | .div _ _ _ => true
  | .divu _ _ _ => true
  | .rem _ _ _ => true
  | .remu _ _ _ => true
  | .clz _ _ => true
  | .ctz _ _ => true
  | .popc _ _ => true
  | .bswap _ _ => true
  | .brev _ _ => true
  | .rol _ _ _ => true
  | .ror _ _ _ => true
  | .rand _ => true
  | .beq _ _ _ => true
  | .bne _ _ _ => true
  | .blt _ _ _ => true
  | .bge _ _ _ => true
  | .bltu _ _ _ => true
  | .bgeu _ _ _ => true
  | .jmp _ => true
  | .call _ => true
  | .jreg _ _ _ => true
  | .loop _ i => loopOk i
  | .endtask _ => true
  | .spawnPath _ _ _ _ => true
  | .spawnNear _ _ _ _ => true
  | .spawnSteal _ _ _ _ => true
  | .join _ _ _ => true
  | .yieldchk _ => true
  | .follow _ _ => true
  | .cancel _ => true
  | .rtquiet _ _ _ => true
  | .csrrw _ _ k => csrExists k && csrWritable k
  | .csrrs _ a k => csrExists k && (a == 0 || csrWritable k)
  | .csrrc _ a k => csrExists k && (a == 0 || csrWritable k)
  | .ld _ _ z _ => z.toNat < 7
  | .st _ _ z _ => z.toNat % 2 == 0
  | .ldl _ _ z _ => z.toNat < 7
  | .stl _ _ z _ => z.toNat % 2 == 0
  | .ldc _ _ z _ => z.toNat < 7
  | .stc _ _ z _ => z.toNat % 2 == 0
  | .ldv _ _ _ _ n _ => n.toNat < 3
  | .stv _ _ _ _ n _ => n.toNat < 3
  | .amoswap _ _ _ _ u => u.toNat < 3
  | .amoadd _ _ _ _ u => u.toNat < 3
  | .amoand _ _ _ _ u => u.toNat < 3
  | .amoor _ _ _ _ u => u.toNat < 3
  | .amoxor _ _ _ _ u => u.toNat < 3
  | .amomin _ _ _ _ u => u.toNat < 3
  | .amomax _ _ _ _ u => u.toNat < 3
  | .amominu _ _ _ _ u => u.toNat < 3
  | .amomaxu _ _ _ _ u => u.toNat < 3
  | .amocas _ _ _ _ u => u.toNat < 3
  | .amofadd _ _ _ u => u.toNat < 3
  | .amobfpadd _ _ _ => true
  | .fence t => t.toNat < 3
  | .phinit _ _ t => t.toNat < 3
  | .pharr _ t => t.toNat < 3
  | .phadd _ _ t => t.toNat < 3
  | .phwait _ _ _ t => t.toNat < 3
  | .phread _ _ b t => t.toNat < 3 && b.val < 2
  | .taglk _ _ => true
  | .tagset _ _ _ => true
  | .taginv _ => true
  | .tagstat _ _ b => b.val < 2
  | .xfer _ => true
  | .xfern _ => true
  | .send _ => true
  | .sendRel _ => true
  | .reply _ _ => true
  | .replyRel _ _ => true
  | .sendlb a => a.val % 4 == 0
  | .gqcreate _ _ => true
  | .gqpush _ _ _ => true
  | .gqpop _ _ _ => true
  | .gqpopDrop _ _ _ => true
  | .gqstat _ _ _ => true
  | .mixcfg _ _ => true
  | .mixjoin _ _ => true
  | .mixpeer _ _ => true
  | .mixadd _ _ _ => true
  | .mixtick _ => true
  | .mixread _ _ _ => true
  | .mixstat _ _ _ => true
  | .mixleave _ => true
  | .mixhold _ _ => true
  | .mfmt _ _ => true
  | .mma _ => true
  | .mmas _ => true
  | .mwait _ _ => true
  | .mar _ _ => true
  | .maw _ _ => true
  | .mstat _ => true
  | .msrec _ => true
  | .mtout _ => true
  | .mrem _ t => t.toNat < 6
  | .mkey _ _ => true
  | .mcap _ _ => true
  | .mnorm _ => true
  | .mxs _ _ => true
  | .mxsrd _ _ => true
  | .stgcfg _ _ => true
  | .stgdone _ => true
  | .stgtmpl _ _ => true
  | .stgsrec _ => true
  | .stgstat _ _ => true
  | .vadd _ _ _ _ y => y.toNat < 6
  | .vsub _ _ _ _ y => y.toNat < 6
  | .vmul _ _ _ _ y => y.toNat < 6
  | .vmin _ _ _ _ y => y.toNat < 6
  | .vmax _ _ _ _ y => y.toNat < 6
  | .vminu _ _ _ _ y => y.toNat < 3
  | .vmaxu _ _ _ _ y => y.toNat < 3
  | .vfma _ _ _ _ y => y.toNat < 6
  | .vfms _ _ _ _ y => y.toNat < 6
  | .vfnma _ _ _ _ y => y.toNat < 6
  | .vfnms _ _ _ _ y => y.toNat < 6
  | .vdot _ _ _ _ y => y.toNat < 2 || y.toNat == 3 || y.toNat == 4
  | .vdotu _ _ _ _ y => y.toNat < 2
  | .vadds _ _ _ _ y => y.toNat < 3
  | .vaddsu _ _ _ _ y => y.toNat < 3
  | .vsubs _ _ _ _ y => y.toNat < 3
  | .vsubsu _ _ _ _ y => y.toNat < 3
  | .vnegs _ _ _ y => y.toNat < 3
  | .vand _ _ _ _ y => y.toNat < 3
  | .vor _ _ _ _ y => y.toNat < 3
  | .vxor _ _ _ _ y => y.toNat < 3
  | .vandn _ _ _ _ y => y.toNat < 3
  | .vsll _ _ _ _ y => y.toNat < 3
  | .vsrl _ _ _ _ y => y.toNat < 3
  | .vsra _ _ _ _ y => y.toNat < 3
  | .vcmpeq d _ _ _ y => y.toNat < 6 && predDest d
  | .vcmpne d _ _ _ y => y.toNat < 6 && predDest d
  | .vcmplt d _ _ _ y => y.toNat < 6 && predDest d
  | .vcmple d _ _ _ y => y.toNat < 6 && predDest d
  | .vcmpltu d _ _ _ y => y.toNat < 3 && predDest d
  | .vcmpleu d _ _ _ y => y.toNat < 3 && predDest d
  | .vmv _ _ _ y => y.toNat < 6
  | .vbcast _ _ _ y => y.toNat < 6
  | .vins _ _ b y => y.toNat < 6 && b.val < lanes y
  | .vext _ _ b y => y.toNat < 3 && b.val < lanes y
  | .vextu _ _ b y => y.toNat < 6 && b.val < lanes y
  | .vrsum _ _ _ y => y.toNat < 6
  | .vrsumu _ _ _ y => y.toNat < 3
  | .vrmin _ _ _ y => y.toNat < 6
  | .vrmax _ _ _ y => y.toNat < 6
  | .vrminu _ _ _ y => y.toNat < 3
  | .vrmaxu _ _ _ y => y.toNat < 3
  | .vabs _ _ _ y => y.toNat < 6
  | .vneg _ _ _ y => y.toNat < 6
  | .vclz _ _ _ y => y.toNat < 3
  | .vpopc _ _ _ y => y.toNat < 3
  | .vcvt d a b w x m => cvtOk m x w b a d
  | .vrcp _ _ _ y => isFloatTy y
  | .vrsqrt _ _ _ y => isFloatTy y
  | .vsqrt _ _ _ y => isFloatTy y
  | .vexp2 _ _ _ y => isFloatTy y
  | .vlog2 _ _ _ y => isFloatTy y
  | .vdiv _ _ _ _ y => isFloatTy y
  | .vtie _ _ b _ y => isFloatTy y && b.val < 2
  | .vtload _ _ _ => true
  | .vshuf _ _ _ _ y => y.toNat < 6
  | .vsplat _ _ b _ y => y.toNat < 6 && b.val < lanes y
  | .vslidedn _ _ b _ y => y.toNat < 6 && b.val < lanes y
  | .vslideup _ _ b _ y => y.toNat < 6 && b.val < lanes y
  | .plen d _ y => y.toNat < 6 && predDest d
  | .pand d a b _ => predDest d && predSrc a && predSrc b
  | .por d a b _ => predDest d && predSrc a && predSrc b
  | .pxor d a b _ => predDest d && predSrc a && predSrc b
  | .pandn d a b _ => predDest d && predSrc a && predSrc b
  | .pget _ a => predSrc a
  | .pset d _ => predDest d
  | .pcnt _ a y => y.toNat < 6 && predSrc a
  | .trap _ => true
  | .codew _ _ => true
  | .rtset _ _ => true
  | .inbhead _ _ => true
  | .inbrd _ _ _ => true
  | .inbfree _ _ => true
  | .fbstat _ _ => true
  | .fbread _ _ _ => true
  | .fbclr _ _ => true
  | .replayall _ => true
  | .tlbinv _ _ => true
  | .sgload _ _ => true
  | .keyw _ _ => true
  | .preempt _ _ => true
  | .ctxrest _ _ => true
  | .bncset _ _ _ => true
  | .bncclr _ => true
  | .dbgrd _ _ _ => true
  | .dbgwr _ _ => true
  | .dbgstep _ => true
  | .opset _ _ _ => true
  | .rowq _ _ _ => true
  | .cMv _ _ => true
  | .cAdd _ _ => true
  | .cSub _ _ => true
  | .cAnd _ _ => true
  | .cOr _ _ => true
  | .cXor _ _ => true
  | .cAddi _ _ => true
  | .cLi _ _ => true
  | .cSlli _ _ => true
  | .cSrli _ _ => true
  | .cSrai _ _ => true
  | .cLdl _ _ => true
  | .cStl _ _ => true
  | .cBnez _ _ => true
  | .cJreg a => a != 0
  | .lexit => true
  | .unfollow => true
  | .eret => true
  | .bkpt => true
  | .halt => true
  | .resume => true
  | .cEndtask => true
  | .messageAdmission => true
  | .overflowRoutineStart => true
  | .dispatch => true
  | .unboundTrap => true
  | .rload => true
  | .rstore => true
  | .ramo => true
  | .lreply => true
  | .nack => true
  | .marker => true
  | .slotret => true
  | .drain => true
  | .half => true
  | .trailer => true
  | .ack => true
  | .mxcmd => true
  | .stageMessage => true
  | .reservedClassDiscard => true
  | .liveUpdate => true
  | .joinChildUpdate => true
  | .joinCloseUpdate => true
  | .cancelPropagate => true
  | .dlineExpiry => true
  | .forcedSave => true
  | .nearPlacement => true
  | .nearQueueTake => true
  | .stealRequest => true
  | .stealVictimReply => true
  | .stealBackoffExpiry => true
  | .followEngage => true
  | .resultReturn => true
  | .homeAccess => true
  | .phaseUpdateAtHome => true
  | .phwaitResolve => true
  | .sliceWalk => true
  | .missPortEntry => true
  | .xferStart => true
  | .xferRowCopy => true
  | .xferCompletion => true
  | .xferRestart => true
  | .checkRefetch => true
  | .hardwareFaultKill => true
  | .trapEntry => true
  | .bounceReceive => true
  | .matrixRequest => true
  | .aliasTableBuild => true
  | .matrixRestart => true
  | .matrixCompletion => true
  | .tileOwnershipTake => true
  | .messageArrival => true
  | .slotReturnResend => true
  | .retransmitTimeout => true
  | .nackResend => true
  | .flowRecordRelease => true
  | .seraiSlotRelease => true
  | .roundTick => true
  | .markerResend => true
  | .portRelock => true
  | .reachWrite => true
  | .rndsetWrite => true
  | .wavelengthPark => true
  | .wavelengthWake => true
  | .wakeDone => true
  | .mixOperationApply => true
  | .waybillDeadline => true
  | .engineNackResend => true
  | .gqPushArrival => true
  | .gqPopServe => true
  | .stageRoundStart => true
  | .stageFreeEvaluate => true
  | .stageBubbleTimer => true
  | .opStep => true
  | .rowCompaction => true
  | .thermalMigration => true
  | .thermalTrip => true
  | .currentGovernor => true
  | .ballastDraw => true
  | .doorbell => true
  | .doorbellPost => true
  | .hostRegisterWrite => true
  | .bar2InboundWrite => true
  | .jobStart => true
  | .nodeStart => true
  | .mappingValidDelivery => true
  | .ckdesc => true
  | .protectedWriteCopy => true
  | .checkpointCompletion => true
  | .reset => true
  | .getMeasurements => true
  | .challenge => true
  | .keyExchange => true
  | .readingFallsBelowLimit => true
  | .partitionTableAccept => true

/-- The kinds of cell an instruction is assigned to (R80, R108, R258, R284, R346). -/
def allowedOn (k : CellKind) : Instr → Bool
  | .add _ _ _ => true
  | .sub _ _ _ => true
  | .and _ _ _ => true
  | .or _ _ _ => true
  | .xor _ _ _ => true
  | .andn _ _ _ => true
  | .orn _ _ _ => true
  | .sll _ _ _ => true
  | .srl _ _ _ => true
  | .sra _ _ _ => true
  | .slt _ _ _ => true
  | .sltu _ _ _ => true
  | .min _ _ _ => true
  | .max _ _ _ => true
  | .minu _ _ _ => true
  | .maxu _ _ _ => true
  | .seq _ _ _ => true
  | .addi _ _ _ => true
  | .andi _ _ _ => true
  | .ori _ _ _ => true
  | .xori _ _ _ => true
  | .slti _ _ _ => true
  | .sltiu _ _ _ => true
  | .slli _ _ _ => true
  | .srli _ _ _ => true
  | .srai _ _ _ => true
  | .li _ _ => true
  | .lih _ _ _ => true
  | .mul _ _ _ => true
  | .mulh _ _ _ => true
  | .mulhsu _ _ _ => true
  | .mulhu _ _ _ => true
  | .div _ _ _ => true
  | .divu _ _ _ => true
  | .rem _ _ _ => true
  | .remu _ _ _ => true
  | .clz _ _ => true
  | .ctz _ _ => true
  | .popc _ _ => true
  | .bswap _ _ => true
  | .brev _ _ => true
  | .rol _ _ _ => true
  | .ror _ _ _ => true
  | .rand _ => true
  | .beq _ _ _ => true
  | .bne _ _ _ => true
  | .blt _ _ _ => true
  | .bge _ _ _ => true
  | .bltu _ _ _ => true
  | .bgeu _ _ _ => true
  | .jmp _ => true
  | .call _ => true
  | .jreg _ _ _ => true
  | .loop _ _ => true
  | .endtask _ => true
  | .spawnPath _ _ _ _ => true
  | .spawnNear _ _ _ _ => true
  | .spawnSteal _ _ _ _ => true
  | .join _ _ _ => true
  | .yieldchk _ => true
  | .follow _ _ => k == .compute
  | .cancel _ => true
  | .rtquiet _ _ _ => true
  | .csrrw _ _ n => csrOn k n
  | .csrrs _ _ n => csrOn k n
  | .csrrc _ _ n => csrOn k n
  | .ld _ _ _ _ => true
  | .st _ _ _ _ => true
  | .ldl _ _ _ _ => true
  | .stl _ _ _ _ => true
  | .ldc _ _ _ _ => true
  | .stc _ _ _ _ => true
  | .ldv _ _ _ _ _ _ => true
  | .stv _ _ _ _ _ _ => true
  | .amoswap _ _ _ _ _ => true
  | .amoadd _ _ _ _ _ => true
  | .amoand _ _ _ _ _ => true
  | .amoor _ _ _ _ _ => true
  | .amoxor _ _ _ _ _ => true
  | .amomin _ _ _ _ _ => true
  | .amomax _ _ _ _ _ => true
  | .amominu _ _ _ _ _ => true
  | .amomaxu _ _ _ _ _ => true
  | .amocas _ _ _ _ _ => true
  | .amofadd _ _ _ _ => true
  | .amobfpadd _ _ _ => true
  | .fence _ => true
  | .phinit _ _ _ => true
  | .pharr _ _ => true
  | .phadd _ _ _ => true
  | .phwait _ _ _ _ => true
  | .phread _ _ _ _ => true
  | .taglk _ _ => true
  | .tagset _ _ _ => true
  | .taginv _ => true
  | .tagstat _ _ _ => true
  | .xfer _ => true
  | .xfern _ => true
  | .send _ => true
  | .sendRel _ => true
  | .reply _ _ => true
  | .replyRel _ _ => true
  | .sendlb _ => true
  | .gqcreate _ _ => k == .depot
  | .gqpush _ _ _ => true
  | .gqpop _ _ _ => k == .depot
  | .gqpopDrop _ _ _ => k == .depot
  | .gqstat _ _ _ => true
  | .mixcfg _ _ => k == .depot
  | .mixjoin _ _ => k == .depot
  | .mixpeer _ _ => k == .depot
  | .mixadd _ _ _ => k == .depot
  | .mixtick _ => k == .depot
  | .mixread _ _ _ => k == .depot
  | .mixstat _ _ _ => k == .depot
  | .mixleave _ => k == .depot
  | .mixhold _ _ => k == .depot
  | .mfmt _ _ => k == .compute
  | .mma _ => k == .compute
  | .mmas _ => k == .compute
  | .mwait _ _ => k == .compute
  | .mar _ _ => k == .compute
  | .maw _ _ => k == .compute
  | .mstat _ => k == .compute
  | .msrec _ => k == .compute
  | .mtout _ => k == .compute
  | .mrem _ _ => true
  | .mkey _ _ => k == .system
  | .mcap _ _ => k == .system
  | .mnorm _ => k == .compute
  | .mxs _ _ => k == .compute
  | .mxsrd _ _ => k == .compute
  | .stgcfg _ _ => true
  | .stgdone _ => true
  | .stgtmpl _ _ => true
  | .stgsrec _ => true
  | .stgstat _ _ => true
  | .vadd _ _ _ _ _ => true
  | .vsub _ _ _ _ _ => true
  | .vmul _ _ _ _ _ => true
  | .vmin _ _ _ _ _ => true
  | .vmax _ _ _ _ _ => true
  | .vminu _ _ _ _ _ => true
  | .vmaxu _ _ _ _ _ => true
  | .vfma _ _ _ _ _ => true
  | .vfms _ _ _ _ _ => true
  | .vfnma _ _ _ _ _ => true
  | .vfnms _ _ _ _ _ => true
  | .vdot _ _ _ _ _ => true
  | .vdotu _ _ _ _ _ => true
  | .vadds _ _ _ _ _ => true
  | .vaddsu _ _ _ _ _ => true
  | .vsubs _ _ _ _ _ => true
  | .vsubsu _ _ _ _ _ => true
  | .vnegs _ _ _ _ => true
  | .vand _ _ _ _ _ => true
  | .vor _ _ _ _ _ => true
  | .vxor _ _ _ _ _ => true
  | .vandn _ _ _ _ _ => true
  | .vsll _ _ _ _ _ => true
  | .vsrl _ _ _ _ _ => true
  | .vsra _ _ _ _ _ => true
  | .vcmpeq _ _ _ _ _ => true
  | .vcmpne _ _ _ _ _ => true
  | .vcmplt _ _ _ _ _ => true
  | .vcmple _ _ _ _ _ => true
  | .vcmpltu _ _ _ _ _ => true
  | .vcmpleu _ _ _ _ _ => true
  | .vmv _ _ _ _ => true
  | .vbcast _ _ _ _ => true
  | .vins _ _ _ _ => true
  | .vext _ _ _ _ => true
  | .vextu _ _ _ _ => true
  | .vrsum _ _ _ _ => true
  | .vrsumu _ _ _ _ => true
  | .vrmin _ _ _ _ => true
  | .vrmax _ _ _ _ => true
  | .vrminu _ _ _ _ => true
  | .vrmaxu _ _ _ _ => true
  | .vabs _ _ _ _ => true
  | .vneg _ _ _ _ => true
  | .vclz _ _ _ _ => true
  | .vpopc _ _ _ _ => true
  | .vcvt _ _ _ _ _ _ => true
  | .vrcp _ _ _ _ => true
  | .vrsqrt _ _ _ _ => true
  | .vsqrt _ _ _ _ => true
  | .vexp2 _ _ _ _ => true
  | .vlog2 _ _ _ _ => true
  | .vdiv _ _ _ _ _ => true
  | .vtie _ _ _ _ _ => true
  | .vtload _ _ _ => true
  | .vshuf _ _ _ _ _ => true
  | .vsplat _ _ _ _ _ => true
  | .vslidedn _ _ _ _ _ => true
  | .vslideup _ _ _ _ _ => true
  | .plen _ _ _ => true
  | .pand _ _ _ _ => true
  | .por _ _ _ _ => true
  | .pxor _ _ _ _ => true
  | .pandn _ _ _ _ => true
  | .pget _ _ => true
  | .pset _ _ => true
  | .pcnt _ _ _ => true
  | .trap _ => true
  | .codew _ _ => true
  | .rtset _ _ => true
  | .inbhead _ _ => true
  | .inbrd _ _ _ => true
  | .inbfree _ _ => true
  | .fbstat _ _ => k == .system
  | .fbread _ _ _ => k == .system
  | .fbclr _ _ => k == .system
  | .replayall _ => k == .system
  | .tlbinv _ _ => k == .system
  | .sgload _ _ => k == .system
  | .keyw _ _ => k == .system
  | .preempt _ _ => k == .system
  | .ctxrest _ _ => k == .system
  | .bncset _ _ _ => k == .system
  | .bncclr _ => k == .system
  | .dbgrd _ _ _ => k == .system
  | .dbgwr _ _ => k == .system
  | .dbgstep _ => k == .system
  | .opset _ _ _ => k == .system
  | .rowq _ _ _ => k == .system
  | .cMv _ _ => true
  | .cAdd _ _ => true
  | .cSub _ _ => true
  | .cAnd _ _ => true
  | .cOr _ _ => true
  | .cXor _ _ => true
  | .cAddi _ _ => true
  | .cLi _ _ => true
  | .cSlli _ _ => true
  | .cSrli _ _ => true
  | .cSrai _ _ => true
  | .cLdl _ _ => true
  | .cStl _ _ => true
  | .cBnez _ _ => true
  | .cJreg _ => true
  | .lexit => true
  | .unfollow => k == .compute
  | .eret => true
  | .bkpt => true
  | .halt => k == .system
  | .resume => k == .system
  | .cEndtask => true
  | .messageAdmission => true
  | .overflowRoutineStart => true
  | .dispatch => true
  | .unboundTrap => true
  | .rload => true
  | .rstore => true
  | .ramo => true
  | .lreply => true
  | .nack => true
  | .marker => true
  | .slotret => true
  | .drain => true
  | .half => true
  | .trailer => true
  | .ack => true
  | .mxcmd => true
  | .stageMessage => true
  | .reservedClassDiscard => true
  | .liveUpdate => true
  | .joinChildUpdate => true
  | .joinCloseUpdate => true
  | .cancelPropagate => true
  | .dlineExpiry => true
  | .forcedSave => true
  | .nearPlacement => true
  | .nearQueueTake => true
  | .stealRequest => true
  | .stealVictimReply => true
  | .stealBackoffExpiry => true
  | .followEngage => true
  | .resultReturn => true
  | .homeAccess => true
  | .phaseUpdateAtHome => true
  | .phwaitResolve => true
  | .sliceWalk => true
  | .missPortEntry => true
  | .xferStart => true
  | .xferRowCopy => true
  | .xferCompletion => true
  | .xferRestart => true
  | .checkRefetch => true
  | .hardwareFaultKill => true
  | .trapEntry => true
  | .bounceReceive => true
  | .matrixRequest => true
  | .aliasTableBuild => true
  | .matrixRestart => true
  | .matrixCompletion => true
  | .tileOwnershipTake => true
  | .messageArrival => true
  | .slotReturnResend => true
  | .retransmitTimeout => true
  | .nackResend => true
  | .flowRecordRelease => true
  | .seraiSlotRelease => true
  | .roundTick => true
  | .markerResend => true
  | .portRelock => true
  | .reachWrite => true
  | .rndsetWrite => true
  | .wavelengthPark => true
  | .wavelengthWake => true
  | .wakeDone => true
  | .mixOperationApply => true
  | .waybillDeadline => true
  | .engineNackResend => true
  | .gqPushArrival => true
  | .gqPopServe => true
  | .stageRoundStart => true
  | .stageFreeEvaluate => true
  | .stageBubbleTimer => true
  | .opStep => true
  | .rowCompaction => true
  | .thermalMigration => true
  | .thermalTrip => true
  | .currentGovernor => true
  | .ballastDraw => true
  | .doorbell => true
  | .doorbellPost => true
  | .hostRegisterWrite => true
  | .bar2InboundWrite => true
  | .jobStart => true
  | .nodeStart => true
  | .mappingValidDelivery => true
  | .ckdesc => true
  | .protectedWriteCopy => true
  | .checkpointCompletion => true
  | .reset => true
  | .getMeasurements => true
  | .challenge => true
  | .keyExchange => true
  | .readingFallsBelowLimit => true
  | .partitionTableAccept => true

/-- A system form, or a CSR form whose number is 0x100 or above: PRIV in user mode (R81). -/
def privileged : Instr → Bool
  | .add _ _ _ => false
  | .sub _ _ _ => false
  | .and _ _ _ => false
  | .or _ _ _ => false
  | .xor _ _ _ => false
  | .andn _ _ _ => false
  | .orn _ _ _ => false
  | .sll _ _ _ => false
  | .srl _ _ _ => false
  | .sra _ _ _ => false
  | .slt _ _ _ => false
  | .sltu _ _ _ => false
  | .min _ _ _ => false
  | .max _ _ _ => false
  | .minu _ _ _ => false
  | .maxu _ _ _ => false
  | .seq _ _ _ => false
  | .addi _ _ _ => false
  | .andi _ _ _ => false
  | .ori _ _ _ => false
  | .xori _ _ _ => false
  | .slti _ _ _ => false
  | .sltiu _ _ _ => false
  | .slli _ _ _ => false
  | .srli _ _ _ => false
  | .srai _ _ _ => false
  | .li _ _ => false
  | .lih _ _ _ => false
  | .mul _ _ _ => false
  | .mulh _ _ _ => false
  | .mulhsu _ _ _ => false
  | .mulhu _ _ _ => false
  | .div _ _ _ => false
  | .divu _ _ _ => false
  | .rem _ _ _ => false
  | .remu _ _ _ => false
  | .clz _ _ => false
  | .ctz _ _ => false
  | .popc _ _ => false
  | .bswap _ _ => false
  | .brev _ _ => false
  | .rol _ _ _ => false
  | .ror _ _ _ => false
  | .rand _ => false
  | .beq _ _ _ => false
  | .bne _ _ _ => false
  | .blt _ _ _ => false
  | .bge _ _ _ => false
  | .bltu _ _ _ => false
  | .bgeu _ _ _ => false
  | .jmp _ => false
  | .call _ => false
  | .jreg _ _ _ => false
  | .loop _ _ => false
  | .endtask _ => false
  | .spawnPath _ _ _ _ => false
  | .spawnNear _ _ _ _ => false
  | .spawnSteal _ _ _ _ => false
  | .join _ _ _ => false
  | .yieldchk _ => false
  | .follow _ _ => false
  | .cancel _ => false
  | .rtquiet _ _ _ => false
  | .csrrw _ _ n => 256 ≤ n.toNat
  | .csrrs _ _ n => 256 ≤ n.toNat
  | .csrrc _ _ n => 256 ≤ n.toNat
  | .ld _ _ _ _ => false
  | .st _ _ _ _ => false
  | .ldl _ _ _ _ => false
  | .stl _ _ _ _ => false
  | .ldc _ _ _ _ => false
  | .stc _ _ _ _ => false
  | .ldv _ _ _ _ _ _ => false
  | .stv _ _ _ _ _ _ => false
  | .amoswap _ _ _ _ _ => false
  | .amoadd _ _ _ _ _ => false
  | .amoand _ _ _ _ _ => false
  | .amoor _ _ _ _ _ => false
  | .amoxor _ _ _ _ _ => false
  | .amomin _ _ _ _ _ => false
  | .amomax _ _ _ _ _ => false
  | .amominu _ _ _ _ _ => false
  | .amomaxu _ _ _ _ _ => false
  | .amocas _ _ _ _ _ => false
  | .amofadd _ _ _ _ => false
  | .amobfpadd _ _ _ => false
  | .fence _ => false
  | .phinit _ _ _ => false
  | .pharr _ _ => false
  | .phadd _ _ _ => false
  | .phwait _ _ _ _ => false
  | .phread _ _ _ _ => false
  | .taglk _ _ => false
  | .tagset _ _ _ => false
  | .taginv _ => false
  | .tagstat _ _ _ => false
  | .xfer _ => false
  | .xfern _ => false
  | .send _ => false
  | .sendRel _ => false
  | .reply _ _ => false
  | .replyRel _ _ => false
  | .sendlb _ => true
  | .gqcreate _ _ => false
  | .gqpush _ _ _ => false
  | .gqpop _ _ _ => false
  | .gqpopDrop _ _ _ => false
  | .gqstat _ _ _ => false
  | .mixcfg _ _ => false
  | .mixjoin _ _ => false
  | .mixpeer _ _ => false
  | .mixadd _ _ _ => false
  | .mixtick _ => false
  | .mixread _ _ _ => false
  | .mixstat _ _ _ => false
  | .mixleave _ => false
  | .mixhold _ _ => false
  | .mfmt _ _ => false
  | .mma _ => false
  | .mmas _ => false
  | .mwait _ _ => false
  | .mar _ _ => false
  | .maw _ _ => false
  | .mstat _ => false
  | .msrec _ => false
  | .mtout _ => false
  | .mrem _ _ => false
  | .mkey _ _ => false
  | .mcap _ _ => false
  | .mnorm _ => false
  | .mxs _ _ => false
  | .mxsrd _ _ => false
  | .stgcfg _ _ => false
  | .stgdone _ => false
  | .stgtmpl _ _ => false
  | .stgsrec _ => false
  | .stgstat _ _ => false
  | .vadd _ _ _ _ _ => false
  | .vsub _ _ _ _ _ => false
  | .vmul _ _ _ _ _ => false
  | .vmin _ _ _ _ _ => false
  | .vmax _ _ _ _ _ => false
  | .vminu _ _ _ _ _ => false
  | .vmaxu _ _ _ _ _ => false
  | .vfma _ _ _ _ _ => false
  | .vfms _ _ _ _ _ => false
  | .vfnma _ _ _ _ _ => false
  | .vfnms _ _ _ _ _ => false
  | .vdot _ _ _ _ _ => false
  | .vdotu _ _ _ _ _ => false
  | .vadds _ _ _ _ _ => false
  | .vaddsu _ _ _ _ _ => false
  | .vsubs _ _ _ _ _ => false
  | .vsubsu _ _ _ _ _ => false
  | .vnegs _ _ _ _ => false
  | .vand _ _ _ _ _ => false
  | .vor _ _ _ _ _ => false
  | .vxor _ _ _ _ _ => false
  | .vandn _ _ _ _ _ => false
  | .vsll _ _ _ _ _ => false
  | .vsrl _ _ _ _ _ => false
  | .vsra _ _ _ _ _ => false
  | .vcmpeq _ _ _ _ _ => false
  | .vcmpne _ _ _ _ _ => false
  | .vcmplt _ _ _ _ _ => false
  | .vcmple _ _ _ _ _ => false
  | .vcmpltu _ _ _ _ _ => false
  | .vcmpleu _ _ _ _ _ => false
  | .vmv _ _ _ _ => false
  | .vbcast _ _ _ _ => false
  | .vins _ _ _ _ => false
  | .vext _ _ _ _ => false
  | .vextu _ _ _ _ => false
  | .vrsum _ _ _ _ => false
  | .vrsumu _ _ _ _ => false
  | .vrmin _ _ _ _ => false
  | .vrmax _ _ _ _ => false
  | .vrminu _ _ _ _ => false
  | .vrmaxu _ _ _ _ => false
  | .vabs _ _ _ _ => false
  | .vneg _ _ _ _ => false
  | .vclz _ _ _ _ => false
  | .vpopc _ _ _ _ => false
  | .vcvt _ _ _ _ _ _ => false
  | .vrcp _ _ _ _ => false
  | .vrsqrt _ _ _ _ => false
  | .vsqrt _ _ _ _ => false
  | .vexp2 _ _ _ _ => false
  | .vlog2 _ _ _ _ => false
  | .vdiv _ _ _ _ _ => false
  | .vtie _ _ _ _ _ => false
  | .vtload _ _ _ => false
  | .vshuf _ _ _ _ _ => false
  | .vsplat _ _ _ _ _ => false
  | .vslidedn _ _ _ _ _ => false
  | .vslideup _ _ _ _ _ => false
  | .plen _ _ _ => false
  | .pand _ _ _ _ => false
  | .por _ _ _ _ => false
  | .pxor _ _ _ _ => false
  | .pandn _ _ _ _ => false
  | .pget _ _ => false
  | .pset _ _ => false
  | .pcnt _ _ _ => false
  | .trap _ => false
  | .codew _ _ => true
  | .rtset _ _ => true
  | .inbhead _ _ => true
  | .inbrd _ _ _ => true
  | .inbfree _ _ => true
  | .fbstat _ _ => true
  | .fbread _ _ _ => true
  | .fbclr _ _ => true
  | .replayall _ => true
  | .tlbinv _ _ => true
  | .sgload _ _ => true
  | .keyw _ _ => true
  | .preempt _ _ => true
  | .ctxrest _ _ => true
  | .bncset _ _ _ => true
  | .bncclr _ => true
  | .dbgrd _ _ _ => true
  | .dbgwr _ _ => true
  | .dbgstep _ => true
  | .opset _ _ _ => true
  | .rowq _ _ _ => true
  | .cMv _ _ => false
  | .cAdd _ _ => false
  | .cSub _ _ => false
  | .cAnd _ _ => false
  | .cOr _ _ => false
  | .cXor _ _ => false
  | .cAddi _ _ => false
  | .cLi _ _ => false
  | .cSlli _ _ => false
  | .cSrli _ _ => false
  | .cSrai _ _ => false
  | .cLdl _ _ => false
  | .cStl _ _ => false
  | .cBnez _ _ => false
  | .cJreg _ => false
  | .lexit => false
  | .unfollow => false
  | .eret => true
  | .bkpt => false
  | .halt => true
  | .resume => true
  | .cEndtask => false
  | .messageAdmission => false
  | .overflowRoutineStart => false
  | .dispatch => false
  | .unboundTrap => false
  | .rload => false
  | .rstore => false
  | .ramo => false
  | .lreply => false
  | .nack => false
  | .marker => false
  | .slotret => false
  | .drain => false
  | .half => false
  | .trailer => false
  | .ack => false
  | .mxcmd => false
  | .stageMessage => false
  | .reservedClassDiscard => false
  | .liveUpdate => false
  | .joinChildUpdate => false
  | .joinCloseUpdate => false
  | .cancelPropagate => false
  | .dlineExpiry => false
  | .forcedSave => false
  | .nearPlacement => false
  | .nearQueueTake => false
  | .stealRequest => false
  | .stealVictimReply => false
  | .stealBackoffExpiry => false
  | .followEngage => false
  | .resultReturn => false
  | .homeAccess => false
  | .phaseUpdateAtHome => false
  | .phwaitResolve => false
  | .sliceWalk => false
  | .missPortEntry => false
  | .xferStart => false
  | .xferRowCopy => false
  | .xferCompletion => false
  | .xferRestart => false
  | .checkRefetch => false
  | .hardwareFaultKill => false
  | .trapEntry => false
  | .bounceReceive => false
  | .matrixRequest => false
  | .aliasTableBuild => false
  | .matrixRestart => false
  | .matrixCompletion => false
  | .tileOwnershipTake => false
  | .messageArrival => false
  | .slotReturnResend => false
  | .retransmitTimeout => false
  | .nackResend => false
  | .flowRecordRelease => false
  | .seraiSlotRelease => false
  | .roundTick => false
  | .markerResend => false
  | .portRelock => false
  | .reachWrite => false
  | .rndsetWrite => false
  | .wavelengthPark => false
  | .wavelengthWake => false
  | .wakeDone => false
  | .mixOperationApply => false
  | .waybillDeadline => false
  | .engineNackResend => false
  | .gqPushArrival => false
  | .gqPopServe => false
  | .stageRoundStart => false
  | .stageFreeEvaluate => false
  | .stageBubbleTimer => false
  | .opStep => false
  | .rowCompaction => false
  | .thermalMigration => false
  | .thermalTrip => false
  | .currentGovernor => false
  | .ballastDraw => false
  | .doorbell => false
  | .doorbellPost => false
  | .hostRegisterWrite => false
  | .bar2InboundWrite => false
  | .jobStart => false
  | .nodeStart => false
  | .mappingValidDelivery => false
  | .ckdesc => false
  | .protectedWriteCopy => false
  | .checkpointCompletion => false
  | .reset => false
  | .getMeasurements => false
  | .challenge => false
  | .keyExchange => false
  | .readingFallsBelowLimit => false
  | .partitionTableAccept => false


end Sys2Proof
end

