-- ==== Sys2Proof/Machine/State.lean ====
section
/-! DEFINITION. The state of one module as plain data, the reasons a step can stop, and the state after reset.

Sparse tables are lists of (key, value) pairs; the operations on them stand in Machine/Mem.lean. -/
namespace Sys2Proof.Machine

/-- Reasons the machine stops. -/
inductive Fault where
  /-- Raised by `step` alone, when a thermal trip holds the module and the step is not a RESET (R398).
  Safe: the hardware does nothing either until reset. -/
  | heldUntilReset
  deriving DecidableEq, Repr

/-- Reasons a step has no meaning. -/
inductive Refusal where
  /-- Raised by `exec` for an instruction that has no meaning in this model yet.  Safe. -/
  | notModelled (mnemonic : String)
  deriving DecidableEq, Repr

/-! ### Messages and the inbox -/

/-- A message as an inbox slot holds it (R30). -/
structure Msg where
  cls : BitVec 8 := 0
  chan : BitVec 3 := 0
  rel : Bool := false
  lb : Bool := false
  place : BitVec 2 := 3
  launch : BitVec 12 := 0
  jslot : BitVec 12 := 0
  dest : BitVec 16 := 0
  path : Word := 0
  jrec : Word := 0
  payaddr : BitVec 19 := 0
  paylen : BitVec 13 := 0
  srcpcell : BitVec 17 := 0
  srcdev : BitVec 9 := 0
  args : Vector Word 4 := Vector.replicate 4 0
  deriving DecidableEq, Repr

/-- What an addition to LIVE on behalf of a message has come to (R46). -/
inductive Gate where
  /-- The addition is made, or none is due. -/
  | clear
  /-- The addition with this ticket is on its way to the record's home. -/
  | pending (ticket : Nat)
  /-- The addition found LIVE already 0: the message is discarded at admission. -/
  | void
  deriving DecidableEq, Repr

/-- Where a posted message is to go (R53, R54, R55, R408). -/
inductive Target where
  /-- To a logical cell through the logical-to-physical table (R58). -/
  | logical (lcell : Nat)
  /-- To one physical cell: a stolen or loop-back task, a system core's message. -/
  | physical (cell : Nat)
  /-- A NEAR task on its walk: at cluster (x, y), towards a hint, with a radius (R54). -/
  | near (x y hx hy radius : Nat)
  deriving DecidableEq, Repr

/-- A message on its way to its inbox: posted and not yet admitted (R30, R31, R58). -/
structure Post where
  msg : Msg
  target : Target
  payload : List Byte := []
  /-- The LIVE addition it waits for (R46 item 1). -/
  gate : Gate := .clear
  /-- It is in its sending cell's outbound queue (R113). -/
  out : Bool := false
  /-- Accesses that must be performed first: REL (R208, R351). -/
  after : List Nat := []
  /-- The sending logical cell and module, which name its flow (R351). -/
  flow : Option (Nat × Nat) := none
  /-- Its payload is placed, or it has none (R30); bytes of it that are placed so far (R207). -/
  placed : Bool := false
  count : Nat := 0
  /-- It has been held for an invalid table entry (R58). -/
  held : Bool := false
  /-- A message of no launch (R408): adds nothing and is never discarded under R51. -/
  system : Bool := false
  /-- The DET key when the launch delivers deterministically (R317): source module, source logical cell,
  position and round. -/
  det : Option (Nat × Nat × Nat × Nat) := none
  /-- Came from another module through the serai: the flow (source module, source logical cell) to free. -/
  serai : Option (Nat × Nat × Nat) := none
  deriving DecidableEq, Repr

/-- A routine-table entry (R33). -/
structure Routine where
  entry : CodeAddr := 0
  chan : BitVec 3 := 0
  bound : Bool := false
  strict : Bool := false
  gen : BitVec 8 := 0
  deriving DecidableEq, Repr

/-- A launch-table entry (R48). -/
structure LaunchEntry where
  recva : Word := 0
  lid : Word := 0
  lbase : BitVec 32 := 0
  lcount : BitVec 32 := 0
  wrows : BitVec 13 := 0
  prows : BitVec 13 := 0
  frm : BitVec 3 := 0
  det : Bool := false
  replay : Bool := false
  jseed : Word := 0
  deriving DecidableEq, Repr

/-! ### Accesses in flight -/

/-- The home of an access (R172, R178). -/
inductive Place where
  | hbm (pa : Nat)
  | host (port off : Nat)
  | remote (dev pa : Nat)
  /-- A byte of a physical cell's scratchpad, by cell row × 128 + offset (R386). -/
  | pad (cell addr : Nat)
  /-- Rows of a logical cell that is not mapped, or absent under the bounce table (R58, R255). -/
  | away (lcell : Nat) (window : Bool) (addr : Nat)
  deriving DecidableEq, Repr

/-- What an access does at its home. -/
inductive AccOp where
  | load (z : BitVec 3)
  | store (n data : Nat)
  /-- Bytes `off .. off + n - 1` of a vector, those whose bit of `mask` is set (R226). -/
  | vload (off n mask : Nat)
  | vstore (off n mask data : Nat)
  | amo (fn size b cmp : Nat)
  /-- The operand block; the exponent pair's home, its key index and its check mode (R201, R230). -/
  | bfpadd (block : List Byte) (pair : Place) (key : Nat) (chk : Bool)
  | phinit (word : Nat)
  | pharr
  | phadd (n : Nat)
  | phwait (gen : Nat)
  | phread (h : Nat)
  /-- The byte update of a copy engine, with its error (R184, R188). -/
  | phengine (n : Nat) (err : Bool)
  /-- A matrix command's update of its scale record: the append of a pair, or the read of the next one (R275). -/
  | scale (append : Bool) (pair : Nat)
  /-- A result known at issue that only has to return (`later`, R40): RTQUIET, TAGLK's -2, FBSTAT and the like. -/
  | answer (value : Nat)
  /-- A question another cell or unit answers when it reaches it: kind and two operands (RTQUIET, FBSTAT, DBGRD). -/
  | query (kind x y : Nat)
  /-- A result another unit will supply (OPSET, MIXADD, GQPUSH, MREM and the like); it is set when it comes. -/
  | reply
  /-- A write of a level or join record made for JOIN or CANCEL (R115, R119): an OR or a plain write of bytes. -/
  | orBits (n data : Nat)
  | record (n data : Nat)
  deriving DecidableEq, Repr

/-- The register an access writes. -/
inductive Dest where
  | none | s (r : Reg) | v (r : Reg)
  deriving DecidableEq, Repr

/-- How far an access has come. -/
inductive Phase where
  /-- Parked in a slice's replay queue (R195). -/
  | parked
  /-- Issued and not yet performed at its home. -/
  | issued
  /-- Sent to another module as a built-in message with this SEQ. -/
  | sent (dev seq : Nat)
  /-- Performed; the result, its flags and 16 byte lanes are on their way back. -/
  | done (value : Nat) (flags : BitVec 5)
  /-- An engine's access that completed in error, with the cause that ERRSUM records (R203, R219, R308). -/
  | failed (cause : Nat)
  deriving DecidableEq, Repr

/-- One access of a context that has left the cell (R223). -/
structure Access where
  id : Nat
  cell : Nat
  ctx : Nat
  /-- The activation that issued it (R42). -/
  act : Nat
  va : Nat
  place : Place
  key : Nat := 0
  chk : Bool := false
  op : AccOp
  dest : Dest := .none
  phase : Phase := .issued
  sys : Bool := false
  launch : Option Nat := Option.none
  /-- The logical cell whose task issued it: the flow it goes on, and what ERRSUM names (R47, R309). -/
  lcell : Nat := 0
  /-- Byte lanes of the destination that other instructions have written since issue (R41). -/
  clobber : Nat := 0
  /-- The instruction word and the governing predicate, for a forced save's pending entry (R252). -/
  word : Nat := 0
  pred : Nat := 0xFFFF
  data : Nat := 0
  /-- Times a bad line has been asked for again (R203). -/
  tries : Nat := 0
  /-- The transfer or matrix command whose access it is; none for a context's (R181, R271). -/
  unit : Option Nat := none
  /-- A second VA that must translate before it is made: AMOBFPADD's pair (R230), the other page of a vector that spans
  two (R226). -/
  second : Option Nat := none
  /-- It has been in a replay queue: `bk` does not run from it (R208, R209). -/
  replayed : Bool := false
  /-- Traps its context was in when it issued (R235). -/
  trap : Nat := 0
  /-- Byte lanes of the destination that the result has reached already (R41). -/
  landed : Nat := 0
  /-- Bytes of a lane of the destination: of an element of its type (R41, R170). -/
  grain : Nat := 16
  /-- An interlocked access that has not been performed at issue: no other instruction touches its register (R40, R223); the
  value that its line held at issue, for one that changes nothing (log 16). -/
  locked : Bool := false
  seen : Option Nat := Option.none
  /-- Its home has taken the update in and replied, and applies it by an event of its own (R171, R234; log 9). -/
  accepted : Bool := false
  deriving DecidableEq, Repr

/-- An update on its way to a level or join record's home (R46, R47, R57, R116). -/
inductive RecOp where
  /-- Adds 1 to LIVE for the message with this ticket (R46 item 1); 0 for none. -/
  | liveAdd (va ticket : Nat)
  | liveSub (va : Nat)
  /-- A child's end (R57): join record, slot, result, ERR.  `stamp` is the next access id when it was sent: JOIN's writes
  of the record with a smaller id come before it, and others after it (R115). -/
  | joinChild (va slot value : Nat) (err : Bool) (stamp : Nat)
  /-- The close of a join (R116), likewise stamped. -/
  | joinClose (va count stamp : Nat)
  deriving DecidableEq, Repr

/-- A join record that the hardware knows to be open: the posts it makes when it fires (R57). -/
structure JoinHome where
  va : Nat
  lcell : Nat
  launch : Nat
  path : Word
  errs : Nat
  deriving DecidableEq, Repr

/-! ### Contexts -/

/-- What a context waits for beside its switch marker. -/
inductive Wait where
  | none
  /-- An L1 miss of the next instruction, on this granule (R195). -/
  | walk (vpn : Nat)
  /-- A reply to the phase update, AMO or lookup with this access id (R234). -/
  | home (id : Nat)
  /-- Follow mode: the leader must issue this address (R43). -/
  | follow (addr : CodeAddr)
  /-- A gradient queue's grant or packet (R356). -/
  | queue (id : Nat)
  deriving DecidableEq, Repr

/-- A reply that the instruction the context runs again will take. -/
inductive Answer where
  /-- The walk of this granule gave a translation, a permission failure, or parks the access (R195). -/
  | page (vpn size pte : Nat)
  | perm (vpn : Nat)
  | parkIn (vpn : Nat)
  /-- The parked access of this granule has been replayed and a valid PTE denies it: it completes in error (R196). -/
  | denied (vpn : Nat)
  /-- The home answered with this value; `ok = false` is a rejection (R188). -/
  | value (x : Nat) (ok : Bool)
  /-- A gradient queue's packet: its sideband word and its 128 data bytes (R356). -/
  | packet (sideband : Word) (data : List Byte)
  /-- What an instruction of several steps keeps for those that follow: word `k` of what it reads piece by piece, and as word
  512 the operands that it has read from its registers (R41, R207, R381). -/
  | word (k value : Nat)
  deriving DecidableEq, Repr

/-- What a forced save keeps of a task beside its record: the join it reports to, the GEN of its dispatch, its
number, its current block (R323), the accesses its FENCE waits for, the withdrawn accesses of each pending entry and those still on their way to
their homes (R41, R57, R208, R232, R251, R252; log 27). -/
structure SavedTask where
  jrec : Word := 0
  jslot : BitVec 12 := 0
  gen : BitVec 8 := 0
  token : Nat := 0
  /-- It was parked by a switch marker (R41). -/
  parked : Bool := false
  block : BitVec 12 := 0
  fence : List (Nat × Nat) := []
  withdrawn : List (List Access) := []
  flying : List Nat := []
  deriving DecidableEq, Repr

/-- A forced save under way whose area is in another module's memory (R251): its number as a unit of work, the area's VA, the
record's body with COMMIT 0, what it keeps of the task, the next access (0 reads NREC, 1 increments NEXT, then come the 512
words of the body and COMMIT), and NREC, later the record's number. -/
structure Storing where
  id : Nat
  area : Nat
  body : Nat
  task : SavedTask
  pos : Nat := 0
  num : Nat := 0
  deriving DecidableEq, Repr

/-- One context of a cell (R29, R64, R242-R257). -/
structure Ctx where
  s : Vector Word 32 := Vector.replicate 32 0
  v : Vector Vec 32 := Vector.replicate 32 0
  p : Vector Pred 8 := Vector.replicate 8 0
  pc : CodeAddr := 0
  ls : Vector CodeAddr 3 := Vector.replicate 3 0
  le : Vector CodeAddr 3 := Vector.replicate 3 0
  lc : Vector Word 3 := Vector.replicate 3 0
  fflags : BitVec 5 := 0
  frm : BitVec 3 := 0
  jseed : Word := 0
  srctr : Word := 0
  lcell : BitVec 16 := 0
  level : Word := 0
  chancls : BitVec 13 := 0
  codebase : CodeAddr := 0
  cwrows : BitVec 13 := 0
  prows : BitVec 13 := 0
  path : Word := 0
  /-- The activation count of TASKID bits 63:19. -/
  acts : BitVec 45 := 0
  /-- The launch of the running task; none on a system core (R408). -/
  launch : Option (BitVec 12) := none
  jslot : BitVec 12 := 0
  jrec : Word := 0
  /-- GEN of the routine-table entry its dispatch read (R120). -/
  gen : BitVec 8 := 0
  retired : Word := 0
  prq : BitVec 2 := 0
  dline : BitVec 32 := 0
  /-- System mode (R242). -/
  sys : Bool := false
  /-- Traps entered and not yet returned from: above 0 in a mode entered by a trap (R243, log 18). -/
  inTrap : Nat := 0
  trapcause : BitVec 8 := 0
  trappc : CodeAddr := 0
  trapval : Word := 0
  trapstate : Word := 0
  sscr : Vector Word 4 := Vector.replicate 4 0
  /-- The armed join: its record and the children spawned so far (R57). -/
  join : Option (Word × Nat) := none
  /-- The two interpolation-table slots (R151). -/
  tables : Vector (Option (List Byte)) 2 := Vector.replicate 2 none
  /-- The retained activation message, when the launch has REPLAY (R204). -/
  retained : Option Msg := none
  /-- The launch (index and LID) whose task it last ran (R29). -/
  lastLaunch : Option (Nat × Word) := none
  /-- It runs an activation; otherwise it is free. -/
  busy : Bool := false
  /-- Parked by a switch marker or by ENDTASK until its results return (R41, R42). -/
  parked : Bool := false
  ending : Bool := false
  wait : Wait := .none
  answers : List Answer := []
  /-- A trap that waits for the context's results (R243 step 1): cause and TRAPVAL. -/
  pendingTrap : Option (BitVec 8 × Word) := none
  /-- Single step, armed by ERET: the next retirement traps BKPT (R245). -/
  stepping : Bool := false
  /-- One debug step is allowed on the halted cell (R257). -/
  debugStep : Bool := false
  /-- A forced save is due: the context issues nothing further (R251). -/
  saving : Bool := false
  /-- The save is under way, its accesses going to another module (R251). -/
  storing : Option Storing := none
  /-- The forced save wrote nothing that could be restored (R253). -/
  lost : Bool := false
  /-- Accesses that a FENCE with S = 0 waits for, each with the FENCE's scope (R215, R232). -/
  fence : List (Nat × Nat) := []
  /-- Follow mode (R43): the instructions received and not yet executed, with their S, their address and where the leader went on
  (R44). -/
  following : Bool := false
  stream : List (Instr × Bool × CodeAddr × CodeAddr) := []
  /-- Halfwords fetched before a write of the code store and not yet issued: address, old bits (R84, log 25). -/
  ahead : List (Nat × Half) := []
  /-- Pending entries of a restored record that have still to be issued again, before its first instruction, with the
accesses they were made of (R200, R250, R254). -/
  again : List (Nat × List Access) := []
  /-- The current block of the depot CSRs (R323): group-relative queue id. -/
  block : BitVec 12 := 0
  /-- MIXREADs not complete (R364): access ids. -/
  mixreads : List Nat := []
  /-- MODEL'S OWN (log 31): the task it runs, by a number of its own that a save and a restore keep. -/
  token : Nat := 0
  /-- Multi-step instructions keep their step here: above 1,024, one that reads or writes its bytes piece by piece (R207). -/
  stage : Nat := 0
  deriving DecidableEq, Repr

/-! ### Cells -/

/-- A tag-table entry (R174). -/
structure TagEntry where
  tag : BitVec 53 := 0
  row : BitVec 12 := 0
  len : BitVec 13 := 0
  valid : Bool := false
  dirty : Bool := false
  pin : Bool := false
  evicted : Bool := false
  swz : BitVec 4 := 0
  deriving DecidableEq, Repr

/-- A logical cell hosted by a physical cell, in stacking order (R388). -/
structure Hosted where
  lcell : Nat
  launch : Nat
  w : Nat
  p : Nat
  /-- Halfword base of the launch's code image on the cell, its length and the classes it binds (R60). -/
  base : CodeAddr
  len : Nat := 0
  classes : List Nat := []
  deriving DecidableEq, Repr

/-- A steal thief's progress (R56): the attempt number, an outstanding request and the backoff. -/
structure Steal where
  attempt : Nat := 0
  /-- The launch whose set it asks. -/
  launch : Nat := 0
  asked : Option Nat := none
  backoff : Nat := 64
  waiting : Bool := false
  deriving DecidableEq, Repr

/-- An OPSET, or a ROWQ with its operand, in a power controller's sequence (R390): the access that takes the
result, the OP. -/
structure OpRequest where
  id : Nat
  query : Option Nat
  op : Nat
  deriving DecidableEq, Repr

/-- One physical cell: compute, depot or system core (R27). -/
structure Cell where
  ctxs : Vector Ctx 4 := Vector.replicate 4 {}
  code : List (Nat × Half) := []
  routines : List (Nat × Routine) := []
  /-- The inbox's allocated slots (R30) and the order of each channel (R32). -/
  slots : List (Nat × Msg) := []
  queue : List (Nat × List Nat) := []
  passed : Vector (BitVec 13) 8 := Vector.replicate 8 0
  /-- The steal deque, bottom first (R55). -/
  deque : List Post := []
  steal : Steal := {}
  trapvec : CodeAddr := 0
  ovfvec : CodeAddr := 0
  dldef : BitVec 32 := 100000
  codelim : BitVec 15 := 0x4000
  cycle : Word := 0
  sent : Word := 0
  received : Word := 0
  haltcyc : Word := 0
  haltsent : Word := 0
  haltrecv : Word := 0
  halted : Bool := false
  /-- The UNBOUND message context 3 handles: its slot (R35). -/
  unbound : Option Nat := none
  hosted : List Hosted := []
  opcur : BitVec 3 := 4
  /-- Row-map codes by physical row, where not 0 (R386). -/
  rowmap : List (Nat × Nat) := []
  opq : List OpRequest := []
  /-- A step down in progress: the tag slot and the row of it that is written back next (R391).  The cell is paused. -/
  evac : Option (Nat × Nat) := none
  stretched : Bool := false
  /-- HALT waits for a forced save of the cell (R256). -/
  halting : Bool := false
  /-- The context that issued last, for round-robin issue (R28). -/
  last : Nat := 3
  deriving DecidableEq, Repr

/-! ### Translation -/

/-- A translation held by a TLB: the first granule, log2 of the size in granules, the leaf PTE (R193). -/
structure TlbEntry where
  vpn : Nat
  size : Nat
  pte : Nat
  deriving DecidableEq, Repr

/-- A miss that waits at a cluster's L1 port or in its slice (R195, R200): the context, the granule and kind. -/
structure Miss where
  cell : Nat
  ctx : Nat
  vpn : Nat
  write : Bool
  sys : Bool
  /-- The copy engine's transfer, matrix command or other work of the part whose miss it is; none for a context's (R193). -/
  unit : Option Nat := none
  deriving DecidableEq, Repr

/-- One entry of a fault buffer (R197). -/
structure FaultEntry where
  vpn : Nat
  write : Bool
  mal : Bool
  eng : Bool
  deriving DecidableEq, Repr

/-- What waits in a slice's replay queue (R199): an access by id, or an engine's transfer or command. -/
inductive Parked where
  | access (id : Nat)
  | transfer (cluster xid : Nat)
  | command (cluster cmd : Nat)
  | writeback (cell slot : Nat)
  /-- The stage table's write of a scale record, by its number (R374). -/
  | stage (id : Nat)
  /-- An access that has parked and whose context has not yet taken the slice's answer. -/
  | miss (m : Miss)
  deriving DecidableEq, Repr

/-- One L2 slice (R193-R200). -/
structure Slice where
  tlb : List TlbEntry := []
  faults : List (Nat × FaultEntry) := []
  dropped : Bool := false
  ovf : BitVec 32 := 0
  replay : List Parked := []
  misses : List Miss := []
  /-- Faults of accesses that have parked, still on their way into the fault buffer (R171, R198; log 9). -/
  unrecorded : List FaultEntry := []
  deriving DecidableEq, Repr

/-! ### The fabric (R301-R319) -/

/-- One unacknowledged message of a flow, in its sender's replay buffer (R309). -/
structure FlowMsg where
  pkt : Packet
  /-- The access it carries, for RLOAD, RSTORE and RAMO. -/
  access : Option Nat := none
  /-- Accesses that must be performed before it is sent: REL (R351). -/
  after : List Nat := []
  sent : Bool := false
  acked : Bool := false
  /-- An RLOAD or RAMO stays until its LREPLY has arrived (R312). -/
  replied : Bool := true
  /-- Its wait, in units of RTO: doubles to 64 (R313). -/
  wait : Nat := 1
  /-- The port keeps no copy: a Caravan engine resends it from its waybills (R335). -/
  engine : Bool := false
  /-- The launch and logical cell whose ERRSUM records that it was not delivered, or its access failed (R219, R308). -/
  owner : Option (Option Nat × Nat) := none
  deriving DecidableEq, Repr

/-- A flow record of the sending port (R309). -/
structure Flow where
  scell : Nat
  ddev : Nat
  next : Nat := 0
  buf : List FlowMsg := []
  /-- The wait before a resend after NACKs, in router cycles, 0 while none has come since a message was acknowledged
  (R310), and whether a resend is due. -/
  nackWait : Nat := 0
  nackDue : Bool := false
  /-- SEQs of the last 32 RLOADs and RAMOs that have been answered: their serai may answer again (R308, R311). -/
  answered : List Nat := []
  /-- SEQs of messages that activations of no launch have sent: a NACK or a failing LREPLY of one names no launch (R308, R349,
  R408). -/
  bare : List Nat := []
  deriving DecidableEq, Repr

/-- A flow slot of the serai (R310, R311). -/
structure Serai where
  sdev : Nat
  scell : Nat
  expected : Nat
  held : List Packet := []
  /-- Delivered and not all freed, in order: 0 waiting, 1 handed on, 2 freed, 3 held for its window (R317), 4 issued to
  its home and not yet performed there (R311). -/
  queue : List (Packet × Nat) := []
  /-- The LREPLYs of the last 32 RLOADs and RAMOs (R311). -/
  replies : List Packet := []
  deriving DecidableEq, Repr

/-- A global port of the fabric (R318, R319): draining, dark, live wavelengths, a wake in progress. -/
structure FabPort where
  draining : Bool := false
  drained : Bool := false
  live : Nat := 8
  waking : Bool := false
  /-- The plan number of the DRAIN that this module has sent on it. -/
  next : Nat := 0
  deriving DecidableEq, Repr

/-- The module's rounds (R314, R315). -/
structure Rounds where
  send : Nat := 0
  recv : Nat := 0
  /-- A receive round has ended; before that `recv` reads 0 and round 0 is still open. -/
  started : Bool := false
  /-- The round set; none until RNDSET is first written: the module alone. -/
  set : Option (List Nat) := none
  /-- A tick kept (R315). -/
  tick : Bool := false
  /-- Messages stamped with the send round, by module. -/
  stamped : List (Nat × Nat) := []
  /-- The latest marker sent to each module: round, count. -/
  markers : List (Nat × (Nat × Nat)) := []
  /-- Counts of the markers held, and messages delivered, by round × 512 + module. -/
  got : List (Nat × Nat) := []
  seen : List (Nat × Nat) := []
  deriving DecidableEq, Repr

/-! ### Depot groups (R322-R344) -/

/-- A waybill with its copy of S (R334). -/
structure Waybill where
  seq : BitVec 32
  peer : BitVec 9
  fseq : BitVec 16
  ws : Word
  tries : BitVec 8 := 0
  doubt : Bool := false
  leave : Bool := false
  /-- Its first message carried FIRST; the round that its messages are stamped with. -/
  first : Bool := false
  rnd : Nat := 0
  s : List Nat
  deriving DecidableEq, Repr

/-- A block: its record (R328), X, waybills by position, peer list and merge records. -/
structure Block where
  w : Word := 0
  doubt : Word := 0
  disag : BitVec 32 := 0
  zm : Bool := false
  nanrej : Bool := false
  quar : Bool := false
  hold : Bool := false
  left : Bool := false
  refd : Bool := false
  nan : BitVec 32 := 0
  tick : BitVec 32 := 0
  nsend : BitVec 32 := 0
  every : BitVec 16 := 1
  len : BitVec 15 := 0
  timeout : BitVec 32 := 48000
  retry : BitVec 8 := 8
  stride : BitVec 8 := 0
  offset : BitVec 8 := 0
  peers : List (BitVec 9) := []
  x : List Nat := []
  waybills : List (Nat × Waybill) := []
  /-- The last 8 halves merged from each source module, the source of the latest merge last (R336). -/
  merged : List (Nat × List Nat) := []
  deriving DecidableEq, Repr

/-- What a mixing form asks of the engine (R359-R365). -/
inductive MixKind where
  | cfg (len : Nat) | join (len : Nat) | peer (p stride offset : Nat) (list : List Nat)
  | add (len : Nat) (g : List Nat) | tick | read (len cell addr : Nat)
  | stat (word : Nat) | leave | hold (on : Bool)
  /-- A MIXREAD that has read y and writes it: where the next byte goes, the bytes left, its status (R207, R364). -/
  | write (cell addr : Nat) (data : List Byte) (status : Nat)
  deriving DecidableEq, Repr

/-- An accepted mixing operation: the context it came from, the access its result returns to. -/
structure MixOp where
  cell : Nat
  ctx : Nat
  block : Nat
  kind : MixKind
  id : Option Nat
  deriving DecidableEq, Repr

/-- A half being staged: source module, block, half SEQ, chunks by number with their LEN (R336). -/
structure Staged where
  sdev : Nat
  block : Nat
  seq : Nat
  chunks : List (Nat × (Nat × List Nat))
  deriving DecidableEq, Repr

/-- A gradient packet with the access its grant returns to (R325, R326). -/
structure Push where
  group : Nat
  queue : Nat
  data : List Byte
  sideband : Word
  id : Nat
  cell : Nat
  ctx : Nat
  deriving DecidableEq, Repr

/-- A pop that waits at its queue (R327). -/
structure PopWait where
  id : Nat
  cell : Nat
  ctx : Nat
  drop : Bool
  deriving DecidableEq, Repr

/-- A gradient queue: its record (R324), packets oldest first, wait list and waiting pops. -/
structure GQueue where
  valid : Bool := false
  ty : BitVec 3 := 0
  block : BitVec 12 := 0
  nslot : BitVec 7 := 0
  head : BitVec 6 := 0
  tail : BitVec 6 := 0
  pushed : Word := 0
  popped : Word := 0
  packets : List (Word × List Byte) := []
  waiting : List Push := []
  pops : List PopWait := []
  deriving DecidableEq, Repr

/-- A depot group (R322). -/
structure Group where
  blocks : List (Nat × Block) := []
  queues : List (Nat × GQueue) := []
  staged : List Staged := []
  ops : List MixOp := []
  /-- Modules whose NACK cause 1 waits for the engine to resend (R335). -/
  nacks : List Nat := []
  deriving DecidableEq, Repr

/-! ### The stage table (R368-R382) -/

/-- A template: launch index and logical cell, and VALID (R371, R382). -/
structure Template where
  launch : Nat
  lcell : Nat
  valid : Bool := true
  deriving DecidableEq, Repr

/-- A STAGE message delivered and not yet applied: its stamp unwrapped, kind, MB, v, and its flow and SEQ (R376). -/
structure StageMsg where
  round : Nat
  kind : Nat
  mb : Nat
  v : Word
  sdev : Nat
  scell : Nat
  seq : Nat
  deriving DecidableEq, Repr

/-- How far the write of a starting entry's scale record is: to be made, parked in its slice, or on its way to another
module, each by a number (R374, R198). -/
inductive StageWrite where
  | due | parked (id : Nat) | sent (id : Nat)
  deriving DecidableEq, Repr

/-- An entry that has started and whose task is not posted yet: its template as it stood at the start, its a3, and the
write of its scale record, whose VA, bytes and value were settled then too (R374, R382). -/
structure Starting where
  entry : Nat
  template : Template
  a3 : Word
  record : Option (Nat × Nat × Nat)
  write : StageWrite := .due
  deriving DecidableEq, Repr

/-- The module's stage table. -/
structure Stage where
  mode : BitVec 2 := 0
  /-- The configuration word in force (R371). -/
  cfg : Word := 0
  entries : List Nat := []
  /-- The templates that have been written since STGCFG, by index. -/
  templates : List (Nat × Template) := []
  /-- Held slots: MB and whether its F completed (R372). -/
  slots : List (Nat × (Nat × Bool)) := []
  acts : List (Nat × Word) := []
  grads : List (Nat × Word) := []
  arrivals : List StageMsg := []
  pending : List StageMsg := []
  running : Bool := false
  /-- The entry that is starting. -/
  starting : Option Starting := none
  ptr : Nat := 0
  dnslots : BitVec 16 := 0
  bubup : BitVec 32 := 0
  bubdn : BitVec 32 := 0
  bubstash : BitVec 32 := 0
  stashmax : BitVec 8 := 0
  srbase : Word := 0
  /-- The module send round that the next table round is (R377). -/
  round : Nat := 0
  /-- A round tick that the table has requested and that is not yet taken (R377). -/
  asks : Bool := false
  deriving DecidableEq, Repr

/-- A checkpoint (R404, R405). -/
structure Cut where
  desc : Word := 0
  busy : Bool := false
  err : Bool := false
  /-- The round of the last completed cut, modulo 2^32. -/
  last : BitVec 32 := 0
  /-- The send round whose end protects; none once it has protected. -/
  due : Option Nat := none
  full : Bool := false
  cls : Nat := 0
  core : Nat := 0
  dst : List Nat := []
  /-- The cut's round, once the lines are protected. -/
  round : Nat := 0
  active : Bool := false
  /-- Frame shares that take part, by frame × 64 + stack; in full mode every one does. -/
  shares : List Nat := []
  /-- Frames whose lines are released: copied, or refused by their port. -/
  done : List Nat := []
  /-- Frames copied. -/
  copied : Nat := 0
  /-- Bytes written to each port's area. -/
  used : List (Nat × Nat) := []
  deriving DecidableEq, Repr

/-- A host port (R399-R401). -/
structure HostPort where
  doorbells : List Nat := []
  lost : BitVec 32 := 0
  apbase : BitVec 52 := 0
  windows : List (Nat × BitVec 128) := []
  /-- MSI-X messages raised (R403). -/
  msix : Nat := 0
  /-- The system core and class that firmware has set for its doorbells (R401). -/
  core : Nat := 0
  cls : Nat := 0
  /-- The failure code that boot left on its status (R406). -/
  status : Nat := 0
  deriving DecidableEq, Repr

/-! ### Power, boot and saved tasks -/

/-- The current governor's readings and the ballast (R396-R398). -/
structure Governor where
  current : BitVec 32 := 0
  excursions : BitVec 16 := 0
  holding : Bool := false
  /-- What it holds not ready: cells by PCELL, matrix units by 0x20000 + cluster. -/
  holds : List Nat := []
  /-- The last 100 microseconds, the latest last: whether the current stood above 16,000 A. -/
  recent : List Bool := []
  ballast : Nat := 0
  deriving DecidableEq, Repr

/-- What boot and attestation hold (R406): the verified firmware's number, whether it runs, SPDM answers in order
(kind, value), and the open session. -/
structure Boot where
  firmware : Nat := 0
  failed : Bool := false
  answers : List (Nat × Nat) := []
  session : Option Nat := none
  deriving DecidableEq, Repr

/-- A record taken by CTXREST and not yet loaded (R254): its 4,096 bytes as a number. -/
structure Restore where
  va : Nat
  image : Nat
  deriving DecidableEq, Repr

/-! ### Copy engines and matrix units (R180-R185, R262-R300) -/

/-- A transfer held by a cluster's copy engine: who issued it, the block's place and its 64 bytes, the next
element, the bytes written, its status once the copy is over, and the completion step it has reached (R180-R185). -/
structure Transfer where
  id : Nat
  cell : Nat
  token : Nat
  lcell : Nat
  launch : Option Nat
  path : Word
  base : Nat
  block : Nat
  started : Bool := false
  k : Nat := 0
  wrote : Nat := 0
  status : Option Nat := none
  /-- 0 before the stamp, 1 before the byte update, 2 while it is on its way. -/
  step : Nat := 0
  parked : Bool := false
  deriving DecidableEq, Repr

/-- A format context (R264). -/
structure FmtCtx where
  word : BitVec 14 := 0x15B
  sca : BitVec 8 := 0
  scb : BitVec 8 := 0
  sctr : Word := 0
  srva : Word := 0
  lkey : Word := 0
  deriving DecidableEq, Repr

/-- The forms a matrix unit queues (R286, R300). -/
inductive MxKind where
  | mma | mmas | mnorm | mxs | mtout | mfmt | msrec | mkey
  deriving DecidableEq, Repr

/-- Where a remote command's completion goes (R298, R299). -/
structure MxReturn where
  dev : Nat
  seq : Nat
  path : Word
  cls : Nat
  harg : Word
  kind : Nat
  /-- The physical cell, for an issuer that runs no launch. -/
  core : Option Nat
  deriving DecidableEq, Repr

/-- A command in a format context's queue (R265-R281, R286-R292). -/
structure MxCmd where
  id : Nat
  fc : Nat
  kind : MxKind
  /-- The issuing task's number, or for a message command its own (R272). -/
  token : Nat
  /-- The number of the task that asked for it, where it runs on this module; 0 for one on another (R277). -/
  task : Nat := 0
  cell : Nat
  lcell : Nat
  launch : Option Nat
  ret : Option MxReturn := none
  /-- The descriptor's 64 bytes, and the first logical rows of operands named by slot (R266, R267). -/
  desc : Nat := 0
  rowA : Nat := 0
  rowB : Nat := 0
  /-- MFMT's words, MSREC's VA, MXS's S, MKEY's key. -/
  x : Word := 0
  y : Word := 0
  z : Word := 0
  key : Word := 0
  frm : Nat := 0
  started : Bool := false
  /-- The scale exponents in use (R275). -/
  sca : Int := 0
  scb : Int := 0
  /-- SCTR as the command's first request found it: the samples draw from there on (R279, R282). -/
  sctr : Word := 0
  /-- ROWPROG: k-steps, rows or samples done; elements written of the row in progress (R271, R292). -/
  k : Nat := 0
  col : Nat := 0
  /-- The alias table is built (R278); mean and M2 of the four probes (R280). -/
  built : Bool := false
  probes : List (Nat × Nat) := []
  /-- SCOUNT and VAR once they are known (R281). -/
  result : Option (Nat × Nat) := none
  flags : BitVec 5 := 0
  code : Option Nat := none
  parked : Bool := false
  deriving DecidableEq, Repr

/-- A command that an MWAIT will cover: its status and flags once it has completed (R293). -/
structure MxRec where
  id : Nat
  token : Nat
  tile : Option Nat
  /-- It is an MTOUT, whose writes an MWAIT orders (R294). -/
  out : Bool := false
  status : Option Nat := none
  flags : BitVec 5 := 0
  deriving DecidableEq, Repr

/-- An MWAIT in progress: the access its result returns to and what it covers (R293). -/
structure MxWait where
  id : Nat
  token : Nat
  tile : Nat
  covers : List MxRec
  deriving DecidableEq, Repr

/-- A MAR or MAW that waits for its tile (R295): a MAR's access, its read-out type and mode; a MAW's words. -/
structure MxAcc where
  id : Option Nat
  fc : Nat
  token : Nat
  tile : Nat
  row : Nat
  col : Nat
  oty : Nat := 5
  mode : Nat := 0
  key : Word := 0
  data : List Nat := []
  /-- The task had issued a command on the tile, and no MWAIT had returned for it, at the issue: what a MAR reads is not
promised (R273, R295). -/
  loose : Bool := false
  deriving DecidableEq, Repr

/-- A cluster's matrix unit (R262-R283). -/
structure MxUnit where
  ctxs : List (Nat × FmtCtx) := []
  /-- Tile elements by tile × 16,384 + row × 128 + column, where not +0. -/
  acc : List (Nat × Nat) := []
  /-- The norm buffer (R276) and its owner: format context and task, 0 for a task on another module (R277). -/
  normA : List (Nat × Nat) := []
  normB : List (Nat × Nat) := []
  norm : Option (Nat × Nat) := none
  /-- The alias unit: the command that uses it, prob, alias and r by k (R278). -/
  aliasCmd : Option Nat := none
  /-- The sampling commands that wait for the alias unit, in the order they became ready (R277). -/
  aliasQueue : List Nat := []
  prob : List (Nat × Nat) := []
  other : List (Nat × Nat) := []
  weight : List (Nat × Nat) := []
  /-- Sampling records by tile: format context, SCOUNT, VAR (R291). -/
  samples : List (Nat × (Nat × Nat × Nat)) := []
  /-- The record that a task still reads on a tile until its MWAIT: the task, and an earlier record (R297). -/
  earlier : List (Nat × (Nat × (Nat × Nat × Nat))) := []
  /-- Owned tiles (R272). -/
  owners : List (Nat × Nat) := []
  /-- Every queue's commands in issue order. -/
  cmds : List MxCmd := []
  recs : List MxRec := []
  waits : List MxWait := []
  accs : List MxAcc := []
  /-- The format context served last (R269). -/
  last : Nat := 31
  deriving DecidableEq, Repr

/-- A remote matrix command sent and not completed (R298, R299; log 30). -/
structure Mrem where
  lcell : Nat
  launch : Option Nat
  dev : Nat
  seq : Nat
  path : Word
  cls : Nat
  harg : Word
  kind : Nat
  tile : Nat
  core : Option Nat
  /-- FRM of the issuing context at issue, and its task's number (R264, R277). -/
  frm : Nat := 0
  task : Nat := 0
  deriving DecidableEq, Repr

/-! ### Jobs (R401-R403) -/

/-- A node that has been started, or is never started: its launch index and level record. -/
structure NodeRun where
  launch : Option Nat
  recva : Nat
  deriving DecidableEq, Repr

/-- A job that has passed its checks: its records, its port and its nodes. -/
structure Job where
  va : Nat
  jrec : Nat
  /-- The graph's level record, the parent of every launch. -/
  graphRec : Nat
  port : Nat
  nodes : List (Nat × NodeRun) := []
  deriving DecidableEq, Repr

/-! ### The module -/

/-- Which instruction the model executes for a context, or which event: set by the step, read by the meanings. -/
structure Focus where
  cell : Nat := 0x10100
  ctx : Nat := 0
  /-- S of the instruction being executed (R66). -/
  sw : Bool := false
  /-- The address a follower executes at differs from a fetch: the instruction came from its stream (R43). -/
  streamed : Bool := false
  /-- The arguments of the event being executed. -/
  arg : EventArg := {}
  deriving DecidableEq, Repr

/-- The state of one module, as the spec gives it (INVENTORY.md lists every field with its rule). -/
structure State where
  /-- MODEL'S OWN (log 3): whose turn it is and what it executes. -/
  now : Focus := {}
  /-- MODEL'S OWN (log 3): the events to come, in order, each with its arguments. -/
  agenda : List (Instr × EventArg) := []
  /-- MODEL'S OWN (log 3): the cells that issue next, by PCELL; then the cell of `now`. -/
  turns : List Nat := []
  /-- MODEL'S OWN (log 13): local-clock cycles each coming issue takes. -/
  delays : List Nat := []
  /-- MODEL'S OWN (logs 13, 16): whether each coming access of a cell to rows still has to reach them after issue, and each
operand block is read in pieces. -/
  late : List Bool := []
  /-- MODEL'S OWN (log 6): free values used so far. -/
  free : Nat := 0
  /-- MODEL'S OWN (log 10): the next access id and update ticket. -/
  nextId : Nat := 1
  /-- MODEL'S OWN (log 12): entries a cell's outbound message queue holds (R113). -/
  outCap : Nat := 64
  /-- The HBM's bytes by physical address, canonical; an unlisted byte reads 0 (R178, log 4). -/
  hbm : List Host.Cell := []
  /-- The scratchpads' bytes by PCELL × 2^20 + cell row × 128 + offset, canonical; unlisted 0 (R172, log 4). -/
  pad : List Host.Cell := []
  /-- Lines of HBM and scratchpad whose check value does not match (R202, log 15). -/
  badHbm : List Nat := []
  badPad : List Nat := []
  /-- The key index each HBM line was last written under, where not 0 (R201). -/
  lineKeys : List (Nat × Nat) := []
  keys : List (Nat × BitVec 512) := []
  cells : List (Nat × Cell) := []
  /-- Tag tables by logical cell, and by 0x10000 + index for system cores (R174, R408): key × 256 + slot. -/
  tags : List (Nat × TagEntry) := []
  /-- The logical-to-physical table (R58): valid entries only. -/
  l2p : List (Nat × Nat) := []
  launches : List (Nat × LaunchEntry) := []
  /-- The site map: where not the identity of log 11, site ↦ 64 × y + x of its logical cluster (R409). -/
  sites : List (Nat × Nat) := []
  devidx : BitVec 9 := 0
  xroot : BitVec 52 := 0
  fnroute : List (Nat × BitVec 11) := []
  /-- Stride-gather patterns by stack × 16 + pattern: SGLOAD's operand (R183). -/
  patterns : List (Nat × Word) := []
  inflight : List Access := []
  records : List RecOp := []
  joins : List JoinHome := []
  /-- Messages posted and not yet admitted; one that adds to LIVE waits for its addition's ticket (R30, R46). -/
  posts : List Post := []
  /-- Level records whose CANCEL the command processor has still to spread (R49). -/
  cancels : List Nat := []
  /-- Messages admitted and not yet started, in order of admission: PCELL × 64 + slot, and what its start is ordered by:
  its flow and its delivery window (R216, R351; Msg.order). -/
  unstarted : List (Nat × List Nat) := []
  near : List (Nat × List Post) := []
  l1 : List (Nat × List TlbEntry) := []
  slices : List (Nat × Slice) := []
  /-- Misses at the clusters' L1 ports, in arrival order (R200): cluster key, miss. -/
  ports : List (Nat × Miss) := []
  held : Bool := false
  /-- The bounce table (R255): absent logical cells and their rings' VAs. -/
  bounce : List (Nat × Nat) := []
  /-- The port's work on rings in another module's memory: absent logical cell, number of the work (R255, log 20). -/
  ringWork : List (Nat × Nat) := []
  /-- Writes handed to the host's ports: port, host address, bytes (R400). -/
  hostOut : List (Nat × Nat × List Byte) := []
  host : List (Nat × HostPort) := []
  /-- HALT or a thermal trip has stopped every compute and depot cell (R256, R398): a cell with no entry in
  `cells` is halted too. -/
  stopped : Bool := false
  /-- The OP of each cluster's matrix unit, where not 4, and its power controller's sequence (R385, R390). -/
  unitOps : List (Nat × BitVec 3) := []
  unitOpq : List (Nat × List OpRequest) := []
  thermlim : BitVec 8 := 105
  governor : Governor := {}
  boot : Boot := {}
  savedTasks : List (Nat × SavedTask) := []
  restores : List Restore := []
  /-- Transfers that the copy engines hold, in issue order (R239). -/
  transfers : List Transfer := []
  /-- The matrix units by cluster. -/
  units : List (Nat × MxUnit) := []
  mrems : List Mrem := []
  /-- Jobs in progress (R403). -/
  jobs : List Job := []
  /-- Frame shares written since the last cut, by frame × 64 + stack (R405). -/
  dirty : List Nat := []
  cut : Cut := {}
  stage : Stage := {}
  groups : List (Nat × Group) := []
  /-- Pushes on the mesh, oldest first (R326). -/
  pushes : List Push := []
  -- The fabric
  /-- The partition table; none until one is accepted (R178, R406). -/
  partition : Option (List Nat) := none
  /-- The reach mask; none until REACH is first written (R319). -/
  reach : Option (List Nat) := none
  flows : List Flow := []
  serai : List Serai := []
  /-- Packets handed to the links, oldest first. -/
  out : List Packet := []
  rounds : Rounds := {}
  rndlen : BitVec 32 := 65536
  rndset : Word := 0
  reachva : Word := 0
  rto : BitVec 32 := 16384
  parkctl : Word := 0
  faberr : Word := 0
  fabports : List (Nat × FabPort) := []
  /-- The plan number announced last (R318). -/
  plan : Nat := 0
  /-- MODEL'S OWN (log 19): the groups to which no route is left while ports drain. -/
  unrouted : List Nat := []
  deriving DecidableEq, Repr

/-- The machine right after reset: every field at the value INVENTORY.md gives (R406). -/
def State.reset : State := {}

end Sys2Proof.Machine
end

