-- ==== Sys2Proof/Machine/Mem.lean ====
section
/-! DEFINITION. Byte memories in canonical form, sparse tables, little-endian words (R5). -/
namespace Sys2Proof.Machine

/-! ### Memory: (address, byte) pairs, addresses strictly rising, no byte equal to what an unlisted one reads as -/

/-- What an address that nothing has written reads as (log 4). -/
def Memory.unlisted : Byte := 0

/-- Every listed address lies at or above `lo`, they rise strictly, and no byte is the unlisted one. -/
def Memory.sortedFrom : Nat → List Host.Cell → Bool
  | _, [] => true
  | lo, (a, b) :: r => lo ≤ a && b != Memory.unlisted && Memory.sortedFrom (a + 1) r

/-- The canonical form of a memory. -/
def Memory.wf (m : List Host.Cell) : Bool := Memory.sortedFrom 0 m

/-- The byte at an address. -/
def Memory.get : List Host.Cell → Nat → Byte
  | [], _ => Memory.unlisted
  | (a, b) :: r, k => if a = k then b else if k < a then Memory.unlisted else Memory.get r k

/-- The memory with one byte written, in canonical form. -/
def Memory.set : List Host.Cell → Nat → Byte → List Host.Cell
  | [], k, v => if v = Memory.unlisted then [] else [(k, v)]
  | (a, b) :: r, k, v =>
    if k < a then (if v = Memory.unlisted then (a, b) :: r else (k, v) :: (a, b) :: r)
    else if k = a then (if v = Memory.unlisted then r else (k, v) :: r)
    else (a, b) :: Memory.set r k v

/-- Bytes `a .. a + n - 1` as a little-endian number (R5). -/
def Memory.read (m : List Host.Cell) (a : Nat) : Nat → Nat
  | 0 => 0
  | n + 1 => (Memory.get m a).toNat + 256 * Memory.read m (a + 1) n

/-- Bytes `a .. a + n - 1` written from a little-endian number. -/
def Memory.write (m : List Host.Cell) (a : Nat) : Nat → Nat → List Host.Cell
  | 0, _ => m
  | n + 1, x => Memory.write (Memory.set m a (BitVec.ofNat 8 x)) (a + 1) n (x / 256)

/-- The bytes of `x` whose bit of `mask` is set, written at `a ..` (R226). -/
def Memory.writeMasked (m : List Host.Cell) (a mask : Nat) : Nat → Nat → List Host.Cell
  | 0, _ => m
  | n + 1, x =>
    let m' := if mask % 2 = 1 then Memory.set m a (BitVec.ofNat 8 x) else m
    Memory.writeMasked m' (a + 1) (mask / 2) n (x / 256)

/-- The `n` bytes at `a` as a list. -/
def Memory.bytes (m : List Host.Cell) (a n : Nat) : List Byte :=
  (List.range n).map fun k => Memory.get m (a + k)

/-! ### Byte strings -/

/-- The little-endian number of a byte string (R5). -/
def ofBytes : List Byte → Nat
  | [] => 0
  | b :: r => b.toNat + 256 * ofBytes r

/-- The `n` low bytes of a number, little-endian. -/
def toBytes : Nat → Nat → List Byte
  | 0, _ => []
  | n + 1, x => BitVec.ofNat 8 x :: toBytes n (x / 256)

/-! ### Sparse tables -/

/-- The value at a key, or the default. -/
def look {α : Type} (dflt : α) : List (Nat × α) → Nat → α
  | [], _ => dflt
  | (k, v) :: r, n => if k = n then v else look dflt r n

/-- The value at a key, if there is one. -/
def look? {α : Type} : List (Nat × α) → Nat → Option α
  | [], _ => none
  | (k, v) :: r, n => if k = n then some v else look? r n

/-- The table with a key set, its keys in rising order. -/
def put {α : Type} : List (Nat × α) → Nat → α → List (Nat × α)
  | [], n, x => [(n, x)]
  | (k, v) :: r, n, x =>
    if n < k then (n, x) :: (k, v) :: r else if n = k then (n, x) :: r else (k, v) :: put r n x

/-- The table without a key. -/
def del {α : Type} (t : List (Nat × α)) (n : Nat) : List (Nat × α) := t.filter (·.1 ≠ n)

/-- A list with its element at an index replaced; unchanged past the end. -/
def replaceAt {α : Type} : List α → Nat → α → List α
  | [], _, _ => []
  | _ :: r, 0, x => x :: r
  | y :: r, n + 1, x => y :: replaceAt r n x

/-- A list without its element at an index. -/
def removeAt {α : Type} : List α → Nat → List α
  | [], _ => []
  | _ :: r, 0 => r
  | y :: r, n + 1 => y :: removeAt r n

/-- The first index below `n` that satisfies a test. -/
def firstBelow (n : Nat) (f : Nat → Bool) : Option Nat := (List.range n).find? f

end Sys2Proof.Machine
end

