-- ==== Sys2Proof/Machine/Ops.lean ====
section
/-! DEFINITION. Cells, contexts and registers; rows; issue and retirement; taking a trap and returning from one. -/
namespace Sys2Proof.Machine

/-! ### Cells and contexts -/

/-- The kind of the cell a PCELL names (R64); none when no such cell exists. -/
def kindOf (cell : Nat) : Option CellKind :=
  if cell < Config.computeCells then some .compute
  else if Config.depotBase ≤ cell ∧ cell < Config.depotBase + Config.depotCells then some .depot
  else if Config.systemBase ≤ cell ∧ cell < Config.systemBase + Config.systemCores then some .system
  else none

/-- A cell with no entry: as at reset, halted while the module is stopped (R256). -/
def State.blank (s : State) (n : Nat) : Cell := { halted := s.stopped && kindOf n != some .system }

def State.cell (s : State) (n : Nat) : Cell := look (s.blank n) s.cells n

def State.setCell (s : State) (n : Nat) (c : Cell) : State := { s with cells := put s.cells n c }

def State.modCell (s : State) (n : Nat) (f : Cell → Cell) : State := s.setCell n (f (s.cell n))

/-- A context of a cell; context numbers are taken modulo 4. -/
def Cell.ctx (c : Cell) (k : Nat) : Ctx := c.ctxs[k % 4]'(Nat.mod_lt _ (by decide))

/-- The instruction takes its operands or writes its result piece by piece, and is in the middle of that (R207). -/
def Ctx.inside (x : Ctx) : Bool := decide (1024 < x.stage)

/-- A context of the cell is being saved (R251). -/
def Cell.saves (c : Cell) : Bool := [0, 1, 2, 3].any fun k => (c.ctx k).saving

/-- A context of the cell is being saved, or is in the middle of an instruction: HALT waits for it (R256). -/
def Cell.mid (c : Cell) : Bool := c.saves || [0, 1, 2, 3].any fun k => (c.ctx k).inside

/-- A cell that issues and dispatches nothing: halted, or about to halt with nothing to wait for, or paused by a step of its
operating point (R256, R392). -/
def Cell.still (c : Cell) : Bool := c.halted || c.evac.isSome || (c.halting && !c.mid)

def Cell.setCtx (c : Cell) (k : Nat) (x : Ctx) : Cell :=
  { c with ctxs := c.ctxs.set (k % 4) x (Nat.mod_lt _ (by decide)) }

/-- Every context of a cell changed alike. -/
def Cell.mapCtxs (f : Ctx → Ctx) (c : Cell) : Cell :=
  [0, 1, 2, 3].foldl (fun c k => c.setCtx k (f (c.ctx k))) c

def State.ctx (s : State) (n k : Nat) : Ctx := (s.cell n).ctx k

def State.setCtx (s : State) (n k : Nat) (x : Ctx) : State := s.modCell n (·.setCtx k x)

def State.modCtx (s : State) (n k : Nat) (f : Ctx → Ctx) : State := s.setCtx n k (f (s.ctx n k))

/-- The context that executes. -/
def State.cur (s : State) : Ctx := s.ctx s.now.cell s.now.ctx

def State.modCur (s : State) (f : Ctx → Ctx) : State := s.modCtx s.now.cell s.now.ctx f

/-- The executing cell. -/
def State.here (s : State) : Cell := s.cell s.now.cell

def State.modHere (s : State) (f : Cell → Cell) : State := s.modCell s.now.cell f

/-- The kind of the executing cell; a compute cell where no cell has the number. -/
def State.kind (s : State) : CellKind := (kindOf s.now.cell).getD .compute

/-- System mode: every context of a system core, context 3 of every cell, and from trap entry to ERET (R242). -/
def State.sysMode (s : State) (n k : Nat) : Bool :=
  kindOf n == some .system || k % 4 == 3 || (s.ctx n k).sys

def State.isSys (s : State) : Bool := s.sysMode s.now.cell s.now.ctx

/-- A fresh free value (log 6). -/
def State.fresh (s : State) : Nat × State := (Config.freeWord s.free, { s with free := s.free + 1 })

/-- A fresh access id or ticket (log 10). -/
def State.newId (s : State) : Nat × State := (s.nextId, { s with nextId := s.nextId + 1 })

/-! ### Registers -/

/-- s[R]; s0 reads zero (R29). -/
def Ctx.getS (x : Ctx) (r : Reg) : Word := if r = 0 then 0 else x.s[r.val]

/-- s[R] := w; a write of s0 is discarded (R70). -/
def Ctx.setS (x : Ctx) (r : Reg) (w : Word) : Ctx :=
  if r = 0 then x else { x with s := x.s.set r.val w }

def Ctx.getV (x : Ctx) (r : Reg) : Vec := x.v[r.val]

def Ctx.setV (x : Ctx) (r : Reg) (w : Vec) : Ctx := { x with v := x.v.set r.val w }

/-- p[P]; p0 reads all ones (R70). -/
def Ctx.getP (x : Ctx) (p : Fin 8) : Pred := if p = 0 then 0xFFFF else x.p[p.val]

/-- p[P] := w; p0 is never a destination (R70). -/
def Ctx.setP (x : Ctx) (p : Fin 8) (w : Pred) : Ctx :=
  if p = 0 then x else { x with p := x.p.set p.val w }

def State.s (s : State) (r : Reg) : Word := s.cur.getS r
def State.v (s : State) (r : Reg) : Vec := s.cur.getV r
def State.p (s : State) (p : Fin 8) : Pred := s.cur.getP p

/-- The accesses still owed to register `d` of context (n, k) know that `lanes` of it have been written (R41). -/
def State.clobber (s : State) (n k : Nat) (d : Dest) (lanes : Nat) : State :=
  { s with inflight := s.inflight.map fun a =>
      if a.cell = n ∧ a.ctx = k ∧ a.dest = d then { a with clobber := a.clobber ||| lanes } else a }

/-- s[D] := w by an interlocked instruction of the executing context (R40, R41). -/
def State.setS (s : State) (d : Reg) (w : Word) : State :=
  (s.modCur (·.setS d w)).clobber s.now.cell s.now.ctx (.s d) 0xFFFF

/-- v[D] := w, writing the byte lanes in `lanes`. -/
def State.setVLanes (s : State) (d : Reg) (w : Vec) (lanes : Nat) : State :=
  (s.modCur (·.setV d w)).clobber s.now.cell s.now.ctx (.v d) lanes

def State.setV (s : State) (d : Reg) (w : Vec) : State := s.setVLanes d w 0xFFFF

def State.setP (s : State) (d : Fin 8) (w : Pred) : State := s.modCur (·.setP d w)

/-- A predicate named by a five-bit register field (R70). -/
def predOf (r : Reg) : Fin 8 := Fin.ofNat 8 r.val

/-- Flags are sticky: ORed into FFLAGS (R64). -/
def State.raise (s : State) (f : BitVec 5) : State :=
  s.modCur fun x => { x with fflags := x.fflags ||| f }

/-! ### Code store -/

/-- `CodeH(a)` of a cell (R87). -/
def Cell.half (c : Cell) (a : Nat) : Nat := (look 0 c.code (a % 0x4000)).toNat

def Cell.setHalf (c : Cell) (a : Nat) (h : Half) : Cell := { c with code := put c.code (a % 0x4000) h }

/-- A halfword as a context fetches it: the old bits where it was fetched before they were written (R84). -/
def Cell.fetchHalf (c : Cell) (x : Ctx) (a : Nat) : Nat :=
  match look? x.ahead (a % 0x4000) with
  | some h => h.toNat
  | none => c.half a

/-- Halfwords from one code address to another, in sequence. -/
def codeAhead (pc : CodeAddr) (a : Nat) : Nat := (BitVec.ofNat 14 a - pc).toNat

/-- A halfword that a context may have fetched: it lies less than 8 halfwords ahead of issue, and so does the whole of its
aligned unit, which is fetched in one cycle (R84). -/
def inWindow (pc : CodeAddr) (h : Nat) : Bool := decide (codeAhead pc h < 8) && decide (codeAhead pc (h / 2 * 2 + 1) < 8)

/-- Of the old halfwords that a context has kept, those that its next instruction can still find: less than 8 halfwords
ahead, and in whole units, but for the odd half of a unit whose even half the context has just issued.  A context that goes
back fetches an aligned unit anew as a whole (R84). -/
def Ctx.sequel (x : Ctx) : Ctx :=
  { x with ahead := x.ahead.filter fun e =>
      inWindow x.pc e.1 && ((look? x.ahead (e.1 ^^^ 1)).isSome || (e.1 % 2 == 1 && e.1 == x.pc.toNat)) }

/-- A context that has fetched `u` aligned units from its next instruction on keeps the old bits of the unit at `a`
when that unit is among them, and lies less than 8 halfwords ahead of issue (R84).  One in follow mode fetches nothing (R43),
nor does one that still executes what it has received (log 25). -/
def Ctx.prefetched (x : Ctx) (c : Cell) (u a : Nat) : Ctx :=
  let keep (x : Ctx) (h : Nat) : Ctx :=
    if x.busy && !x.following && x.stream.isEmpty && inWindow x.pc h && codeAhead (x.pc / 2 * 2) a / 2 < u
        && (look? x.ahead (h % 0x4000)).isNone then
      { x with ahead := put x.ahead (h % 0x4000) (BitVec.ofNat 16 (c.half h)) }
    else x
  keep (keep x.sequel a) (a + 1)

/-- The instruction at the program counter has issued and is not over: it waits for a reply, for the context's results, or
for its trap (R42, R234, R243). -/
def Ctx.begun (x : Ctx) : Bool :=
  x.ending || x.pendingTrap.isSome || !x.answers.isEmpty || (match x.wait with | .none => false | .follow _ => false | _ => true)

/-- Units that a context has fetched: as many as a free value says, and at least those of an instruction that has
issued and is not over (R84, R234). -/
def Ctx.fetchedUnits (x : Ctx) (f : Nat) : Nat :=
  let own := if x.begun then 1 + (x.pc.toNat % 2) else 0
  max own (f % 6)

/-! ### Rows (R172, R386-R388) -/

/-- Rows whose row-map code is above the OP (R386): 6 counts as 7. -/
def Cell.badRows (c : Cell) (op : Nat) : Nat := (c.rowmap.filter fun e => op < e.2).length

/-- U_k of a compute cell (R386); 0 for an OP above 5.  Other cells have every row (R408). -/
def Cell.rowsAt (c : Cell) (op : Nat) : Nat :=
  if 5 < op then 0 else min 4096 (4160 - c.badRows op)

def State.rowsOf (s : State) (n : Nat) : Nat :=
  if kindOf n = some .compute then (s.cell n).rowsAt (s.cell n).opcur.toNat else 4096

/-- Rows the logical cells mapped before `lcell` take on a cell (R388). -/
def rowsBefore (lcell : Nat) : List Hosted → Nat
  | [] => 0
  | h :: r => if h.lcell = lcell then 0 else h.w + h.p + rowsBefore lcell r

/-- The cell row at which a logical cell's rows begin; 0 where the cell does not host it. -/
def Cell.rowBase (c : Cell) (lcell : Nat) : Nat :=
  if c.hosted.any (·.lcell = lcell) then rowsBefore lcell c.hosted else 0

/-- An activation without a launch has the whole scratchpad as private rows (R408, log 17). -/
def Ctx.pRows (x : Ctx) : Nat := if x.launch = none then 4096 else x.prows.toNat

def Ctx.wRows (x : Ctx) : Nat := if x.launch = none then 0 else x.cwrows.toNat

/-- The cell row of private row 0 of a context's task. -/
def Cell.privBase (c : Cell) (x : Ctx) : Nat :=
  if x.launch = none then 0 else c.rowBase x.lcell.toNat + x.wRows

/-- Key of a scratchpad byte in `State.pad`. -/
def padKey (cell addr : Nat) : Nat := cell * 0x100000 + addr

/-- Whether bytes `a .. a + n - 1` are local bytes of a context's task, backed now (R172, R387); no byte lies outside
when there is none (R347). -/
def State.localOk (s : State) (cell : Nat) (x : Ctx) (a n : Nat) : Bool :=
  n == 0 || (a + n ≤ x.pRows * 128 &&
  (s.cell cell).privBase x + (a + n - 1) / 128 < s.rowsOf cell)

/-- The scratchpad address of local byte `a`. -/
def State.localAddr (s : State) (cell : Nat) (x : Ctx) (a : Nat) : Nat :=
  (s.cell cell).privBase x * 128 + a

/-- `n` bytes of the scratchpad as a number. -/
def State.padRead (s : State) (cell addr n : Nat) : Nat := Memory.read s.pad (padKey cell addr) n

/-- The scratchpad lines an access of `n` bytes changes get check values made over them (R202). -/
def healed (bad : List Nat) (a n : Nat) : List Nat :=
  bad.filter fun l => !(a / 128 ≤ l && l ≤ (a + n - 1) / 128)

/-- The marks that rows bring along which were copied from row `r` of cell `c` on to row `r'` of cell `c'` on (R202). -/
def marksMoved (bad : List Nat) (c r c' r' rows : Nat) : List Nat :=
  bad.filterMap fun l => if c * 0x2000 + r ≤ l && l < c * 0x2000 + r + rows then some (l - (c * 0x2000 + r) + (c' * 0x2000 + r')) else none

def State.padWrite (s : State) (cell addr n x : Nat) : State :=
  { s with pad := Memory.write s.pad (padKey cell addr) n x
           badPad := healed s.badPad (padKey cell addr) n }

/-- Local bytes of the executing task, as its own local load reads them. -/
def State.localRead (s : State) (a n : Nat) : Nat :=
  s.padRead s.now.cell (s.localAddr s.now.cell s.cur a) n

def State.localBytes (s : State) (a n : Nat) : List Byte :=
  Memory.bytes s.pad (padKey s.now.cell (s.localAddr s.now.cell s.cur a)) n

def State.localWrite (s : State) (a n x : Nat) : State :=
  s.padWrite s.now.cell (s.localAddr s.now.cell s.cur a) n x

/-! ### Results owed to a context -/

/-- The operations that return a result to a register (R40). -/
def AccOp.returns : AccOp → Bool
  | .load _ | .vload .. | .amo .. | .bfpadd .. | .phwait _ | .phread _ | .answer _ | .query .. | .reply | .phengine .. | .scale .. => true
  | .store .. | .vstore .. | .phinit _ | .pharr | .phadd _ | .orBits .. | .record .. => false

/-- A memory event of R206: not a result that another unit supplies. -/
def AccOp.isAccess : AccOp → Bool
  | .answer _ | .query .. | .reply => false
  | _ => true

/-- Stores, AMOs and phase updates, of which a context may have 32 outstanding (R223). -/
def AccOp.counted : AccOp → Bool
  | .store .. | .vstore .. | .amo .. | .bfpadd .. | .phinit _ | .pharr | .phadd _ => true
  | _ => false

/-- An access not yet acknowledged. -/
def Phase.open : Phase → Bool
  | .done .. | .failed _ => false
  | _ => true

/-- An access of the activation that now runs on context (n, k). -/
def State.owns (s : State) (n k : Nat) (a : Access) : Bool :=
  a.unit.isNone && a.cell == n && a.ctx == k && a.act == (s.ctx n k).acts.toNat

/-- The variable-latency results a context waits for at a switch marker (R41). -/
def State.owed (s : State) (n k : Nat) : Bool :=
  s.inflight.any fun a => s.owns n k a && a.op.returns

/-- The same without PHWAITs, which stay outstanding through a trap routine (R243). -/
def State.owedAtTrap (s : State) (n k : Nat) : Bool :=
  s.inflight.any fun a => s.owns n k a && a.op.returns && !(match a.op with | .phwait _ => true | _ => false)

/-- A PHWAIT that has not observed its generation. -/
def Access.unresolved (a : Access) : Bool :=
  match a.op with | .phwait _ => a.phase.open | _ => false

/-- A PHWAIT that has not observed its generation holds the context's accesses back; those that were outstanding at
trap entry do not hold the trap routine's (R235). -/
def State.waitsPhase (s : State) (n k : Nat) : Bool :=
  s.inflight.any fun a => s.owns n k a && a.unresolved && decide ((s.ctx n k).inTrap ≤ a.trap)

/-- Its access has parked in its slice, and the context has still to take that answer (R195). -/
def Ctx.hasParked (x : Ctx) : Bool := x.answers.any fun r => match r with | .parkIn _ => true | _ => false

/-- The context's instruction has a reply that it has still to take (R195, R234, R356), is in the middle of its operands
(R207), or CTXREST is taking its record (R254). -/
def Ctx.finishing (x : Ctx) : Bool :=
  decide (512 < x.stage) || x.hasParked || x.answers.any fun r => match r with | .value .. => true | .packet .. => true | _ => false

/-- The context is in the middle of an instruction whose effect has begun: a reply is there or on its way from a
home (R234, R251). -/
def State.midway (s : State) (n k : Nat) : Bool :=
  (s.ctx n k).finishing || (match (s.ctx n k).wait with
    | .home id => s.inflight.any fun a => a.id == id && a.phase != .parked
    | _ => false)

/-! ### A place in a replay queue given back (R195, R251) -/

/-- A place in a replay queue that an access of context (n, k) has, which is not in flight yet. -/
def Parked.missOf (n k : Nat) (p : Parked) : Bool :=
  match p with
  | .miss m => m.cell == n && m.ctx == k
  | _ => false

/-- Context (n, k) gives back the places that its instruction's accesses have in the replay queues, and what it has read of its
operands: the instruction has not issued, and will start anew (R251). -/
def State.giveBack (s : State) (n k : Nat) : State :=
  { s.modCtx n k (fun x => { x with answers := [], stage := 0 }) with
    slices := s.slices.map fun e => (e.1, { e.2 with replay := e.2.replay.filter fun p => !p.missOf n k }) }

/-! ### Halting (R256) -/

/-- A cell halts at an instruction boundary and records its counts. -/
def Cell.halt (c : Cell) : Cell :=
  if c.halted then c
  else { c with halted := true, halting := false, haltcyc := c.cycle, haltsent := c.sent, haltrecv := c.received }

/-- A cell that HALT found in the middle of a save, or of an instruction that takes several steps, halts once it is in the
middle of none (R256). -/
def Cell.haltIfDue (c : Cell) : Cell :=
  if c.halting && !c.mid then c.halt else c

/-! ### Traps -/

/-- The trap causes of R244 that a context takes. -/
def causeIllegal : BitVec 8 := 0x01
def causePriv : BitVec 8 := 0x02
def causeMisalign : BitVec 8 := 0x03
def causePerm : BitVec 8 := 0x04
def causeCheck : BitVec 8 := 0x05
def causeSwizzle : BitVec 8 := 0x07
def causePhover : BitVec 8 := 0x08
def causeUnbound : BitVec 8 := 0x09
def causeBkpt : BitVec 8 := 0x0C
def causeTrap : BitVec 8 := 0x0D
def causeLoopnest : BitVec 8 := 0x0E
def causeLocalrange : BitVec 8 := 0x0F
def causeGqtype : BitVec 8 := 0x10

/-- The TRAPSTATE a trap leaves (R246): the mode before it, the length of the instruction at the trap,
whether context 3 was idle, the activation's class and the UNBOUND slot.  The map gives STEP no value at entry: it is 0
(DESIGN CHOICE, log 18). -/
def trapState (psys long noact : Bool) (cls slot : Nat) : Word :=
  BitVec.ofNat 64 (psys.toNat + 4 * long.toNat + 8 * noact.toNat + 256 * (cls % 256) + 65536 * (slot % 64))

/-- Trap entry, steps 2 and 3 of R243, on context (n, k): the four trap registers, system mode, TRAPVEC.
No other register changes; follow mode ends (R44).  The park of a switch marker that still waits for a PHWAIT at the BKPT of a
single step ends with the entry, and the task does not park for it again after ERET (DESIGN CHOICE, log 18). -/
def State.trapOnce (s : State) (n k : Nat) (cause : BitVec 8) (val : Word) : State :=
  let c := s.cell n
  s.modCtx n k fun x =>
    { x with
      trapcause := cause
      trappc := x.pc
      trapval := val
      trapstate := trapState (s.sysMode n k) (c.fetchHalf x x.pc.toNat % 2 == 1) false (x.chancls.toNat % 256) 0
      sys := true
      inTrap := x.inTrap + 1
      pc := c.trapvec
      pendingTrap := none
      parked := false
      wait := .none
      answers := []
      stage := 0
      stepping := false
      debugStep := false
      saving := false
      following := false
      stream := [] }

/-- Trap entry; under a single step the entry is followed by BKPT, as a retirement is (R245, log 18). -/
def State.enterTrap (s : State) (n k : Nat) (cause : BitVec 8) (val : Word) : State :=
  let s' := s.trapOnce n k cause val
  let s' := if (s.cell n).halting then s'.modCell n Cell.haltIfDue else s'
  if (s.ctx n k).stepping then s'.trapOnce n k causeBkpt 1 else s'

/-- The PCELL of the leader of a cell's cluster (R43). -/
def isLeader (cell : Nat) : Bool := cell < Config.computeCells && cell % 16 == 0

/-- A follower parked until the leader issues the instruction at `pc`, which the leader has issued and which traps or
ends its task: it counts as issued, and the follower goes on there by itself (R43, R44; DESIGN CHOICE, log 25). -/
def Ctx.engage (x : Ctx) (pc : CodeAddr) : Ctx :=
  if x.busy && x.wait == .follow pc && !x.following then { x with wait := .none, pc := pc, ahead := [] } else x

/-- The context receives no more of a leader's stream, and goes on by itself after what it has (R44). -/
def Ctx.unfollow (x : Ctx) : Ctx :=
  { x with
    wait := if x.following then (match x.wait with | .follow _ => .none | w => w) else x.wait
    following := false }

/-- The leader takes a trap or its task ends: its followers go on by themselves after what they have
received (R44). -/
def State.releaseFollowers (s : State) (n k : Nat) : State :=
  if isLeader n && (s.cells.any fun e => e.1 / 16 == n / 16 && e.1 != n && (e.2.ctx k).following) then
    { s with cells := s.cells.map fun e =>
        if e.1 / 16 = n / 16 ∧ e.1 ≠ n then (e.1, e.2.setCtx k (e.2.ctx k).unfollow) else e }
  else s

/-- The followers that wait for the instruction at context (n, k)'s program counter, which the leader has issued
without retiring it. -/
def State.engageFollowers (s : State) (n k : Nat) : State :=
  let pc := (s.ctx n k).pc
  if isLeader n && (s.cells.any fun e => e.1 / 16 == n / 16 && e.1 != n && (e.2.ctx k).wait == .follow pc) then
    { s with cells := s.cells.map fun e =>
        if e.1 / 16 = n / 16 ∧ e.1 ≠ n then (e.1, e.2.setCtx k ((e.2.ctx k).engage pc)) else e }
  else s

/-- A precise trap on context (n, k): entry at once, or once its results have returned (R243 step 1).  The BKPT of a
single step, whose TRAPVAL is 1, follows a retirement; any other trap belongs to an instruction that has issued. -/
def State.takeTrap (s : State) (n k : Nat) (cause : BitVec 8) (val : Word) : State :=
  let s := (if cause = causeBkpt ∧ val = 1 then s else s.engageFollowers n k).releaseFollowers n k
  if s.owedAtTrap n k then
    s.modCtx n k fun x => { x with pendingTrap := some (cause, val), stream := [], following := false }
  else s.enterTrap n k cause val

/-! ### Retirement -/

/-- The loop depth k of a context (R103). -/
def Ctx.depth (x : Ctx) : Nat :=
  if x.lc[0] = 0 then 0 else if x.lc[1] = 0 then 1 else if x.lc[2] = 0 then 2 else 3

/-- The back-edge check (R105): the address after sequential flow to `next`. -/
def Ctx.backEdge (x : Ctx) (next : CodeAddr) : Ctx :=
  match x.depth with
  | 0 => { x with pc := next }
  | k + 1 =>
    let i := k % 3
    have h : i < 3 := Nat.mod_lt _ (by decide)
    if next = x.le[i] then
      let n := x.lc[i] - 1
      { x with lc := x.lc.set i n, pc := if n = 0 then next else x.ls[i] }
    else { x with pc := next }

/-- What a meaning leaves: the state, where control goes (none: to the next instruction in sequence),
and whether that is a transfer, which is never checked for a back-edge (R105). -/
structure Done where
  s : State
  next : Option CodeAddr := none
  transfer : Bool := false

/-- Why an instruction does not complete now. -/
inductive Stop where
  /-- It traps (R244). -/
  | trap (cause : BitVec 8) (val : Word)
  /-- It is not ready, and issues again later; nothing changes. -/
  | hold
  /-- It waits: the state changes, and it runs again when its answer is there. -/
  | wait (s : State)

/-- An instruction is not ready, though its access has parked or it has read operands already.  Under a save, or a HALT, it
gives that up, and the save or the HALT finds it not issued (R250, R251, R256). -/
def State.notReady (s : State) : Stop :=
  if (s.cur.saving || s.here.halting) && (s.cur.hasParked || s.cur.inside) then .wait (s.giveBack s.now.cell s.now.ctx) else .hold

/-- A meaning before its retirement. -/
abbrev Body := State → Except Stop Done

/-- The address in sequence (R66). -/
def seqAddr (i : Instr) (pc : CodeAddr) : CodeAddr := pc + BitVec.ofNat 14 (width i)

/-- A follower's buffer takes one issued instruction with the address at which the leader goes on, or is found full (R43, R44). -/
def Ctx.feed (x : Ctx) (i : Instr) (sw : Bool) (pc next : CodeAddr) : Ctx :=
  let x := if x.wait = .follow pc && !x.following && x.busy then { x with following := true, stream := [], pc := pc, ahead := [] } else x
  if x.following then
    if 16 ≤ x.stream.length then x.unfollow else { x with stream := x.stream ++ [(i, sw, pc, next)] }
  else x

/-- An instruction of the stream is over, and the follower's own outcome is its program counter: where the leader went on elsewhere
(a branch or back-edge that resolved differently), the follower leaves follow mode there (R44). -/
def Ctx.streamed (x : Ctx) : Ctx :=
  match x.stream with
  | [] => x
  | (_, _, _, next) :: r => if next = x.pc then { x with stream := r } else { x with stream := [], following := false }

/-- The leader's issue of an instruction reaches the same context of the cluster's other cells (R43). -/
def State.feedFollowers (s : State) (i : Instr) (pc next : CodeAddr) : State :=
  if isLeader s.now.cell && (s.cells.any fun e => e.1 / 16 == s.now.cell / 16 && e.1 != s.now.cell
      && ((e.2.ctx s.now.ctx).following || (e.2.ctx s.now.ctx).wait == .follow pc)) then
    { s with cells := s.cells.map fun e =>
        if e.1 / 16 = s.now.cell / 16 ∧ e.1 ≠ s.now.cell then
          (e.1, e.2.setCtx s.now.ctx ((e.2.ctx s.now.ctx).feed i s.now.sw pc next))
        else e }
  else s

/-- An instruction retires: RETIRED, the next address and the loops; S parks the context while results are
owed (R41); a single step ends in BKPT (R245). -/
def State.retire (d : Done) (i : Instr) (pc0 : CodeAddr) : State :=
  let s := d.s
  let n := s.now.cell
  let k := s.now.ctx
  let next := d.next.getD (seqAddr i pc0)
  let s := s.modCtx n k fun x =>
    let x := { x with retired := x.retired + 1, answers := [], stage := 0 }
    let x := if d.transfer || x.inTrap != 0 then { x with pc := next } else x.backEdge next
    let x := if s.now.streamed then x.streamed else x
    Ctx.sequel { x with
      parked := x.parked || s.now.sw
      debugStep := false
      ahead := x.ahead.filter fun e => width i ≤ codeAhead pc0 e.1 }
  let s := s.feedFollowers i pc0 (s.ctx n k).pc
  if (s.ctx n k).stepping then
    (s.modCtx n k fun x => { x with stepping := false }).takeTrap n k causeBkpt 1
  else s

/-- The return from a trap to TRAPPC in the mode TRAPSTATE gives; with STEP the next instruction ends in BKPT,
and an ERET that is itself a single step ends in it now (R245, log 18). -/
def State.trapReturn (s : State) : State :=
  let x := s.cur
  let t := x.trapstate.toNat
  let s1 := s.modCur fun x => { x with stepping := false }
  let s2 := State.retire { s := s1, next := some x.trappc, transfer := true } .eret x.pc
  let s3 := s2.modCur fun x => { x with
    sys := bit t 0
    inTrap := if bit t 0 then x.inTrap - 1 else 0
    stepping := bit t 1 }
  if x.stepping then (s3.modCur fun x => { x with stepping := false }).takeTrap s.now.cell s.now.ctx causeBkpt 1 else s3

/-- A word that the executing instruction has kept (R41, R207). -/
def State.word? (s : State) (k : Nat) : Option Nat :=
  s.cur.answers.findSome? fun x => match x with
    | .word j v => if j = k then some v else none
    | _ => none

/-- Its register operands as it read them at its first step: at that step, what the registers hold now (R41). -/
def State.kept (s : State) (x : Nat) : Nat := (s.word? 512).getD x

/-- They are kept for the steps that follow. -/
def Ctx.keep (x : Ctx) (v : Nat) : Ctx := { x with answers := x.answers ++ [.word 512 v] }

/-! ### Issue -/

/-- Instructions that make an access, a SEND, a phase update, a transfer or an engine command: the ones a
FENCE with S = 0, a PHWAIT or a MIXREAD holds back (R217, R232, R235, R364).  An ENDTASK is one of them, so behind an unresolved
PHWAIT it has not issued (DESIGN CHOICE, log 43). -/
def holdable : Instr → Bool
  | .ld .. | .st .. | .ldl .. | .stl .. | .ldc .. | .stc .. | .ldv .. | .stv .. | .cLdl .. | .cStl ..
  | .amoswap .. | .amoadd .. | .amoand .. | .amoor .. | .amoxor .. | .amomin .. | .amomax ..
  | .amominu .. | .amomaxu .. | .amocas .. | .amofadd .. | .amobfpadd ..
  | .phinit .. | .pharr .. | .phadd .. | .phread .. | .xfer .. | .vtload ..
  | .send .. | .sendRel .. | .reply .. | .replyRel .. | .sendlb ..
  | .spawnPath .. | .spawnNear .. | .spawnSteal .. | .join .. | .cancel ..
  | .gqpush .. | .gqpop .. | .gqpopDrop .. | .gqcreate .. | .gqstat ..
  | .mixcfg .. | .mixjoin .. | .mixpeer .. | .mixadd .. | .mixtick .. | .mixread .. | .mixstat .. | .mixleave ..
  | .mixhold .. | .mma .. | .mmas .. | .mnorm .. | .mxs .. | .mtout .. | .mrem .. | .mfmt .. | .msrec ..
  | .mar .. | .maw .. | .mkey .. | .stgcfg .. | .stgdone .. | .ctxrest ..
  -- their join and LIVE updates are accesses of the activation (R57, R109); KEYW reads its rows (R259)
  | .endtask .. | .cEndtask .. | .keyw .. => true
  | _ => false

/-- PHWAIT issues beside other PHWAITs, but a FENCE or MIXREAD holds it too (R217, R235). -/
def isPhwait : Instr → Bool
  | .phwait .. => true
  | _ => false

/-- A FENCE of scope `t` on module `dev` covers an access (R215): 0 local, 1 dev, 2 dom.  A remote PA of the module itself has
its home there (R178).  The OR of a CANCEL is covered by FENCE.dev wherever its record's home is (R119).  A parked access has no
home yet: for FENCE.dev it counts as one of this module until its translation shows another's, and no longer (DESIGN CHOICE, log 10). -/
def covers (dev t : Nat) (a : Access) : Bool :=
  match a.op with
  | .answer _ => false
  | .reply => false
  | .query .. => false
  | _ =>
    match a.place with
    | .pad .. => true
    | .away .. => true
    | .hbm _ => t != 0
    | .host .. => t != 0
    | .remote d _ => t == 2 || (t == 1 && (d == dev || (match a.op with | .orBits .. => true | _ => false)))

/-- The s registers and the v registers that an instruction reads or writes, or may; none for the forms that are not listed, which may
touch any (R40, log 16). -/
def plainRegs : Instr → Option (List Reg × List Reg)
  | .add d a b | .sub d a b | .and d a b | .or d a b | .xor d a b | .andn d a b | .orn d a b | .sll d a b | .srl d a b
  | .sra d a b | .slt d a b | .sltu d a b | .min d a b | .max d a b | .minu d a b | .maxu d a b | .seq d a b | .mul d a b
  | .mulh d a b | .mulhsu d a b | .mulhu d a b | .div d a b | .divu d a b | .rem d a b | .remu d a b | .rol d a b
  | .ror d a b | .amobfpadd d a b | .tagset d a b | .tagstat d a b | .gqpush d a b | .gqpop d a b | .gqpopDrop d a b
  | .gqstat d a b | .mixadd d a b | .mixread d a b | .mixstat d a b => some ([d, a, b], [])
  | .addi d a _ | .andi d a _ | .ori d a _ | .xori d a _ | .slti d a _ | .sltiu d a _ | .slli d a _ | .srli d a _
  | .srai d a _ | .jreg d a _ => some ([d, a], [])
  | .clz d a | .ctz d a | .popc d a | .bswap d a | .brev d a | .cMv d a | .cAdd d a | .cSub d a | .cAnd d a | .cOr d a
  | .cXor d a | .cLdl d a | .cStl d a | .taglk d a | .mwait d a | .mxsrd d a | .stgstat d a => some ([d, a], [])
  | .li d _ | .lih d _ _ | .cAddi d _ | .cLi d _ | .cSlli d _ | .cSrli d _ | .cSrai d _ | .cBnez d _ => some ([d], [])
  | .rand d | .yieldchk d | .xfern d | .mstat d => some ([d], [])
  | .beq a b _ | .bne a b _ | .blt a b _ | .bge a b _ | .bltu a b _ | .bgeu a b _ => some ([a, b], [])
  | .jmp _ | .fence _ | .lexit | .unfollow => some ([], [])
  | .call _ => some ([1], [])
  | .cJreg a | .taginv a | .xfer a | .send a | .sendRel a | .sendlb a | .cancel a | .mixtick a | .mixleave a | .mma a
  | .mmas a | .msrec a | .mtout a | .mnorm a | .stgdone a | .stgsrec a => some ([a], [])
  | .loop a _ | .pharr a _ | .follow a _ | .mrem a _ => some ([a], [])
  | .reply a b | .replyRel a b | .gqcreate a b | .mixcfg a b | .mixjoin a b | .mixpeer a b | .mixhold a b | .mfmt a b
  | .mxs a b | .stgtmpl a b => some ([a, b], [])
  | .phinit a b _ | .phadd a b _ => some ([a, b], [])
  | .spawnPath d a _ _ | .spawnNear d a _ _ | .spawnSteal d a _ _ | .join d a _ | .rtquiet d a _ => some ([d, a], [])
  | .ld d a _ _ | .st d a _ _ | .ldl d a _ _ | .stl d a _ _ | .ldc d a _ _ | .stc d a _ _ => some ([d, a], [])
  | .ldv d a _ _ _ _ | .stv d a _ _ _ _ => some ([a], [d])
  | .amoswap d a b _ _ | .amoadd d a b _ _ | .amoand d a b _ _ | .amoor d a b _ _ | .amoxor d a b _ _ | .amomin d a b _ _
  | .amomax d a b _ _ | .amominu d a b _ _ | .amomaxu d a b _ _ | .amocas d a b _ _ => some ([d, a, b], [])
  | .amofadd d a b _ | .phread d a b _ | .phwait d a b _ => some ([d, a, b], [])
  | .mar d a | .maw d a => some ([a], [d])
  | .vadd d a b _ _ | .vsub d a b _ _ | .vmul d a b _ _ | .vmin d a b _ _ | .vmax d a b _ _ | .vminu d a b _ _
  | .vmaxu d a b _ _ | .vfma d a b _ _ | .vfms d a b _ _ | .vfnma d a b _ _ | .vfnms d a b _ _ | .vdot d a b _ _
  | .vdotu d a b _ _ | .vadds d a b _ _ | .vaddsu d a b _ _ | .vsubs d a b _ _ | .vsubsu d a b _ _ | .vand d a b _ _
  | .vor d a b _ _ | .vxor d a b _ _ | .vandn d a b _ _ | .vsll d a b _ _ | .vsrl d a b _ _ | .vsra d a b _ _
  | .vcmpeq d a b _ _ | .vcmpne d a b _ _ | .vcmplt d a b _ _ | .vcmple d a b _ _ | .vcmpltu d a b _ _ | .vcmpleu d a b _ _
  | .vdiv d a b _ _ | .vtie d a b _ _ | .vshuf d a b _ _ => some ([], [d, a, b])
  | .vmv d a _ _ | .vnegs d a _ _ | .vabs d a _ _ | .vneg d a _ _ | .vclz d a _ _ | .vpopc d a _ _ | .vrcp d a _ _
  | .vrsqrt d a _ _ | .vsqrt d a _ _ | .vexp2 d a _ _ | .vlog2 d a _ _ => some ([], [d, a])
  | .vsplat d a _ _ _ | .vslidedn d a _ _ _ | .vslideup d a _ _ _ => some ([], [d, a])
  | .vbcast d a _ _ | .vins d a _ _ => some ([a], [d])
  | .vext d a _ _ | .vextu d a _ _ | .vrsum d a _ _ | .vrsumu d a _ _ | .vrmin d a _ _ | .vrmax d a _ _ | .vrminu d a _ _
  | .vrmaxu d a _ _ => some ([d], [a])
  | .pand .. | .por .. | .pxor .. | .pandn .. => some ([], [])
  | .plen _ a _ | .pset _ a => some ([a], [])
  | .pget d _ | .pcnt d _ _ => some ([d], [])
  | .vtload _ a b => some ([a, b], [])
  | _ => none

/-- The instruction touches the register of an access (s0 is no register to wait for), or may. -/
def touches (i : Instr) (d : Dest) : Bool :=
  match plainRegs i, d with
  | none, _ => true
  | some _, .none => false
  | some l, .s r => r != 0 && l.1.contains r
  | some l, .v r => l.2.contains r

/-- An interlocked result that has not come back yet holds back every instruction that touches its register (R40, R223). -/
def State.interlocked (s : State) (i : Instr) : Bool :=
  s.inflight.any fun a => a.locked && s.owns s.now.cell s.now.ctx a && touches i a.dest

/-- The executing context is not ready for this instruction (R217): an access that its FENCE covers has not been
acknowledged, or its result has not returned (R232); or an interlocked result has not come back (R40). -/
def State.heldBack (s : State) (i : Instr) : Bool :=
  let x := s.cur
  let n := s.now.cell
  let k := s.now.ctx
  let fenced := x.fence.any fun f => s.inflight.any fun a => a.id == f.2 && covers s.devidx.toNat f.1 a
  let mixing := x.mixreads.any fun id => s.inflight.any (·.id == id)
  s.interlocked i || (holdable i && (fenced || mixing || s.waitsPhase n k)) ||
  (isPhwait i && (fenced || mixing))

/-- The instruction value TRAPVAL reports; a 32-bit instruction at 0x3FFF reports its first halfword (R67, R82). -/
def State.instrValue (s : State) (i : Instr) : Word :=
  if width i = 2 && s.cur.pc = 0x3FFF then BitVec.ofNat 64 (value i s.now.sw % 65536)
  else BitVec.ofNat 64 (value i s.now.sw)

/-- Decode ILLEGAL: an operand value no encoding may hold, another kind of cell's form, or a 32-bit
instruction at 0x3FFF (R67, R80, R82). -/
def State.decodeIllegal (s : State) (i : Instr) : Bool :=
  !legal i || !allowedOn s.kind i || (width i == 2 && s.cur.pc == 0x3FFF)

/-- The issue of an instruction by the executing context: decode ILLEGAL, then PRIV, then its readiness,
then the form's own checks and effect, then retirement (R82). -/
def issue (i : Instr) (s : State) (body : Body) : Host.Outcome State Fault Refusal :=
  let n := s.now.cell
  let k := s.now.ctx
  if s.decodeIllegal i then .next (s.takeTrap n k causeIllegal (s.instrValue i))
  else if privileged i && !s.isSys then .next (s.takeTrap n k causePriv (s.instrValue i))
  else if s.heldBack i then .next s
  else match body s with
    | .ok d => .next (State.retire d i s.cur.pc)
    | .error (.trap c v) => .next (s.takeTrap n k c v)
    | .error .hold => .next s
    | .error (.wait s') => .next s'

/-- The lowest local byte among `a .. a + n - 1` on a line whose check value is bad (R203). -/
def State.badLocal (s : State) (a n : Nat) : Option Nat :=
  (List.range n).findSome? fun j =>
    if s.badPad.contains (padKey s.now.cell (s.localAddr s.now.cell s.cur (a + j)) / 128) then some (a + j) else none


/-- A register result in sequence: the commonest body. -/
def writes (d : Reg) (f : State → Word) : Body := fun s => .ok { s := s.setS d (f s) }

/-- An event that is not enabled leaves the state as it is (log 3). -/
def event (s : State) (r : Option State) : Host.Outcome State Fault Refusal := .next (r.getD s)

end Sys2Proof.Machine
end

