-- ==== Sys2Proof/Machine/Alu.lean ====
section
/-! DEFINITION. Register and immediate arithmetic, constants (R90-R94). -/
namespace Sys2Proof.Machine

/-! ### The operations -/

/-- SLL, SRL and SRA by a count below 64 (R90). -/
def shl (a : Word) (n : Nat) : Word := a <<< n
def shr (a : Word) (n : Nat) : Word := a >>> n
def sar (a : Word) (n : Nat) : Word := a.sshiftRight n

/-- A shift count: b[5:0] (R90). -/
def count6 (b : Word) : Nat := b.toNat % 64

def slt (a b : Word) : Word := ofBool (decide (a.toInt < b.toInt))
def sltu (a b : Word) : Word := ofBool (decide (a.toNat < b.toNat))
def smin (a b : Word) : Word := if a.toInt ≤ b.toInt then a else b
def smax (a b : Word) : Word := if b.toInt ≤ a.toInt then a else b
def umin (a b : Word) : Word := if a.toNat ≤ b.toNat then a else b
def umax (a b : Word) : Word := if b.toNat ≤ a.toNat then a else b

/-- I14 of F-RRI, sign-extended to 64 bits (R69, R91). -/
def imm14 (i : BitVec 14) : Word := i.signExtend 64

/-- A register operation on two registers (R90). -/
def op2 (d a b : Reg) (f : Word → Word → Word) : Body := writes d fun s => f (s.s a) (s.s b)

/-- A register operation on a register and a constant (R91, R92). -/
def opImm (d a : Reg) (c : Word) (f : Word → Word → Word) : Body := writes d fun s => f (s.s a) c

/-! ### ALU (R90) -/

def execAdd (d a b : Reg) (s : State) := issue (.add d a b) s (op2 d a b (· + ·))
def execSub (d a b : Reg) (s : State) := issue (.sub d a b) s (op2 d a b (· - ·))
def execAnd (d a b : Reg) (s : State) := issue (.and d a b) s (op2 d a b (· &&& ·))
def execOr (d a b : Reg) (s : State) := issue (.or d a b) s (op2 d a b (· ||| ·))
def execXor (d a b : Reg) (s : State) := issue (.xor d a b) s (op2 d a b (· ^^^ ·))
def execAndn (d a b : Reg) (s : State) := issue (.andn d a b) s (op2 d a b fun x y => x &&& ~~~y)
def execOrn (d a b : Reg) (s : State) := issue (.orn d a b) s (op2 d a b fun x y => x ||| ~~~y)
def execSll (d a b : Reg) (s : State) := issue (.sll d a b) s (op2 d a b fun x y => shl x (count6 y))
def execSrl (d a b : Reg) (s : State) := issue (.srl d a b) s (op2 d a b fun x y => shr x (count6 y))
def execSra (d a b : Reg) (s : State) := issue (.sra d a b) s (op2 d a b fun x y => sar x (count6 y))
def execSlt (d a b : Reg) (s : State) := issue (.slt d a b) s (op2 d a b slt)
def execSltu (d a b : Reg) (s : State) := issue (.sltu d a b) s (op2 d a b sltu)
def execMin (d a b : Reg) (s : State) := issue (.min d a b) s (op2 d a b smin)
def execMax (d a b : Reg) (s : State) := issue (.max d a b) s (op2 d a b smax)
def execMinu (d a b : Reg) (s : State) := issue (.minu d a b) s (op2 d a b umin)
def execMaxu (d a b : Reg) (s : State) := issue (.maxu d a b) s (op2 d a b umax)
def execSeq (d a b : Reg) (s : State) := issue (.seq d a b) s (op2 d a b fun x y => ofBool (decide (x = y)))

/-! ### Immediates (R91, R92) -/

def execAddi (d a : Reg) (i : BitVec 14) (s : State) := issue (.addi d a i) s (opImm d a (imm14 i) (· + ·))
def execAndi (d a : Reg) (i : BitVec 14) (s : State) := issue (.andi d a i) s (opImm d a (imm14 i) (· &&& ·))
def execOri (d a : Reg) (i : BitVec 14) (s : State) := issue (.ori d a i) s (opImm d a (imm14 i) (· ||| ·))
def execXori (d a : Reg) (i : BitVec 14) (s : State) := issue (.xori d a i) s (opImm d a (imm14 i) (· ^^^ ·))
def execSlti (d a : Reg) (i : BitVec 14) (s : State) := issue (.slti d a i) s (opImm d a (imm14 i) slt)
def execSltiu (d a : Reg) (i : BitVec 14) (s : State) := issue (.sltiu d a i) s (opImm d a (imm14 i) sltu)
def execSlli (d a : Reg) (h : BitVec 6) (s : State) :=
  issue (.slli d a h) s (writes d fun s => shl (s.s a) h.toNat)
def execSrli (d a : Reg) (h : BitVec 6) (s : State) :=
  issue (.srli d a h) s (writes d fun s => shr (s.s a) h.toNat)
def execSrai (d a : Reg) (h : BitVec 6) (s : State) :=
  issue (.srai d a h) s (writes d fun s => sar (s.s a) h.toNat)

/-! ### Constants (R93, R94) -/

def execLi (d : Reg) (i : BitVec 19) (s : State) := issue (.li d i) s (writes d fun _ => i.signExtend 64)

/-- One quarter of a word replaced (R94). -/
def putQuarter (w : Word) (q : Nat) (h : BitVec 16) : Word :=
  (w &&& ~~~((0xFFFF : Word) <<< (16 * q))) ||| (h.zeroExtend 64 <<< (16 * q))

def execLih (d : Reg) (h : BitVec 16) (q : BitVec 2) (s : State) :=
  issue (.lih d h q) s (writes d fun s => putQuarter (s.s d) q.toNat h)

end Sys2Proof.Machine
end

