-- ==== Sys2Proof/Machine/Cipher.lean ====
section
/-! DEFINITION. The cipher of the base dies: AES-256 in XTS mode over one 128-byte line (R201).

The spec names the cipher and gives the data unit, the tweak and the two keys; the tables, rounds and byte order are those of
FIPS 197 and IEEE 1619 (PRESUMED, log 7). -/
namespace Sys2Proof.Machine

/-! ### Bytes -/

/-- The substitution table of FIPS 197, entry 0 in the lowest byte. -/
def subTable : Nat :=
  0xc072a49cafa2d4adf04759fa7dc982ca76abd7fe2b670130c56f6bf27b777c63 +
  0x75b227ebe28012079a059618c323c7041531d871f1e5a534ccf73f362693fdb7 <<< 256 +
  0xcf584c4a39becb6a5bb1fc20ed00d153842fe329b3d63b52a05a6e1b1a2c8309 <<< 512 +
  0xd2f3ff1021dab6bcf5389d928f40a351a89f3c507f02f94585334d43fbaaefd0 <<< 768 +
  0xdb0b5ede14b8ee4688902a22dc4f816073195d643d7ea7c41744975fec130ccd <<< 1024 +
  0x08ae7a65eaf4566ca94ed58d6d37c8e779e4959162acd3c25c2406490a3a32e0 <<< 1280 +
  0x9e1dc186b95735610ef6034866b53e708a8bbd4b1f74dde8c6b4a61c2e2578ba <<< 1536 +
  0x16bb54b00f2d99416842e6bf0d89a18cdf2855cee9871e9b948ed9691198f8e1 <<< 1792

/-- Its inverse. -/
def unsubTable : Nat :=
  0xcbe9dec444438e3487ff2f9b8239e37cfbd7f3819ea340bf38a53630d56a0952 +
  0x25d18b6d49a25b76b224d92866a12e084ec3fa420b954cee3d23c2a632947b54 <<< 256 +
  0x849d8da75746155edab9edfd5048706c92b6655dcc5ca4d41698688664f6f872 <<< 512 +
  0x6b8a130103bdafc1020f3fca8f1e2cd00645b3b80558e4f70ad3bc8c00abd890 <<< 768 +
  0x6edf751ce837f9e28535ade72274ac9673e6b4f0cecff297eadc674f4111913a <<< 1024 +
  0xf45acd78fec0db9a2079d2c64b3e56fc1bbe18aa0e62b76f89c5291d711af147 <<< 1280 +
  0xef9cc9939f7ae52d0d4ab519a97f51605fec8027591012b131c7078833a8dd1f <<< 1536 +
  0x7d0c2155631469e126d677ba7e042b17619953833cbbebc8b0f52aae4d3be0a0 <<< 1792

/-- Entry `b` of a table. -/
def tableByte (t : Nat) (b : Byte) : Byte := BitVec.ofNat 8 (t >>> (8 * b.toNat))

theorem tableByte_inverse (f g : Nat) (h : ∀ i : Fin 256, tableByte g (tableByte f (BitVec.ofFin i)) = BitVec.ofFin i) (b : Byte) :
    tableByte g (tableByte f b) = b := h b.toFin

set_option maxRecDepth 8000 in
theorem unsub_sub : ∀ i : Fin 256, tableByte unsubTable (tableByte subTable (BitVec.ofFin i)) = BitVec.ofFin i := by decide

set_option maxRecDepth 8000 in
theorem sub_unsub : ∀ i : Fin 256, tableByte subTable (tableByte unsubTable (BitVec.ofFin i)) = BitVec.ofFin i := by decide

/-- SubBytes on a byte. -/
def subByte : Byte ≃ Byte where
  toFun := tableByte subTable
  invFun := tableByte unsubTable
  left_inv := tableByte_inverse _ _ unsub_sub
  right_inv := tableByte_inverse _ _ sub_unsub

/-- A byte multiplied by x modulo x^8 + x^4 + x^3 + x + 1. -/
def double (b : Byte) : Byte :=
  (b <<< 1) ^^^ (b >>> 7) ^^^ ((b >>> 7) <<< 1) ^^^ ((b >>> 7) <<< 3) ^^^ ((b >>> 7) <<< 4)

theorem byte_xor_left_comm (a b c : Byte) : a ^^^ (b ^^^ c) = b ^^^ (a ^^^ c) := by
  rw [← BitVec.xor_assoc, BitVec.xor_comm a b, BitVec.xor_assoc]

theorem byte_xor_cancel (a b : Byte) : a ^^^ (a ^^^ b) = b := by
  rw [← BitVec.xor_assoc, BitVec.xor_self, BitVec.zero_xor]

theorem double_xor (a b : Byte) : double (a ^^^ b) = double a ^^^ double b := by
  simp only [double, BitVec.shiftLeft_xor_distrib, BitVec.ushiftRight_xor_distrib]
  simp only [BitVec.xor_assoc, BitVec.xor_comm, byte_xor_left_comm]

/-! ### Columns and blocks -/

/-- A column of the state: four bytes, the first of them lowest in memory. -/
abbrev AesCol := Byte × Byte × Byte × Byte
/-- The state: four columns. -/
abbrev AesState := AesCol × AesCol × AesCol × AesCol

/-- One function on each of four. -/
def four {α : Type} (e : α ≃ α) : (α × α × α × α) ≃ (α × α × α × α) := e.prodCongr (e.prodCongr (e.prodCongr e))

def AesCol.xor (a b : AesCol) : AesCol := (a.1 ^^^ b.1, a.2.1 ^^^ b.2.1, a.2.2.1 ^^^ b.2.2.1, a.2.2.2 ^^^ b.2.2.2)

theorem AesCol.xor_xor (k a : AesCol) : k.xor (k.xor a) = a := by simp [AesCol.xor]

/-- AddRoundKey on a column. -/
def addCol (k : AesCol) : AesCol ≃ AesCol := ⟨k.xor, k.xor, k.xor_xor, k.xor_xor⟩

/-- AddRoundKey. -/
def addKey (k : AesState) : AesState ≃ AesState :=
  (addCol k.1).prodCongr ((addCol k.2.1).prodCongr ((addCol k.2.2.1).prodCongr (addCol k.2.2.2)))

/-- ShiftRows: row `r` of the state moves `r` columns to the left. -/
def shiftRows : AesState ≃ AesState where
  toFun := fun ((a0, a1, a2, a3), (b0, b1, b2, b3), (c0, c1, c2, c3), (d0, d1, d2, d3)) =>
    ((a0, b1, c2, d3), (b0, c1, d2, a3), (c0, d1, a2, b3), (d0, a1, b2, c3))
  invFun := fun ((a0, a1, a2, a3), (b0, b1, b2, b3), (c0, c1, c2, c3), (d0, d1, d2, d3)) =>
    ((a0, d1, c2, b3), (b0, a1, d2, c3), (c0, b1, a2, d3), (d0, c1, b2, a3))
  left_inv := fun _ => rfl
  right_inv := fun _ => rfl

/-- A byte of MixColumns: 2a + 3b + c + d. -/
def mixByte (a b c d : Byte) : Byte := double a ^^^ (double b ^^^ b) ^^^ c ^^^ d

/-- A byte of its inverse: 14a + 11b + 13c + 9d. -/
def unmixByte (a b c d : Byte) : Byte :=
  let x := double (double (double (a ^^^ b ^^^ c ^^^ d)))
  x ^^^ double (double (a ^^^ c)) ^^^ double (a ^^^ b) ^^^ b ^^^ c ^^^ d

theorem unmixByte_mix (a b c d : Byte) :
    unmixByte (mixByte a b c d) (mixByte b c d a) (mixByte c d a b) (mixByte d a b c) = a := by
  simp only [mixByte, unmixByte, double_xor, BitVec.xor_assoc, BitVec.xor_comm, byte_xor_left_comm, byte_xor_cancel,
    BitVec.xor_self, BitVec.xor_zero]

/-- The function of MixColumns on a column, and its inverse. -/
def AesCol.mix : AesCol → AesCol := fun (a, b, c, d) => (mixByte a b c d, mixByte b c d a, mixByte c d a b, mixByte d a b c)
def AesCol.unmix : AesCol → AesCol :=
  fun (a, b, c, d) => (unmixByte a b c d, unmixByte b c d a, unmixByte c d a b, unmixByte d a b c)

theorem AesCol.unmix_mix : Function.LeftInverse AesCol.unmix AesCol.mix :=
  fun (a, b, c, d) => by simp only [AesCol.mix, AesCol.unmix, unmixByte_mix]

/-- MixColumns on a column. -/
def mixCol : AesCol ≃ AesCol where
  toFun := AesCol.mix
  invFun := AesCol.unmix
  left_inv := AesCol.unmix_mix
  right_inv := AesCol.unmix_mix.rightInverse_of_surjective
    (have : Finite Byte := Finite.of_injective BitVec.toFin fun _ _ h => by simpa using congrArg BitVec.ofFin h
     Finite.surjective_of_injective AesCol.unmix_mix.injective)

/-! ### AES-256 -/

/-- SubBytes and ShiftRows. -/
def subShift : AesState ≃ AesState := (four (four subByte)).trans shiftRows

/-- The rounds under the keys left; the last has no MixColumns. -/
def aesRounds : List AesState → AesState ≃ AesState
  | [] => Equiv.refl _
  | [k] => subShift.trans (addKey k)
  | k :: r => ((subShift.trans (four mixCol)).trans (addKey k)).trans (aesRounds r)

/-- Word `i` of the key schedule from the words before it, the latest first. -/
def scheduleWord (i : Nat) (w : List AesCol) : AesCol :=
  let (a, b, c, d) := w.headD (0, 0, 0, 0)
  let t : AesCol :=
    if i % 8 = 0 then (subByte b ^^^ BitVec.ofNat 8 (2 ^ (i / 8 - 1)), subByte c, subByte d, subByte a)
    else if i % 8 = 4 then four subByte (a, b, c, d)
    else (a, b, c, d)
  AesCol.xor t (w.getD 7 (0, 0, 0, 0))

/-- `n` more words of the schedule. -/
def scheduleOn : Nat → Nat → List AesCol → List AesCol
  | 0, _, w => w
  | n + 1, i, w => scheduleOn n (i + 1) (scheduleWord i w :: w)

/-- The column that four bytes make. -/
def colOf (x : Nat) : AesCol := (BitVec.ofNat 8 x, BitVec.ofNat 8 (x >>> 8), BitVec.ofNat 8 (x >>> 16), BitVec.ofNat 8 (x >>> 24))

/-- The fifteen round keys of a 256-bit key. -/
def roundKeys (key : BitVec 256) : List AesState :=
  let w := (scheduleOn 52 8 ((List.range 8).map fun i => colOf (key.toNat >>> (32 * (7 - i))))).reverse
  let at' (i : Nat) : AesCol := w.getD i (0, 0, 0, 0)
  (List.range 15).map fun r => (at' (4 * r), at' (4 * r + 1), at' (4 * r + 2), at' (4 * r + 3))

/-- The cipher on the state. -/
def aesState (key : BitVec 256) : AesState ≃ AesState :=
  match roundKeys key with
  | [] => Equiv.refl _
  | k :: r => (addKey k).trans (aesRounds r)

/-! ### Blocks and lines -/

/-- Two halves, the higher first. -/
def halves {m : Nat} : BitVec (m + m) ≃ BitVec m × BitVec m where
  toFun x := (x.extractLsb' m m, x.extractLsb' 0 m)
  invFun p := p.1 ++ p.2
  left_inv x := by
    ext i hi
    simp only [BitVec.getElem_append, BitVec.getElem_extractLsb']
    split
    · simp [BitVec.getLsbD_eq_getElem hi]
    · rename_i h
      simp [Nat.add_sub_cancel' (Nat.le_of_not_lt h), BitVec.getLsbD_eq_getElem hi]
  right_inv p := by
    ext i hi
    · simp [BitVec.getLsbD_append, BitVec.getLsbD_eq_getElem hi]
    · simp [BitVec.getLsbD_append, hi]

/-- One function on each half. -/
def both {m : Nat} (hi lo : BitVec m ≃ BitVec m) : BitVec (m + m) ≃ BitVec (m + m) :=
  (halves.trans (hi.prodCongr lo)).trans halves.symm

/-- The four quarters of a number, the lowest first. -/
def quarters {m : Nat} : BitVec (m + m + (m + m)) ≃ BitVec m × BitVec m × BitVec m × BitVec m where
  toFun x :=
    let p := halves x
    let hi := halves p.1
    let lo := halves p.2
    (lo.2, lo.1, hi.2, hi.1)
  invFun q := halves.symm (halves.symm (q.2.2.2, q.2.2.1), halves.symm (q.2.1, q.1))
  left_inv x := by simp
  right_inv q := by simp

/-- The sixteen bytes of a block as the state. -/
def blockState : BitVec 128 ≃ AesState :=
  (quarters (m := 32)).trans ((quarters (m := 8)).prodCongr ((quarters (m := 8)).prodCongr
    ((quarters (m := 8)).prodCongr (quarters (m := 8)))))

/-- AES-256 on a block. -/
def aes256 (key : BitVec 256) : BitVec 128 ≃ BitVec 128 := (blockState.trans (aesState key)).trans blockState.symm

/-- A block's tweak for the block after it: multiplied by x modulo x^128 + x^7 + x^2 + x + 1. -/
def nextTweak (t : BitVec 128) : BitVec 128 := (t <<< 1) ^^^ if t.msb then 0x87 else 0

/-- A block combined with its tweak. -/
def tweaked (t : BitVec 128) : BitVec 128 ≃ BitVec 128 where
  toFun x := x ^^^ t
  invFun x := x ^^^ t
  left_inv x := by simp
  right_inv x := by simp

/-- Block `j` of a line whose first tweak is `t`. -/
def xtsBlock (key : BitVec 256) (t : BitVec 128) (j : Nat) : BitVec 128 ≃ BitVec 128 :=
  let u := tweaked (Nat.repeat nextTweak j t)
  (u.trans (aes256 key)).trans u

/-- AES-256-XTS of one 128-byte line: the key register's contents (the data key in bytes 31:0, the tweak key in bytes 63:32,
R259) and PA[41:7] take the plaintext to the ciphertext. -/
def xts (key : BitVec 512) (tweak : Nat) : BitVec 1024 ≃ BitVec 1024 :=
  let t := aes256 (key.extractLsb' 256 256) (BitVec.ofNat 128 tweak)
  let e := xtsBlock (key.extractLsb' 0 256) t
  both (both (both (e 7) (e 6)) (both (e 5) (e 4))) (both (both (e 3) (e 2)) (both (e 1) (e 0)))

end Sys2Proof.Machine
end

