-- ==== Sys2Proof/Machine/Cut.lean ====
section
/-! DEFINITION. Banks, host windows, dirty bits and the write protection of a checkpoint cut (R179, R400, R405). -/
namespace Sys2Proof.Machine

/-- `Bank(addr)`: stack, channel, bank (R179). -/
def bankOf (pa : Nat) : Nat × Nat × Nat :=
  let line := bits pa 7 35
  let q := line / 48
  let t := line % 48
  let f := bits q 0 6 ^^^ bits q 6 6 ^^^ bits q 12 6
  ((t + f) % 48, bits q 0 5 ^^^ bits q 10 5, bits q 5 5 ^^^ bits q 15 5)

/-! ### Host windows (R178, R400) -/

def State.hostPort (s : State) (q : Nat) : HostPort := look {} s.host q

def State.setHostPort (s : State) (q : Nat) (h : HostPort) : State := { s with host := put s.host q h }

/-- The host address of `n` bytes at a window offset, when an enabled window covers them all and grants the right
(R400). -/
def State.hostAddr (s : State) (q off : Nat) (write : Bool) (n : Nat := 1) : Option Nat :=
  let w := (look 0 (s.hostPort q).windows (bits off 36 4)).toNat
  let size := bits w 64 6
  if (if write then bit w 71 else bit w 70) && 12 ≤ size && size ≤ 36 && off % 2 ^ 36 + n ≤ 2 ^ size then
    some (bits w 12 52 * 4096 + off % 2 ^ 36)
  else none

/-- A write through a host window; nothing leaves without the right (R400). -/
def State.hostPut (s : State) (q off : Nat) (data : List Byte) : State :=
  match s.hostAddr q off true data.length with
  | some a => { s with hostOut := s.hostOut ++ [(q, a, data)] }
  | none => s

/-- The bytes of `x` whose bit of `mask` is set, written through a host window, one run of them after another: no byte
outside the mask leaves (R226). -/
def State.hostStore (s : State) (q off mask n x : Nat) : State :=
  let runs := (List.range n).foldl (fun (r : List (Nat × List Byte)) j =>
    if !bit mask j then r
    else
      let b := BitVec.ofNat 8 (x / 256 ^ j)
      match r.getLast? with
      | some (o, l) => if o + l.length = j then r.dropLast ++ [(o, l ++ [b])] else r ++ [(j, [b])]
      | none => [(j, [b])]) []
  runs.foldl (fun s r => s.hostPut q (off + r.1) r.2) s

/-- A PA in a host window: port and window offset (R178). -/
def hostPa (pa : Nat) : Option (Nat × Nat) :=
  if 2 ^ 42 ≤ pa ∧ pa < 2 ^ 43 then some (bits pa 40 2, bits pa 0 40) else none

/-! ### Frame shares (R405) -/

/-- The frame share of a line: frame × 64 + stack. -/
def shareOf (line : Nat) : Nat := line / 32 * 64 + (bankOf (line * 128)).1

/-- A line is write-protected by the cut. -/
def State.protectedLine (s : State) (line : Nat) : Bool :=
  s.cut.active && !s.cut.done.contains (line / 32) && (s.cut.full || s.cut.shares.contains (shareOf line))

/-- The lines of a frame that are protected, ascending. -/
def State.protectedLines (s : State) (frame : Nat) : List Nat :=
  ((List.range 32).map fun j => frame * 32 + j).filter s.protectedLine

/-- A frame's record: the 32-byte header and the ciphertext of its protected lines (R405). -/
def State.frameRecord (s : State) (frame : Nat) (lines : List Nat) : List Byte :=
  let key := look 0 s.lineKeys (lines.headD 0)
  let mask := lines.foldl (fun m l => m ||| 2 ^ (l % 32)) 0
  toBytes 32 (frame * 4096 % 2 ^ 52 + 2 ^ 64 * (key % 2 ^ 13) + 2 ^ 96 * (s.cut.round % 2 ^ 32) + 2 ^ 128 * mask)
    ++ (lines.map fun l => Memory.bytes s.hbm (l * 128) 128).flatten

/-- The record of a frame goes to port `frame mod 4`, after those before it; a port that refuses it sets ERR
and the frame's shares are dirty again (R405).  The same where a line has a bad check value, which is looked at as data leave
to the host (R202, log 41). -/
def State.copyFrame (s : State) (frame : Nat) : State :=
  let lines := s.protectedLines frame
  if lines.isEmpty then s
  else
    let port := frame % 4
    let rec' := s.frameRecord frame lines
    let used := look 0 s.cut.used port
    let s1 := { s with cut := { s.cut with done := s.cut.done ++ [frame], used := put s.cut.used port (used + rec'.length) } }
    match (if lines.any s.badHbm.contains then none else hostPa (s.cut.dst.getD port 0 + used)) with
    | some (q, off) =>
      if (s.hostAddr q off true rec'.length).isSome then
        State.hostPut { s1 with cut := { s1.cut with copied := s1.cut.copied + 1 } } q off rec'
      else { s1 with cut := { s1.cut with err := true }, dirty := s1.dirty ++ (lines.map shareOf).dedup }
    | none => { s1 with cut := { s1.cut with err := true }, dirty := s1.dirty ++ (lines.map shareOf).dedup }

/-- A write is applied to a line: its frame is copied first when the cut protects it, and its dirty bit is
set (R405). -/
def State.touchLine (s : State) (line : Nat) : State :=
  let s := if s.protectedLine line then s.copyFrame (line / 32) else s
  if s.dirty.contains (shareOf line) then s else { s with dirty := s.dirty ++ [shareOf line] }

/-- The end of the send round that a checkpoint names: every controller protects its lines and clears its
dirty bits, in one step (R405). -/
def State.protect (s : State) (r : Nat) : State :=
  match s.cut.due with
  | some due =>
    if due ≤ r then
      { s with
        cut := { s.cut with due := none, round := r, active := true, shares := s.dirty, done := [], copied := 0, used := [] }
        dirty := [] }
    else s
  | none => s

end Sys2Proof.Machine
end

