-- ==== Sys2Proof/Machine/Translate.lean ====
section
/-! DEFINITION. Physical memory under its keys, the page-table walk, the TLBs and homes (R178-R201). -/
namespace Sys2Proof.Machine

/-! ### HBM lines under keys (R201) -/

/-- The 128 bytes of a line as software under key index `key` reads them. -/
def State.linePlain (s : State) (key line : Nat) : Nat :=
  let raw := Memory.read s.hbm (line * 128) 128
  ((xts (look 0 s.keys key) line).symm (BitVec.ofNat 1024 raw)).toNat

/-- One byte of HBM under a key index; index 0 is plaintext. -/
def State.hbmByte (s : State) (key a : Nat) : Byte :=
  if key = 0 then Memory.get s.hbm a
  else BitVec.ofNat 8 (s.linePlain key (a / 128) / 256 ^ (a % 128))

/-- `n` bytes of HBM under a key index, as a number. -/
def State.hbmRead (s : State) (key a : Nat) : Nat → Nat
  | 0 => 0
  | n + 1 => (s.hbmByte key a).toNat + 256 * s.hbmRead key (a + 1) n

/-- One byte of HBM written under a key index: the whole line is encrypted again. -/
def State.hbmSetByte (s : State) (key a : Nat) (v : Byte) : State :=
  let s := s.touchLine (a / 128)
  if key = 0 then { s with hbm := Memory.set s.hbm a v }
  else
    let line := a / 128
    let j := a % 128
    let old := s.linePlain key line
    let new := old - old / 256 ^ j % 256 * 256 ^ j + v.toNat * 256 ^ j
    let raw := (xts (look 0 s.keys key) line (BitVec.ofNat 1024 new)).toNat
    { s with hbm := Memory.write s.hbm (line * 128) 128 raw }

/-- The bytes of `x` whose bit of `mask` is set, written at `a ..`. -/
def State.hbmWriteMasked (s : State) (key a mask : Nat) : Nat → Nat → State
  | 0, _ => s
  | n + 1, x =>
    let s' := if mask % 2 = 1 then s.hbmSetByte key a (BitVec.ofNat 8 x) else s
    State.hbmWriteMasked s' key (a + 1) (mask / 2) n (x / 256)

/-- The bytes of `x` whose bit of `mask` is set, written at `a ..`: check values are made over the lines they change
(R202), and the key index each line was written under is kept (R405). -/
def State.hbmStore (s : State) (key a mask n x : Nat) : State :=
  let s := s.hbmWriteMasked key a mask n x
  { s with
    badHbm := healed s.badHbm a n
    lineKeys := (List.range ((a + n - 1) / 128 + 1 - a / 128)).foldl (fun k j =>
      if key = 0 then del k (a / 128 + j) else put k (a / 128 + j) key) s.lineKeys }

/-- A write of `n` bytes of HBM. -/
def State.hbmWrite (s : State) (key a n x : Nat) : State := s.hbmStore key a (2 ^ n - 1) n x

/-! ### PTEs (R189-R192) -/

def pteValid (p : Nat) : Bool := bit p 0
def pteRead (p : Nat) : Bool := bit p 1
def pteWrite (p : Nat) : Bool := bit p 2
def pteLeaf (p : Nat) : Bool := bit p 3
def pteContig (p : Nat) : Nat := bits p 4 2
def pteChk (p : Nat) : Nat := bits p 6 2
def pteSys (p : Nat) : Bool := bit p 8
/-- The key index: KEY12 × 4,096 + KEY (R201). -/
def pteKey (p : Nat) : Nat := bits p 9 1 * 4096 + bits p 52 12
/-- FRAME as a physical address. -/
def pteFrame (p : Nat) : Nat := bits p 12 40 * 4096

/-- log2 of a leaf's own size in granules, by level (R189). -/
def leafSize (level : Nat) : Nat := if level = 3 then 18 else if level = 4 then 9 else 0

/-- A PTE with V = 1 is malformed (R191). -/
def pteMalformed (level p : Nat) : Bool :=
  let leaf := level == 5 || (pteLeaf p && (level == 3 || level == 4))
  bits p 10 2 != 0 || pteChk p == 3 || pteContig p == 3
  || (pteChk p == 2 && leaf)
  || (pteLeaf p && level ≤ 2)
  || (pteContig p == 1 && level != 5)
  || (pteContig p == 2 && !(level == 3 && leaf))
  || (leaf && pteFrame p / 4096 % 2 ^ leafSize level != 0)

/-- The outcome of a walk (R191, R195). -/
inductive Walk where
  /-- An invalid or malformed entry; `mal` says which. -/
  | fault (mal : Bool)
  /-- An entry stands on a line whose check value does not match (R202, R203). -/
  | bad
  /-- A leaf: log2 of the translation's size in granules, and the PTE. -/
  | leaf (size pte : Nat)
  deriving DecidableEq, Repr

/-- The walk from a table at level `6 - fuel` (R189).  A table whose PA is not this module's HBM, which the spec gives no outcome,
reads as unlisted bytes: its entries are invalid, and the walk faults (DESIGN CHOICE, log 8). -/
def State.walkFrom (s : State) (va : Nat) : Nat → Nat → Walk
  | 0, _ => .fault false
  | fuel + 1, table =>
    let level := 5 - fuel
    let idx := if level = 1 then bits va 48 12 else bits va (12 + 9 * fuel) 9
    let p := s.hbmRead 0 (table + 8 * idx) 8
    if s.badHbm.contains ((table + 8 * idx) / 128) then .bad
    else if !pteValid p then .fault false
    else if pteMalformed level p then .fault true
    else if level = 5 then .leaf (if pteContig p = 1 then 4 else 0) p
    else if pteLeaf p && (level == 3 || level == 4) then
      .leaf (if pteContig p = 2 then 23 else leafSize level) p
    else s.walkFrom va fuel (pteFrame p)

/-- The five-level walk of a VA (R189). -/
def State.walk (s : State) (va : Nat) : Walk := s.walkFrom va 5 (s.xroot.toNat / 32768 * 32768)

/-- The PA of a VA through a leaf of a given size: the frame bits below the size come from the VA (R192). -/
def leafPa (size pte va : Nat) : Nat :=
  let bytes := 2 ^ (12 + size)
  pteFrame pte / bytes * bytes + va % bytes

/-! ### Homes (R178, R179) -/

/-- The modules this one may reach by memory accesses (R178). -/
def State.inPartition (s : State) (dev : Nat) : Bool :=
  match s.partition with
  | none => false
  | some l => l.contains dev || dev == s.devidx.toNat

/-- The home of a PA; none where it is not memory (R178). -/
def State.homeOf (s : State) (pa : Nat) : Option Place :=
  if pa < Config.hbmBytes then some (.hbm pa)
  else if 2 ^ 42 ≤ pa ∧ pa < 2 ^ 43 then some (.host (bits pa 40 2) (bits pa 0 40))
  else if bit pa 51 && s.inPartition (bits pa 42 9) && bits pa 0 42 < Config.hbmBytes then
    some (.remote (bits pa 42 9) (bits pa 0 42))
  else none

/-- Two places with the same home unit (R209); rows of an unmapped or absent logical cell are known by its number. -/
def sameHome : Place → Place → Bool
  | .hbm a, .hbm b => bankOf a == bankOf b
  | .remote d a, .remote d' b => d == d' && bankOf a == bankOf b
  | .host p _, .host p' _ => p == p'
  | .pad c _, .pad c' _ => c == c'
  | .away l _ _, .away l' _ _ => l == l'
  | _, _ => false

/-! ### TLBs (R193, R194) -/

/-- The L1 TLB a cell uses: its cluster's; depots and system cores have one each (log 8). -/
def l1Key (cell : Nat) : Nat := if cell < Config.computeCells then cell / 16 else cell

/-- The slice of an L1 miss (R194). -/
def sliceOf (va : Nat) : Nat :=
  let y := bits va 21 39 * 16 + bits va 12 4
  (List.range 22).foldl (fun h i => h ^^^ (y / 4 ^ i)) 0 % 48

/-- A TLB entry covers a granule. -/
def TlbEntry.covers (e : TlbEntry) (vpn : Nat) : Bool := vpn / 2 ^ e.size == e.vpn / 2 ^ e.size

/-- The replay queue has no room for `n` more accesses: it holds 4,096, the misses that have entered the slice among
them (R200). -/
def Slice.full (q : Slice) (n : Nat) : Bool := decide (4096 < q.replay.length + q.misses.length + n)

def tlbFind (t : List TlbEntry) (vpn : Nat) : Option TlbEntry := t.find? (·.covers vpn)

/-- A TLB filled with an entry: at most `cap` are kept, the one at `victim` making room (log 8). -/
def tlbFill (t : List TlbEntry) (cap victim : Nat) (e : TlbEntry) : List TlbEntry :=
  let t := t.filter fun x => !x.covers e.vpn
  e :: (if cap ≤ t.length then removeAt t (victim % cap) else t)

/-- A permission failure of R195 through a leaf.  SYS is tested on the leaf alone (DESIGN CHOICE, log 8). -/
def State.denied (s : State) (pte size va : Nat) (write sys : Bool) : Bool :=
  (if write then !pteWrite pte else !pteRead pte) || (pteSys pte && !sys)
  || (match s.homeOf (leafPa size pte va) with
    | none => true
    | some (.host q off) => (s.hostAddr q off write).isNone
    | some _ => false)

/-- A translated access: its home, key index and check mode. -/
structure Located where
  place : Place
  key : Nat
  chk : Bool
  deriving DecidableEq, Repr

/-- What a global address comes to at issue. -/
inductive Trans where
  | at (l : Located)
  | perm
  /-- The access parks in its slice's replay queue. -/
  | park
  /-- It has parked and been replayed, and a valid PTE denies it: it completes in error (R196). -/
  | denied
  /-- A table's line has a bad check value (R203). -/
  | bad
  /-- An L1 miss: the context waits for a walk of this granule, or an engine's miss at its port (R195, R200). -/
  | miss
  deriving DecidableEq, Repr

def State.locate (s : State) (size pte va : Nat) (write sys : Bool) : Trans :=
  if s.denied pte size va write sys then .perm
  else match s.homeOf (leafPa size pte va) with
    | some p => .at ⟨p, pteKey pte, pteChk pte == 1⟩
    | none => .perm

/-- The answer a context holds for a granule. -/
def Answer.about (vpn : Nat) : Answer → Bool
  | .page v size _ => vpn / 2 ^ size == v / 2 ^ size
  | .perm v => v == vpn
  | .parkIn v => v == vpn
  | .denied v => v == vpn
  | .value .. => false
  | .packet .. => false
  | .word .. => false

/-- Translation of a global VA by the executing context: its slice's reply if it has one, else the L1 (R195). -/
def State.translate (s : State) (va : Nat) (write : Bool) : Trans :=
  let vpn := va / 4096
  match s.cur.answers.find? (Answer.about vpn) with
  | some (.page _ size pte) => s.locate size pte va write s.isSys
  | some (.perm _) => .perm
  | some (.parkIn _) => .park
  | some (.denied _) => .denied
  | _ =>
    match tlbFind (look [] s.l1 (l1Key s.now.cell)) vpn with
    | some e => s.locate e.size e.pte va write s.isSys
    | none => .miss

/-- The context waits for a walk: its miss goes to its cluster's port (R195, R200). -/
def State.missOn (s : State) (va : Nat) (write : Bool) : State :=
  let n := s.now.cell
  let k := s.now.ctx
  let s' := s.modCur fun x => { x with wait := .walk (va / 4096) }
  { s' with ports := s'.ports ++ [(l1Key n, { cell := n, ctx := k, vpn := va / 4096, write := write, sys := s.isSys })] }

/-- What a walk means for an access in system mode; none for a fault. -/
def State.walked (s : State) (va : Nat) (write : Bool) : Walk → Option Trans
  | .fault _ => none
  | .bad => some .bad
  | .leaf size pte => some (s.locate size pte va write true)

/-- The translation of an access that the part makes for itself: a walk in system mode; none while it must wait
(log 14). -/
def State.engine (s : State) (va : Nat) (write : Bool) : Option Trans :=
  if 2 ^ 60 ≤ va then some .perm else s.walked va write (s.walk va)

/-- Work of the part waits no more at a miss port. -/
def State.leavePort (s : State) (who : Nat) : State := { s with ports := s.ports.filter fun e => e.2.unit != some who }

/-- The miss of work `who` waits at L1 port `k`, behind those that came before it (R200). -/
def State.waitAtPort (s : State) (k who va : Nat) (write : Bool) : State :=
  if s.ports.any (fun e => e.2.unit == some who) then s
  else { s with ports := s.ports ++ [(k, { cell := 0, ctx := 4, vpn := va / 4096, write := write, sys := true, unit := some who })] }

/-- Misses to the slice of `va` wait at L1 port `k` before that of work `who` (R200). -/
def State.portTaken (s : State) (k who va : Nat) : Bool :=
  (s.ports.takeWhile fun e => e.2.unit != some who).any fun e => e.1 == k && sliceOf (e.2.vpn * 4096) == sliceOf va

/-- The translation of an access of work `who` of a copy engine or matrix unit: through its cluster's L1 TLB `k`, then the
slice's TLB, then a walk, which fills both (R193, R271); none for a fault, and `miss` while the miss waits at the port: the
slice's replay queue is full, or earlier misses wait for it there (R200).  The event's argument `c` says which entry a full TLB
gives up (log 8). -/
def State.unitTranslate (s : State) (k who va : Nat) (write : Bool) : Option Trans × State :=
  if 2 ^ 60 ≤ va then (some .perm, s)
  else
    let vpn := va / 4096
    let l1 := look [] s.l1 k
    match tlbFind l1 vpn with
    | some e => (some (s.locate e.size e.pte va write true), s.leavePort who)
    | none =>
      let q := look {} s.slices (sliceOf va)
      if q.full 1 || s.portTaken k who va then (some .miss, s.waitAtPort k who va write)
      else
      let s := s.leavePort who
      let hit := tlbFind q.tlb vpn
      let w := match hit with
        | some e => Walk.leaf e.size e.pte
        | none => s.walk va
      match w with
      | .leaf size pte =>
        let e : TlbEntry := { vpn := vpn, size := size, pte := pte }
        (some (s.locate size pte va write true),
          { s with
            l1 := put s.l1 k (tlbFill l1 256 s.now.arg.c e)
            slices := if hit.isSome then s.slices
              else put s.slices (sliceOf va) { q with tlb := tlbFill q.tlb 8192 s.now.arg.c e } })
      | w => (s.walked va write w, s)

/-! ### Global bytes read and written by the part itself (records, tables, descriptors) -/

/-- The HBM address, key and check mode of a VA the part reads or writes for itself, when it lies in this module's HBM,
be it by the module's own remote address (R178). -/
def State.engineHome (s : State) (va : Nat) (write : Bool) : Option (Nat × Nat × Bool) :=
  match s.engine va write with
  | some (.at ⟨.hbm pa, key, chk⟩) => some (pa, key, chk)
  | some (.at ⟨.remote dev pa, key, chk⟩) => if dev = s.devidx.toNat then some (pa, key, chk) else none
  | _ => none

/-- The HBM address and key of such a VA. -/
def State.engineHbm (s : State) (va : Nat) (write : Bool) : Option (Nat × Nat) :=
  (s.engineHome va write).map fun h => (h.1, h.2.1)

/-- A VA whose home is another module's memory. -/
def State.away (s : State) (va : Nat) : Bool :=
  match s.engine va false with
  | some (.at ⟨.remote dev _, _, _⟩) => dev != s.devidx.toNat
  | _ => false

/-- `n` bytes at a VA within one page, when they can be read now: a line whose check value does not match is delivered
under CHK = 1 alone (R203). -/
def State.vaRead (s : State) (va n : Nat) : Option Nat :=
  (s.engineHome va false).bind fun (pa, key, chk) =>
    if !chk && (List.range ((pa + n - 1) / 128 + 1 - pa / 128)).any (fun j => s.badHbm.contains (pa / 128 + j)) then none
    else some (s.hbmRead key pa n)

/-- `n` bytes at a VA within one page written, when they can be. -/
def State.vaWrite (s : State) (va n x : Nat) : Option State :=
  (s.engineHbm va true).map fun (pa, key) => s.hbmWrite key pa n x

/-- `n` bytes at a VA, byte by byte across pages. -/
def State.vaBytes (s : State) (va : Nat) : Nat → Option (List Byte)
  | 0 => some []
  | n + 1 => do
    let (pa, key, chk) ← s.engineHome va false
    if !chk && s.badHbm.contains (pa / 128) then none
    else
      let r ← s.vaBytes (va + 1) n
      pure (s.hbmByte key pa :: r)

end Sys2Proof.Machine
end

