-- ==== Sys2Proof/Machine/Flows.lean ====
section
/-! DEFINITION. Sending on flows (R309, R313-R315) and errors recorded in ERRSUM (R47). -/
namespace Sys2Proof.Machine

/-! ### ERRSUM and CANCEL of a launch's record (R47, R49) -/

/-- The level record of a launch on this module. -/
def State.levelVa (s : State) (launch : Nat) : Nat := (look {} s.launches launch).recva.toNat

/-- ERRSUM with an error recorded: FIRST and FIRSTCELL when it is the first, NERR saturating (R47). -/
def errsumAdd (e cause lcell : Nat) (bits23 : Nat) : Nat :=
  let first := e % 256
  let nerr := min (bits e 8 16 + 1) 0xFFFF
  let flags := bits e 24 2 ||| bits23
  (if first = 0 then cause else first) + 256 * nerr + 2 ^ 24 * flags
    + 2 ^ 32 * (if first = 0 then lcell else e / 2 ^ 32)

/-- An error recorded in the ERRSUM of a launch's level record; lost when the record cannot be written (log 14). -/
def State.recordError (s : State) (launch : Option Nat) (cause lcell : Nat) (flags : Nat := 0) : State :=
  match launch with
  | none => s
  | some l =>
    if (look? s.launches l).isNone then s
    else
    let va := s.levelVa l + 24
    match s.vaRead va 8 with
    | some e => (s.vaWrite va 8 (errsumAdd e cause lcell flags)).getD s
    | none => s

/-- The cause ERRSUM records for a status (R184, R274). -/
def causeOf (status : Nat) : Nat :=
  match status with
  | 1 => 0x05 | 2 => 0x04 | 5 => 0x0B | 6 => 0x0A | 7 => 0x07 | _ => 0x01

/-- The level records that PARENT pointers lead to from a record, that record first (R45). -/
def State.recordsOver (s : State) : Nat → Nat → List Nat
  | 0, _ => []
  | fuel + 1, va => va :: (match s.vaRead (va + 40) 8 with
    | some 0 => []
    | some p => s.recordsOver fuel p
    | none => [])

/-- The level record of a launch, or above one, whose LFLAGS stand at this PA (R45). -/
def State.lflagsAt (s : State) (pa : Nat) : Option Nat :=
  (s.launches.map fun e => s.recordsOver 4 e.2.recva.toNat).flatten.find? fun va =>
    (s.engineHbm (va + 20) true).map (·.1) == some pa

/-- The command processor is to spread the CANCEL of a level record (R49). -/
def State.spreadCancel (s : State) (va : Nat) : State :=
  if s.cancels.contains va then s else { s with cancels := s.cancels ++ [va] }

/-- CANCEL set in a level record; the command processor then spreads it (R49, R119). -/
def State.cancelRecord (s : State) (va : Nat) : State :=
  match s.vaRead (va + 20) 4 with
  | some f =>
    ((s.vaWrite (va + 20) 4 (f ||| 1)).getD s).spreadCancel va
  | none => s

/-- A level record's CANCEL is set. -/
def State.cancelled (s : State) (va : Nat) : Bool :=
  match s.vaRead (va + 20) 4 with
  | some f => f % 2 == 1
  | none => false

/-! ### Reach (R318, R319) -/

/-- A module that sends can reach: the reach mask, or before REACH is written the partition, or itself alone. -/
def State.reaches (s : State) (dev : Nat) : Bool :=
  (dev == s.devidx.toNat || s.inPartition dev) &&
  (match s.reach with
  | some l => l.contains dev
  | none => true)

/-- No route is left to a module of another group (R318).  Which groups that holds of, the links say when a port starts
to drain and when it relocks (log 19): local hops to members with an open global port are routes too (R304). -/
def State.dark (s : State) (dev : Nat) : Bool := dev / 32 != s.devidx.toNat / 32 && s.unrouted.contains (dev / 32)

/-- The groups that the event's data leave without a route. -/
def State.reroute (s : State) : State := { s with unrouted := s.now.arg.data }

/-! ### Flows (R309) -/

def State.findFlow (s : State) (scell dev : Nat) : Option Flow :=
  s.flows.find? fun f => f.scell == scell && f.ddev == dev

def State.setFlow (s : State) (f : Flow) : State :=
  if s.flows.any (fun g => g.scell == f.scell && g.ddev == f.ddev) then
    { s with flows := s.flows.map fun g => if g.scell = f.scell ∧ g.ddev = f.ddev then f else g }
  else { s with flows := s.flows ++ [f] }

/-- A flow takes one more message: a record is there or can be made, and its replay buffer has room (R309). -/
def State.flowRoom (s : State) (scell dev : Nat) : Bool :=
  match s.findFlow scell dev with
  | some f => f.buf.length < 32
  | none => s.flows.length < 8192

/-- A packet stamped with the send round and handed to the links; messages of the counted classes are
counted for the round's marker (R314, R315). -/
def State.transmit (s : State) (p : Packet) : State :=
  let p := { p with rnd := s.rounds.send % 4096 }
  { s with out := s.out ++ [p] }

/-- Counts one new message stamped with the current send round. -/
def State.stamp (s : State) (dev : Nat) : State :=
  { s with rounds := { s.rounds with stamped := put s.rounds.stamped dev (look 0 s.rounds.stamped dev + 1) } }

/-- Some access that is not yet performed satisfies `f`: one on its way or parked, one that a forced save, which may still be
storing its record, has withdrawn and that will be made again, or one that its restored context has still to make
(R208, R251, R254). -/
def State.unperformed (s : State) (f : Access → Bool) : Bool :=
  (s.inflight.any fun a => a.phase.open && f a) ||
  (s.savedTasks.any fun t => t.2.withdrawn.any fun l => l.any f) ||
  s.cells.any fun c => [0, 1, 2, 3].any fun k =>
    ((c.2.ctx k).again.any fun e => e.2.any f) ||
    (match (c.2.ctx k).storing with | some st => st.task.withdrawn.any fun l => l.any f | none => false)

/-- The access with this number is not yet performed. -/
def State.pendingAccess (s : State) (id : Nat) : Bool := s.unperformed fun a => a.id == id

/-- The messages at the head of a flow that may be sent now are sent, in order (R351): each waits for its
own REL and for those before it. -/
def State.pumpBuf (s : State) : List FlowMsg → State × List FlowMsg
  | [] => (s, [])
  | m :: r =>
    if m.sent then
      let (s', r') := s.pumpBuf r
      (s', m :: r')
    else if m.after.any s.pendingAccess then (s, m :: r)
    else
      let m' := { m with sent := true, pkt := { m.pkt with rnd := s.rounds.send % 4096 } }
      let (s', r') := ((s.transmit m'.pkt).stamp m.pkt.ddev).pumpBuf r
      (s', m' :: r')

def State.pump (s : State) (scell dev : Nat) : State :=
  match s.findFlow scell dev with
  | none => s
  | some f =>
    if s.dark dev then s
    else
      let (s', buf) := s.pumpBuf (f.buf.take 32)
      s'.setFlow { f with buf := buf ++ f.buf.drop 32 }

/-- Every flow that holds a message back goes on as far as it can. -/
def State.pumpAll (s : State) : State :=
  s.flows.foldl (fun s f => if f.buf.any (fun m => !m.sent) then s.pump f.scell f.ddev else s) s

/-- A message enters its flow with the next SEQ; FIRST marks the first of a new record (R305, R309). -/
def State.sendOn (s : State) (p : Packet) (access : Option Nat) (after : List Nat) (needsReply : Bool)
    (engine : Bool := false) (owner : Option (Option Nat × Nat) := none) : State :=
  let f := (s.findFlow p.scell p.ddev).getD { scell := p.scell, ddev := p.ddev }
  let fresh := (s.findFlow p.scell p.ddev).isNone
  let p := { p with seq := f.next % 65536, first := fresh, sdev := s.devidx.toNat }
  let m : FlowMsg := { pkt := p, access := access, after := after, replied := !needsReply, engine := engine, owner := owner }
  (s.setFlow { f with
    next := (f.next + 1) % 65536, buf := f.buf ++ [m]
    bare := (match owner with | some (none, _) => [f.next % 65536] | _ => []) ++ f.bare.filter (· != f.next % 65536)
    answered := f.answered.filter (· != f.next % 65536) }).pump p.scell p.ddev

/-- Messages numbered from `q` on; `first` is FIRST of the foremost. -/
def renumber (q : Nat) (first : Bool) : List FlowMsg → List FlowMsg
  | [] => []
  | m :: r => { m with pkt := { m.pkt with seq := q, first := first } } :: renumber ((q + 1) % 65536) false r

/-- The messages of a flow behind a held one that waits for access `id`: they have not left, and the access goes before
them. -/
def Flow.behind (f : Flow) (id : Nat) : List FlowMsg := f.buf.dropLast.dropWhile fun m => m.sent || !m.after.contains id

/-- The message just entered, which carries access `id`, goes out before the message that is held for that access and those
behind it; what has not left takes later SEQs (R351). -/
def State.goAhead (s : State) (scell dev id : Nat) : State :=
  match s.findFlow scell dev with
  | none => s
  | some f =>
    match f.behind id, f.buf.getLast? with
    | h :: r, some m =>
      let moved := renumber h.pkt.seq h.pkt.first (m :: h :: r)
      let late := (h :: r).map (·.pkt.seq)
      let bare := (moved.filter fun m => match m.owner with | some (none, _) => true | _ => false).map (·.pkt.seq)
      let s := s.setFlow { f with
        buf := f.buf.take (f.buf.length - (r.length + 2)) ++ moved
        bare := bare ++ f.bare.filter fun q => !(moved.any (·.pkt.seq == q)) }
      State.pump { s with
        inflight := s.inflight.map fun a => match a.phase, moved.find? (fun m => m.access == some a.id) with
          | .sent d _, some m => if d = dev then { a with phase := .sent dev m.pkt.seq } else a
          | _, _ => a
        mrems := s.mrems.map fun r => if r.lcell = scell ∧ r.dev = dev ∧ late.contains r.seq then
          { r with seq := (r.seq + 1) % 65536 } else r } scell dev
    | _, _ => s

/-! ### Built-in requests (R307) -/

/-- A header from this module; the fields its class does not use hold values the spec does not give (log 6). -/
def State.header (s : State) : Packet × State :=
  let (f, s) := s.fresh
  ({ Packet.none with
      dcell := bits f 0 16, launch := bits f 16 12, path := bits f 28 64, paddr := bits f 92 19, scell := bits f 111 16
      spcell := bits f 127 17, args := [bits f 144 64, bits f 208 64, bits f 272 64, bits f 336 64]
      sdev := s.devidx.toNat }, s)

/-- The packet of a remote load, store or AMO (R307): class, PA at the home, a1, a2, a3, payload. -/
def State.requestPacket (s : State) (scell cell dev cls pa a1 a2 a3 : Nat) (payload : List Nat) : Packet × State :=
  let (h, s) := s.header
  ({ h with
      ddev := dev, scell := scell, cls := cls, spcell := cell
      args := if cls = 0 then [pa, a1] ++ h.args.drop 2 else [pa, a1, a2, a3]
      paylen := payload.length, payload := payload }, s)

/-- A message of a class that is not sequenced leaves the module's port (R307). -/
def State.portSend (s : State) (dev cls : Nat) (args : List Nat) : State :=
  let (h, s) := s.header
  s.transmit { h with ddev := dev, cls := cls, args := args ++ h.args.drop args.length }

/-- The launch whose set holds a logical cell, for errors of a flow. -/
def State.launchOf (s : State) (lcell : Nat) : Option Nat :=
  (s.launches.find? fun e => e.2.lbase.toNat ≤ lcell && lcell < e.2.lbase.toNat + e.2.lcount.toNat).map (·.1)

/-- The launch of the activation that sent a message of a flow: what the message keeps, or that its activation had none
(R308, R349, R408). -/
def State.launchSent (s : State) (scell dev seq : Nat) : Option Nat :=
  let flow := s.findFlow scell dev
  match (flow.bind fun f => f.buf.find? (·.pkt.seq == seq)).bind FlowMsg.owner with
  | some (l, _) => l
  | none => if flow.any fun f => f.bare.contains seq then none else s.launchOf scell

end Sys2Proof.Machine
end

