-- ==== Sys2Proof/Machine/Flags.lean ====
section
/-! DEFINITION. The five flags of FFLAGS (R64, R127).  Every rounding operation returns its flags beside its result
(Machine/Float.lean), and `State.raise` ORs them in. -/
namespace Sys2Proof.Machine

def flagNX : BitVec 5 := 1
def flagUF : BitVec 5 := 2
def flagOF : BitVec 5 := 4
def flagDZ : BitVec 5 := 8
def flagNV : BitVec 5 := 16

/-- A flag if a condition holds. -/
def flagIf (b : Bool) (f : BitVec 5) : BitVec 5 := if b then f else 0

end Sys2Proof.Machine
end

