-- ==== Sys2Proof/Machine/Float.lean ====
section
/-! DEFINITION. Number formats, exact values, rounding and the random stream (R124-R144). -/
namespace Sys2Proof.Machine

/-! ### The random stream (R134) -/

/-- `Mix(key, ctr)` (R134). -/
def mix (key ctr : Word) : Word :=
  let z := ctr + key * 0xD1B54A32D192ED03
  let z := (z ^^^ (z >>> 31)) * 0xA2F35C6B1E9D4F27
  let z := (z ^^^ (z >>> 29)) * 0x8C6BD3A157E4C9B5
  z ^^^ (z >>> 32)

/-- The key of RAND and of stochastic rounding (R97, R134); 0 on a system core (R408). -/
def Ctx.randKey (x : Ctx) : Word := x.jseed ^^^ (x.lcell.zeroExtend 64 * 0x5851F42D4C957F2D)

/-- The draw of element `i` from counter `ctr` on (R134). -/
def drawAt (key ctr : Word) (i : Nat) : Nat :=
  bits (mix key (ctr + BitVec.ofNat 64 (i / 4))).toNat (16 * (i % 4)) 16

/-! ### Formats (R125, R126) -/

/-- A binary floating-point format: exponent and fraction bits. -/
structure Fmt where
  eb : Nat
  fb : Nat
  deriving DecidableEq, Repr

def bf16 : Fmt := ⟨8, 7⟩
def f16 : Fmt := ⟨5, 10⟩
def f32 : Fmt := ⟨8, 23⟩

/-- The format a TY value names; f32 for every other value (R71). -/
def fmtOf (y : BitVec 3) : Fmt := if y.toNat = 3 then bf16 else if y.toNat = 4 then f16 else f32

def Fmt.bias (t : Fmt) : Nat := 2 ^ (t.eb - 1) - 1
def Fmt.width (t : Fmt) : Nat := 1 + t.eb + t.fb
/-- The exponent of the least significant bit of a subnormal. -/
def Fmt.minExp (t : Fmt) : Int := 1 - (t.bias : Int) - t.fb
def Fmt.infBits (t : Fmt) (neg : Bool) : Nat := neg.toNat * 2 ^ (t.eb + t.fb) + (2 ^ t.eb - 1) * 2 ^ t.fb
/-- The canonical quiet NaN (R126). -/
def Fmt.nan (t : Fmt) : Nat := (2 ^ t.eb - 1) * 2 ^ t.fb + 2 ^ (t.fb - 1)
def Fmt.zero (t : Fmt) (neg : Bool) : Nat := neg.toNat * 2 ^ (t.eb + t.fb)
def Fmt.maxBits (t : Fmt) (neg : Bool) : Nat := neg.toNat * 2 ^ (t.eb + t.fb) + (2 ^ t.eb - 1) * 2 ^ t.fb - 1

/-- A floating-point datum: a finite one is (−1)^neg × m × 2^e. -/
inductive Fp where
  | nan (signalling : Bool)
  | inf (neg : Bool)
  | fin (neg : Bool) (m : Nat) (e : Int)
  deriving DecidableEq, Repr

/-- The datum of an encoding (R125, R126). -/
def Fmt.decode (t : Fmt) (x : Nat) : Fp :=
  let neg := bit x (t.eb + t.fb)
  let ex := bits x t.fb t.eb
  let fr := x % 2 ^ t.fb
  if ex = 2 ^ t.eb - 1 then (if fr = 0 then .inf neg else .nan (!(bit fr (t.fb - 1))))
  else if ex = 0 then .fin neg fr t.minExp
  else .fin neg (2 ^ t.fb + fr) (t.minExp + (ex - 1 : Nat))

/-! ### Exact values -/

/-- A magnitude num / den as an exact non-negative rational; den > 0. -/
structure Mag where
  num : Nat
  den : Nat
  deriving DecidableEq, Repr

/-- m × 2^e. -/
def Mag.ofDyadic (m : Nat) (e : Int) : Mag :=
  if 0 ≤ e then ⟨m * 2 ^ e.toNat, 1⟩ else ⟨m, 2 ^ (-e).toNat⟩

/-- A magnitude known to lie strictly between two neighbours n and n + 1 of the grid of step 2^e. -/
def Mag.between (n : Nat) (e : Int) : Mag := Mag.ofDyadic (2 * n + 1) (e - 1)

/-- ⌊log2(num / den)⌋ for a non-zero magnitude. -/
def Mag.log2 (x : Mag) : Int :=
  let e : Int := (Nat.log2 x.num : Int) - Nat.log2 x.den
  let ge := if 0 ≤ e then x.den * 2 ^ e.toNat ≤ x.num else x.den ≤ x.num * 2 ^ (-e).toNat
  if ge then e else e - 1

/-- num / den in units of 2^q: the integer part, the remainder and its denominator. -/
def Mag.scaled (x : Mag) (q : Int) : Nat × Nat × Nat :=
  let n := if q < 0 then x.num * 2 ^ (-q).toNat else x.num
  let d := if q < 0 then x.den else x.den * 2 ^ q.toNat
  (n / d, n % d, d)

/-! ### Rounding (R131, R132) -/

/-- How one element is rounded: FRM's code and the element's draw. -/
structure Rnd where
  mode : Nat
  draw : Nat := 0
  deriving DecidableEq, Repr

def Rnd.rne : Rnd := ⟨0, 0⟩

/-- Whether the magnitude m + rem / d, 0 < rem < d, is rounded away from zero (R131). -/
def Rnd.up (r : Rnd) (neg : Bool) (m rem d : Nat) : Bool :=
  match r.mode with
  | 0 => d < 2 * rem || (2 * rem == d && m % 2 == 1)
  | 1 => false
  | 2 => !neg
  | 3 => neg
  | _ =>
    if neg then !(r.draw < (d - rem) * 65536 / d) else r.draw < rem * 65536 / d

/-- The integer nearest a magnitude under a mode, and whether that is inexact (R131). -/
def roundInt (r : Rnd) (neg : Bool) (x : Mag) : Nat × Bool :=
  let m := x.num / x.den
  let rem := x.num % x.den
  if rem = 0 then (m, false) else (m + (r.up neg m rem x.den).toNat, true)

/-- `Round` of a non-zero magnitude into a floating-point format (R131, R132): encoding and flags. -/
def Fmt.round (t : Fmt) (r : Rnd) (neg : Bool) (x : Mag) : Nat × BitVec 5 :=
  let q := max (x.log2 - t.fb) t.minExp
  let (m, rem, d) := x.scaled q
  let inexact := rem != 0
  let m' := if inexact then m + (r.up neg m rem d).toNat else m
  let sign := t.zero neg
  -- the encoding with the exponent unbounded above: a carry moves into the exponent field by itself
  let body := (q - t.minExp).toNat * 2 ^ t.fb + m'
  if (2 ^ t.eb - 1) * 2 ^ t.fb ≤ body then
    let res := match r.mode with
      | 1 => t.maxBits neg
      | 2 => if neg then t.maxBits neg else t.infBits neg
      | 3 => if neg then t.infBits neg else t.maxBits neg
      | _ => t.infBits neg
    (res, flagOF ||| flagNX)
  else
    (sign + body, flagIf inexact flagNX ||| flagIf (inexact && body < 2 ^ t.fb) flagUF)

/-- A dyadic integer z × 2^e. -/
structure Dyadic where
  z : Int
  e : Int
  deriving DecidableEq, Repr

def Dyadic.add (a b : Dyadic) : Dyadic :=
  let e := min a.e b.e
  ⟨a.z * 2 ^ (a.e - e).toNat + b.z * 2 ^ (b.e - e).toNat, e⟩

/-- Rounds an exact dyadic; an exact zero takes the given sign. -/
def Fmt.roundDyadic (t : Fmt) (r : Rnd) (zeroNeg : Bool) (x : Dyadic) : Nat × BitVec 5 :=
  if x.z = 0 then (t.zero zeroNeg, 0) else t.round r (decide (x.z < 0)) (Mag.ofDyadic x.z.natAbs x.e)

/-! ### Sums of products (R128, R149) -/

def Fp.neg : Fp → Fp
  | .nan q => .nan q
  | .inf n => .inf (!n)
  | .fin n m e => .fin (!n) m e

def Fp.isSnan : Fp → Bool
  | .nan q => q
  | _ => false

def Fp.isNan : Fp → Bool
  | .nan _ => true
  | _ => false

/-- The exact product; `none` for 0 × ∞ (R128).  A NaN operand gives a quiet NaN. -/
def Fp.mul : Fp → Fp → Option Fp
  | .nan _, _ => some (.nan false)
  | _, .nan _ => some (.nan false)
  | .inf n, .inf n' => some (.inf (n != n'))
  | .inf n, .fin n' m _ => if m = 0 then none else some (.inf (n != n'))
  | .fin n' m _, .inf n => if m = 0 then none else some (.inf (n != n'))
  | .fin n m e, .fin n' m' e' => some (.fin (n != n') (m * m') (e + e'))

def Fp.dyadic : Fp → Dyadic
  | .fin n m e => ⟨if n then -(m : Int) else m, e⟩
  | _ => ⟨0, 0⟩

def Fp.isNeg : Fp → Bool
  | .nan _ => false
  | .inf n => n
  | .fin n _ _ => n

def Fp.isInf : Fp → Bool
  | .inf _ => true
  | _ => false

def Fp.isZero : Fp → Bool
  | .fin _ m _ => m == 0
  | _ => false

/-- Round(exact sum of the terms): `none` is a term 0 × ∞; `snan` says an operand was signalling (R128). -/
def Fmt.sum (t : Fmt) (r : Rnd) (snan : Bool) (terms : List (Option Fp)) : Nat × BitVec 5 :=
  let ts := terms.filterMap id
  let bad := terms.any (·.isNone)
  if bad || ts.any Fp.isNan then (t.nan, flagIf (snan || bad) flagNV)
  else
    let infs := ts.filter Fp.isInf
    match infs with
    | x :: _ =>
      if infs.all (fun y => y.isNeg == x.isNeg) then (t.infBits x.isNeg, 0) else (t.nan, flagNV)
    | [] =>
      let total := ts.foldl (fun acc x => acc.add x.dyadic) ⟨0, 0⟩
      let zeroNeg := if ts.all Fp.isNeg then true
        else if ts.all (fun x => x.isZero && !x.isNeg) then false else r.mode == 3
      t.roundDyadic r zeroNeg total

/-- a + b in one format. -/
def Fmt.add (t : Fmt) (r : Rnd) (a b : Nat) : Nat × BitVec 5 :=
  let x := t.decode a
  let y := t.decode b
  t.sum r (x.isSnan || y.isSnan) [some x, some y]

def Fmt.sub (t : Fmt) (r : Rnd) (a b : Nat) : Nat × BitVec 5 :=
  let x := t.decode a
  let y := t.decode b
  t.sum r (x.isSnan || y.isSnan) [some x, some y.neg]

def Fmt.mul (t : Fmt) (r : Rnd) (a b : Nat) : Nat × BitVec 5 :=
  let x := t.decode a
  let y := t.decode b
  t.sum r (x.isSnan || y.isSnan) [x.mul y]

/-- ±(a × b) ± d, the product exact, one rounding (R149). -/
def Fmt.fma (t : Fmt) (r : Rnd) (negProd negAdd : Bool) (a b d : Nat) : Nat × BitVec 5 :=
  let x := t.decode a
  let y := t.decode b
  let z := t.decode d
  t.sum r (x.isSnan || y.isSnan || z.isSnan)
    [(if negProd then x.neg else x).mul y, some (if negAdd then z.neg else z)]

/-! ### Comparison, minimum and maximum (R140, R162) -/

/-- The order of two numbers, the zeros equal. -/
def Fp.cmp (a b : Fp) : Ordering :=
  match a, b with
  | .inf n, .inf n' => if n = n' then .eq else if n then .lt else .gt
  | .inf n, _ => if n then .lt else .gt
  | _, .inf n => if n then .gt else .lt
  | _, _ =>
    let d := Dyadic.add a.dyadic ⟨-b.dyadic.z, b.dyadic.e⟩
    if d.z < 0 then .lt else if d.z = 0 then .eq else .gt

/-- a is the lesser under R140, −0 below +0. -/
def Fp.le (a b : Fp) : Bool :=
  match a.cmp b with
  | .lt => true
  | .gt => false
  | .eq => a.isNeg || !b.isNeg

/-- MIN (or MAX) of two encodings (R140). -/
def Fmt.minmax (t : Fmt) (max : Bool) (a b : Nat) : Nat × BitVec 5 :=
  let x := t.decode a
  let y := t.decode b
  if x.isSnan || y.isSnan then (t.nan, flagNV)
  else if x.isNan then (if y.isNan then t.nan else b, 0)
  else if y.isNan then (a, 0)
  else (if x.le y != max then a else b, 0)

/-! ### Integers and conversions (R124, R133, R138, R139) -/

/-- The range of an integer type of `w` bits. -/
def intMin (w : Nat) (unsigned : Bool) : Int := if unsigned then 0 else -(2 ^ (w - 1))
def intMax (w : Nat) (unsigned : Bool) : Int := if unsigned then 2 ^ w - 1 else 2 ^ (w - 1) - 1

/-- `Sat` (R133). -/
def sat (x : Int) (w : Nat) (unsigned : Bool) : Int := min (max x (intMin w unsigned)) (intMax w unsigned)

/-- An integer as `w` bits. -/
def toBits (x : Int) (w : Nat) : Nat := (x % 2 ^ w).toNat

/-- The integer an element of `w` bits holds. -/
def intOf (x w : Nat) (unsigned : Bool) : Int := if unsigned then (x % 2 ^ w : Nat) else sext x w

/-- An exact integer rounded into a format (R139). -/
def Fmt.ofInt (t : Fmt) (r : Rnd) (x : Int) : Nat × BitVec 5 := t.roundDyadic r false ⟨x, 0⟩

/-- A datum rounded into a format (R139). -/
def Fmt.ofFp (t : Fmt) (r : Rnd) (x : Fp) : Nat × BitVec 5 :=
  match x with
  | .nan q => (t.nan, flagIf q flagNV)
  | .inf n => (t.infBits n, 0)
  | .fin n m e => if m = 0 then (t.zero n, 0) else t.round r n (Mag.ofDyadic m e)

/-- A datum converted to an integer type (R138). -/
def fpToInt (r : Rnd) (x : Fp) (w : Nat) (unsigned : Bool) : Nat × BitVec 5 :=
  match x with
  | .nan _ => (0, flagNV)
  | .inf n => (toBits (if n then intMin w unsigned else intMax w unsigned) w, flagNV)
  | .fin n m e =>
    let (k, inexact) := roundInt r n (Mag.ofDyadic m e)
    let v : Int := if n then -(k : Int) else k
    if v < intMin w unsigned then (toBits (intMin w unsigned) w, flagNV)
    else if intMax w unsigned < v then (toBits (intMax w unsigned) w, flagNV)
    else (toBits v w, flagIf inexact flagNX)

/-! ### Block formats (R129, R130, R137, R144) -/

/-- Magnitude bits of bx8 (5 below the point, M = 64) or bx4 (1, M = 4). -/
def blockFrac (four : Bool) : Nat := if four then 1 else 5

/-- The value of a block element under exponents E0 and E1 (R130). -/
def blockElem (four : Bool) (el e0 e1 : Nat) : Fp :=
  let k := blockFrac four
  let m := el % 2 ^ (k + 1)
  let ex := if bit el (k + 1) then e1 else e0
  if ex = 255 then .nan false else .fin (bit el (k + 2)) m ((ex : Int) - 127 - k)

/-- The element exponent e(x) of a finite non-zero value (R137). -/
def elemExp (four : Bool) (x : Mag) : Int :=
  let l := x.log2
  -- |x| ≥ H × 2^l, with H = (2^(k+2) − 1) / 2^(k+1)
  let k := blockFrac four
  let (n, _, _) := x.scaled (l - (k + 1))
  l + 127 + (if 2 ^ (k + 2) - 1 ≤ n then 1 else 0)

/-- One element of the conversion of R137 under E0 and E1: its encoding and flags. -/
def blockPut (four : Bool) (e0 e1 : Nat) (r : Rnd) (x : Fp) : Nat × BitVec 5 :=
  let k := blockFrac four
  let top := 2 ^ (k + 1)
  let enc (s : Bool) (sel m : Nat) : Nat := s.toNat * 2 ^ (k + 2) + sel * top + m
  let scaled (m : Nat) (e : Int) (ex : Nat) : Mag := Mag.ofDyadic m (e + 127 - ex + k)
  match x with
  | .nan q => (enc false 1 0, flagIf q flagNV)
  | .inf n => (enc n 0 (top - 1), flagOF ||| flagNX)
  | .fin n m e =>
    if m ≠ 0 ∧ 254 < elemExp four (Mag.ofDyadic m e) then (enc n 0 (top - 1), flagOF ||| flagNX)
    else
      let (m1, ix1) := roundInt r n (scaled m e e1)
      if e1 ≠ 255 ∧ m1 ≤ top - 1 then
        (enc n 1 m1, flagIf ix1 flagNX ||| flagIf (m != 0 && m1 == 0) flagUF)
      else
        let (m0, ix0) := roundInt r n (scaled m e e0)
        let m0' := min m0 (top - 1)
        (enc n 0 m0', flagIf (ix0 || m0 != m0') flagNX ||| flagIf (m != 0 && m0' == 0) flagUF)

/-- The conversion of 32 values into a block (R137): elements, E0, E1, flags. -/
def toBlock (four : Bool) (mode : Nat) (draw : Nat → Nat) (xs : List Fp) : List Nat × Nat × Nat × BitVec 5 :=
  let exps : List Int := xs.filterMap fun x => match x with
    | .nan _ => none
    | .inf _ => some 254
    | .fin _ m e => if m = 0 then none else some (elemExp four (Mag.ofDyadic m e))
  let maxOf (l : List Int) : Int := l.foldl max (-100000)
  let e0 : Int := if exps.isEmpty then 0 else max (min 254 (maxOf exps)) 0
  let c := exps.filter (· ≤ e0 - 3)
  let e1 : Int := if c.isEmpty then max (e0 - 3) 0 else max (maxOf c) 0
  let e1 := if xs.any Fp.isNan then 255 else e1
  let out := (List.range xs.length).zip xs |>.map fun (i, x) => blockPut four e0.toNat e1.toNat ⟨mode, draw i⟩ x
  (out.map (·.1), e0.toNat, e1.toNat, out.foldl (fun f y => f ||| y.2) 0)

/-- AMO.BFPADD on a 34-byte bx8 block: the new elements and exponents, and the flags (R144). -/
def bfpAdd (old addend : List Nat) (e0 e1 a0 a1 : Nat) : List Nat × Nat × Nat × BitVec 5 :=
  let ys := (old.zip addend).map fun (x, y) =>
    let p := blockElem false x e0 e1
    let q := blockElem false y a0 a1
    if p.isNan || q.isNan then Fp.nan false
    else
      let d := Dyadic.add p.dyadic q.dyadic
      let neg := if d.z = 0 then p.isNeg && q.isNeg else decide (d.z < 0)
      Fp.fin neg d.z.natAbs d.e
  toBlock false 0 (fun _ => 0) ys

/-! ### Special functions (R166) -/

/-- ⌊√n⌋, by `fuel` base-4 digits. -/
def isqrt : Nat → Nat → Nat
  | 0, _ => 0
  | fuel + 1, n =>
    let r := 2 * isqrt fuel (n / 4)
    if (r + 1) * (r + 1) ≤ n then r + 1 else r

/-- √(m × 2^e), m > 0. -/
def sqrtMag (m : Nat) (e : Int) : Mag :=
  let m' := if e % 2 = 0 then m else 2 * m
  let e' := if e % 2 = 0 then e else e - 1
  let n := m' * 2 ^ 128
  let r := isqrt 120 n
  if r * r = n then Mag.ofDyadic r (e' / 2 - 64) else Mag.between r (e' / 2 - 64)

/-- 1/√(m × 2^e), m > 0. -/
def rsqrtMag (m : Nat) (e : Int) : Mag :=
  let m' := if e % 2 = 0 then m else 2 * m
  let e' := if e % 2 = 0 then e else e - 1
  let r := isqrt 130 (2 ^ 256 / m')
  if r * r * m' = 2 ^ 256 then Mag.ofDyadic r (-(e' / 2) - 128) else Mag.between r (-(e' / 2) - 128)

/-- ⌊ln 2 × 2^400⌋. -/
def ln2 : Nat := 1789879222497203190815761498240779176894896805856420935579692301363062920687047601279850318367644315849030039181347319086

/-- The fraction bits of the fixed-point evaluations below; the results are used to far fewer bits. -/
def prec : Nat := 400

/-- Σ t^j / j! in fixed point, from term j on: `term` is t^j / j!. -/
def expSeries (t : Nat) : Nat → Nat → Nat → Nat
  | 0, _, _ => 0
  | fuel + 1, j, term => term + expSeries t fuel (j + 1) (term * t / 2 ^ prec / (j + 1))

/-- Σ u^(2j+1) / (2j+1) in fixed point: `pow` is u^(2j+1), `sq` is u². -/
def atanhSeries (sq : Nat) : Nat → Nat → Nat → Nat
  | 0, _, _ => 0
  | fuel + 1, j, pow => pow / (2 * j + 1) + atanhSeries sq fuel (j + 1) (pow * sq / 2 ^ prec)

/-- 2^(z × 2^e): an integer power is exact; every other value lies strictly between grid points. -/
def exp2Mag (x : Dyadic) : Mag :=
  if 0 ≤ x.e then
    let i := min (x.z * 2 ^ (min x.e 20).toNat) 2000
    Mag.ofDyadic 1 (max i (-2000))
  else
    let d : Int := 2 ^ (-x.e).toNat
    let i := max (min (x.z / d) 2000) (-2000)
    let f := (x.z % d).toNat
    if f = 0 then Mag.ofDyadic 1 i
    else
      let t := f * ln2 / 2 ^ (-x.e).toNat
      Mag.between (expSeries t 90 0 (2 ^ prec)) (i - prec)

/-- log2(m × 2^e), m > 0: the sign and the magnitude; magnitude 0 for 1. -/
def log2Mag (m : Nat) (e : Int) : Bool × Mag :=
  let l := Nat.log2 m
  let k : Int := e + l
  if m = 2 ^ l then (decide (k < 0), ⟨k.natAbs, 1⟩)
  else
    -- y = m / 2^l in (1, 2); u = (y − 1) / (y + 1)
    let u := (m - 2 ^ l) * 2 ^ prec / (m + 2 ^ l)
    let ln := 2 * atanhSeries (u * u / 2 ^ prec) 150 0 u
    let v : Int := k * 2 ^ prec + (ln * 2 ^ prec / ln2 : Nat)
    if v < 0 then (true, Mag.between (v.natAbs - 1) (-prec)) else (false, Mag.between v.toNat (-prec))

/-- The unary special functions of R166. -/
inductive Sfu where
  | rcp | rsqrt | sqrt | exp2 | log2
  deriving DecidableEq, Repr

/-- Round(f(x), TY, FRM) with the special cases of R166. -/
def Fmt.sfu (t : Fmt) (f : Sfu) (r : Rnd) (a : Nat) : Nat × BitVec 5 :=
  match f, t.decode a with
  | _, .nan q => (t.nan, flagIf q flagNV)
  | .rcp, .inf n => (t.zero n, 0)
  | .rcp, .fin n m e =>
    if m = 0 then (t.infBits n, flagDZ)
    else t.round r n (if 0 ≤ e then ⟨1, m * 2 ^ e.toNat⟩ else ⟨2 ^ (-e).toNat, m⟩)
  | .rsqrt, .inf n => if n then (t.nan, flagNV) else (t.zero false, 0)
  | .rsqrt, .fin n m e =>
    if m = 0 then (t.infBits n, flagDZ) else if n then (t.nan, flagNV) else t.round r false (rsqrtMag m e)
  | .sqrt, .inf n => if n then (t.nan, flagNV) else (t.infBits false, 0)
  | .sqrt, .fin n m e =>
    if m = 0 then (t.zero n, 0) else if n then (t.nan, flagNV) else t.round r false (sqrtMag m e)
  | .exp2, .inf n => if n then (t.zero false, 0) else (t.infBits false, 0)
  | .exp2, .fin n m e => t.round r false (exp2Mag (Fp.fin n m e).dyadic)
  | .log2, .inf n => if n then (t.nan, flagNV) else (t.infBits false, 0)
  | .log2, .fin n m e =>
    if m = 0 then (t.infBits true, flagDZ)
    else if n then (t.nan, flagNV)
    else
      let (neg, x) := log2Mag m e
      if x.num = 0 then (t.zero false, 0) else t.round r neg x

/-- a / b (R166). -/
def Fmt.div (t : Fmt) (r : Rnd) (a b : Nat) : Nat × BitVec 5 :=
  match t.decode a, t.decode b with
  | .nan q, y => (t.nan, flagIf (q || y.isSnan) flagNV)
  | _, .nan q => (t.nan, flagIf q flagNV)
  | .inf _, .inf _ => (t.nan, flagNV)
  | .inf n, .fin n' _ _ => (t.infBits (n != n'), 0)
  | .fin n _ _, .inf n' => (t.zero (n != n'), 0)
  | .fin n m e, .fin n' m' e' =>
    if m' = 0 then (if m = 0 then (t.nan, flagNV) else (t.infBits (n != n'), flagDZ))
    else if m = 0 then (t.zero (n != n'), 0)
    else
      let q := e - e'
      t.round r (n != n') (if 0 ≤ q then ⟨m * 2 ^ q.toNat, m'⟩ else ⟨m, m' * 2 ^ (-q).toNat⟩)

end Sys2Proof.Machine
end

