-- ==== Sys2Proof/Machine/Rand.lean ====
section
/-! DEFINITION. RAND (R97) and the counter's advance (R135). -/
namespace Sys2Proof.Machine

/-- SRCTR advances by `n` (R97, R135). -/
def State.advance (s : State) (n : Nat) : State :=
  s.modCur fun x => { x with srctr := x.srctr + BitVec.ofNat 64 n }

/-- One draw of the generator into s[D] (R97). -/
def randBody (d : Reg) : Body := fun s =>
  .ok { s := (s.setS d (mix s.cur.randKey s.cur.srctr)).advance 1 }

def execRand (d : Reg) (s : State) := issue (.rand d) s (randBody d)

end Sys2Proof.Machine
end

