-- ==== Sys2Proof/Machine/Operands.lean ====
section
/-! DEFINITION. Vector operands: elements, predicates, the lane-wise form (R71, R148, R149). -/
namespace Sys2Proof.Machine

/-- Bits of one element: 8, 16 or 32 (R71). -/
def elemW (y : BitVec 3) : Nat := 8 * elemBytes y

/-- `Elem(x, TY, i)` as bits (R87). -/
def elem (y : BitVec 3) (x : Vec) (i : Nat) : Nat := bits x.toNat (elemW y * i) (elemW y)

/-- `Active(q, TY, i)`: the bit of the element's first byte (R87). -/
def active (q : Pred) (y : BitVec 3) (i : Nat) : Bool := bit q.toNat (i * elemBytes y)

/-- Elements packed from the low end, `w` bits each. -/
def packElems (w : Nat) : List Nat → Nat
  | [] => 0
  | x :: r => x % 2 ^ w + 2 ^ w * packElems w r

/-- The byte lanes of the elements of type `y` that a test selects. -/
def byteLanes (y : BitVec 3) (act : Nat → Bool) : Nat :=
  packElems (elemBytes y) ((List.range (lanes y)).map fun i => if act i then 2 ^ elemBytes y - 1 else 0)

/-- The lane-wise form (R148): active elements of v[D] replaced, inactive ones kept, flags ORed. -/
def State.mapLanes (s : State) (y : BitVec 3) (p : Fin 8) (d : Reg) (f : Nat → Nat × BitVec 5) : State :=
  let q := s.p p
  let old := s.v d
  let out := (List.range (lanes y)).map fun i => if active q y i then f i else (elem y old i, 0)
  (s.setVLanes d (BitVec.ofNat 128 (packElems (elemW y) (out.map (·.1)))) (byteLanes y (active q y))).raise
    (out.foldl (fun fl x => fl ||| x.2) 0)

/-- How element `i` of the executing context rounds under FRM (R131, R134). -/
def State.rnd (s : State) (i : Nat) : Rnd :=
  ⟨s.cur.frm.toNat, drawAt s.cur.randKey s.cur.srctr i⟩

/-- The same under a mode the instruction names. -/
def State.rndMode (s : State) (mode i : Nat) : Rnd := ⟨mode, drawAt s.cur.randKey s.cur.srctr i⟩

/-- SRCTR advances by ⌈n/4⌉ if the effective mode is RSR (R135). -/
def State.spend (s : State) (mode n : Nat) : State :=
  if mode = 4 then s.advance ((n + 3) / 4) else s

/-- A lane-wise form that rounds under FRM when its type is floating-point (R149). -/
def laneOp (y : BitVec 3) (p : Fin 8) (d : Reg) (rounds : Bool) (f : State → Nat → Nat × BitVec 5) : Body := fun s =>
  let s' := s.mapLanes y p d (f s)
  .ok { s := if rounds && isFloatTy y then s'.spend s.cur.frm.toNat (lanes y) else s' }

/-- Elements of v[A], v[B] and the old v[D]. -/
def State.el (s : State) (y : BitVec 3) (r : Reg) (i : Nat) : Nat := elem y (s.v r) i

/-- The signed value of an element of v[R]. -/
def State.elS (s : State) (y : BitVec 3) (r : Reg) (i : Nat) : Int := sext (s.el y r i) (elemW y)

/-- An integer result in an element's width, no flag. -/
def intLane (y : BitVec 3) (x : Int) : Nat × BitVec 5 := (toBits x (elemW y), 0)

end Sys2Proof.Machine
end

