-- ==== Sys2Proof/Machine/Access.lean ====
section
/-! DEFINITION. Issuing accesses: spaces, readiness, translation, and what an access does at its home
(R172, R187, R195, R222-R230). -/
namespace Sys2Proof.Machine

/-! ### Sizes -/

/-- Bytes of an F-M access (R72). -/
def sizeOf (z : BitVec 3) : Nat := 2 ^ (z.toNat / 2)

/-- The register value of a load of `n` bytes read as `x` (R72). -/
def extend (z : BitVec 3) (x : Nat) : Word :=
  if z.toNat % 2 = 0 then wrap (sext x (8 * sizeOf z)) else BitVec.ofNat 64 (x % 2 ^ (8 * sizeOf z))

/-! ### Phase words (R186-R188) -/

structure PhaseWord where
  arrTgt : Nat
  arrCnt : Nat
  byteTgt : Nat
  byteCnt : Nat
  gen : Nat
  err : Bool
  deriving DecidableEq, Repr

def PhaseWord.ofNat (x : Nat) : PhaseWord :=
  ⟨bits x 0 16, bits x 16 16, bits x 32 40, bits x 72 40, bits x 112 15, bit x 127⟩

def PhaseWord.toNat (w : PhaseWord) : Nat :=
  w.arrTgt % 2 ^ 16 + 2 ^ 16 * (w.arrCnt % 2 ^ 16) + 2 ^ 32 * (w.byteTgt % 2 ^ 40)
    + 2 ^ 72 * (w.byteCnt % 2 ^ 40) + 2 ^ 112 * (w.gen % 2 ^ 15) + 2 ^ 127 * w.err.toNat

/-- Both counts go to 0 and GEN advances (R187). -/
def PhaseWord.flip (w : PhaseWord) : PhaseWord :=
  { w with arrCnt := 0, byteCnt := 0, gen := (w.gen + 1) % 2 ^ 15 }

/-- An update of `arr` arrivals and `bytes` bytes; none when it is rejected (R187, R188).  It is rejected too where the other
count, which it does not change, already stands past its target (DESIGN CHOICE, log 10). -/
def PhaseWord.update (w : PhaseWord) (arr bytes : Nat) : Option PhaseWord :=
  if w.arrTgt < w.arrCnt + arr ∨ w.byteTgt < w.byteCnt + bytes then none
  else
    let w' := { w with arrCnt := w.arrCnt + arr, byteCnt := w.byteCnt + bytes }
    some (if w'.arrCnt = w'.arrTgt ∧ w'.byteCnt = w'.byteTgt then w'.flip else w')

/-- What PHINIT writes from s[B] (R233). -/
def phaseInit (b : Nat) : Nat := (PhaseWord.mk (bits b 0 16) 0 (bits b 16 40) 0 0 false).toNat

/-! ### Atomic operations (R228, R229) -/

/-- The value an AMO writes; none when AMOCAS fails; flags of AMOFADD. -/
def amoNew (fn size old b cmp : Nat) : Option Nat × BitVec 5 :=
  let w := 8 * size
  let b := b % 2 ^ w
  let signed (x : Nat) : Int := sext x w
  match fn with
  | 0 => (some b, 0)
  | 1 => (some ((old + b) % 2 ^ w), 0)
  | 2 => (some (old &&& b), 0)
  | 3 => (some (old ||| b), 0)
  | 4 => (some (old ^^^ b), 0)
  | 5 => (some (if signed old ≤ signed b then old else b), 0)
  | 6 => (some (if signed b ≤ signed old then old else b), 0)
  | 7 => (some (min old b), 0)
  | 8 => (some (max old b), 0)
  | 9 => (if old = cmp % 2 ^ w then some b else none, 0)
  | _ => let r := f32.add .rne old b; (some r.1, r.2)

/-- The register value of an AMO's old value: sign-extended for 32 bits, zero-extended for AMOFADD (R229). -/
def amoOld (fn size old : Nat) : Nat :=
  if size = 4 && fn != 10 then (wrap (sext old 32)).toNat else old

/-! ### Bytes at a home -/

/-- `n` bytes at a home on this module; a host window's data is a free value (log 6). -/
def State.placeRead (s : State) (p : Place) (key n : Nat) : Option (Nat × State) :=
  match p with
  | .hbm a => some (s.hbmRead key a n, s)
  | .pad c a => some (s.padRead c a n, s)
  | .host .. => let (x, s') := s.fresh; some (x % 2 ^ (8 * n), s')
  | .remote .. => none
  | .away .. => none

/-- The bytes of `x` whose bit of `mask` is set, written at a home on this module. -/
def State.placeWrite (s : State) (p : Place) (key n mask x : Nat) : Option State :=
  match p with
  | .hbm a =>
    if mask = 2 ^ n - 1 then some (s.hbmWrite key a n x)
    else some (s.hbmStore key a mask n x)
  | .pad c a =>
    some { s with pad := Memory.writeMasked s.pad (padKey c a) mask n x, badPad := healed s.badPad (padKey c a) n }
  | .host q off =>
    if mask = 2 ^ n - 1 then some (s.hostPut q off (toBytes n x)) else some (s.hostStore q off mask n x)
  | .remote .. => none
  | .away .. => none

/-- The line of a home holds a bad check value (R202). -/
def State.placeBad (s : State) : Place → Bool
  | .hbm a => s.badHbm.contains (a / 128)
  | .pad c a => s.badPad.contains (padKey c a / 128)
  | _ => false

/-- RTQUIET's answer for a class of a cell (R120): GEN, and whether no activation of the class was
dispatched under another GEN. -/
def State.quiet (s : State) (cell cls : Nat) : Nat :=
  let c := s.cell cell
  let g := (look {} c.routines cls).gen
  let q := [0, 1, 2, 3].all fun k =>
    let x := c.ctx k
    !(x.busy && x.chancls.toNat % 256 == cls && x.gen != g)
  g.toNat * 256 + q.toNat

/-- A slice's status word and fault-buffer entry (R197). -/
def Slice.status (q : Slice) : Nat :=
  (q.faults.foldl (fun n e => n ||| 2 ^ e.1) 0) + 256 * q.dropped.toNat + 2 ^ 32 * q.ovf.toNat

def Slice.entry (q : Slice) (k : Nat) : Nat :=
  match look? q.faults k with
  | none => 0
  | some e => 1 + 2 * e.write.toNat + 4 * e.mal.toNat + 8 * e.eng.toNat + 4096 * e.vpn

/-- A gradient queue's record (R324). -/
def GQueue.toNat (q : GQueue) : Nat :=
  q.valid.toNat + 2 * q.ty.toNat + 2 ^ 4 * q.block.toNat + 2 ^ 16 * q.nslot.toNat + 2 ^ 24 * (q.packets.length % 128)
    + 2 ^ 32 * q.head.toNat + 2 ^ 40 * q.tail.toNat + 2 ^ 48 * min q.waiting.length 0xFFFF
    + 2 ^ 64 * q.pushed.toNat + 2 ^ 128 * q.popped.toNat

/-- NENT of the stage table, 0 meaning 256 (R371). -/
def Stage.nent (t : Stage) : Nat := if bits t.cfg.toNat 0 8 = 0 then 256 else bits t.cfg.toNat 0 8

/-- A status word of the stage table (R382). -/
def Stage.word (t : Stage) (w : Nat) : Nat :=
  match w % 4 with
  | 0 => t.cfg.toNat
  | 1 => t.running.toNat + 2 * (decide (t.nent ≤ t.ptr)).toNat + 2 ^ 8 * (t.ptr % 256) + 2 ^ 16 * (t.acts.length % 65536)
      + 2 ^ 32 * (t.grads.length % 65536)
  | 2 => t.srbase.toNat
  | _ => 0

/-- The home `n` bytes on. -/
def Place.plus (p : Place) (n : Nat) : Place :=
  match p with
  | .hbm a => .hbm (a + n)
  | .host q a => .host q (a + n)
  | .remote d a => .remote d (a + n)
  | .pad c a => .pad c (a + n)
  | .away l w a => .away l w (a + n)

/-- What an update of a scale record does to its first 64 bytes (R275): the bytes it writes as (offset, bytes, value),
and the pair it leaves or reads; 0x10000 and no write when it fails, which counts outside the record's range do too (DESIGN
CHOICE, log 40). -/
def scaleUpdate (append : Bool) (pair rec' : Nat) : List (Nat × Nat × Nat) × Nat :=
  let wcnt := bits rec' 0 8
  let rcnt := bits rec' 8 8
  if append then
    if 30 ≤ wcnt then ([], 0x10000) else ([(4 + 2 * wcnt, 2, pair), (0, 1, wcnt + 1)], pair % 0x10000)
  else if wcnt ≤ rcnt ∨ 30 ≤ rcnt then ([], 0x10000)
  else ([(1, 1, rcnt + 1)], bits rec' (8 * (4 + 2 * rcnt)) 16)

/-- The answer to a question that another cell or unit is asked (R120, R197, R357, R382): kind 0 RTQUIET of cell
x and class y, 1 FBSTAT of slice x, 2 FBREAD of slice x and entry y, 3 GQSTAT of queue x and word y, 4 STGSTAT
of word y. -/
def State.ask (s : State) (kind x y : Nat) : Option Nat :=
  match kind with
  | 0 => some (s.quiet x y)
  | 1 => some (if x < Config.stackCount then (look {} s.slices x).status else 0)
  | 2 => some (if x < Config.stackCount then (look {} s.slices x).entry y else 0)
  | 3 => some (if y = 3 then 0 else bits (look {} (look {} s.groups (x / 256)).queues (x % 256)).toNat (64 * y) 64)
  | 4 => some (s.stage.word y)
  | _ => none

/-- The place of a question: no memory's home. -/
def noHome : Place := .away 0x100000 false 0

/-- What an access does at its home, as one event (R206): the new state, the value it returns and its flags.
`none`: it cannot be performed there now (a PHWAIT whose GEN has not changed). -/
def State.perform (s : State) (p : Place) (key : Nat) (op : AccOp) : Option (State × Nat × BitVec 5 × Bool) :=
  match op with
  | .load z => (s.placeRead p key (sizeOf z)).map fun (x, s') => (s', (extend z x).toNat, 0, true)
  | .store n d => (s.placeWrite p key n (2 ^ n - 1) d).map fun s' => (s', 0, 0, true)
  | .vload off n _ => (s.placeRead p key n).map fun (x, s') => (s', x * 256 ^ off, 0, true)
  | .vstore off n mask d =>
    (s.placeWrite p key n (mask / 2 ^ off % 2 ^ n) (d / 256 ^ off % 256 ^ n)).map fun s' => (s', 0, 0, true)
  | .amo fn size b cmp => do
    let (old, s1) ← s.placeRead p key size
    let (new, fl) := amoNew fn size old b cmp
    let s2 ← match new with
      | some x => s1.placeWrite p key size (2 ^ size - 1) x
      | none => some s1
    pure (s2, amoOld fn size old, fl, true)
  | .bfpadd block pair pairKey _ => do
    let (old, s1) ← s.placeRead p key 32
    let (ex, s2) ← s1.placeRead pair pairKey 2
    let byte (x i : Nat) : Nat := x / 256 ^ i % 256
    let (els, e0, e1, fl) := bfpAdd ((List.range 32).map (byte old)) ((block.take 32).map BitVec.toNat)
      (ex % 256) (ex / 256) ((block.getD 32 0).toNat) ((block.getD 33 0).toNat)
    let s3 ← s2.placeWrite p key 32 (2 ^ 32 - 1) (packElems 8 els)
    let s4 ← s3.placeWrite pair pairKey 2 3 (e0 + 256 * e1)
    pure (s4, ex, fl, true)
  | .phinit b => (s.placeWrite p key 16 (2 ^ 16 - 1) (phaseInit b)).map fun s' => (s', 0, 0, true)
  | .pharr => do
    let (w, s1) ← s.placeRead p key 16
    match (PhaseWord.ofNat w).update 1 0 with
    | some w' => (s1.placeWrite p key 16 (2 ^ 16 - 1) w'.toNat).map fun s' => (s', 0, 0, true)
    | none => some (s1, 0, 0, false)
  | .phadd n => do
    let (w, s1) ← s.placeRead p key 16
    match (PhaseWord.ofNat w).update 0 n with
    | some w' => (s1.placeWrite p key 16 (2 ^ 16 - 1) w'.toNat).map fun s' => (s', 0, 0, true)
    | none => some (s1, 0, 0, false)
  | .phengine n err => do
    let (w, s1) ← s.placeRead p key 16
    let w := PhaseWord.ofNat w
    let forced := { w.flip with err := true }
    match w.update 0 n with
    | some w' =>
      (s1.placeWrite p key 16 (2 ^ 16 - 1) (if err then forced else w').toNat).map fun s' => (s', 0, 0, true)
    | none => (s1.placeWrite p key 16 (2 ^ 16 - 1) forced.toNat).map fun s' => (s', 1, 0, true)
  | .phwait g => do
    let (w, s1) ← s.placeRead p key 16
    let w := PhaseWord.ofNat w
    if w.gen = g % 2 ^ 15 then none else some (s1, w.gen + 2 ^ 15 * w.err.toNat, 0, true)
  | .phread h => (s.placeRead p key 16).map fun (x, s') => (s', bits x (64 * h) 64, 0, true)
  | .orBits n d => do
    let (x, s1) ← s.placeRead p key n
    let s2 ← s1.placeWrite p key n (2 ^ n - 1) (x ||| d)
    pure (s2, 0, 0, true)
  | .record n d => (s.placeWrite p key n (2 ^ n - 1) d).map fun s' => (s', 0, 0, true)
  | .scale append pair => do
    let (x, s1) ← s.placeRead p key 64
    let (ws, v) := scaleUpdate append pair x
    let s2 ← ws.foldlM (fun s w => s.placeWrite (p.plus w.1) key w.2.1 (2 ^ w.2.1 - 1) w.2.2) s1
    pure (s2, v, 0, true)
  | .query kind x y => (s.ask kind x y).map fun v => (s, v, 0, true)
  | .answer _ => none
  | .reply => none

/-! ### The cluster window (R172, R173) -/

/-- Member `m` of the executing task's window group. -/
def State.member (s : State) (m : Nat) : Nat :=
  let e := look {} s.launches (s.cur.launch.getD 0).toNat
  let l := s.cur.lcell.toNat
  let b := e.lbase.toNat
  b + (l - b) / 16 * 16 + m

/-- A row byte of a logical cell, wherever it is mapped (R58, R173, R255, R387); none beyond U. -/
def State.rowPlace (s : State) (lcell : Nat) (window : Bool) (addr : Nat) : Option Place :=
  match look? s.l2p lcell with
  | none => some (.away lcell window addr)
  | some c =>
    if (look? s.bounce lcell).isSome then some (.away lcell window addr)
    else
      let w := ((s.cell c).hosted.find? (·.lcell == lcell)).map (·.w) |>.getD 0
      let row := (s.cell c).rowBase lcell + (if window then 0 else w) + addr / 128
      if row < s.rowsOf c then some (.pad c (row * 128 + addr % 128)) else none

/-- The home of window byte `a` of the executing task; none outside the window or beyond U. -/
def State.windowPlace (s : State) (a : Nat) : Option Place :=
  let r := a / 128
  if 16 * s.cur.wRows * 128 ≤ a then none else s.rowPlace (s.member (r % 16)) true (r / 16 * 128 + a % 128)

/-- The home of local byte `a` of the executing task. -/
def State.localPlace (s : State) (a : Nat) : Option Place :=
  if s.localOk s.now.cell s.cur a 1 then some (.pad s.now.cell (s.localAddr s.now.cell s.cur a)) else none

/-- Where an access to a logical cell's rows goes now (R58, R255). -/
def State.resolve (s : State) (p : Place) : Place :=
  match p with
  | .away l w addr => if l < 0x10000 then (s.rowPlace l w addr).getD p else p
  | p => p

/-- The access reaches rows of a cell whose operating point is being stepped (R392). -/
def State.rowsHeld (s : State) (p : Place) : Bool :=
  match p with
  | .pad c _ => (s.cell c).evac.isSome
  | _ => false

/-! ### Readiness (R195, R209, R223, R250) -/

/-- An access reaches the granule of `va`. -/
def Access.reaches (a : Access) (va : Nat) : Bool :=
  a.va / 4096 == va / 4096 || (match a.second with | some b => b / 4096 == va / 4096 | none => false)

/-- An access of the executing context to the granule of `va` that has parked and is not complete holds the next one
back (R195). -/
def State.granuleHeld (s : State) (va : Nat) : Bool :=
  s.inflight.any fun a => s.owns s.now.cell s.now.ctx a && (a.phase == .parked || a.replayed) && a.reaches va

/-- Accesses of the executing context that await translation (R250). -/
def State.awaiting (s : State) : Nat :=
  (s.inflight.filter fun a => s.owns s.now.cell s.now.ctx a && a.phase == .parked).length

/-- Rows of the executing cell's own scratchpad. -/
def State.ownRows (s : State) (p : Place) : Bool :=
  match s.resolve p with
  | .pad c _ => c == s.now.cell
  | _ => false

/-- Stores, AMOs and phase updates outstanding at homes outside the executing cell (R223). -/
def State.storesOut (s : State) : Nat :=
  (s.inflight.filter fun a => s.owns s.now.cell s.now.ctx a && a.op.counted && a.phase.open && !s.ownRows a.place).length

/-- The homes an access reaches, where they are now: its own, and an AMOBFPADD's pair's. -/
def State.homesOf (s : State) (a : Access) : List Place :=
  match a.op with
  | .bfpadd _ pair _ _ => [s.resolve a.place, pair]
  | _ => [s.resolve a.place]

/-- An access keeps a later one of its cell to home unit `p` back on its path: it is on its way there (R209).  Three are not
on the path: one that has been in a replay queue, a PHWAIT, whose hold is its context's (R235), and another context's PHARR,
which waits for its own activation's accesses first (R208). -/
def State.onPath (s : State) (b : Access) (own : Bool) (p : Place) : Bool :=
  b.phase == .issued && !b.replayed && (s.homesOf b).any (fun q => sameHome q p)
    && (match b.op with | .phwait _ => false | .pharr => own | _ => true)

/-- An access of the executing cell to the same home unit is still on its way: a cell's accesses to one home unit arrive in
issue order (R209). -/
def State.homeBusy (s : State) (p : Place) : Bool :=
  s.inflight.any fun b => b.unit.isNone && b.cell == s.now.cell && s.onPath b (s.owns s.now.cell s.now.ctx b) p

/-- An earlier access of the same activation keeps `a` back wherever their homes are: a PHARR every one that is not performed
(`rel`), a PHWAIT another PHWAIT that has not observed its generation (`acq`, R208).  A PHWAIT outstanding since before a
trap holds nothing of the trap routine (R235). -/
def Access.orders (b a : Access) : Bool :=
  match a.op with
  | .pharr => b.phase.open && b.op.isAccess && !(b.unresolved && decide (b.trap < a.trap))
  | .phwait _ => b.unresolved && decide (a.trap ≤ b.trap)
  | _ => false

/-- The access may be applied now: no earlier access of its cell is on the path to one of its home units (R209), and none of
its activation is ordered before it (R208). -/
def State.homeTurn (s : State) (a : Access) : Bool :=
  let homes := s.homesOf a
  !((s.inflight.takeWhile (·.id != a.id)).any fun b => b.unit.isNone && b.cell == a.cell &&
    (let own := b.ctx == a.ctx && b.act == a.act
     own && b.orders a || homes.any (s.onPath b own)))

/-- Bytes of its home that a store or update of a row covers at most. -/
def AccOp.width : AccOp → Nat
  | .store n _ => n
  | .vstore _ n _ _ => n
  | .amo _ n _ _ => n
  | _ => 16

/-- The access of an update that its home has taken in covers `n` bytes from `p`: nothing else writes its word before it is
applied (R171, R234). -/
def State.wordTaken (s : State) (p : Place) (n : Nat) : Bool :=
  s.inflight.any fun b => b.accepted && (match s.resolve b.place, p with
    | .hbm x, .hbm y => decide (y < x + 16) && decide (x < y + n)
    | .pad c x, .pad c' y => c == c' && decide (y < x + 16) && decide (x < y + n)
    | _, _ => false)

/-- A store of the executing cell to local bytes `a .. a + n - 1` of the executing context has not reached them yet (R209). -/
def State.rowsBusy (s : State) (a n : Nat) : Bool :=
  let lo := s.localAddr s.now.cell s.cur a
  s.inflight.any fun b => b.unit.isNone && b.cell == s.now.cell && b.phase.open && !b.unresolved &&
    (match s.resolve b.place with
      | .pad c x => c == s.now.cell && decide (x < lo + n) && decide (lo < x + b.op.width)
      | _ => false)

/-- An operand block in the private rows: MISALIGN, then LOCALRANGE with its address (R112, R347); the form sees every
earlier store of its context to those rows (R153, R239, R347). -/
def State.block (s : State) (a n align : Nat) : Except Stop Unit :=
  if a % align ≠ 0 then .error (.trap causeMisalign (BitVec.ofNat 64 a))
  else if !s.localOk s.now.cell s.cur a n then .error (.trap causeLocalrange (BitVec.ofNat 64 a))
  else if s.rowsBusy a n then .error .hold
  else .ok ()

/-- A form takes its operand block: in one step, or where `late` says so in pieces of `g` bytes, one a step, as its locations are
(R207, R347, log 13); `skip` pieces have gone before, of a block on which that was settled.  It keeps `ops`, the operands that it
has read from its registers.  Beside the state stands one whose rows hold the block as it has been read. -/
def State.gather (s : State) (ops g skip a n : Nat) : Except Stop (State × State) :=
  let k := s.cur.stage - 1024
  let piece (t : State) : Stop := .wait (t.modCur fun x =>
    let y := if k = 0 then x.keep ops else x
    { y with stage := 1025 + k, answers := y.answers ++ [.word (1024 + k) (ofBytes (t.localBytes (a + g * (k - skip)) g))] })
  if k = 0 then
    if skip ≠ 0 then .ok (s, s)
    else
      let t := { s with late := s.late.tail }
      if s.late.headD false then .error (piece t) else .ok (t, t)
  else
    let pieces := (n + g - 1) / g
    if k < skip + pieces then .error (piece s)
    else
      let got := (List.range pieces).flatMap fun j => toBytes g ((s.word? (1024 + skip + j)).getD 0)
      .ok (s, { s with pad := Memory.write s.pad (padKey s.now.cell (s.localAddr s.now.cell s.cur a)) n (ofBytes (got.take n)) })

/-! ### Entering flight -/

/-- An access of the executing context, with its id, activation, mode and launch filled in. -/
def State.enter (s : State) (a : Access) : State :=
  let x := s.cur
  let a := { a with
    id := s.nextId, cell := s.now.cell, ctx := s.now.ctx, act := x.acts.toNat, sys := s.isSys, trap := x.inTrap
    launch := x.launch.map BitVec.toNat, lcell := x.lcell.toNat }
  { s with inflight := s.inflight ++ [a], nextId := s.nextId + 1 }

/-- The access with its number becomes `a`. -/
def State.setAccess (s : State) (a : Access) : State :=
  { s with inflight := s.inflight.map fun b => if b.id = a.id then a else b }

/-- A fresh access for an operation, before its fields are filled in. -/
def Access.of (va : Nat) (place : Place) (op : AccOp) (dest : Dest) : Access :=
  { id := 0, cell := 0, ctx := 0, act := 0, va := va, place := place, op := op, dest := dest }

/-- A result the executing context is owed whose value is known (`later`, R40). -/
def State.later (s : State) (d : Reg) (v : Word) : State :=
  s.enter { Access.of 0 (.pad s.now.cell 0) (.answer v.toNat) (.s d) with phase := .done v.toNat 0 }

/-- The RLOAD, RSTORE or RAMO message of an access (R307): class, a1, a2, a3, payload, and whether an LREPLY
is awaited. -/
def request (op : AccOp) (key : Nat) : Nat × Nat × Nat × Nat × List Nat × Bool :=
  let k8 := 256 * key
  let zOf (n : Nat) : Nat := if n = 1 then 0 else if n = 2 then 2 else if n = 4 then 4 else if n = 8 then 6 else 0x10
  match op with
  | .load z => (0, z.toNat + k8, 0, 0, [], true)
  | .store n d => (1, zOf n + k8, d % 2 ^ (8 * n), 0, [], false)
  | .vload _ n _ => (0, (if n = 1 then 1 else if n = 2 then 3 else if n = 4 then 5 else zOf n) + k8, 0, 0, [], true)
  | .vstore off n mask d =>
    let x := d / 256 ^ off % 256 ^ n
    (1, zOf n + k8 + 2 ^ 21 * (mask / 2 ^ off % 2 ^ n), x % 2 ^ 64, x / 2 ^ 64, [], false)
  | .amo fn size b cmp => (2, fn + 256 * (size / 8) + 512 * key, b, cmp, [], true)
  | .bfpadd block pair pairKey _ =>
    let pa := match pair with | .remote _ a => a | _ => 0
    -- the pair's own key index takes the compare value's place (log 23)
    (2, 11 + 512 * key, pa, pairKey, block.map BitVec.toNat, true)
  | .phinit b => (2, 0x81 + 512 * key, b, 0, [], true)
  | .pharr => (2, 0x82 + 512 * key, 0, 0, [], true)
  | .phadd n => (2, 0x83 + 512 * key, n, 0, [], true)
  | .phwait g => (2, 0x84 + 512 * key, g, 0, [], true)
  | .phread h => (2, 0x85 + 512 * key, h, 0, [], true)
  -- the engine's update and its error form take the two next codes (log 23)
  | .phengine n err => (2, (if err then 0x87 else 0x86) + 512 * key, n, 0, [], true)
  | .scale append pair => (2, (if append then 0x88 else 0x89) + 512 * key, pair, 0, [], true)
  | .orBits n d => (2, 3 + 256 * (n / 8) + 512 * key, d, 0, [], true)
  | .record n d => (1, zOf n + k8, d, 0, [], false)
  | .answer _ => (0, 0, 0, 0, [], false)
  | .query .. => (0, 0, 0, 0, [], false)
  | .reply => (0, 0, 0, 0, [], false)

/-- An access that completes in error before it is made: a load or AMO returns 0, ERRSUM records the cause (R196,
R219). -/
def State.errored (s : State) (a : Access) (cause : Nat) : State :=
  let s := s.enter { a with phase := .done 0 0 }
  let s := if a.op.returns then s else { s with inflight := s.inflight.dropLast }
  s.recordError (s.cur.launch.map BitVec.toNat) cause s.cur.lcell.toNat

/-- The access has been replayed and a valid PTE denies it: it completes in error and its launch is cancelled
(R196). -/
def State.refused (s : State) (a : Access) : State :=
  let t := s.errored a 0x04
  match s.cur.launch with
  | some l => t.cancelRecord (t.levelVa l.toNat)
  | none => t

/-- The earlier accesses of the executing activation that are not yet performed: what a PHARR or a REL message is
ordered after (R208).  A PHWAIT that waits since before a trap holds nothing of the trap routine (R235). -/
def State.openAccesses (s : State) : List Nat :=
  (s.inflight.filter fun a => s.owns s.now.cell s.now.ctx a && a.phase.open && a.op.isAccess
    && !(a.unresolved && decide (a.trap < s.cur.inTrap))).map (·.id)

/-- A translated access leaves the cell: to its home on this module, or as a message of the task's flow to
another (R178, R307); `none` while its flow has no room (R309). -/
def State.send (s : State) (a : Access) : Option State :=
  match a.place with
  | .remote dev pa =>
    if !s.reaches dev then some (s.errored a 0x0B)
    -- a PHWAIT leaves once the earlier ones of its activation have observed their generations (R208)
    else if s.inflight.any fun b => s.owns s.now.cell s.now.ctx b && b.orders { a with trap := s.cur.inTrap } && a.op != .pharr then
      some (s.enter a)
    else if s.dark dev || !s.flowRoom s.cur.lcell.toNat dev then none
    else
      let id := s.nextId
      let (cls, a1, a2, a3, pl, reply) := request a.op a.key
      let seq := ((s.findFlow s.cur.lcell.toNat dev).map (·.next)).getD 0
      let s' := s.enter { a with phase := .sent dev seq }
      -- PHARR is ordered after every earlier access of the activation (R208)
      let after := match a.op with
        | .pharr => s.openAccesses
        | _ => []
      let (pkt, s') := s'.requestPacket s.cur.lcell.toNat s.now.cell dev cls pa a1 a2 a3 pl
      some (s'.sendOn pkt (some id) after reply (owner := some (s.cur.launch.map BitVec.toNat, s.cur.lcell.toNat)))
  | _ => some (s.enter a)

/-- The executing context's place in a slice's replay queue for a granule that it has not filled yet (R195). -/
def State.isMiss (s : State) (vpn : Nat) (p : Parked) : Bool :=
  match p with
  | .miss m => m.cell == s.now.cell && m.ctx == s.now.ctx && m.vpn == vpn
  | _ => false

/-- The slice of `va` takes `n` accesses of the executing context, the first in the place its miss has kept (R200). -/
def State.parkRoom (s : State) (va n : Nat) : Bool :=
  let q := look {} s.slices (sliceOf va)
  !q.full (if q.replay.any (s.isMiss (va / 4096)) then n - 1 else n)

/-- A parked access of the executing context stands in the replay queue of the slice of `at'`, which has no translation:
in the place its miss has kept, else last (R195, R199). -/
def State.parkAt (s : State) (at' : Nat) (a : Access) : State :=
  let id := s.nextId
  let sl := sliceOf at'
  let s' := s.enter { a with phase := .parked }
  let q := look {} s'.slices sl
  let replay := if q.replay.any (s.isMiss (at' / 4096)) then
      q.replay.takeWhile (fun p => !s.isMiss (at' / 4096) p) ++ .access id :: (q.replay.dropWhile fun p => !s.isMiss (at' / 4096) p).tail
    else q.replay ++ [.access id]
  { s' with slices := put s'.slices sl { q with replay := replay } }

/-- The same for an access that waits for its own VA. -/
def State.park (s : State) (a : Access) : State := s.parkAt a.va a

/-- A global access of the executing context at an aligned address: PERM, readiness, translation, then flight
or the replay queue (R195, R222).  One that misses while 64 await translation is not ready (R250). -/
def State.global (s : State) (write : Bool) (a : Access) : Except Stop State :=
  if 2 ^ 60 ≤ a.va then .error (.trap causePerm (BitVec.ofNat 64 a.va))
  else if s.granuleHeld a.va || (a.op.counted && 32 ≤ s.storesOut) then .error s.notReady
  else match s.translate a.va write with
    | .perm => .error (.trap causePerm (BitVec.ofNat 64 a.va))
    | .miss => if 64 ≤ s.awaiting then .error .hold else .error (.wait (s.missOn a.va write))
    | .park => if 64 ≤ s.awaiting || !s.parkRoom a.va 1 then .error s.notReady else .ok (s.park a)
    | .denied => .ok (s.refused a)
    | .bad => .error .hold
    | .at l =>
      match s.send { a with place := l.place, key := l.key, chk := l.chk } with
      | some s' => .ok s'
      | none => .error .hold

/-- An interlocked load-like access to a local or window place, performed now: LOCALRANGE, readiness, CHECK, its effect
(R203, R223).  An AMO on another member's rows counts among its context's 32 outstanding ones (R223). -/
def State.nearLoad (s : State) (p : Option Place) (ea : Nat) (loads : Bool) (op : AccOp) :
    Except Stop (State × Nat × BitVec 5 × Bool) :=
  match p with
  | none => .error (.trap causeLocalrange (BitVec.ofNat 64 ea))
  | some (.away ..) => .error .hold
  | some p =>
    if s.homeBusy p || s.rowsHeld p || (op.counted && (32 ≤ s.storesOut && !s.ownRows p || s.wordTaken p op.width)) then .error .hold
    else if loads && s.placeBad p then .error (.trap causeCheck (BitVec.ofNat 64 ea))
    else match s.perform p 0 op with
      | some r => .ok r
      | none => .error .hold

/-- An interlocked access to a local or window place with its result for s[D]: at once, or where `late` says so on its way to its
home, its register then untouched until the result is back (R209, R217, R223, log 16). -/
def State.nearResult (s : State) (p : Option Place) (ea : Nat) (op : AccOp) (d : Reg) : Except Stop State := do
  let (s', x, fl, _) ← s.nearLoad p ea true op
  match p with
  | some pl =>
    if s.late.headD false then
      pure (State.enter { s with late := s.late.tail }
        { Access.of ea pl op (.s d) with locked := true, seen := if op.counted then none else some x })
    else
      let t := { s' with late := s.late.tail }.setS d (BitVec.ofNat 64 x)
      pure (if op.counted then t.raise fl else t)
  | none => pure s'

/-- A store to a local or window place: at once in the cell's own scratchpad, unless it has to reach it after issue
(log 13); else in flight (R223, R225, R241). -/
def State.nearStore (s : State) (p : Option Place) (ea : Nat) (op : AccOp) : Except Stop State :=
  let t := { s with late := s.late.tail }
  let fly (p : Place) : Except Stop State :=
    if 32 ≤ s.storesOut && !s.ownRows p then .error .hold else .ok (t.enter (Access.of ea p op .none))
  match p with
  | none => .error (.trap causeLocalrange (BitVec.ofNat 64 ea))
  | some p =>
    match p with
    | .pad c _ =>
      if c = s.now.cell && !s.homeBusy p && !s.late.headD false && !s.wordTaken p op.width then
        match t.perform p 0 op with
        | some (s', _) => .ok s'
        | none => .error .hold
      else fly p
    | _ => fly p

end Sys2Proof.Machine
end

