-- ==== Sys2Proof/Machine/LoadStore.lean ====
section
/-! DEFINITION. Scalar loads and stores in the three spaces (R222-R225). -/
namespace Sys2Proof.Machine

/-- The effective address of an F-M access (R224). -/
def eaOf (base : Word) (o : BitVec 11) (z : BitVec 3) : Nat := (base + wrap (o.toInt * sizeOf z)).toNat

/-- MISALIGN when `ea` is not a multiple of the alignment unit (R222). -/
def aligned (ea n : Nat) : Except Stop Unit :=
  if ea % n = 0 then .ok () else .error (.trap causeMisalign (BitVec.ofNat 64 ea))

/-- A scalar global load (R224). -/
def loadGlobal (i : Instr) (d a : Reg) (z : BitVec 3) (o : BitVec 11) : Body := fun s => do
  let ea := eaOf (s.s a) o z
  aligned ea (sizeOf z)
  let s' ← s.global false { Access.of ea (.hbm 0) (.load z) (.s d) with word := value i s.now.sw }
  pure { s := s' }

/-- A scalar load from the private rows or the cluster window (R224). -/
def loadNear (window : Bool) (d a : Reg) (z : BitVec 3) (o : BitVec 11) : Body := fun s => do
  let ea := eaOf (s.s a) o z
  aligned ea (sizeOf z)
  let s' ← s.nearResult (if window then s.windowPlace ea else s.localPlace ea) ea (.load z) d
  pure { s := s' }

/-- A scalar global store: the low bytes of s[D] (R225). -/
def storeGlobal (i : Instr) (d a : Reg) (z : BitVec 3) (o : BitVec 11) : Body := fun s => do
  let ea := eaOf (s.s a) o z
  let n := sizeOf z
  aligned ea n
  let x := (s.s d).toNat % 2 ^ (8 * n)
  let s' ← s.global true { Access.of ea (.hbm 0) (.store n x) .none with word := value i s.now.sw, data := x }
  pure { s := s' }

/-- A scalar store to the private rows or the cluster window (R225). -/
def storeNear (window : Bool) (d a : Reg) (z : BitVec 3) (o : BitVec 11) : Body := fun s => do
  let ea := eaOf (s.s a) o z
  let n := sizeOf z
  aligned ea n
  let s' ← s.nearStore (if window then s.windowPlace ea else s.localPlace ea) ea
    (.store n ((s.s d).toNat % 2 ^ (8 * n)))
  pure { s := s' }

def execLd (d a : Reg) (z : BitVec 3) (o : BitVec 11) (s : State) :=
  issue (.ld d a z o) s (loadGlobal (.ld d a z o) d a z o)
def execSt (d a : Reg) (z : BitVec 3) (o : BitVec 11) (s : State) :=
  issue (.st d a z o) s (storeGlobal (.st d a z o) d a z o)
def execLdl (d a : Reg) (z : BitVec 3) (o : BitVec 11) (s : State) :=
  issue (.ldl d a z o) s (loadNear false d a z o)
def execStl (d a : Reg) (z : BitVec 3) (o : BitVec 11) (s : State) :=
  issue (.stl d a z o) s (storeNear false d a z o)
def execLdc (d a : Reg) (z : BitVec 3) (o : BitVec 11) (s : State) :=
  issue (.ldc d a z o) s (loadNear true d a z o)
def execStc (d a : Reg) (z : BitVec 3) (o : BitVec 11) (s : State) :=
  issue (.stc d a z o) s (storeNear true d a z o)

end Sys2Proof.Machine
end

