-- ==== Sys2Proof/Machine/Amo.lean ====
section
/-! DEFINITION. Atomic operations (R228-R230). -/
namespace Sys2Proof.Machine

/-- An AMO in the space `u` names: interlocked in the private rows and the window, in flight for a global one (R223, R229). -/
def amoBody (i : Instr) (fn size : Nat) (d a b : Reg) (u : BitVec 2) : Body := fun s => do
  let ea := (s.s a).toNat
  aligned ea size
  let op := AccOp.amo fn size (s.s b).toNat (s.s d).toNat
  if u = 0 then
    let s' ← s.global true { Access.of ea (.hbm 0) op (.s d) with
      word := value i s.now.sw, data := (s.s b).toNat + 2 ^ 64 * (s.s d).toNat }
    pure { s := s' }
  else
    let s' ← s.nearResult (if u = 2 then s.windowPlace ea else s.localPlace ea) ea op d
    pure { s := s' }

/-- The size T[0] selects (R228). -/
def amoSize (z : BitVec 1) : Nat := if z = 0 then 4 else 8

def execAmoswap (d a b : Reg) (z : BitVec 1) (u : BitVec 2) (s : State) :=
  issue (.amoswap d a b z u) s (amoBody (.amoswap d a b z u) 0 (amoSize z) d a b u)
def execAmoadd (d a b : Reg) (z : BitVec 1) (u : BitVec 2) (s : State) :=
  issue (.amoadd d a b z u) s (amoBody (.amoadd d a b z u) 1 (amoSize z) d a b u)
def execAmoand (d a b : Reg) (z : BitVec 1) (u : BitVec 2) (s : State) :=
  issue (.amoand d a b z u) s (amoBody (.amoand d a b z u) 2 (amoSize z) d a b u)
def execAmoor (d a b : Reg) (z : BitVec 1) (u : BitVec 2) (s : State) :=
  issue (.amoor d a b z u) s (amoBody (.amoor d a b z u) 3 (amoSize z) d a b u)
def execAmoxor (d a b : Reg) (z : BitVec 1) (u : BitVec 2) (s : State) :=
  issue (.amoxor d a b z u) s (amoBody (.amoxor d a b z u) 4 (amoSize z) d a b u)
def execAmomin (d a b : Reg) (z : BitVec 1) (u : BitVec 2) (s : State) :=
  issue (.amomin d a b z u) s (amoBody (.amomin d a b z u) 5 (amoSize z) d a b u)
def execAmomax (d a b : Reg) (z : BitVec 1) (u : BitVec 2) (s : State) :=
  issue (.amomax d a b z u) s (amoBody (.amomax d a b z u) 6 (amoSize z) d a b u)
def execAmominu (d a b : Reg) (z : BitVec 1) (u : BitVec 2) (s : State) :=
  issue (.amominu d a b z u) s (amoBody (.amominu d a b z u) 7 (amoSize z) d a b u)
def execAmomaxu (d a b : Reg) (z : BitVec 1) (u : BitVec 2) (s : State) :=
  issue (.amomaxu d a b z u) s (amoBody (.amomaxu d a b z u) 8 (amoSize z) d a b u)
def execAmocas (d a b : Reg) (z : BitVec 1) (u : BitVec 2) (s : State) :=
  issue (.amocas d a b z u) s (amoBody (.amocas d a b z u) 9 (amoSize z) d a b u)
def execAmofadd (d a b : Reg) (u : BitVec 2) (s : State) :=
  issue (.amofadd d a b u) s (amoBody (.amofadd d a b u) 10 4 d a b u)

/-- Two homes in one HBM stack of one module (R230). -/
def sameStack : Place → Place → Bool
  | .hbm a, .hbm b => (bankOf a).1 == (bankOf b).1
  | .remote d a, .remote d' b => d == d' && (bankOf a).1 == (bankOf b).1
  | _, _ => false

/-- The homes of an AMOBFPADD's block and pair, in one stack of one module; a remote PA of the module itself has its home there
(R178, R230). -/
def State.bfpHomes (s : State) (p p' : Place) : Option (Place × Place) :=
  if sameStack p p' then some (p, p')
  else
    let own (p : Place) : Place := match p with
      | .remote d a => if d = s.devidx.toNat then .hbm a else p
      | p => p
    if sameStack (own p) (own p') then some (own p, own p') else none

/-- The operand block of AMOBFPADD: MISALIGN, or LOCALRANGE with the lowest byte outside (R222, R230); it is read as the
context's own local load reads it. -/
def State.bfpaddBlock (s : State) (blk : Nat) : Except Stop Unit :=
  if blk % 16 ≠ 0 then .error (.trap causeMisalign (BitVec.ofNat 64 blk))
  else match (List.range 48).find? fun j => !s.localOk s.now.cell s.cur (blk + j) 1 with
    | some j => .error (.trap causeLocalrange (BitVec.ofNat 64 (blk + j)))
    | none => s.block blk 48 16

/-- AMOBFPADD: the operand block, read in one step or byte by byte (R207), both VAs, one home stack; then one event at the home (R144, R230).  A bad line under
the operand block traps CHECK last, as check 4 of R222 does.  Where block and pair lie in different stacks or modules or in a
host window, TRAPVAL is s[A], the VA of the form's own operand (DESIGN CHOICE, log 10). -/
def bfpaddBody (i : Instr) (d a b : Reg) : Body := fun s => do
  let ops := s.kept ((s.s b).toNat + 2 ^ 64 * (s.s d).toNat + 2 ^ 128 * (s.s a).toNat)
  let blk := bits ops 0 64
  s.bfpaddBlock blk
  let va := ops / 2 ^ 128
  aligned va 32
  let (s, rd) ← s.gather ops 1 0 blk 48
  let block := rd.localBytes blk 48
  let pairVa := ofBytes (block.drop 40)
  aligned pairVa 2
  let check : Except Stop Unit := match s.badLocal blk 48 with
    | some x => .error (.trap causeCheck (BitVec.ofNat 64 x))
    | none => .ok ()
  let acc := { Access.of va (.hbm va) (.bfpadd block (.hbm pairVa) 0 false) (.s d) with
    word := value i s.now.sw, data := ops % 2 ^ 128, second := some pairVa }
  if 2 ^ 60 ≤ va then .error (.trap causePerm (BitVec.ofNat 64 va))
  else if 2 ^ 60 ≤ pairVa then .error (.trap causePerm (BitVec.ofNat 64 pairVa))
  else if s.granuleHeld va || s.granuleHeld pairVa || 32 ≤ s.storesOut then .error s.notReady
  else match s.translate va true, s.translate pairVa true with
    | .perm, _ => .error (.trap causePerm (BitVec.ofNat 64 va))
    | .miss, _ => if 64 ≤ s.awaiting then .error .hold else .error (.wait (s.missOn va true))
    | _, .perm => .error (.trap causePerm (BitVec.ofNat 64 pairVa))
    | _, .miss => if 64 ≤ s.awaiting then .error s.notReady else .error (.wait (s.missOn pairVa true))
    | .at l, .at l' =>
      match s.bfpHomes l.place l'.place with
      | none => .error (.trap causePerm (BitVec.ofNat 64 va))
      | some (p, p') =>
        check
        match s.send { acc with place := p, key := l.key, chk := l.chk, op := .bfpadd block p' l'.key l'.chk } with
        | some s' => .ok { s := s' }
        | none => .error .hold
    | .denied, _ => check; .ok { s := s.refused acc }
    | _, .denied => check; .ok { s := s.refused acc }
    | .bad, _ => .error .hold
    | _, .bad => .error .hold
    | t, _ =>
      check
      -- it stands with the slice of a VA that has no translation
      let at' := if t = .park then va else pairVa
      if 64 ≤ s.awaiting || !s.parkRoom at' 1 then .error s.notReady else .ok { s := s.parkAt at' acc }

def execAmobfpadd (d a b : Reg) (s : State) := issue (.amobfpadd d a b) s (bfpaddBody (.amobfpadd d a b) d a b)

end Sys2Proof.Machine
end

