-- ==== Sys2Proof/Machine/Branch.lean ====
section
/-! DEFINITION. Branches, jumps, calls and hardware loops (R98-R107). -/
namespace Sys2Proof.Machine

/-- `(PC + offset) mod 2^14`, the offset signed (R65, R98). -/
def target {n : Nat} (pc : CodeAddr) (o : BitVec n) : CodeAddr := BitVec.ofInt 14 (pc.toNat + o.toInt)

/-- A branch: a taken one transfers, another falls through (R98). -/
def branch (a b : Reg) (o : BitVec 11) (taken : Word → Word → Bool) : Body := fun s =>
  if taken (s.s a) (s.s b) then .ok { s := s, next := some (target s.cur.pc o), transfer := true }
  else .ok { s := s }

def execBeq (a b : Reg) (o : BitVec 11) (s : State) := issue (.beq a b o) s (branch a b o fun x y => x == y)
def execBne (a b : Reg) (o : BitVec 11) (s : State) := issue (.bne a b o) s (branch a b o fun x y => x != y)
def execBlt (a b : Reg) (o : BitVec 11) (s : State) :=
  issue (.blt a b o) s (branch a b o fun x y => decide (x.toInt < y.toInt))
def execBge (a b : Reg) (o : BitVec 11) (s : State) :=
  issue (.bge a b o) s (branch a b o fun x y => decide (y.toInt ≤ x.toInt))
def execBltu (a b : Reg) (o : BitVec 11) (s : State) :=
  issue (.bltu a b o) s (branch a b o fun x y => decide (x.toNat < y.toNat))
def execBgeu (a b : Reg) (o : BitVec 11) (s : State) :=
  issue (.bgeu a b o) s (branch a b o fun x y => decide (y.toNat ≤ x.toNat))

def execJmp (o : BitVec 24) (s : State) :=
  issue (.jmp o) s fun s => .ok { s := s, next := some (target s.cur.pc o), transfer := true }

/-- The link value: the address after a 32-bit instruction (R99). -/
def link (pc : CodeAddr) : Word := (pc + 2).zeroExtend 64

def execCall (o : BitVec 24) (s : State) :=
  issue (.call o) s fun s => .ok { s := s.setS 1 (link s.cur.pc), next := some (target s.cur.pc o), transfer := true }

/-- The target is computed before the link is written (R100). -/
def jumpReg (d a : Reg) (i : BitVec 14) (after : CodeAddr → Word) : Body := fun s =>
  .ok { s := s.setS d (after s.cur.pc), next := some ((s.s a + imm14 i).setWidth 14), transfer := true }

def execJreg (d a : Reg) (i : BitVec 14) (s : State) := issue (.jreg d a i) s (jumpReg d a i link)

/-! ### Hardware loops -/

/-- LOOP opens loop k; a count of 0 skips the body (R104). -/
def loopBody (a : Reg) (i : BitVec 14) : Body := fun s =>
  let x := s.cur
  let n := s.s a
  if x.depth = 3 then .error (.trap causeLoopnest n)
  else
    let k := x.depth % 3
    have h : k < 3 := Nat.mod_lt _ (by decide)
    let le := target x.pc i
    let s := s.modCur fun x =>
      { x with ls := x.ls.set k (x.pc + 2), le := x.le.set k le, lc := x.lc.set k n }
    .ok { s := s, next := some (if n = 0 then le else x.pc + 2) }

def execLoop (a : Reg) (i : BitVec 14) (s : State) := issue (.loop a i) s (loopBody a i)

/-- LEXIT ends the innermost active loop (R106). -/
def lexitBody : Body := fun s =>
  match s.cur.depth with
  | 0 => .ok { s := s }
  | k + 1 => .ok { s := s.modCur fun x => { x with lc := x.lc.set (k % 3) 0 (Nat.mod_lt _ (by decide)) } }

def execLexit (s : State) := issue .lexit s lexitBody

end Sys2Proof.Machine
end

