-- ==== Sys2Proof/Machine/Reach.lean ====
section
/-! DEFINITION. Accesses that a unit or a port of the module makes for its own work (R178, R184, R203, R219, R255). -/
namespace Sys2Proof.Machine

/-- The unit of work an engine's access belongs to: its number, the L1 TLB it uses, and the issuing cell, logical cell
and launch. -/
structure Job' where
  id : Nat
  tlb : Nat
  cell : Nat
  lcell : Nat
  launch : Option Nat

/-- Statuses of R184 and R274 for the causes ERRSUM records. -/
def statusOf (cause : Nat) : Nat := if cause = 0x05 then 1 else if cause = 0x04 then 2 else 5

/-- What an engine's access comes to. -/
inductive Reach (α : Type) where
  | got (x : α) (s : State)
  /-- It ends in error, with a status. -/
  | fail (status : Nat)
  /-- Its translation faults on this VA (R195); `write` and `mal` as in R198. -/
  | park (va : Nat) (write mal : Bool)
  /-- It cannot be made or is not complete now; the state keeps what was sent. -/
  | wait (s : Option State)

/-- What follows once it is complete. -/
def Reach.bind {α β : Type} (x : Reach α) (f : α → State → Reach β) : Reach β :=
  match x with
  | .got a s => f a s
  | .fail c => .fail c
  | .park va w mal => .park va w mal
  | .wait s => .wait s

/-- One after another over a list of numbers. -/
def reachAll {α : Type} (f : State → Nat → Reach α) (s : State) : List Nat → Reach (List α)
  | [] => .got [] s
  | i :: r => (f s i).bind fun x s => (reachAll f s r).bind fun xs s => .got (x :: xs) s

/-- The accesses of an engine's work that are on their way. -/
def State.unitOpen (s : State) (id : Nat) : Bool := s.inflight.any fun a => a.unit == some id && a.phase.open

/-- The status of an access of the work that ended in error, if any did. -/
def State.unitFailed (s : State) (id : Nat) : Option Nat :=
  s.inflight.findSome? fun a => if a.unit = some id then (match a.phase with | .failed c => some (statusOf c) | _ => none) else none

/-- The work's accesses that are over leave the list, and a miss of it that has waited leaves its port. -/
def State.unitClear (s : State) (id : Nat) : State :=
  { s.leavePort id with inflight := s.inflight.filter fun a => !(a.unit == some id && !a.phase.open) }

/-- An access to another module goes out on the flow of the work's logical cell (R219); none while it has no room. -/
def State.unitSend (s : State) (j : Job') (va key : Nat) (dev pa : Nat) (op : AccOp) (chk : Bool := false) : Option State :=
  if s.dark dev || !s.flowRoom j.lcell dev then none
  else
    let id := s.nextId
    let (cls, a1, a2, a3, pl, reply) := request op key
    let seq := ((s.findFlow j.lcell dev).map (·.next)).getD 0
    let a : Access := { id := id, cell := j.cell, ctx := 4, act := j.id, va := va, place := .remote dev pa, key := key, op := op
                        chk := chk, lcell := j.lcell, phase := .sent dev seq, sys := true, launch := j.launch, unit := some j.id }
    let s := { s with inflight := s.inflight ++ [a], nextId := id + 1 }
    let (pkt, s) := s.requestPacket j.lcell j.cell dev cls pa a1 a2 a3 pl
    some (s.sendOn pkt (some id) [] reply (owner := some (j.launch, j.lcell)))

end Sys2Proof.Machine
end

