-- ==== Sys2Proof/Machine/Sync.lean ====
section
/-! DEFINITION. FENCE and the phase-word forms (R231-R236). -/
namespace Sys2Proof.Machine

/-- The accesses of the executing context that a FENCE waits for: not acknowledged, or the result not returned (R232). -/
def State.fenced (s : State) (t : Nat) : List Nat :=
  (s.inflight.filter fun a => s.owns s.now.cell s.now.ctx a && covers s.devidx.toNat t a).map (·.id)

/-- FENCE: with S = 1 the context parks until the covered accesses are complete; with S = 0 they hold back
its later events (R232), and one whose translation shows a home that the scope does not cover holds them no more (R215). -/
def fenceBody (t : BitVec 4) : Body := fun s =>
  let ids := s.fenced t.toNat
  if s.now.sw then (if ids.isEmpty then .ok { s := s } else .error .hold)
  else .ok { s := s.modCur fun x =>
    { x with fence := x.fence.filter (fun f => s.inflight.any (·.id == f.2)) ++ ids.map fun id => (t.toNat, id) } }

def execFence (t : BitVec 4) (s : State) := issue (.fence t) s (fenceBody t)

/-- The home of a phase word in the space `t` names; a word in a host window traps PERM (R186, R231). -/
def phasePlace (s : State) (t ea : Nat) : Option Place := if t = 2 then s.windowPlace ea else s.localPlace ea

/-- A global phase word in a host window (R186). -/
def phaseHost (s : State) (ea : Nat) (write : Bool) : Except Stop Unit :=
  match s.translate ea write with
  | .at l => match l.place with
    | .host .. => .error (.trap causePerm (BitVec.ofNat 64 ea))
    | _ => .ok ()
  | _ => .ok ()

/-- PHINIT: the whole word as one phase update (R233). -/
def phinitBody (i : Instr) (a b : Reg) (t : BitVec 4) : Body := fun s => do
  let ea := (s.s a).toNat
  aligned ea 16
  let op := AccOp.phinit (s.s b).toNat
  if t = 0 then
    phaseHost s ea true
    let s' ← s.global true { Access.of ea (.hbm 0) op .none with word := value i s.now.sw, data := (s.s b).toNat }
    pure { s := s' }
  else
    let s' ← s.nearStore (phasePlace s t.toNat ea) ea op
    pure { s := s' }

def execPhinit (a b : Reg) (t : BitVec 4) (s : State) := issue (.phinit a b t) s (phinitBody (.phinit a b t) a b t)

/-- The reply of a home that the executing context waited for. -/
def State.reply? (s : State) : Option (Nat × Bool) :=
  s.cur.answers.findSome? fun x => match x with
    | .value v ok => some (v, ok)
    | _ => none

/-- The context waits for the home's reply to the access with the operands `ops` that it has just sent. -/
def State.await (s : State) (id ops : Nat) : State := s.modCur fun x => { x with wait := .home id, answers := [.word 512 ops] }

/-- PHARR and PHADD: the context waits for its home's reply; a rejection traps PHOVER (R188, R234).  A home that has taken an
update in may reply before it applies it, so a task's join may fire before (R171, log 9). -/
def phaseUpdate (i : Instr) (a : Reg) (t : BitVec 4) (n : State → Nat) (op : Nat → AccOp) (rel : Bool) : Body := fun s => do
  let ops := s.kept ((s.s a).toNat + 2 ^ 64 * n s)
  let ea := bits ops 0 64
  let op := op (ops / 2 ^ 64)
  aligned ea 16
  match s.reply? with
  | some (_, true) => pure { s := s }
  | some (_, false) => .error (.trap causePhover (BitVec.ofNat 64 ea))
  | none =>
    let acc := { Access.of ea (.hbm 0) op .none with word := value i s.now.sw }
    if t = 0 then
      phaseHost s ea true
      let s' ← s.global true acc
      if s'.inflight.any (·.id == s.nextId) then .error (.wait (s'.await s.nextId ops)) else pure { s := s' }
    else match phasePlace s t.toNat ea with
      | none => .error (.trap causeLocalrange (BitVec.ofNat 64 ea))
      | some p =>
        -- with `rel` every earlier access of the activation must have been performed (R208)
        let free := !s.homeBusy p && !s.wordTaken p 16 && (!rel || s.openAccesses.isEmpty)
        let flies := if 32 ≤ s.storesOut && !s.ownRows p then .error .hold
          else .error (.wait ((s.enter { acc with place := p }).await s.nextId ops))
        if s.rowsHeld p || s.placeBad p || !free || (32 ≤ s.storesOut && !s.ownRows p) then flies
        else match s.perform p 0 op with
        | some (s', _, _, true) => pure { s := s' }
        | some (_, _, _, false) => .error (.trap causePhover (BitVec.ofNat 64 ea))
        | none => flies

def execPharr (a : Reg) (t : BitVec 4) (s : State) :=
  issue (.pharr a t) s (phaseUpdate (.pharr a t) a t (fun _ => 0) (fun _ => .pharr) true)
def execPhadd (a b : Reg) (t : BitVec 4) (s : State) :=
  issue (.phadd a b t) s (phaseUpdate (.phadd a b t) a t (fun s => (s.s b).toNat) .phadd false)

/-- PHWAIT: its home answers once GEN differs; four may be outstanding (R235). -/
def phwaitBody (i : Instr) (d a b : Reg) (t : BitVec 4) : Body := fun s => do
  let ea := (s.s a).toNat
  aligned ea 16
  let waits := (s.inflight.filter fun x => s.owns s.now.cell s.now.ctx x &&
    (match x.op with | .phwait _ => true | _ => false)).length
  let op := AccOp.phwait (bits (s.s b).toNat 0 15)
  let acc := { Access.of ea (.hbm 0) op (.s d) with word := value i s.now.sw, data := (s.s b).toNat }
  if t = 0 then
    phaseHost s ea false
    if 4 ≤ waits then .error .hold
    else
      let s' ← s.global false acc
      pure { s := s' }
  else match phasePlace s t.toNat ea with
    | none => .error (.trap causeLocalrange (BitVec.ofNat 64 ea))
    | some p => if 4 ≤ waits then .error .hold else pure { s := s.enter { acc with place := p } }

def execPhwait (d a b : Reg) (t : BitVec 4) (s : State) :=
  issue (.phwait d a b t) s (phwaitBody (.phwait d a b t) d a b t)

/-- PHREAD: half h of the word, one atomic access (R236). -/
def phreadBody (i : Instr) (d a b : Reg) (t : BitVec 4) : Body := fun s => do
  let ea := (s.s a).toNat
  aligned ea 16
  let op := AccOp.phread b.val
  if t = 0 then
    phaseHost s ea false
    let s' ← s.global false { Access.of ea (.hbm 0) op (.s d) with word := value i s.now.sw }
    pure { s := s' }
  else
    let s' ← s.nearResult (phasePlace s t.toNat ea) ea op d
    pure { s := s' }

def execPhread (d a b : Reg) (t : BitVec 4) (s : State) :=
  issue (.phread d a b t) s (phreadBody (.phread d a b t) d a b t)

end Sys2Proof.Machine
end

