-- ==== Sys2Proof/Machine/Task.lean ====
section
/-! DEFINITION. Placement, posting, joins and the task forms (R46, R52-R58, R108-R120). -/
namespace Sys2Proof.Machine

/-! ### Placement (R53, R54, R409) -/

/-- The logical cluster of a site as 64 × y + x; 2,048 and above on a spare site (R409, log 11). -/
def State.siteXY (s : State) (site : Nat) : Nat := look site s.sites site

/-- (x, y) of a compute cell's cluster. -/
def State.clusterXY (s : State) (cell : Nat) : Nat × Nat :=
  let c := s.siteXY (cell / 16)
  (c % 64, c / 64)

/-- The logical cell of a PATH task (R53). -/
def pathCell (e : LaunchEntry) (path : Word) : Nat :=
  let h := (mix e.lid path).toNat / 2 ^ 32
  e.lbase.toNat + h * e.lcount.toNat / 2 ^ 32

/-- A fork path is valid (R52): depth at most 9, nothing above its last index. -/
def pathValid (p : Word) : Bool :=
  let d := p.toNat % 16
  d ≤ 9 && p.toNat / 2 ^ (4 + 6 * d) == 0

/-- The child's path (R52, R112). -/
def childPath (p : Word) (c : Nat) : Word := p + 1 + BitVec.ofNat 64 (c * 2 ^ (6 * (p.toNat % 16 + 1) - 2))

/-! ### Posting (R30, R46) -/

/-- `Post(msg)`: the message goes to the delivery path; one that starts a task of a launch first adds 1 to its
LIVE (R46 item 1). -/
def State.post (s : State) (p : Post) (adds : Bool) : State :=
  if adds && !p.system then
    let t := s.nextId
    { s with nextId := t + 1, posts := s.posts ++ [{ p with gate := .pending t }]
             records := s.records ++ [RecOp.liveAdd (s.levelVa p.msg.launch.toNat) t] }
  else { s with posts := s.posts ++ [p] }

/-- The executing cell has sent one more message (R247). -/
def State.countSent (s : State) : State := s.modHere fun c => { c with sent := c.sent + 1 }

/-- A message still stands in its cell's outbound queue: its LIVE addition or its accesses are not done.  One that an
inbox without room holds back has left it (R31, R113). -/
def State.inOutQueue (s : State) (p : Post) : Bool :=
  p.out && ((match p.gate with | .pending _ => true | _ => false) || p.after.any s.pendingAccess)

/-- The cell's outbound message queue is full (R113, log 12). -/
def State.outFull (s : State) : Bool :=
  s.outCap ≤ (s.posts.filter fun p => s.inOutQueue p && p.msg.srcpcell.toNat == s.now.cell).length

/-! ### The end of an activation (R46, R57, R109) -/

/-- What the end of context (n, k)'s activation sends: the close of its join, its join result, its LIVE.  The join is closed
however the activation ends, terminated, killed and LOST included, where R57 names the next JOIN and ENDTASK alone (DESIGN
CHOICE, log 43). -/
def State.endUpdates (s : State) (n k : Nat) (result : Word) (err : Bool) : State :=
  let x := s.ctx n k
  let close := match x.join with
    | some (va, count) => [RecOp.joinClose va.toNat count s.nextId]
    | none => []
  let child := if x.jrec = 0 then [] else [RecOp.joinChild x.jrec.toNat x.jslot.toNat result.toNat err s.nextId]
  let live := if x.launch = none then [] else [RecOp.liveSub x.level.toNat]
  { s with records := s.records ++ close ++ child ++ live }

/-- The context is free again (R39); its followers go on by themselves (R44): the leader's ENDTASK does not enter their
stream (DESIGN CHOICE, log 25). -/
def State.freeCtx (s : State) (n k : Nat) : State :=
  (s.releaseFollowers n k).modCtx n k fun x =>
    { x with
      busy := false, parked := false, ending := false, wait := .none, answers := [], pendingTrap := none
      stepping := false, debugStep := false, fence := [], following := false, stream := [], join := none
      jrec := 0, retained := none, prq := 0, dline := 0, sys := false, inTrap := 0, saving := false, mixreads := []
      tables := (x.tables.set 0 none).set 1 none, stage := 0, again := [], storing := none }

/-- ENDTASK: waits for the context's results, then ends the activation (R42, R109).  A follower parked until the leader
issues it goes on at its address by itself (R43, R44). -/
def endtaskBody (a : Reg) : Body := fun s =>
  let n := s.now.cell
  let k := s.now.ctx
  if s.owed n k then .error (.wait (s.modCur fun x => { x with ending := true }))
  else
    let s := s.modCur fun x => { x with retired := x.retired + 1 }
    .error (.wait (((s.engageFollowers n k).endUpdates n k (s.s a) false).freeCtx n k))

def execEndtask (a : Reg) (s : State) := issue (.endtask a) s (endtaskBody a)

/-! ### SPAWN (R110-R114) -/

/-- The message of a child task from its spawn block (R111, R112). -/
def State.childMsg (s : State) (base place c : Nat) (rel : Bool) : Msg :=
  let x := s.cur
  { cls := BitVec.ofNat 8 (s.localRead (base + 32) 1)
    rel := rel
    place := BitVec.ofNat 2 place
    launch := x.launch.getD 0
    jslot := match x.join with | some (_, n) => BitVec.ofNat 12 n | none => 0
    jrec := match x.join with | some (va, _) => va | none => 0
    dest := if place = 0 then BitVec.ofNat 16 (pathCell (look {} s.launches (x.launch.getD 0).toNat) (childPath x.path c))
      else x.lcell
    path := childPath x.path c
    srcpcell := BitVec.ofNat 17 s.now.cell
    srcdev := s.devidx
    args := (((Vector.replicate 4 (0 : Word)).set 0 (BitVec.ofNat 64 (s.localRead base 8))).set 1
      (BitVec.ofNat 64 (s.localRead (base + 8) 8)) |>.set 2 (BitVec.ofNat 64 (s.localRead (base + 16) 8))).set 3
      (BitVec.ofNat 64 (s.localRead (base + 24) 8)) }

/-- The place of a message that the executing instruction sends within its module to a launch with DET among the messages of
its delivery window: its sender, its position among the sender's, and the send round as its stamp (R216, R314, R317;
DEDUCED, log 22). -/
def State.window (s : State) (m : Msg) : Option (Nat × Nat × Nat × Nat) :=
  if (look {} s.launches m.launch.toNat).det then some (s.devidx.toNat, s.cur.lcell.toNat, s.nextId, s.rounds.send) else none

/-- Where a child goes: by the hash of its path, on a NEAR walk, or onto the deque (R53-R55); `near` are the three bytes of the
spawn block that give a NEAR task's radius and hint (R111).  A depot cell has no place
on the mesh of clusters: the walk of its NEAR tasks starts at the model's place for it (`State.clusterXY`; DESIGN
CHOICE, log 12). -/
def State.postChild (s : State) (m : Msg) (near place : Nat) (rel : Bool) : State :=
  let after := if rel then s.openAccesses else []
  let flow := some (s.cur.lcell.toNat, m.dest.toNat)
  let (x, y) := s.clusterXY s.now.cell
  if place = 0 then s.post { msg := m, target := .logical m.dest.toNat, out := true, after := after, flow := flow, det := s.window m } true
  else if place = 1 then
    s.post { msg := m, target := .near x y (bits near 8 6) (bits near 16 5) (bits near 0 6), out := true, after := after, det := s.window m } true
  else if s.here.deque.length < 32 then
    let t := s.nextId
    let p : Post := { msg := m, target := .physical s.now.cell, after := after, gate := .pending t }
    let s := { s with nextId := t + 1, records := s.records ++ [RecOp.liveAdd (s.levelVa m.launch.toNat) t] }
    s.modHere fun c => { c with deque := p :: c.deque }
  else s.post { msg := { m with place := 3 }, target := .logical s.cur.lcell.toNat, out := true, after := after, flow := flow, det := s.window m } true

/-- The armed join has its 4,096 children (R57). -/
def Ctx.joinFull (x : Ctx) : Bool :=
  match x.join with
  | some (_, n) => decide (4096 ≤ n)
  | none => false

/-- SPAWN with its checks in the order of R112, once its cell's outbound queue has room (R113).  The block is read in one step or
byte by byte (R207).  On an activation of no
launch it traps ILLEGAL with TRAPVAL 0 (R408), be it a system core's or context 3's of another cell; that check stands
between those of the class and of the path (DESIGN CHOICE, log 17).  A spawn block on a line with a bad check value traps CHECK
after LOCALRANGE and before the class is looked at, whichever of its lines is bad: R112's list does not place CHECK (R203;
DESIGN CHOICE, log 17). -/
def spawnBody (place : Nat) (d a : Reg) (c : BitVec 6) (r : BitVec 1) : Body := fun s => do
  let base := s.kept (s.s a).toNat
  if s.outFull then .error s.notReady
  s.block base 48 16
  match s.badLocal base 48 with
  | some e => .error (.trap causeCheck (BitVec.ofNat 64 e))
  | none =>
    let (s, rd) ← s.gather base 1 0 base 48
    let x := s.cur
    let cls := rd.localRead (base + 32) 1
    if cls < 16 then .error (.trap causePerm (BitVec.ofNat 64 cls))
    else if x.launch = none then .error (.trap causeIllegal 0)
    else if 9 ≤ x.path.toNat % 16 || !pathValid x.path then .error (.trap causeIllegal x.path)
    else if x.joinFull then .error (.trap causeIllegal 4096)
    else
      let m := rd.childMsg base place c.toNat (r == 1)
      let s1 := (s.postChild m (rd.localRead (base + 33) 3) place (r == 1)).countSent
      let s2 := s1.modCur fun x => { x with join := x.join.map fun (va, n) => (va, n + 1) }
      pure { s := s2.setS d (childPath x.path c.toNat) }

def execSpawnPath (d a : Reg) (c : BitVec 6) (r : BitVec 1) (s : State) :=
  issue (.spawnPath d a c r) s (spawnBody 0 d a c r)
def execSpawnNear (d a : Reg) (c : BitVec 6) (r : BitVec 1) (s : State) :=
  issue (.spawnNear d a c r) s (spawnBody 1 d a c r)
def execSpawnSteal (d a : Reg) (c : BitVec 6) (r : BitVec 1) (s : State) :=
  issue (.spawnSteal d a c r) s (spawnBody 2 d a c r)

/-! ### JOIN (R57, R115) -/

/-- One of JOIN's two global addresses is ready to be written: PERM, readiness and translation, with no access made; both
accesses may await translation only while no more than 64 do (R250). -/
def State.probe (s : State) (va : Nat) (write : Bool) : Except Stop Unit :=
  if 2 ^ 60 ≤ va then .error (.trap causePerm (BitVec.ofNat 64 va))
  else if s.granuleHeld va then .error s.notReady
  else match s.translate va write with
    | .perm => .error (.trap causePerm (BitVec.ofNat 64 va))
    | .miss => if 63 ≤ s.awaiting then .error s.notReady else .error (.wait (s.missOn va write))
    | .park => if 63 ≤ s.awaiting || !s.parkRoom va 1 then .error s.notReady else .ok ()
    | .denied => .ok ()
    | .bad => .error .hold
    | .at _ => .ok ()

/-- JOIN closes the join armed before, writes the record and arms it (R57, R115).  On an activation of no launch it traps
ILLEGAL with TRAPVAL 0 (R408), after the checks of the address and the class (DESIGN CHOICE, log 17). -/
def joinBody (d a : Reg) (k : BitVec 8) : Body := fun s => do
  let x := s.cur
  let va := (s.s a).toNat
  aligned va 8
  if k.toNat < 16 then .error (.trap causePerm (k.zeroExtend 64))
  else if x.launch = none then .error (.trap causeIllegal 0)
  else
    s.probe va true
    s.probe (va + 8) true
    let jctl := k.toNat * 2 ^ 32 + 0xFFFF
    let word := value (.join d a k) s.now.sw
    let s1 ← s.global true { Access.of va (.hbm 0) (.record 8 jctl) .none with word := word, data := jctl }
    let arg := { Access.of (va + 8) (.hbm 0) (.record 8 (s.s d).toNat) .none with word := word, data := (s.s d).toNat }
    -- a fault of the first write parks the second on the same granule beside it
    let s2 ← if s1.granuleHeld (va + 8) then
        (if 64 ≤ s1.awaiting || !s1.parkRoom (va + 8) 1 then .error s.notReady else .ok (s1.park arg))
      else s1.global true arg
    -- the close goes before the new record's writes
    let close := match x.join with
      | some (v, n) => [RecOp.joinClose v.toNat n s.nextId]
      | none => []
    let home : JoinHome := { va := va, lcell := x.lcell.toNat, launch := (x.launch.getD 0).toNat, path := x.path, errs := 0 }
    let s3 := { s2 with
      records := s2.records ++ close ++ [RecOp.liveAdd x.level.toNat 0]
      joins := s2.joins ++ [home] }
    pure { s := s3.modCur fun x => { x with join := some (BitVec.ofNat 64 va, 0) } }

def execJoin (d a : Reg) (k : BitVec 8) (s : State) := issue (.join d a k) s (joinBody d a k)

/-! ### YIELDCHK, FOLLOW, UNFOLLOW, CANCEL, RTQUIET (R117-R120) -/

def execYieldchk (d : Reg) (s : State) := issue (.yieldchk d) s (writes d fun s => s.cur.prq.zeroExtend 64)

/-- FOLLOW parks a follower until the leader issues the named address; on cell 0 it has no effect (R43). -/
def followBody (a : Reg) (k : BitVec 10) : Body := fun s =>
  if s.now.cell % 16 = 0 then .ok { s := s }
  else
    let t : CodeAddr := (s.s a + k.zeroExtend 64).setWidth 14
    .ok { s := s.modCur fun x => { x with wait := .follow t, following := false, stream := x.stream.take 1 } }

def execFollow (a : Reg) (k : BitVec 10) (s : State) := issue (.follow a k) s (followBody a k)

/-- UNFOLLOW ends follow mode; the follower goes on at the next address (R118). -/
def unfollowBody : Body := fun s =>
  .ok { s := s.modCur fun x => { x with following := false, stream := x.stream.take 1 } }

def execUnfollow (s : State) := issue .unfollow s unfollowBody

/-- CANCEL: an indivisible OR of LFLAGS bit 0 at the record's home (R119).  A PERM of it reports the VA of the access, that
of LFLAGS (DESIGN CHOICE, log 14). -/
def cancelBody (a : Reg) : Body := fun s => do
  let va := (s.s a).toNat
  aligned va 64
  let s' ← s.global true { Access.of (va + 20) (.hbm 0) (.orBits 4 1) .none with word := value (.cancel a) s.now.sw, data := 1 }
  pure { s := s' }

def execCancel (a : Reg) (s : State) := issue (.cancel a) s (cancelBody a)

/-- RTQUIET: the executing cell's answer is interlocked, another cell's variable-latency (R120). -/
def rtquietBody (d a : Reg) (k : BitVec 8) : Body := fun s =>
  let x := s.s a
  if x = BitVec.allOnes 64 then .ok { s := s.setS d (BitVec.ofNat 64 (s.quiet s.now.cell k.toNat)) }
  else match look? s.l2p (bits x.toNat 0 16) with
    | none => .error .hold
    | some c => .ok { s := s.enter (Access.of 0 noHome (.query 0 c k.toNat) (.s d)) }

def execRtquiet (d a : Reg) (k : BitVec 8) (s : State) := issue (.rtquiet d a k) s (rtquietBody d a k)

end Sys2Proof.Machine
end

