-- ==== Sys2Proof/Machine/Serai.lean ====
section
/-! DEFINITION. Rounds and the serai: the receiving side of flows (R310-R317). -/
namespace Sys2Proof.Machine

/-! ### Rounds (R314-R316) -/

/-- The receive round that is open. -/
def Rounds.next (r : Rounds) : Nat := if r.started then r.recv + 1 else 0

/-- The round a 12-bit stamp names: within 2,048 of the open receive round (R315). -/
def Rounds.unwrap (r : Rounds) (rnd : Nat) : Nat :=
  let d := (rnd + 4096 - r.next % 4096) % 4096
  if d < 2048 then r.next + d else r.next + d - 4096

/-- The round set; every module is in its own (R314). -/
def State.roundSet (s : State) : List Nat :=
  let own := s.devidx.toNat
  let l := s.rounds.set.getD []
  if l.contains own then l else own :: l

/-- The send round ends: the checkpoint cut, the new stamp, a MARKER to each module of the set (R315, R405). -/
def State.endSend (s : State) : State :=
  let r := s.rounds.send
  let s := s.protect r
  let counts := s.rounds.stamped
  let s := { s with rounds := { s.rounds with send := r + 1, stamped := [], tick := false } }
  s.roundSet.foldl (fun s d =>
    let n := look 0 counts d
    let s := { s with rounds := { s.rounds with markers := put s.rounds.markers d (r, n) } }
    s.portSend d 5 [r, n]) s

/-- A round tick: it ends send round r once receive round r − 1 has ended, and is kept till then (R315). -/
def State.roundTick (s : State) : State :=
  if s.rounds.send = 0 ∨ s.rounds.send ≤ s.rounds.next then s.endSend
  else { s with rounds := { s.rounds with tick := true } }

/-- With RNDLEN = 0 a tick is always pending, unless the stage table is in round mode (R315). -/
def State.tickPending (s : State) : Bool := s.rounds.tick || (s.rndlen == 0 && s.stage.mode != 1)

/-- Receive round r ends once every module's MARKER r is held and its messages are delivered (R315). -/
def State.endRecv (s : State) : State :=
  let r := s.rounds.next
  if s.roundSet.all (fun d => match look? s.rounds.got (r * 512 + d) with
      | some n => n ≤ look 0 s.rounds.seen (r * 512 + d)
      | none => false) then
    let s := { s with rounds := { s.rounds with
      recv := r, started := true
      got := s.rounds.got.filter fun e => (r + 1) * 512 ≤ e.1
      seen := s.rounds.seen.filter fun e => (r + 1) * 512 ≤ e.1 } }
    if s.tickPending then s.roundTick else s
  else s

/-- A counted message from a module has been delivered (R315). -/
def State.delivered (s : State) (sdev rnd : Nat) : State :=
  let k := s.rounds.unwrap rnd * 512 + sdev
  State.endRecv { s with rounds := { s.rounds with seen := put s.rounds.seen k (look 0 s.rounds.seen k + 1) } }

/-! ### Flow slots (R310) -/

def State.findSerai (s : State) (sdev scell : Nat) : Option Serai :=
  s.serai.find? fun f => f.sdev == sdev && f.scell == scell

def State.setSerai (s : State) (f : Serai) : State :=
  if s.serai.any (fun g => g.sdev == f.sdev && g.scell == f.scell) then
    { s with serai := s.serai.map fun g => if g.sdev = f.sdev ∧ g.scell = f.scell then f else g }
  else { s with serai := s.serai ++ [f] }

/-- FREE: the SEQ of the first message not yet freed (R312). -/
def Serai.free (f : Serai) : Nat :=
  match f.queue.find? (·.2 != 2) with
  | some (p, _) => p.seq
  | none => f.expected

/-- The message whose turn it is: the first not handed on, when every one before it is freed or only held
for its round (R311, R317).  So a message of a DET = 0 launch behind a held one of a DET = 1 launch is admitted at once, and may
start first: R317 has rounds hold none of it, and R208 orders the starts of a flow; the model follows R317 (DESIGN CHOICE,
log 22). -/
def Serai.turn (f : Serai) : Option Packet :=
  match f.queue.find? fun e => e.2 != 2 && e.2 != 3 with
  | some (p, st) => if st = 1 then none else some p
  | none => none

/-- The user-class message that may be admitted: no built-in access before it waits for its turn, though one may be on its way
at its home, and no user-class message waits at the port (R311). -/
def Serai.admits (f : Serai) : Option Packet :=
  match f.queue.find? fun e => e.2 == 0 || e.2 == 1 with
  | some (p, st) => if st = 0 ∧ 16 ≤ p.cls then some p else none
  | none => none

/-- The message with this SEQ waits for its turn, and nothing of it has happened (R311). -/
def Serai.waits (f : Serai) (seq : Nat) : Bool := f.queue.any fun e => e.1.seq == seq && e.2 == 0

/-- A message of the flow is given a state: 1 handed on, 2 freed, 3 held, 4 issued. -/
def Serai.mark (f : Serai) (seq st : Nat) : Serai :=
  { f with queue := (f.queue.map fun e => if e.1.seq = seq then (e.1, st) else e).dropWhile (·.2 == 2) }

/-- The current slot return of a flow (R312). -/
def State.slotReturn (s : State) (sdev scell : Nat) : State :=
  match s.findSerai sdev scell with
  | some f => s.portSend sdev 6 [scell, f.free]
  | none => s

/-- NACK: request SEQ and SCELL, cause, request class (R307). -/
def State.nack (s : State) (p : Packet) (cause : Nat) : State :=
  s.portSend p.sdev 4 [p.seq + 65536 * p.scell, cause, p.cls]

/-- FABERR counts one more discarded message, saturating (R319). -/
def State.fabError (s : State) : State :=
  { s with faberr := if s.faberr = BitVec.allOnes 64 then s.faberr else s.faberr + 1 }

def State.markSerai (s : State) (sdev scell seq st : Nat) : State :=
  match s.findSerai sdev scell with
  | some f => s.setSerai (f.mark seq st)
  | none => s

/-! ### Where a payload goes (R58, R255, R306) -/

/-- The physical cell of a target, when its table entry is valid (R58). -/
def State.destCell (s : State) : Target → Option Nat
  | .logical l => look? s.l2p l
  | .physical c => some c
  | .near .. => none

/-- The cell row of window or private row 0 of a logical cell on its cell, and how many rows it has. -/
def State.rowsOfLcell (s : State) (lcell : Nat) (window : Bool) : Option (Nat × Nat × Nat) := do
  let c ← look? s.l2p lcell
  if kindOf c = some .system then pure (c, 0, if window then 0 else 4096)
  else
    let h ← (s.cell c).hosted.find? (·.lcell == lcell)
    let base := (s.cell c).rowBase lcell
    pure (if window then (c, base, h.w) else (c, base + h.w, h.p))

/-- Bytes `a .. a + n - 1` of the private rows of a logical cell exist now (R172, R306, R387). -/
def State.payloadOk (s : State) (lcell a n : Nat) : Bool :=
  match s.rowsOfLcell lcell false with
  | some (c, base, p) => a + n ≤ p * 128 && (n == 0 || base + (a + n - 1) / 128 < s.rowsOf c)
  | none => false

/-! ### The end of a remote matrix command at its requester (R299; log 30) -/

/-- The name of the flow on which matrix units send completions. -/
def mxFlow : Nat := 0xFF80

/-- The completion message of a remote command, with its status and a2; the error is recorded in the issuing
launch (R274, R299).  No cell sends it: SRCPCELL is a free value (log 6). -/
def State.mremFinish (s : State) (r : Mrem) (status a2 : Nat) (serai : Option (Nat × Nat × Nat) := none) : State :=
  let s := { s with mrems := s.mrems.filter (· != r) }
  let s := if status % 256 = 0 then s else s.recordError r.launch (causeOf (status % 256)) r.lcell
  let (f, s) := s.fresh
  let m : Msg :=
    { cls := BitVec.ofNat 8 r.cls, place := 3, launch := BitVec.ofNat 12 (r.launch.getD 0), dest := BitVec.ofNat 16 r.lcell
      path := r.path, srcpcell := BitVec.ofNat 17 f, srcdev := BitVec.ofNat 9 r.dev
      args := (((Vector.replicate 4 (0 : Word)).set 0 (BitVec.ofNat 64 status)).set 1 r.harg
        |>.set 2 (BitVec.ofNat 64 a2)).set 3 (BitVec.ofNat 64 (r.kind + 256 * r.tile)) }
  match r.core with
  | some c => s.post { msg := m, target := .physical c, placed := true, system := true, serai := serai } false
  | none => s.post { msg := m, target := .logical r.lcell, placed := true, held := (look? s.l2p r.lcell).isNone, serai := serai } true

def State.mremAt (s : State) (lcell dev seq : Nat) : Option Mrem :=
  s.mrems.find? fun r => r.lcell == lcell && r.dev == dev && r.seq == seq

/-- A completion from another module is handed on; one whose command has already ended is dropped. -/
def State.handMrem (s : State) (p : Packet) : State :=
  match s.mremAt p.dcell p.sdev p.paddr with
  | some r =>
    let s := s.markSerai p.sdev p.scell p.seq 1
    (s.mremFinish r (p.args.getD 0 0) (p.args.getD 2 0) (some (p.sdev, p.scell, p.seq))).delivered p.sdev p.rnd
  | none => ((s.markSerai p.sdev p.scell p.seq 2).slotReturn p.sdev p.scell).delivered p.sdev p.rnd

/-! ### Delivery of user classes (R305, R311) -/

/-- The message that a packet of a user class becomes (R305). -/
def packetMsg (p : Packet) : Msg :=
  { cls := BitVec.ofNat 8 p.cls, rel := p.rel, place := 3, launch := BitVec.ofNat 12 p.launch
    dest := BitVec.ofNat 16 p.dcell, path := BitVec.ofNat 64 p.path, payaddr := BitVec.ofNat 19 p.paddr
    paylen := BitVec.ofNat 13 p.paylen, srcpcell := BitVec.ofNat 17 p.spcell, srcdev := BitVec.ofNat 9 p.sdev
    args := (((Vector.replicate 4 (0 : Word)).set 0 (BitVec.ofNat 64 (p.args.getD 0 0))).set 1
      (BitVec.ofNat 64 (p.args.getD 1 0)) |>.set 2 (BitVec.ofNat 64 (p.args.getD 2 0))).set 3
      (BitVec.ofNat 64 (p.args.getD 3 0)) }

/-- A user-class message whose turn it is is handed on: its payload range is checked when its entry is
valid, LIVE is counted, and it waits for its inbox or for its window (R46, R306, R311, R317).  From a module outside the round
set it has arrived when it is handed on, which fixes its window (DESIGN CHOICE, log 22). -/
def State.handOn (s : State) (p : Packet) : State :=
  if p.scell = mxFlow then s.handMrem p
  else
  let toSystem := match look? s.l2p p.dcell with
    | some c => kindOf c == some .system
    | none => false
  let valid := (look? s.l2p p.dcell).isSome
  if p.paylen ≠ 0 ∧ valid ∧ !s.payloadOk p.dcell p.paddr p.paylen then
    let s := (s.markSerai p.sdev p.scell p.seq 2).nack p 2
    (s.slotReturn p.sdev p.scell).delivered p.sdev p.rnd
  else
    let det := !toSystem && (look {} s.launches p.launch).det
    let round := if s.roundSet.contains p.sdev then s.rounds.unwrap p.rnd else s.rounds.next
    let post : Post :=
      { msg := packetMsg p, target := .logical p.dcell, payload := p.payload.map (BitVec.ofNat 8)
        placed := p.paylen == 0, held := !valid, system := toSystem
        det := if det then some (p.sdev, p.scell, p.seq, round) else none
        serai := some (p.sdev, p.scell, p.seq) }
    let s := s.markSerai p.sdev p.scell p.seq (if det then 3 else 1)
    (s.post post true).delivered p.sdev p.rnd

/-- An RLOAD, RSTORE or RAMO whose turn it is is issued to its home, which is its delivery (R311, R315). -/
def State.issueBuiltin (s : State) (p : Packet) : State :=
  match s.findSerai p.sdev p.scell with
  | some f => if f.waits p.seq then (s.markSerai p.sdev p.scell p.seq 4).delivered p.sdev p.rnd else s
  | none => s

/-- The serai hands on what it can of a flow: user-class messages, in order, up to one that waits at the port; a built-in access
is issued when its turn comes, and what follows it is admitted without waiting for it, but for the next built-in access (R311). -/
def State.seraiRun (s : State) (sdev scell : Nat) : Nat → State
  | 0 => s
  | fuel + 1 =>
    let s := match (s.findSerai sdev scell).bind Serai.turn with
      | some p => if p.cls ≤ 2 then s.issueBuiltin p else s
      | none => s
    match (s.findSerai sdev scell).bind Serai.admits with
    | some p => (s.handOn p).seraiRun sdev scell fuel
    | none => s

/-- A message of a flow is freed: a slot return, and the flow goes on (R311, R312). -/
def State.seraiFree (s : State) (sdev scell seq : Nat) : State :=
  let s := (s.markSerai sdev scell seq 2).slotReturn sdev scell
  s.seraiRun sdev scell 64

end Sys2Proof.Machine
end

