-- ==== Sys2Proof/Machine/Deliver.lean ====
section
/-! DEFINITION. The bounce ring, payload placement and admission (R30, R31, R58, R255, R306, R317, R349). -/
namespace Sys2Proof.Machine

/-! ### Bounce rings (R255, log 20) -/

/-- A ring's header: HEAD, TAIL, SIZE. -/
def State.ringHead (s : State) (va : Nat) : Option (Nat × Nat × Nat) := do
  let h ← s.vaRead va 8
  let t ← s.vaRead (va + 8) 8
  let n ← s.vaRead (va + 16) 8
  pure (h, t, n)

/-- The VA of the ring's `i`-th entry counted without end; the first place of the ring is its header. -/
def ringSlot (va size i : Nat) : Nat := va + 128 * (1 + i % (size - 1))

/-- A ring entry: logical cell, space (1 local, 2 window), length, address, data (R255). -/
def ringEntry (lcell space addr : Nat) (data : List Byte) : Nat :=
  lcell % 65536 + 2 ^ 16 * space + 2 ^ 24 * data.length + 2 ^ 32 * (addr % 2 ^ 32) + 2 ^ 256 * ofBytes data

/-- A string cut into pieces of at most 96 bytes, each with its offset. -/
def pieces : Nat → Nat → List Byte → List (Nat × List Byte)
  | 0, _, _ => []
  | fuel + 1, off, l => if l.isEmpty then [] else (off, l.take 96) :: pieces fuel (off + 96) (l.drop 96)

/-- A plain write to an absent logical cell's rows goes to its ring; none while the ring has no room (R255). -/
def State.bounceWrite (s : State) (lcell : Nat) (window : Bool) (addr : Nat) (data : List Byte) : Option State := do
  let va ← look? s.bounce lcell
  let (h, t, size) ← s.ringHead va
  let ps := pieces data.length 0 data
  if size < 2 ∨ size - 1 < t - h + ps.length then none
  else
    let space := if window then 2 else 1
    let step (st : Option (State × Nat)) (p : Nat × List Byte) : Option (State × Nat) := do
      let (s, t) ← st
      let s' ← s.vaWrite (ringSlot va size t) 128 (ringEntry lcell space (addr + p.1) p.2)
      pure (s', t + 1)
    let (s', t') ← ps.foldl step (some (s, t))
    s'.vaWrite (va + 8) 8 t'

/-- A row byte of a logical cell as it is mapped, the bounce table apart; none when it is not backed. -/
def State.rowAddr (s : State) (lcell : Nat) (window : Bool) (addr : Nat) : Option (Nat × Nat) :=
  match s.rowsOfLcell lcell window with
  | some (c, base, n) =>
    if addr / 128 < n ∧ base + addr / 128 < s.rowsOf c then some (c, base * 128 + addr) else none
  | none => none

/-- Bytes written to a logical cell's rows one by one; a byte that no row backs is not written. -/
def State.rowBytes (s : State) (lcell : Nat) (window : Bool) : Nat → List Byte → State
  | _, [] => s
  | addr, b :: r =>
    let s' := match s.rowAddr lcell window addr with
      | some (c, a) => s.padWrite c a 1 b.toNat
      | none => s
    s'.rowBytes lcell window (addr + 1) r

/-- An entry applied to the rows it names. -/
def State.applyEntry (s : State) (e : Nat) : State :=
  s.rowBytes (bits e 0 16) (bits e 16 8 == 2) (bits e 32 32) (toBytes (min (bits e 24 8) 96) (e / 2 ^ 256))

/-- The entries of a ring applied to the rows in ring order (R254, R255). -/
def State.applyRing (s : State) (va size : Nat) : Nat → Nat → State
  | 0, _ => s
  | n + 1, i =>
    let s' := match s.vaRead (ringSlot va size i) 128 with
      | some e => s.applyEntry e
      | none => s
    s'.applyRing va size n (i + 1)

/-- The bounce entry of a logical cell is applied and removed (R254, R255). -/
def State.bounceApply (s : State) (lcell : Nat) : State :=
  match look? s.bounce lcell with
  | none => s
  | some va =>
    let s := { s with bounce := del s.bounce lcell }
    match s.ringHead va with
    | some (h, t, size) =>
      let s' := s.applyRing va size (t - h) h
      (s'.vaWrite va 8 t).getD s'
    | none => s

/-! ### Rings in another module's memory (R219, R255, log 20) -/

/-- Some page of the ring at `va` lies in another module's memory. -/
def State.ringAway (s : State) (va : Nat) : Bool :=
  s.away va || (match s.ringHead va with
    | some (_, _, n) => (List.range (min n 65536 / 32)).any fun i => s.away (va + 4096 * (i + 1))
    | none => false)

/-- The number of the port's work on the ring of logical cell `l`, a new one at its first step. -/
def State.ringId (s : State) (l : Nat) : Nat × State :=
  match look? s.ringWork l with
  | some id => (id, s)
  | none => (s.nextId, { s with ringWork := put s.ringWork l s.nextId, nextId := s.nextId + 1 })

/-- `n` bytes (8 or 16) of the ring of logical cell `l`, read for the work `id` on that cell's flow. -/
def State.ringGet (s : State) (l id va n : Nat) : Reach Nat :=
  match s.engine va false, s.away va with
  | some (.at ⟨.remote dev pa, key, chk⟩), true =>
    let op : AccOp := .vload 0 n (2 ^ n - 1)
    match s.inflight.find? fun a => a.unit == some id && a.va == va && a.op == op with
    | some a => match a.phase with
      | .done v _ => .got v s
      | .failed c => .fail (statusOf c)
      | _ => .wait none
    | none => if !s.reaches dev then .fail 5 else .wait (s.unitSend ⟨id, 0, 0, l, none⟩ va key dev pa op chk)
  | _, _ => match s.vaRead va n with
    | some x => .got x s
    | none => .fail 2

/-- `n` bytes (8 or 16) of that ring written. -/
def State.ringPut (s : State) (l id va n x : Nat) : Option State :=
  match s.engine va true, s.away va with
  | some (.at ⟨.remote dev pa, key, chk⟩), true =>
    if !s.reaches dev then none else s.unitSend ⟨id, 0, 0, l, none⟩ va key dev pa (.vstore 0 n (2 ^ n - 1) x) chk
  | _, _ => s.vaWrite va n x

/-- The 16-byte units of an entry, with their places in it. -/
def entryUnits (e : Nat) : List (Nat × Nat) := (List.range 8).map fun j => (16 * j, e / 2 ^ (128 * j) % 2 ^ 128)

/-- The entry of these units. -/
def ofUnits : List Nat → Nat
  | [] => 0
  | u :: r => u % 2 ^ 128 + 2 ^ 128 * ofUnits r

/-- HEAD, TAIL and SIZE of that ring. -/
def State.ringHeader (s : State) (l id va : Nat) : Reach (Nat × Nat × Nat) :=
  (s.ringGet l id va 8).bind fun h s => (s.ringGet l id (va + 8) 8).bind fun t s => (s.ringGet l id (va + 16) 8).bind fun n s =>
    .got (h, t, n) s

/-- A step towards the entry of at most 96 bytes of a plain write in the ring of logical cell `l`, and how many bytes entered at
it: the header is read, then the entry and TAIL are written.  A ring found full, and a read that failed, are read again. -/
def State.bounceAway (s : State) (l : Nat) (window : Bool) (addr : Nat) (data : List Byte) : Option (State × Nat) := do
  let va ← look? s.bounce l
  let (id, s) := s.ringId l
  match s.ringHeader l id va with
  | .got (h, t, size) s =>
    if size < 2 ∨ size - 1 < t - h + 1 then some (s.unitClear id, 0)
    else
      let now := data.take 96
      let us := entryUnits (ringEntry l (if window then 2 else 1) addr now)
      let s1 ← us.foldlM (fun s u => s.ringPut l id (ringSlot va size t + u.1) 16 u.2) s
      let s2 ← s1.ringPut l id (va + 8) 8 (t + 1)
      some (s2.unitClear id, now.length)
  | .wait r => r.map fun s => (s, 0)
  | _ => if (s.unitFailed id).isSome then some (s.unitClear id, 0) else none

/-- A step of applying that ring: its first entry is read and applied and HEAD written; `got` when nothing is left in it or it
cannot be read, the bounce entry then being removed. -/
def State.applyAway (s : State) (l va : Nat) : Reach Unit :=
  let (id, s) := s.ringId l
  let ends (s : State) : Reach Unit :=
    if s.unitOpen id then .wait none
    else .got () { s.unitClear id with bounce := del s.bounce l, ringWork := del s.ringWork l }
  match s.ringHeader l id va with
  | .got (h, t, size) s =>
    if t ≤ h then ends s
    else match reachAll (fun s j => s.ringGet l id (ringSlot va size h + 16 * j) 16) s (List.range 8) with
      | .got us s => .wait (((s.applyEntry (ofUnits us)).ringPut l id va 8 (h + 1)).map fun s => s.unitClear id)
      | .wait r => .wait r
      | _ => ends s
  | .wait r => .wait r
  | _ => ends s

/-- A step of applying a logical cell's bounce entry and removing it, wherever its ring lies (R254, R255). -/
def State.bounceStep (s : State) (lcell : Nat) : Reach Unit :=
  match look? s.bounce lcell with
  | some va => if s.ringAway va then s.applyAway lcell va else .got () (s.bounceApply lcell)
  | none => .got () s

/-- What a plain write still has to enter when its first part has entered the ring. -/
def AccOp.rest : AccOp → Option AccOp
  | .vstore off n mask d =>
    if mask / 2 ^ off % 2 ^ n = 2 ^ n - 1 then none
    else (firstBelow n fun j => bit mask (off + j)).bind fun j =>
      let left := mask - 2 ^ (off + j)
      if left / 2 ^ off % 2 ^ n = 0 then none else some (.vstore off n left d)
  | _ => none

/-! ### Placement of a payload -/

/-- A post leaves the delivery path; the serai frees it if it came through one (R311). -/
def State.dropPost (s : State) (k : Nat) (p : Post) : State :=
  let s := { s with posts := removeAt s.posts k }
  match p.serai with
  | some (d, c, q) => s.seraiFree d c q
  | none => s

/-- A message whose payload range is not in the destination's private rows is not admitted: NACK 2 for
another module's, LOCALRANGE in ERRSUM for one of this module; the LIVE it added is taken back (R306, R349). -/
def State.rejectPayload (s : State) (k : Nat) (p : Post) : State :=
  let launch := p.msg.launch.toNat
  let s := if p.system then s else { s with records := s.records ++ [RecOp.liveSub (s.levelVa launch)] }
  let s := match p.serai with
    | some (d, c, q) => s.nack { Packet.none with sdev := d, scell := c, seq := q, cls := p.msg.cls.toNat } 2
    | none => match p.flow with
      | some (l, _) => s.recordError (s.launchOf l) 0x0F l
      | none => s
  s.dropPost k p

/-- Bytes of the payload of post `k` are written where its destination is now mapped, or all of it to the bounce ring;
none while it must wait (R58, R306, R349).  A payload is a set of events (R207): the event's `c` says how many bytes, 0 all
that are left. -/
def State.placePost (s : State) (k : Nat) (p : Post) : Option State :=
  match p.target with
  | .logical l =>
    let left := p.payload.drop p.count
    let now := if s.now.arg.c = 0 then left else left.take s.now.arg.c
    let done := { p with placed := left.length == now.length, count := p.count + now.length, held := false }
    match look? s.l2p l with
    | none => none
    | some c =>
      if (s.cell c).evac.isSome then none
      else if !s.payloadOk l p.msg.payaddr.toNat p.payload.length then some (s.rejectPayload k p)
      else
        let s' := { s with posts := replaceAt s.posts k done }
        if (look? s.bounce l).any s.ringAway then
          (s.bounceAway l false (p.msg.payaddr.toNat + p.count) left).map fun (t, m) =>
            { t with posts := replaceAt t.posts k { p with placed := m == left.length, count := p.count + m, held := p.held && m = 0 } }
        else if (look? s.bounce l).isSome then
          State.bounceWrite { s with posts := replaceAt s.posts k { done with placed := true } } l false (p.msg.payaddr.toNat + p.count) left
        else some (s'.rowBytes l false (p.msg.payaddr.toNat + p.count) now)
  | _ => none

/-! ### Admission (R31) -/

/-- Free inbox slots of a cell. -/
def Cell.freeSlots (c : Cell) : Nat := Config.inboxSlots - c.slots.length

/-- The lowest free inbox slot. -/
def Cell.freeSlot (c : Cell) : Option Nat := firstBelow Config.inboxSlots fun i => (look? c.slots i).isNone

/-- A message enters the inbox at the tail of its class's channel; CHAN is copied from the routine table (R30). -/
def Cell.enqueue (c : Cell) (m : Msg) : Cell :=
  match c.freeSlot with
  | none => c
  | some i =>
    let chan := if m.cls.toNat < 16 then 7 else (look {} c.routines m.cls.toNat).chan
    { c with
      slots := put c.slots i { m with chan := chan }
      queue := put c.queue chan.toNat (look [] c.queue chan.toNat ++ [i]) }

/-- A held DET message may be admitted: its receive round has ended, no message of the same cell with a
smaller key waits (R216, R317), and none that was held before it on its flow between modules, whatever its cell (R208).  One
sender's messages come in their order in its flow, or, within the module, as they were
sent. -/
def State.detReady (s : State) (k : Nat) (p : Post) : Bool :=
  match p.det with
  | none => true
  | some (d, c, i, r) =>
    let before (j : Nat) (q : Post) : Bool :=
      match q.det with
      | some (d', c', i', r') =>
        s.destCell q.target == s.destCell p.target &&
          (r' < r || (r' == r && (d' < d || (d' == d && (c' < c || (c' == c && if d = s.devidx.toNat then i' < i else j < k))))))
      | none => false
    let ahead (q : Post) : Bool := q.det.isSome && q.serai.isSome && q.serai.map (fun f => (f.1, f.2.1)) == p.serai.map (fun f => (f.1, f.2.1))
    r < s.rounds.next && !((s.posts.take k).any ahead) && !((List.range s.posts.length).any fun j => match s.posts[j]? with
      | some q => before j q
      | none => false)

/-- What orders the start of a post's handler beside its channel: its flow (R320, R351), and under DET its cell's
delivery windows (R216).  R216 orders the starts of one window; here a message of a later window, or of another launch with DET, waits
too for the starts of the cell's earlier windows (DESIGN CHOICE, log 12). -/
def State.startKeys (s : State) (n : Nat) (p : Post) : List Nat :=
  let flow := match p.serai, p.flow with
    | some (d, c, _), _ => [2 * (d + 512 * c)]
    | none, some (c, l) => [2 * (s.devidx.toNat + 512 * (c + 0x40000 * (l + 1))) ]
    | none, none => []
  flow ++ (if p.det.isSome then [2 * n + 1] else [])

/-- Post `k` has nothing to wait for on its own path: its accesses are performed, and no earlier message of its
flow is still waiting (R208, R351). -/
def State.pathClear (s : State) (k : Nat) (p : Post) : Bool :=
  !(p.after.any s.pendingAccess) &&
  (p.flow.isNone || !((s.posts.take k).any fun q => q.flow == p.flow))

/-- One step of post `k` towards cell `n`'s inbox: a void message is discarded, a payload is placed, then the
message is admitted while enough slots are free (R31, R46, R58, R306). -/
def State.takeIn (s : State) (n k : Nat) : Option State := do
  let p ← s.posts[k]?
  if !s.pathClear k p then none
  else match p.gate with
  | .pending _ => none
  | .void => some (s.dropPost k p)
  | .clear =>
    if s.destCell p.target ≠ some n then none
    else if !p.placed && !p.payload.isEmpty then (if p.held then none else s.placePost k p)
    else if !s.detReady k p then none
    else
      let c := s.cell n
      if c.freeSlots < (if p.msg.lb then 1 else 5) then none
      else
        let keys := s.startKeys n p
        let s := s.setCell n { c.enqueue p.msg with received := c.received + 1 }
        let s := match c.freeSlot with
          | some i => if keys.isEmpty then s else { s with unstarted := s.unstarted ++ [(n * 64 + i, keys)] }
          | none => s
        some (s.dropPost k p)

/-- MESSAGE_ADMISSION (R31). -/
def execMessageAdmission (s : State) := event s (s.takeIn s.now.arg.a s.now.arg.b)

/-- MAPPING_VALID_DELIVERY: post `a`, held for an invalid entry, is placed once the entry is valid (R58). -/
def execMappingValidDelivery (s : State) : Host.Outcome State Fault Refusal :=
  event s do
    let k := s.now.arg.a
    let p ← s.posts[k]?
    if !p.held || (s.destCell p.target).isNone || !s.pathClear k p then none
    else if p.placed || p.payload.isEmpty then
      some { s with posts := replaceAt s.posts k { p with held := false, placed := true } }
    else s.placePost k p

/-- The index of an access in flight. -/
def State.access (s : State) (id : Nat) : Option Access := s.inflight.find? (·.id == id)

/-- BOUNCE_RECEIVE: the plain write with id `a`, to an absent logical cell's rows, enters the ring in its turn (R211,
R255). -/
def execBounceReceive (s : State) : Host.Outcome State Fault Refusal :=
  event s do
    let a ← s.access s.now.arg.a
    match a.place, (if s.homeTurn a then a.phase else .parked) with
    | .away l w addr, .issued =>
      let parts ← match a.op with
        | .store n d => some [(0, toBytes n d)]
        | .vstore off n mask d =>
          if mask / 2 ^ off % 2 ^ n = 2 ^ n - 1 then some [(0, toBytes n (d / 256 ^ off))]
          else some (((List.range n).filter fun j => bit mask (off + j)).map fun j => (j, toBytes 1 (d / 256 ^ (off + j))))
        | _ => none
      let entered (s : State) : State := State.pumpAll { s with inflight := s.inflight.filter (·.id != a.id) }
      if (look? s.bounce l).any s.ringAway then
        match parts with
        | [] => pure (entered s)
        | p :: _ =>
          let (t, m) ← s.bounceAway l w (addr + p.1) p.2
          if m = 0 then pure t
          else match a.op.rest with
            | some op => pure (t.setAccess { a with op := op })
            | none => pure (entered t)
      else
        let s' ← parts.foldlM (fun s p => s.bounceWrite l w (addr + p.1) p.2) s
        pure (entered s')
    | _, _ => none

end Sys2Proof.Machine
end

