-- ==== Sys2Proof/Machine/Sched.lean ====
section
/-! DEFINITION. Dispatch, the overflow routine and UNBOUND, joins at their home, cancels and deadlines,
NEAR and STEAL placement (R28-R57, R243-R250). -/
namespace Sys2Proof.Machine

/-! ### Channel heads (R35-R38) -/

/-- The routine-table entry of a class; classes 0-15 read as bound, on channel 7 (R34). -/
def Cell.routine (c : Cell) (cls : Nat) : Routine :=
  if cls < 16 then { chan := 7, bound := true } else look {} c.routines cls

/-- The bottom entry of the deque, once it may be admitted. -/
def Cell.bottom (s : State) (c : Cell) : Option Msg :=
  match c.deque with
  | p :: _ => if p.gate = .clear && !(p.after.any s.pendingAccess) then some p.msg else none
  | [] => none

/-- The head of a channel: the deque's bottom when its class has this channel, else the first slot (R37). -/
def Cell.head (s : State) (c : Cell) (ch : Nat) : Option (Option Nat × Msg) :=
  match Cell.bottom s c with
  | some m => if (c.routine m.cls.toNat).chan.toNat = ch then some (none, m) else slotHead
  | none => slotHead
where
  slotHead : Option (Option Nat × Msg) :=
    match look [] c.queue ch with
    | i :: _ => (look? c.slots i).map fun m => (some i, m)
    | [] => none

/-- A message that belongs to no launch: one on a system core (R408). -/
def launchless (n : Nat) : Bool := kindOf n == some .system

/-- The message's launch is cancelled (R51). -/
def State.doomed (s : State) (n : Nat) (m : Msg) : Bool :=
  !launchless n && s.cancelled (s.levelVa m.launch.toNat)

/-- No earlier message of the same flow, or of the same cell's delivery windows under DET, still waits to start
(R216, R351). -/
def State.startTurn (s : State) (n slot : Nat) : Bool :=
  match look? s.unstarted (n * 64 + slot) with
  | none => true
  | some keys => !((s.unstarted.takeWhile fun e => e.1 != n * 64 + slot).any fun e => e.2.any keys.contains)

/-- A channel is eligible: not empty, its head's class bound, its head not to be discarded (R37), and its head's turn in
its flow come (R351). -/
def State.eligible (s : State) (n ch : Nat) : Bool :=
  match Cell.head s (s.cell n) ch with
  | some (slot, m) => ((s.cell n).routine m.cls.toNat).bound && !s.doomed n m
      && (match slot with | some i => s.startTurn n i | none => true)
  | none => false

def State.noneEligible (s : State) (n : Nat) : Bool := !((List.range 8).any (s.eligible n))

/-- A head leaves its channel. -/
def Cell.take (c : Cell) (ch : Nat) : Option Nat → Cell
  | none => { c with deque := c.deque.tail }
  | some i => { c with slots := del c.slots i, queue := put c.queue ch ((look [] c.queue ch).filter (· != i)) }

/-- A head leaves its channel, and no later message waits for it. -/
def State.takeHead (s : State) (n : Nat) (c : Cell) (ch : Nat) (slot : Option Nat) : State :=
  let s := s.setCell n (c.take ch slot)
  match slot with
  | some i => { s with unstarted := del s.unstarted (n * 64 + i) }
  | none => s

/-- The end of a task that never ran, or was terminated: its join result 0 with ERR, its LIVE (R46, R51, R57). -/
def State.lostTask (s : State) (n : Nat) (m : Msg) : State :=
  let child := if m.jrec = 0 then [] else [RecOp.joinChild m.jrec.toNat m.jslot.toNat 0 true s.nextId]
  let live := if launchless n then [] else [RecOp.liveSub (s.levelVa m.launch.toNat)]
  { s with records := s.records ++ child ++ live }

/-- Heads of cancelled launches are discarded, at most `fuel` of them (R51). -/
def State.discardHeads (s : State) (n : Nat) : Nat → State
  | 0 => s
  | fuel + 1 =>
    match (List.range 8).findSome? fun ch => match Cell.head s (s.cell n) ch with
      | some (slot, m) => if s.doomed n m then some (ch, slot, m) else none
      | none => none with
    | some (ch, slot, m) => ((s.takeHead n (s.cell n) ch slot).lostTask n m).discardHeads n fuel
    | none => s

/-- Void entries of the deque's bottom are dropped (R46). -/
def dropVoid : List Post → List Post
  | p :: r => if p.gate = .void then dropVoid r else p :: r
  | [] => []

/-- The channel that dispatches: aged ones lowest first, then the highest (R37, R38). -/
def State.pick (s : State) (n : Nat) : Option Nat :=
  let c := s.cell n
  let el := (List.range 8).filter (s.eligible n)
  match el.find? fun ch => 4096 ≤ (c.passed[ch % 8]'(Nat.mod_lt _ (by decide))).toNat with
  | some ch => some ch
  | none => el.getLast?

/-- Passed-over counts at a dispatch from channel `ch`; a full count stays (R38). -/
def Cell.pass (c : Cell) (el : List Nat) (ch : Nat) : Cell :=
  (List.range 8).foldl (fun c j =>
    let h : j % 8 < 8 := Nat.mod_lt _ (by decide)
    let v := c.passed[j % 8]
    let v' := if j = ch then 0 else if el.contains j then (if v = 0x1FFF then v else v + 1) else v
    { c with passed := c.passed.set (j % 8) v' h }) c

/-! ### Task entry (R29, R408) -/

/-- A register whose entry value is not promised: zero, or what an earlier activation of the launch left,
as a bit of a free value says (R29, log 6). -/
def Ctx.unpromised (x : Ctx) (same : Bool) (f : Nat) : Ctx :=
  let keep (i : Nat) : Bool := same && bit f i
  let x := (List.range 32).foldl (fun (x : Ctx) j =>
    let h : j % 32 < 32 := Nat.mod_lt _ (by decide)
    { x with
      s := if keep j then x.s else x.s.set (j % 32) 0 h
      v := if keep (32 + j) then x.v else x.v.set (j % 32) 0 h }) x
  (List.range 8).foldl (fun (x : Ctx) j =>
    let h : j % 8 < 8 := Nat.mod_lt _ (by decide)
    { x with p := if keep (64 + j) then x.p else x.p.set (j % 8) 0 h }) x

/-- The registers that have a value at entry (R29). -/
def Ctx.enter (x : Ctx) (s2 : Word) (args : Vector Word 4) : Ctx :=
  { x with
    s := ((((((x.s.set 1 0).set 2 s2).set 4 args[0]).set 5 args[1]).set 6 args[2]).set 7 args[3]).set 0 0
    ls := (((x.ls.set 0 0).set 1 0).set 2 0), le := (((x.le.set 0 0).set 1 0).set 2 0)
    lc := (((x.lc.set 0 0).set 1 0).set 2 0), fflags := 0
    acts := x.acts + 1, prq := 0, dline := 0, sys := false, inTrap := 0, saving := false, lost := false, busy := true
    parked := false, ending := false, wait := .none, answers := [], pendingTrap := none, stepping := false
    debugStep := false, fence := [], following := false, stream := [], mixreads := [], stage := 0, ahead := [], again := [], storing := none
    join := none, tables := (x.tables.set 0 none).set 1 none, block := 0 }

/-- A task starts on context (n, k) from its message (R29, R39, R408).  CHANCLS shows the channel that the routine table
gives the class at dispatch, also where RTSET has changed it since admission (DESIGN CHOICE, log 12). -/
def State.startTask (s : State) (n k : Nat) (m : Msg) : State :=
  let c := s.cell n
  let r := c.routine m.cls.toNat
  let sysCore := launchless n
  let e : LaunchEntry := if sysCore then {} else look {} s.launches m.launch.toNat
  let id := if sysCore then none else some (m.launch.toNat, e.lid)
  let same := (s.ctx n k).lastLaunch == id
  let (f, s) := s.fresh
  let (token, s) := s.newId
  let host := c.hosted.find? (·.lcell == m.dest.toNat)
  let retained := !sysCore && e.replay
  s.modCtx n k fun x =>
    let x := x.unpromised same f
    let x := x.enter (if sysCore then 0x80000 else BitVec.ofNat 64 (e.prows.toNat * 128)) m.args
    { x with
      pc := r.entry
      frm := if 5 ≤ e.frm.toNat then 0 else e.frm
      jseed := e.jseed
      srctr := mix e.jseed m.path
      lcell := if sysCore then 0 else m.dest
      level := e.recva
      chancls := m.cls.zeroExtend 13 ||| (r.chan.zeroExtend 13 <<< 8) ||| ((BitVec.ofBool retained).zeroExtend 13 <<< 11)
        ||| ((BitVec.ofBool m.lb).zeroExtend 13 <<< 12)
      codebase := if sysCore then 0 else (host.map (·.base)).getD 0
      cwrows := e.wrows, prows := e.prows
      path := m.path
      launch := if sysCore then none else some m.launch
      jslot := m.jslot, jrec := m.jrec
      gen := r.gen
      retained := if retained then some m else none
      token := token
      lastLaunch := id }

/-- DISPATCH on cell `n` (R37, R39): cancelled heads are discarded, then the lowest free context takes the
head of the channel selected. -/
def State.dispatch (s : State) (n : Nat) : Option State :=
  if (s.cell n).still then none
  else
    let s := if (s.cell n).deque.isEmpty then s else s.setCell n { s.cell n with deque := dropVoid (s.cell n).deque }
    let s := s.discardHeads n 128
    match (List.range 3).find? (fun k => !(s.ctx n k).busy), s.pick n with
    | some k, some ch =>
      match Cell.head s (s.cell n) ch with
      | some (slot, m) =>
        let el := (List.range 8).filter (s.eligible n)
        let m := { m with chan := BitVec.ofNat 3 ch }
        let s := s.takeHead n ((s.cell n).pass el ch) ch slot
        some (s.startTask n k m)
      | none => some s
    | _, _ => some s

/-! ### Context 3 (R28, R31, R35) -/

/-- The cell starts context 3 at an address for a system activation of no launch; its registers keep what
they hold (log 17). -/
def State.startSystem (s : State) (n : Nat) (pc : CodeAddr) : State :=
  let (token, s) := s.newId
  s.modCtx n 3 fun x =>
    { x.enter 0 (Vector.replicate 4 0) with
      s := x.s, pc := pc, frm := 0, jseed := 0, path := 0, srctr := mix 0 0, lcell := 0, level := 0, chancls := 0, codebase := 0
      cwrows := 0, prows := 0, launch := none, jslot := 0, jrec := 0, gen := 0, retained := none, token := token }

/-- OVERFLOW_ROUTINE_START (R31). -/
def execOverflowRoutineStart (s : State) : Host.Outcome State Fault Refusal :=
  let n := s.now.arg.a
  let c := s.cell n
  event s (if c.still || 8 < c.freeSlots || (c.ctx 3).busy then none else some (s.startSystem n c.ovfvec))

/-- The strict unbound message that traps next: of the highest channel whose head is one; R35 does not say which of several
comes first (DESIGN CHOICE, log 12). -/
def State.strictHead (s : State) (n : Nat) : Option (Nat × Nat × Msg) :=
  let c := s.cell n
  (List.range 8).reverse.findSome? fun ch =>
    match Cell.head s c ch with
    | some (some i, m) =>
      let r := c.routine m.cls.toNat
      if !r.bound && r.strict && !s.doomed n m then some (ch, i, m) else none
    | _ => none

/-- The deque's bottom, a head of its class's channel too (R37), when its class is strict and unbound; it traps after the
inbox's, and takes the lowest free inbox slot for the time of the trap, as R35's and TRAPSTATE's slot (DEDUCED, log 32). -/
def State.strictBottom (s : State) (n : Nat) : Option (Nat × Msg) :=
  let c := s.cell n
  match Cell.bottom s c, c.freeSlot with
  | some m, some i =>
    let r := c.routine m.cls.toNat
    if !r.bound && r.strict && !s.doomed n m then some (i, { m with chan := r.chan }) else none
  | _, _ => none

/-- Context 3 traps UNBOUND for the message of a slot (R35, R243, R246). -/
def State.trapUnbound (s : State) (n : Nat) (c : Cell) (i : Nat) (m : Msg) : State :=
  let s := (s.setCell n { c with unbound := some i }).startSystem n c.trapvec
  s.modCtx n 3 fun x => { x with
    trapcause := causeUnbound, trapval := m.cls.zeroExtend 64, trappc := (c.ctx 3).pc
    trapstate := trapState true false true 0 i
    sys := true, inTrap := 1 }

/-- UNBOUND_TRAP: the message leaves its channel or the deque, keeps its slot, and context 3 traps (R35, R246). -/
def execUnboundTrap (s : State) : Host.Outcome State Fault Refusal :=
  let n := s.now.arg.a
  let c := s.cell n
  event s (if c.still || (c.ctx 3).busy then none
    else match s.strictHead n, s.strictBottom n with
    | some (ch, i, m), _ => some (s.trapUnbound n { c with queue := put c.queue ch ((look [] c.queue ch).filter (· != i)) } i m)
    | none, some (i, m) => some (s.trapUnbound n { c with deque := c.deque.tail, slots := put c.slots i m } i m)
    | none, none => none)

/-- TRAP_ENTRY on context (a, b), whose results have returned (R243). -/
def execTrapEntry (s : State) : Host.Outcome State Fault Refusal :=
  let n := s.now.arg.a
  let k := s.now.arg.b
  event s (match (s.ctx n k).pendingTrap with
    | some (cause, val) => if s.owedAtTrap n k then none else some (s.enterTrap n k cause val)
    | none => none)

/-- FOLLOW_ENGAGE: the leader has issued the named address, and the follower executes its stream (R43). -/
def execFollowEngage (s : State) : Host.Outcome State Fault Refusal :=
  let n := s.now.arg.a
  let k := s.now.arg.b
  event s (match (s.ctx n k).wait with
    | .follow _ => if (s.ctx n k).following then some (s.modCtx n k fun x => { x with wait := .none }) else none
    | _ => none)

/-! ### Joins at their home (R57, R116) -/

/-- The record an update is for. -/
def RecOp.record : RecOp → Nat
  | .joinChild v .. => v
  | .joinClose v .. => v
  | .liveAdd v _ => v
  | .liveSub v => v

/-- JOIN's writes of a record, on their way or withdrawn by a forced save, that come before an update with a stamp
(R115). -/
def State.joinWrites (s : State) (va stamp : Nat) : Bool :=
  s.unperformed fun a => (a.va == va || a.va == va + 8) && a.id < stamp && (match a.op with | .record .. => true | _ => false)

/-- The record operation of index `k` is the first of its record, and JOIN's writes that come before it are done. -/
def State.recordTurn (s : State) (k va : Nat) : Bool :=
  !((s.records.take k).any fun o => o.record == va) &&
  !(match s.records[k]? with
    | some (.joinChild _ _ _ _ st) => s.joinWrites va st
    | some (.joinClose _ _ st) => s.joinWrites va st
    | _ => false)

/-- The join fires when it is closed and every child has ended: a direct message to the cell that executed
JOIN (R57, R116). -/
def State.joinFire (s : State) (va : Nat) : State :=
  match s.vaRead va 8, s.vaRead (va + 8) 8, s.joins.find? (·.va == va) with
  | some j, some arg, some h =>
    if bits j 0 16 ≠ 0xFFFF ∧ bits j 0 16 = bits j 16 16 then
      let (f, s) := s.fresh
      let args := (((Vector.replicate 4 (0 : Word)).set 0 (BitVec.ofNat 64 va)).set 1 (BitVec.ofNat 64 (bits j 0 16))
        |>.set 2 (BitVec.ofNat 64 arg)).set 3 (BitVec.ofNat 64 h.errs)
      let m : Msg := { cls := BitVec.ofNat 8 (bits j 32 8), place := 3, launch := BitVec.ofNat 12 h.launch
                       dest := BitVec.ofNat 16 h.lcell, path := h.path, args := args
                       srcpcell := BitVec.ofNat 17 f, srcdev := s.devidx }
      ({ s with joins := s.joins.erase h }).post { msg := m, target := .logical h.lcell } false
    else s
  | _, _, _ => s

/-- A child's end: result, NDONE and ERR in one update (R57). -/
def State.joinChild (s : State) (va slot value : Nat) (err : Bool) : Option State := do
  let j ← s.vaRead va 8
  let s ← s.vaWrite (va + 16 + 8 * slot) 8 value
  let j' := j - bits j 16 16 * 2 ^ 16 + (bits j 16 16 + 1) % 2 ^ 16 * 2 ^ 16
  let s ← s.vaWrite va 8 (if err then j' ||| 2 ^ 40 else j')
  -- the record is the oldest join's of its VA
  let s := match s.joins.find? (·.va == va) with
    | some h => if err then { s with joins := replaceAt s.joins (s.joins.idxOf h) { h with errs := h.errs + 1 } } else s
    | none => s
  pure (s.joinFire va)

/-- The close writes NCHILD (R116). -/
def State.joinClose (s : State) (va count : Nat) : Option State := do
  let j ← s.vaRead va 8
  let s ← s.vaWrite va 8 (j - bits j 0 16 + count % 2 ^ 16)
  pure (s.joinFire va)

def execJoinChildUpdate (s : State) : Host.Outcome State Fault Refusal :=
  let k := s.now.arg.a
  event s (match s.records[k]? with
    | some (.joinChild va slot value err _) =>
      if s.recordTurn k va then State.joinChild { s with records := removeAt s.records k } va slot value err else none
    | _ => none)

def execJoinCloseUpdate (s : State) : Host.Outcome State Fault Refusal :=
  let k := s.now.arg.a
  event s (match s.records[k]? with
    | some (.joinClose va count _) =>
      if s.recordTurn k va then State.joinClose { s with records := removeAt s.records k } va count else none
    | _ => none)

/-! ### Cancels and deadlines (R49, R50, R248, R249) -/

/-- PRQ is raised with a deadline; a shorter one that is already running stays (R248). -/
def Ctx.request (x : Ctx) (bits2 : BitVec 2) (d : BitVec 32) : Ctx :=
  { x with prq := x.prq ||| bits2, dline := if x.dline ≠ 0 ∧ x.dline.toNat < d.toNat then x.dline else d }

/-- PRQ on every running task of a launch; a deadline of none is each cell's DLDEF. -/
def State.requestAll (s : State) (launch : Nat) (bits2 : BitVec 2) (d : Option (BitVec 32)) : State :=
  { s with cells := s.cells.map fun e =>
      (e.1, e.2.mapCtxs fun x =>
        if x.busy && x.launch == some (BitVec.ofNat 12 launch) then x.request bits2 (d.getD e.2.dldef) else x) }

/-- A record lies beneath another: PARENT pointers lead to it (R45). -/
def State.beneath (s : State) (top : Nat) : Nat → Nat → Bool
  | 0, _ => false
  | fuel + 1, va =>
    match s.vaRead (va + 40) 8 with
    | some p => p != 0 && (p == top || s.beneath top fuel p)
    | none => false

/-- A launch's PHASE has not flipped: it is live (R46). -/
def State.liveLaunch (s : State) (va : Nat) : Bool :=
  match s.vaRead va 16 with
  | some x => (PhaseWord.ofNat x).gen == 0
  | none => false

/-- CANCEL_PROPAGATE: the oldest cancelled record; its launches' tasks get PRQ, and every live launch beneath
it is cancelled (R49, R50). -/
def execCancelPropagate (s : State) : Host.Outcome State Fault Refusal :=
  event s (match s.cancels with
    | va :: rest =>
      let s := { s with cancels := rest }
      some (s.launches.foldl (fun s e =>
        if e.2.recva.toNat = va then s.requestAll e.1 2 none
        else if s.beneath va 4 e.2.recva.toNat && s.liveLaunch e.2.recva.toNat && !s.cancelled e.2.recva.toNat then s.cancelRecord e.2.recva.toNat
        else s) s)
    | [] => none)

/-- The message of a running activation, as far as its end needs it. -/
def Ctx.ended (x : Ctx) : Msg := { jrec := x.jrec, jslot := x.jslot, launch := x.launch.getD 0 }

/-- DLINE_EXPIRY on context (a, b): a cancelled task is terminated, another is to be saved; in system mode
the action waits for the ERET (R50, R249). -/
def execDlineExpiry (s : State) : Host.Outcome State Fault Refusal :=
  let n := s.now.arg.a
  let k := s.now.arg.b
  let x := s.ctx n k
  event s (
    if !x.busy || x.prq = 0 || x.dline ≠ 0 || x.ending || x.saving || (s.cell n).still || s.sysMode n k then none
    else if bit x.prq.toNat 1 then some ((s.endUpdates n k 0 true).freeCtx n k)
    else some ((s.releaseFollowers n k).modCtx n k fun x =>
      { x with saving := true, following := false, stream := [], wait := match x.wait with | .follow _ => .none | w => w }))

/-! ### NEAR (R54) and STEAL (R56) -/

/-- The site of logical cluster (x, y) (R409, log 11). -/
def State.siteOf (s : State) (x y : Nat) : Option Nat :=
  match s.sites.find? (·.2 == 64 * y + x) with
  | some e => some e.1
  | none => if (look? s.sites (64 * y + x)).isNone then some (64 * y + x) else none

/-- Rows of every logical cell a cell hosts (R59). -/
def Cell.hostedRows (c : Cell) : Nat := (c.hosted.map fun h => h.w + h.p).foldl (· + ·) 0

/-- A cell takes a NEAR task of a launch: the logical cell it takes it as (R54).  Of several logical cells of the launch that it
hosts it is the first in their stacking order (DESIGN CHOICE, log 12). -/
def State.nearFit (s : State) (n launch : Nat) : Option Nat :=
  let c := s.cell n
  match c.hosted.find? (·.launch == launch) with
  | some h =>
    if (List.range 3).any (fun k => !(c.ctx k).busy) && s.noneEligible n && c.hostedRows ≤ s.rowsOf n then some h.lcell else none
  | none => none

/-- The lowest cell of a cluster that takes the task. -/
def State.nearCell (s : State) (x y launch : Nat) : Option (Nat × Nat) := do
  let site ← s.siteOf x y
  (List.range 16).findSome? fun j => (s.nearFit (site * 16 + j) launch).map fun l => (site * 16 + j, l)

/-- A task is placed on a cell as the launch's logical cell there; from then on its table entry routes it (R58).  Under DET it
joins the window of receive round `open'`, or that of its stamp where that is later (R216; DEDUCED, log 22). -/
def Post.settle (p : Post) (lcell open' : Nat) : Post :=
  { p with
    target := .logical lcell, msg := { p.msg with dest := BitVec.ofNat 16 lcell }
    det := p.det.map fun (d, c, i, r) => (d, c, i, max r open') }

/-- NEAR_PLACEMENT of post `a`: placed at its cluster, or queued at the hint, or one hop on (R54). -/
def execNearPlacement (s : State) : Host.Outcome State Fault Refusal :=
  event s do
    let k := s.now.arg.a
    let p ← s.posts[k]?
    match p.target, p.gate with
    | .near x y hx hy r, .clear =>
      if !s.pathClear k p then none
      else
        let dist := (max x hx - min x hx) + (max y hy - min y hy)
        match (if dist ≤ r then s.nearCell x y p.msg.launch.toNat else none) with
        | some (_, l) => some { s with posts := replaceAt s.posts k (p.settle l s.rounds.next) }
        | none =>
          if x = hx ∧ y = hy then
            let q := look [] s.near (64 * y + x)
            if q.length < 32 then
              some { s with posts := removeAt s.posts k, near := put s.near (64 * y + x) (q ++ [p]) }
            else none
          else
            let x' := if x < hx then x + 1 else if hx < x then x - 1 else x
            let y' := if x ≠ hx then y else if y < hy then y + 1 else y - 1
            some { s with posts := replaceAt s.posts k { p with target := .near x' y' hx hy r } }
    | _, _ => none

/-- NEAR_QUEUE_TAKE: cell `a` takes the first task of its cluster's queue that it qualifies for (R54). -/
def execNearQueueTake (s : State) : Host.Outcome State Fault Refusal :=
  event s do
    let n := s.now.arg.a
    let (x, y) := s.clusterXY n
    let q := look [] s.near (64 * y + x)
    let j ← firstBelow q.length fun j => match q[j]? with
      | some p => (s.nearFit n p.msg.launch.toNat).isSome
      | none => false
    let p ← q[j]?
    let l ← s.nearFit n p.msg.launch.toNat
    pure { s with near := put s.near (64 * y + x) (removeAt q j), posts := s.posts ++ [p.settle l s.rounds.next] }

/-- The victim's logical cell at an attempt (R56). -/
def victim (e : LaunchEntry) (n attempt : Nat) : Nat :=
  let h := (mix e.lid (BitVec.ofNat 64 (n + 2 ^ 32 * attempt))).toNat / 2 ^ 32
  e.lbase.toNat + h * e.lcount.toNat / 2 ^ 32

/-- STEAL_REQUEST: cell `a`, idle in the launch of its hosted logical cell of index `b`, asks the next victim
(R56). -/
def execStealRequest (s : State) : Host.Outcome State Fault Refusal :=
  event s do
    let n := s.now.arg.a
    let c := s.cell n
    let h ← c.hosted[s.now.arg.b]?
    if c.still || c.steal.asked.isSome || c.steal.waiting || !((List.range 3).any fun k => !(c.ctx k).busy)
      || !s.noneEligible n then none
    else
      let v := victim (look {} s.launches h.launch) n c.steal.attempt
      pure (s.setCell n { c with steal := { c.steal with asked := some v, launch := h.launch, attempt := c.steal.attempt + 1 } })

/-- STEAL_VICTIM_REPLY to thief `a`: the victim's oldest entry of the launch, or empty and a wait that
doubles (R56). -/
def execStealVictimReply (s : State) : Host.Outcome State Fault Refusal :=
  event s do
    let n := s.now.arg.a
    let c := s.cell n
    let v ← c.steal.asked
    let answered := { c.steal with asked := none }
    let empty := s.setCell n { c with steal := { answered with waiting := true } }
    let top := (look? s.l2p v).bind fun vc => ((s.cell vc).deque.getLast?).map fun p => (vc, p)
    match top, c.hosted.find? (·.launch == c.steal.launch) with
    | some (vc, p), some h =>
      if p.msg.launch.toNat ≠ c.steal.launch || p.gate ≠ .clear
        || p.after.any s.pendingAccess then some empty
      else
        let s := s.modCell vc fun c => { c with deque := c.deque.dropLast }
        let s := s.modCell n fun c => { c with steal := { answered with backoff := 64 } }
        if s.doomed vc p.msg && (s.cell vc).deque.isEmpty then some (s.lostTask vc p.msg)
        else some { s with posts := s.posts ++ [p.settle h.lcell s.rounds.next] }
    | _, _ => some empty

/-- STEAL_BACKOFF_EXPIRY: thief `a`'s wait is over; the next one is twice as long, up to 4,096 (R56). -/
def execStealBackoffExpiry (s : State) : Host.Outcome State Fault Refusal :=
  let n := s.now.arg.a
  let c := s.cell n
  event s (if c.steal.waiting then
      some (s.setCell n { c with steal := { c.steal with waiting := false, backoff := min 4096 (2 * c.steal.backoff) } })
    else none)

end Sys2Proof.Machine
end

