-- ==== Sys2Proof/Machine/VecMem.lean ====
section
/-! DEFINITION. Vector loads and stores (R226, R227). -/
namespace Sys2Proof.Machine

/-- The active bytes of a register under a predicate, as a 16-bit mask (R226). -/
def activeBytes (q : Pred) (y : BitVec 3) : Nat :=
  let eb := elemBytes y
  packElems 1 ((List.range 16).map fun b => (bit q.toNat (b - b % eb)).toNat)

/-- The single-copy-atomic parts of a vector access at `ea`: (offset, bytes).  An aligned access is one
16-byte unit; an unaligned one is one part per element (R227). -/
def vecParts (ea eb mask : Nat) : List (Nat × Nat) :=
  let parts := if ea % 16 = 0 then [(0, 16)] else (List.range (16 / eb)).map fun i => (i * eb, eb)
  parts.filter fun p => mask / 2 ^ p.1 % 2 ^ p.2 != 0

/-- The lowest active byte of a part. -/
def firstActive (mask off n : Nat) : Nat := ((List.range n).find? fun j => bit mask (off + j)).getD 0 + off

/-- Where a global vector access stands after its checks. -/
inductive VecReady where
  /-- Every active byte translates: the home of each part. -/
  | at (homes : List Located)
  /-- A granule has no translation: the access parks as a whole (R226). -/
  | park
  /-- A replay has denied it (R196). -/
  | denied

/-- Checks of a global vector access (R222, R226): PERM and translation of every active byte, lowest first.  A part is
an aligned unit or one element, so its first active byte stands for it.  An active byte whose address ea + b is 2^64 or more
traps PERM too, with the address modulo 2^64 in TRAPVAL (DESIGN CHOICE, log 42). -/
def State.vecCheck (s : State) (write : Bool) (mask ea : Nat) : List (Nat × Nat) → Except Stop VecReady
  | [] => .ok (.at [])
  | p :: r => do
    let va := ea + firstActive mask p.1 p.2
    if 2 ^ 60 ≤ va then .error (.trap causePerm (BitVec.ofNat 64 va))
    else if s.granuleHeld va then .error s.notReady
    else match s.translate va write with
      | .perm => .error (.trap causePerm (BitVec.ofNat 64 va))
      | .miss => .error (.wait (s.missOn va write))
      | .bad => .error .hold
      | .park => do
        let _ ← s.vecCheck write mask ea r
        .ok .park
      | .denied => do
        let _ ← s.vecCheck write mask ea r
        .ok .denied
      | .at l => do
        match ← s.vecCheck write mask ea r with
        | .at ls => .ok (.at (l :: ls))
        | t => .ok t

/-- The same; while it and the accesses that await translation would be more than 64, one that misses is not ready (R250). -/
def State.vecReady (s : State) (write : Bool) (mask ea : Nat) (parts : List (Nat × Nat)) : Except Stop VecReady :=
  match s.vecCheck write mask ea parts with
  | .error (.wait t) => if 64 < s.awaiting + parts.length then .error .hold else .error (.wait t)
  | r => r

/-- The other page that the active bytes of a vector reach, for a part in one of them (R226). -/
def otherPage (ea mask off : Nat) : Option Nat :=
  (((List.range 16).filter (bit mask)).find? fun j => (ea + j) / 4096 != (ea + off) / 4096).map (ea + ·)

/-- The home of a part's first byte, from that of its first active one. -/
def Located.back (l : Located) (n : Nat) : Place :=
  match l.place with
  | .hbm a => .hbm (a - n)
  | .host c a => .host c (a - n)
  | .remote c a => .remote c (a - n)
  | p => p

/-- Bytes of an element of the register that an LDV loads; the result of any other access is one lane (R41, R170). -/
def grainOf : Instr → Nat
  | .ldv _ _ _ _ _ y => elemBytes y
  | _ => 16

/-- The part of a vector access as an access of its own (R227). -/
def vecAccess (i : Instr) (s : State) (q : Pred) (mask ea : Nat) (mk : Nat → Nat → AccOp) (dest : Dest) (p : Nat × Nat) : Access :=
  { Access.of (ea + p.1) (.hbm 0) (mk p.1 p.2) dest with
    word := value i s.now.sw, pred := q.toNat &&& ((2 ^ p.2 - 1) * 2 ^ p.1)
    data := (match mk p.1 p.2 with | .vstore _ _ _ d => d | _ => 0), second := otherPage ea mask p.1, grain := grainOf i }

/-- A global vector access: its checks, then one access for each part, all of them or none (R223, R226, R227, R250). -/
def vecGlobal (i : Instr) (write : Bool) (q : Pred) (mask ea : Nat)
    (mk : Nat → Nat → AccOp) (dest : Dest) (parts : List (Nat × Nat)) (s : State) : Except Stop State := do
  let acc := vecAccess i s q mask ea mk dest
  if write && 32 < s.storesOut + parts.length then .error .hold
  else match ← s.vecReady write mask ea parts with
    | .denied => .ok (parts.foldl (fun t p => t.refused (acc p)) s)
    | .park =>
      -- a part stands with its own page's slice, or with the other's when that alone has no translation
      let at' (p : Nat × Nat) : Nat :=
        let va := ea + firstActive mask p.1 p.2
        match s.translate va write, otherPage ea mask p.1 with
        | .park, _ => va
        | _, some b => b
        | _, none => va
      if 64 < s.awaiting + parts.length || parts.any (fun p => !s.parkRoom (at' p) parts.length) then .error s.notReady
      else .ok (parts.foldl (fun t p => t.parkAt (at' p) (acc p)) s)
    | .at homes =>
      (parts.zip homes).foldlM (fun (t : State) ph =>
        let p := ph.1
        match t.send { acc p with place := ph.2.back (firstActive mask p.1 p.2 - p.1), key := ph.2.key, chk := ph.2.chk } with
        | some t' => .ok t'
        | none => .error .hold) s

/-- The places of the active bytes of a local or window vector access, lowest first. -/
def vecPlaces (s : State) (window : Bool) (ea : Nat) (bs : List Nat) : Except Stop (List (Nat × Place)) :=
  bs.mapM fun b =>
    match (if window then s.windowPlace (ea + b) else s.localPlace (ea + b)) with
    | none => .error (.trap causeLocalrange (BitVec.ofNat 64 (ea + b)))
    | some p => .ok (b, p)

/-- Bytes whose bit of a mask is set. -/
def maskBytes (mask : Nat) : List Nat := (List.range 16).filter (bit mask)

/-- The bytes of `bs` taken into a register: their lanes from their places, the others kept. -/
def State.takeBytes (s : State) (d : Reg) (ps : List (Nat × Place)) (bs : List Nat) : State :=
  let old := (s.v d).toNat
  let new := (List.range 16).map fun j =>
    match (if bs.contains j then ps.find? (·.1 == j) else none) with
    | some (_, .pad c ad) => s.padRead c ad 1
    | _ => bits old (8 * j) 8
  s.setVLanes d (BitVec.ofNat 128 (packElems 8 new)) (packElems 1 ((List.range 16).map fun j => (bs.contains j).toNat))

/-- The home of a part of a local or window vector access, from that of its first active byte: a part lies in one row. -/
def vecPartPlace (s : State) (window : Bool) (ea mask : Nat) (p : Nat × Nat) : Option Place :=
  let j := firstActive mask p.1 p.2
  match (if window then s.windowPlace (ea + j) else s.localPlace (ea + j)) with
  | some (.pad c ad) => some (.pad c (ad - (j - p.1)))
  | some (.away l w ad) => some (.away l w (ad - (j - p.1)))
  | o => o

/-- A part of a local or window load goes on its way, with what its lane holds at issue (log 16). -/
def State.vecFly (s t : State) (window : Bool) (ea mask eb : Nat) (d : Reg) (p : Nat × Nat) : State :=
  match vecPartPlace s window ea mask p with
  | some pl => t.enter { Access.of (ea + p.1) pl (.vload p.1 p.2 (mask / 2 ^ p.1 % 2 ^ p.2)) (.v d) with
      grain := eb, locked := true, seen := (s.placeRead pl 0 p.2).map fun r => r.1 * 256 ^ p.1 }
  | none => t

/-- LDV (R226).  A local or window form takes its bytes at once, or where `late` says so by one access for each part, on its way to
its home, the register untouched until all are back; the parts of one home unit come in ascending order (R207, R209, R217, R227,
logs 13 and 16). -/
def ldvBody (i : Instr) (d a b : Reg) (p : Fin 8) (n y : BitVec 3) : Body := fun s => do
  let ea := (s.s a + wrap (sext b.val 5 * 16)).toNat
  let eb := elemBytes y
  aligned ea eb
  let q := s.p p
  let mask := activeBytes q y
  if n = 0 then
    let s' ← vecGlobal i false q mask ea (fun off k => .vload off k (mask / 2 ^ off % 2 ^ k)) (.v d) (vecParts ea eb mask) s
    pure { s := s' }
  else
    let ps ← vecPlaces s (n == 2) ea (maskBytes mask)
    let _ ← ps.foldlM (fun (_ : Unit) x => match x.2 with
      | .away .. => .error .hold
      | pl => if s.homeBusy pl || s.rowsHeld pl then .error .hold
          else if s.placeBad pl then .error (.trap causeCheck (BitVec.ofNat 64 (ea + x.1))) else .ok ()) ()
    let t := { s with late := s.late.tail }
    pure { s := if s.late.headD false then (vecParts ea eb mask).foldl (fun t p => s.vecFly t (n == 2) ea mask eb d p) t
      else t.takeBytes d ps (maskBytes mask) }

/-- STV (R226). -/
def stvBody (i : Instr) (d a b : Reg) (p : Fin 8) (n y : BitVec 3) : Body := fun s => do
  let ea := (s.s a + wrap (sext b.val 5 * 16)).toNat
  let eb := elemBytes y
  aligned ea eb
  let q := s.p p
  let mask := activeBytes q y
  let x := (s.v d).toNat
  if n = 0 then
    let s' ← vecGlobal i true q mask ea (fun off k => .vstore off k mask x) .none (vecParts ea eb mask) s
    pure { s := s' }
  else
    let _ ← vecPlaces s (n == 2) ea (maskBytes mask)
    let parts := vecParts ea eb mask
    let s' ← parts.foldlM (fun t pt =>
      t.nearStore (vecPartPlace s (n == 2) ea mask pt) (ea + pt.1) (.vstore pt.1 pt.2 mask x)) s
    pure { s := s' }

def execLdv (d a b : Reg) (p : Fin 8) (n y : BitVec 3) (s : State) :=
  issue (.ldv d a b p n y) s (ldvBody (.ldv d a b p n y) d a b p n y)
def execStv (d a b : Reg) (p : Fin 8) (n y : BitVec 3) (s : State) :=
  issue (.stv d a b p n y) s (stvBody (.stv d a b p n y) d a b p n y)

end Sys2Proof.Machine
end

