-- ==== Sys2Proof/Machine/Home.lean ====
section
/-! DEFINITION. Accesses at their homes, results on their way back, slices, replay, and hardware faults
(R41, R187, R195-R204, R209). -/
namespace Sys2Proof.Machine

/-! ### Completion -/

def State.dropAccess (s : State) (id : Nat) : State := { s with inflight := s.inflight.filter (·.id != id) }

/-- The operations whose context waits for its home's reply (R234). -/
def AccOp.replies : AccOp → Bool
  | .pharr | .phadd _ => true
  | _ => false

/-- An access is performed: a result sets out for its register or its waiting context, another access is
acknowledged. -/
def State.finish (s : State) (a : Access) (value : Nat) (flags : BitVec 5) (ok : Bool) : State :=
  if a.op.returns then (s.setAccess { a with phase := .done value flags }).pumpAll
  else if a.op.replies && !a.accepted then (s.setAccess { a with phase := .done ok.toNat 0 }).pumpAll
  else (s.dropAccess a.id).pumpAll

/-- An access completes in error: a load or AMO writes 0, ERRSUM records the cause (R196, R219, R308). -/
def State.failAccess (s : State) (a : Access) (cause : Nat) : State :=
  if a.unit.isSome then (s.setAccess { a with phase := .failed cause }).pumpAll
  else (s.finish a 0 0 true).recordError a.launch cause a.lcell

/-! ### Hardware faults (R203, R204) -/

/-- A task is killed by a hardware fault: dispatched again from its retained message, else ended (R204).  A save of it
is dropped, and a HALT that waited for that is due (R256). -/
def State.kill (s : State) (n k : Nat) : State :=
  let x := s.ctx n k
  let t := match x.retained with
    | some m => (s.freeCtx n k).post { msg := m, target := if x.launch = none then .physical n else .logical x.lcell.toNat } false
    | none => (s.endUpdates n k 0 true).freeCtx n k
  if (s.cell n).halting then t.modCell n Cell.haltIfDue else t

/-- HARDWARE_FAULT_KILL of the task on context (a, b). -/
def execHardwareFaultKill (s : State) : Host.Outcome State Fault Refusal :=
  let n := s.now.arg.a
  let k := s.now.arg.b
  event s (if (s.ctx n k).busy then some (s.kill n k) else none)

/-- A bad check value at the home, or still after three requests: delivered and recorded under CHK = 1; else an engine's
access ends with CHECK, and a context's kills its task (R203). -/
def State.badLine (s : State) (a : Access) : State :=
  let s' := s.recordError a.launch 0x05 a.lcell
  if a.chk then s'
  else if a.unit.isSome then s.failAccess a 0x05
  else if s.owns a.cell a.ctx a && (s.ctx a.cell a.ctx).busy then (s'.dropAccess a.id).kill a.cell a.ctx
  else s'.dropAccess a.id

/-! ### At the home (R206, R209) -/

/-- An operation that writes its home. -/
def AccOp.writes : AccOp → Bool
  | .load _ | .vload .. | .phread _ | .phwait _ | .query .. | .answer _ | .reply => false
  | _ => true

/-- An operation that takes what it finds at its home. -/
def AccOp.consumes : AccOp → Bool
  | .store .. | .vstore .. | .phinit _ | .record .. | .query .. | .answer _ | .reply => false
  | _ => true

/-- The access reaches a line that a checkpoint protects (R405). -/
def State.cutHolds (s : State) (a : Access) : Bool :=
  a.op.writes && (s.homesOf a).any fun p => match p with
    | .hbm pa => s.protectedLine (pa / 128)
    | _ => false

/-- A home of the access holds a bad check value (R203). -/
def State.homeBad (s : State) (a : Access) : Bool :=
  s.placeBad a.place || (match a.op with | .bfpadd _ pair _ chk => s.placeBad pair && !(a.chk && chk) | _ => false)

/-- Which of the home events applies an operation: 0 HOME_ACCESS, 1 PHASE_UPDATE_AT_HOME, 2 PHWAIT_RESOLVE. -/
def AccOp.event : AccOp → Nat
  | .phinit _ | .pharr | .phadd _ => 1
  | .phwait _ => 2
  | _ => 0

/-- An access is applied at its home on this module, whole (R206).  The check value of what it takes is looked at as the
line leaves its home: under CHK = 0 nothing is done with a bad one (R203).  A load of rows whose line went bad only after its
issue has the value that the good line held then (DESIGN CHOICE, log 16). -/
def State.applyAccess (s : State) (a : Access) : Option State :=
  let a := { a with place := s.resolve a.place }
  let chk := a.chk && (match a.op with | .bfpadd _ _ _ c => c | _ => true)
  let bad := a.op.consumes && s.homeBad a
  if bad && a.seen.isSome then some (s.finish a (a.seen.getD 0) 0 true)
  else if bad && !chk then some (s.badLine { a with chk := false })
  else match s.perform a.place a.key a.op with
  | none => none
  | some (s1, v, fl, ok) =>
    let s2 := match a.op with
      | .orBits .. => s1.spreadCancel (a.va - 20)
      | _ => s1
    -- a join armed again on one VA: its JCTL replaces that of a join which never fired
    let s2 := match a.op with
      | .record .. => match s2.joins.filter (fun h : JoinHome => h.va == a.va) with
        | h :: _ :: _ => { s2 with joins := s2.joins.erase h }
        | _ => s2
      | _ => s2
    let s3 := s2.finish a v fl ok
    some (if bad then s3.badLine { a with chk := true } else s3)

/-- JOIN's write waits for the updates of the record that were sent before it: the close of the join it follows (R115). -/
def State.joinHolds (s : State) (a : Access) : Bool :=
  match a.op with
  | .record .. => s.records.any fun o => match o with
    | .joinChild v _ _ _ st => (v == a.va || v + 8 == a.va) && st ≤ a.id
    | .joinClose v _ st => (v == a.va || v + 8 == a.va) && st ≤ a.id
    | _ => false
  | _ => false

/-- The flow takes an access that a held REL message waits for: it goes out before that message and those behind it, none of which
has left, so only the messages that have left fill its window (R309, R351). -/
def State.roomAhead (s : State) (scell dev id : Nat) : Bool :=
  match s.findFlow scell dev with
  | some f => if f.buf.any (fun m => !m.sent && m.after.contains id) then decide ((f.buf.filter (·.sent)).length < 32) else s.flowRoom scell dev
  | none => s.flowRoom scell dev

/-- An access to another module that has not left yet goes out on its task's flow, or fails where the module cannot be
reached; none while it waits for its turn, a route or room in the flow (R208, R219, R309, R318).  One that a held REL
message waits for goes out before that message (R351). -/
def State.goOut (s : State) (a : Access) : Option State :=
  match a.place with
  | .remote dev pa =>
    if !s.reaches dev then some (s.failAccess a 0x0B)
    else if s.dark dev || !s.roomAhead a.lcell dev a.id || ((s.inflight.takeWhile (·.id != a.id)).any fun b => b.unit.isNone && b.cell == a.cell
        && b.ctx == a.ctx && b.act == a.act && b.orders a && a.op != .pharr) then none
    else
      let (cls, a1, a2, a3, pl, reply) := request a.op a.key
      let seq := ((s.findFlow a.lcell dev).map (·.next)).getD 0
      -- a PHARR goes after every earlier access of the activation (R208)
      let after := match a.op with
        | .pharr => ((s.inflight.takeWhile (·.id != a.id)).filter fun b => b.unit.isNone && b.cell == a.cell && b.ctx == a.ctx
            && b.act == a.act && b.phase.open && b.op.isAccess && !(b.unresolved && decide (b.trap < a.trap))).map (·.id)
        | _ => []
      let s := s.setAccess { a with phase := .sent dev seq }
      let (pkt, s) := s.requestPacket a.lcell a.cell dev cls pa a1 a2 a3 pl
      some ((s.sendOn pkt (some a.id) after reply (owner := some (a.launch, a.lcell))).goAhead a.lcell dev a.id)
  | _ => none

/-- Another access's update that its home has taken in stands before this one's write (R171). -/
def State.writeWaits (s : State) (a : Access) : Bool :=
  a.op.writes && !a.accepted && (s.homesOf a).any fun p => s.wordTaken p (match a.op with | .bfpadd .. => 32 | op => op.width)

/-- The access may be applied at its home here now. -/
def State.mayApply (s : State) (a : Access) : Bool :=
  s.homeTurn a && !s.joinHolds a && !s.cutHolds a && !s.rowsHeld (s.resolve a.place) && !s.writeWaits a

/-- The event of kind `e` for the access with an id: it is applied at its home here, or goes out to another module's. -/
def State.homeEvent (s : State) (id e : Nat) : Option State := do
  let a ← s.access id
  if a.phase ≠ .issued || a.op.event ≠ e then none
  else match a.place with
  | .remote .. => s.goOut a
  | _ => if s.mayApply a then s.applyAccess a else none

/-- The home's reply reaches the context that waits for it (R234). -/
def State.replyTo (s : State) (a : Access) (ok : Bool) : State :=
  if s.owns a.cell a.ctx a && (s.ctx a.cell a.ctx).busy && (s.ctx a.cell a.ctx).wait == .home a.id then
    s.modCtx a.cell a.ctx fun x => { x with wait := .none, answers := x.answers ++ [.value 0 ok] }
  else s

/-- The home takes a PHARR or PHADD in that it will not reject, and replies; it applies the update by an event of its own, before
any other write of the word (R171, R234; DEDUCED, log 9). -/
def State.acceptUpdate (s : State) (id : Nat) : Option State := do
  let a ← s.access id
  let p := s.resolve a.place
  if a.phase ≠ .issued || !a.op.replies || a.accepted || !s.mayApply a || s.homeBad { a with place := p } then none
  else match s.perform p a.key a.op with
    | some (_, _, _, true) => some ((s.setAccess { a with accepted := true }).replyTo a true)
    | _ => none

/-- HOME_ACCESS of access `a`. -/
def execHomeAccess (s : State) := event s (s.homeEvent s.now.arg.a 0)

/-- PHASE_UPDATE_AT_HOME of access `a`: it is applied, or with `b` = 1 taken in (R187, R188). -/
def execPhaseUpdateAtHome (s : State) :=
  event s (if s.now.arg.b = 1 then s.acceptUpdate s.now.arg.a else s.homeEvent s.now.arg.a 1)

/-- PHWAIT_RESOLVE of access `a`: only once GEN differs (R235). -/
def execPhwaitResolve (s : State) := event s (s.homeEvent s.now.arg.a 2)

/-- PROTECTED_WRITE_COPY for the parked write `a`: its frame is copied and released, and the write applied
(R405). -/
def execProtectedWriteCopy (s : State) : Host.Outcome State Fault Refusal :=
  event s do
    let a ← s.access s.now.arg.a
    if a.phase ≠ .issued || !s.homeTurn a || !s.cutHolds a then none
    else
      let frames := (s.homesOf a).filterMap fun p => match p with
        | .hbm pa => some (pa / 128 / 32)
        | _ => none
      (frames.foldl State.copyFrame s).applyAccess a

/-! ### Results (R41, R42) -/

/-- Byte lanes of a vector register that a result writes. -/
def AccOp.lanes : AccOp → Nat
  | .vload off _ mask => mask * 2 ^ off % 2 ^ 16
  | _ => 0xFFFF

/-- A result reaches the byte lanes of `now` of its register, but for those of `keep` that another instruction has
written since (R41). -/
def Ctx.land (x : Ctx) (a : Access) (value keep : Nat) (flags : BitVec 5) (now : Nat := 0xFFFF) : Ctx :=
  let x := { x with fflags := x.fflags ||| flags }
  match a.dest with
  | .none => x
  | .s r => if a.clobber != 0 && bit keep 0 then x else x.setS r (BitVec.ofNat 64 value)
  | .v r =>
    let lanes := (List.range 16).map fun j =>
      if bit a.op.lanes j && bit now j && !(bit keep j && bit a.clobber j) then bits value (8 * j) 8
      else bits (x.getV r).toNat (8 * j) 8
    x.setV r (BitVec.ofNat 128 (packElems 8 lanes))

/-- A mask of byte lanes taken by the lanes of the result's type: the first byte of each decides (R41, R170). -/
def Access.byLane (a : Access) (m : Nat) : Nat := packElems 1 ((List.range 16).map fun j => (bit m (j - j % a.grain)).toNat)

/-- RESULT_RETURN of access `a`: the result is written, or answers its waiting context, or is discarded when the
task has ended (R41, R42, R234).  `b` are the lanes in which a later write stays, `c` those of a vector that the result
reaches only later: a read sees each element old or new on its own, and never a mixture of both (R170).  A result that lands is a write for every other one
that its register is owed. -/
def execResultReturn (s : State) : Host.Outcome State Fault Refusal :=
  event s do
    let a ← s.access s.now.arg.a
    match a.phase with
    | .done v fl =>
      let s1 := s.dropAccess a.id
      if a.unit.isSome then none
      else if !s.owns a.cell a.ctx a || !(s.ctx a.cell a.ctx).busy then some s1
      else if a.op.replies then some (s1.replyTo a (v == 1))
      else if a.dest = .none then
        -- a table word for STGCFG (R381)
        some (s1.modCtx a.cell a.ctx fun x => { x with answers := x.answers ++ [.word a.data v] })
      else
        let all := match a.dest with | .v _ => a.op.lanes | _ => 0xFFFF
        let due := packElems 1 ((List.range 16).map fun j => (bit all j && !bit a.landed j).toNat)
        let now := match a.dest with
          | .v _ => packElems 1 ((List.range 16).map fun j => (bit due j && !bit (a.byLane s.now.arg.c) j).toNat)
          | _ => 0xFFFF
        let rest := packElems 1 ((List.range 16).map fun j => (bit due j && !bit now j).toNat)
        let t := if rest = 0 || a.dest == .s 0 then s1 else s.setAccess { a with landed := a.landed ||| now }
        let others := t.inflight.map fun b => if b.id ≠ a.id ∧ b.cell = a.cell ∧ b.ctx = a.ctx ∧ b.dest = a.dest then
          { b with clobber := b.clobber ||| now } else b
        some (State.modCtx { t with inflight := others } a.cell a.ctx fun x => x.land a v (a.byLane s.now.arg.b) fl now)
    | _ => none

/-- CHECK_REFETCH of access `a`: a line came with a bad check value and was asked for again; `flag` says that
a good copy came, otherwise after the third request it stays bad (R203).  An engine's read of this module's memory is
one event: with its transfer's or command's number as `a` the third copy is bad.  `b` is the line's VA: under CHK = 1 it is
delivered and recorded, else, and for a line of the rows, the transfer or command ends with CHECK. -/
def execCheckRefetch (s : State) : Host.Outcome State Fault Refusal :=
  let id := s.now.arg.a
  event s (match s.access id with
    | some a =>
      match a.phase with
      | .done .. =>
        if 3 ≤ a.tries || !(a.op.returns || a.op.replies) || a.locked then none
        else if s.now.arg.flag || a.tries < 2 then some (s.setAccess { a with tries := a.tries + 1 })
        else
          let a := { a with tries := 3 }
          some ((s.setAccess a).badLine a)
      | _ => none
    | none =>
      let chk := match s.engine s.now.arg.b false with | some (.at l) => l.chk | _ => false
      if s.now.arg.flag then none
      else match s.transfers.find? fun t => t.id == id && t.started && t.status.isNone with
      | some t =>
        some (if chk then s.recordError t.launch 0x05 t.lcell
          else { s with transfers := s.transfers.map fun t => if t.id = id then { t with status := some 1 } else t })
      | none =>
        (s.units.flatMap (·.2.cmds)).findSome? fun c =>
          if c.id ≠ id || !c.started || c.code.isSome then none
          else if chk then some (s.recordError c.launch 0x05 c.lcell)
          else some { s with units := s.units.map fun u => (u.1, { u.2 with cmds := u.2.cmds.map fun (c : MxCmd) =>
            if c.id = id then { c with code := some 1 } else c }) })

/-! ### Fault buffers (R197, R198) -/

def State.slice (s : State) (k : Nat) : Slice := look {} s.slices k

def State.setSlice (s : State) (k : Nat) (q : Slice) : State := { s with slices := put s.slices k q }

/-- A message that the part itself posts to a system core; words and fields it is not given are values the
spec does not state (R198, R401, R405, log 6). -/
def State.postSystem (s : State) (core cls : Nat) (args : List Nat) : State :=
  let (f, s) := s.fresh
  let w (i : Nat) : Nat := args.getD i (bits f (64 * i) 64)
  let m : Msg := { cls := BitVec.ofNat 8 cls, place := 3, path := BitVec.ofNat 64 (f / 2 ^ 256)
                   srcpcell := BitVec.ofNat 17 (f / 2 ^ 320), srcdev := s.devidx, launch := BitVec.ofNat 12 (f / 2 ^ 340)
                   dest := BitVec.ofNat 16 (f / 2 ^ 352)
                   args := ((((Vector.replicate 4 (0 : Word)).set 0 (BitVec.ofNat 64 (w 0))).set 1 (BitVec.ofNat 64 (w 1))).set 2
                     (BitVec.ofNat 64 (w 2))).set 3 (BitVec.ofNat 64 (w 3)) }
  s.post { msg := m, target := .physical (Config.systemBase + core), system := true, placed := true } false

/-- A parked access's fault joins its granule's entry, takes a free one with a notice when the buffer was
empty, or is dropped (R198). -/
def State.recordFault (s : State) (sl vpn : Nat) (write mal eng : Bool) : State :=
  let q := s.slice sl
  match q.faults.find? (·.2.vpn == vpn) with
  | some (k, e) =>
    s.setSlice sl { q with faults := put q.faults k { e with write := e.write || write, mal := e.mal || mal, eng := e.eng || eng } }
  | none =>
    match firstBelow 8 fun k => (look? q.faults k).isNone with
    | some k =>
      let s1 := s.setSlice sl { q with faults := put q.faults k { vpn := vpn, write := write, mal := mal, eng := eng } }
      let route := (look 0 s.fnroute sl).toNat
      if q.faults.isEmpty && 16 ≤ route % 256 then s1.postSystem (route / 256) (route % 256) [sl] else s1
    | none =>
      s.setSlice sl { q with dropped := true, ovf := if q.ovf = 0xFFFFFFFF then q.ovf else q.ovf + 1 }

/-! ### Misses (R194, R195, R200) -/

/-- A fault that was still on its way into the fault buffer is recorded. -/
def State.recordPending (s : State) (sl k : Nat) : Option State := do
  let q := s.slice sl
  let e ← q.unrecorded[k]?
  pure ((s.setSlice sl { q with unrecorded := removeAt q.unrecorded k }).recordFault sl e.vpn e.write e.mal e.eng)

/-- All of them are, in order. -/
def State.recordAll (s : State) (sl : Nat) : State :=
  let q := s.slice sl
  q.unrecorded.foldl (fun s e => s.recordFault sl e.vpn e.write e.mal e.eng) (s.setSlice sl { q with unrecorded := [] })

/-- MISS_PORT_ENTRY: the miss of index `b` at cluster `a`'s port enters its slice, in arrival order, while the
slice's replay queue has room (R200).  That of an engine's work goes on by itself, in its turn (`State.unitTranslate`). -/
def execMissPortEntry (s : State) : Host.Outcome State Fault Refusal :=
  event s do
    let cl := s.now.arg.a
    let k := s.now.arg.b
    let (c, m) ← s.ports[k]?
    let sl := sliceOf (m.vpn * 4096)
    if c ≠ cl || ((s.ports.take k).any fun e => e.1 == cl && sliceOf (e.2.vpn * 4096) == sl)
      || (s.slice sl).full 1 || m.unit.isSome then none
    else
      let q := s.slice sl
      pure { s with ports := removeAt s.ports k, slices := put s.slices sl { q with misses := q.misses ++ [m] } }

/-- The context still waits for its miss. -/
def State.waitsFor (s : State) (m : Miss) : Bool :=
  (s.ctx m.cell m.ctx).wait == .walk m.vpn && (s.ctx m.cell m.ctx).busy

/-- The context whose miss it was takes the slice's answer, if it still waits. -/
def State.answer (s : State) (m : Miss) (x : Answer) : State :=
  if s.waitsFor m then
    s.modCtx m.cell m.ctx fun c => { c with wait := .none, answers := c.answers ++ [x] }
  else s

/-- SLICE_WALK: slice `a` answers its oldest miss from its TLB or by a walk; `b` says which entry a full TLB
gives up (R193, R195).  From a fault on the access has its place in the replay queue (R199).  Its fault is recorded then, or with
`c` = 1 by another event, `c` being 2 more than its place among those that wait: which pages find an entry when there are more
than eight is not promised (R171, R198; DEDUCED, log 9).  A table's line with a bad check value kills the task (R203). -/
def execSliceWalk (s : State) : Host.Outcome State Fault Refusal :=
  event s (
    let sl := s.now.arg.a
    let q := s.slice sl
    if 2 ≤ s.now.arg.c then s.recordPending sl (s.now.arg.c - 2)
    else match q.misses with
    | [] => none
    | m :: rest =>
      let s := s.setSlice sl { q with misses := rest }
      let q := s.slice sl
      let va := m.vpn * 4096
      let hit := tlbFind q.tlb m.vpn
      let w := match hit with
        | some e => Walk.leaf e.size e.pte
        | none => s.walk va
      match w with
      | .fault mal =>
        let t := if s.now.arg.c = 1 then s.setSlice sl { q with unrecorded := q.unrecorded ++ [⟨m.vpn, m.write, mal, false⟩] }
          else s.recordFault sl m.vpn m.write mal false
        if s.waitsFor m then
          some ((t.setSlice sl { t.slice sl with replay := (t.slice sl).replay ++ [.miss m] }).answer m (.parkIn m.vpn))
        else some t
      | .bad =>
        let x := s.ctx m.cell m.ctx
        some (if s.waitsFor m then (s.recordError (x.launch.map BitVec.toNat) 0x05 x.lcell.toNat).kill m.cell m.ctx else s)
      | .leaf size pte =>
        let e : TlbEntry := { vpn := m.vpn, size := size, pte := pte }
        let key := l1Key m.cell
        let s := { s with
          slices := put s.slices sl { q with tlb := if hit.isSome then q.tlb else tlbFill q.tlb 8192 s.now.arg.b e }
          l1 := put s.l1 key (tlbFill (look [] s.l1 key) 256 s.now.arg.b e) }
        some (s.answer m (if s.denied pte size va m.write m.sys then .perm m.vpn else .page m.vpn size pte)))

/-! ### Replay (R196, R199) -/

/-- A replayed access's translation: through its slice's TLB entry or by a walk (R199). -/
def State.rewalk (s : State) (va : Nat) : Walk :=
  match tlbFind (s.slice (sliceOf va)).tlb (va / 4096) with
  | some e => .leaf e.size e.pte
  | none => s.walk va

/-- A replayed access that a valid PTE denies: it completes in error and its launch is cancelled (R196). -/
def State.denyAccess (s : State) (a : Access) : State :=
  let s := s.failAccess a 0x04
  match a.launch with
  | some l => s.cancelRecord (s.levelVa l)
  | none => s

/-- An access that translates at last goes on: to its home on this module, or out on its flow to another as soon as the flow
takes it (R199). -/
def State.resume (s : State) (a : Access) : State :=
  let a := { a with replayed := true, phase := .issued }
  let s := s.setAccess a
  (s.goOut a).getD s

/-- A phase word in a host window is denied (R186, R231). -/
def AccOp.noHost : AccOp → Bool
  | .phinit _ | .pharr | .phadd _ | .phwait _ | .phread _ => true
  | _ => false

/-- What a replayed access of the executing part finds for a VA (R199). -/
def State.replayTrans (s : State) (a : Access) (va : Nat) : Trans :=
  match s.rewalk va with
  | .fault _ => .park
  | .bad => .bad
  | .leaf size pte =>
    match s.locate size pte va a.op.writes a.sys with
    | .at l => if a.op.noHost && (match l.place with | .host .. => true | _ => false) then .perm else .at l
    | t => t

/-- The place of a slice's replay queue is kept: what cannot go on stays parked in its order. -/
def State.stayParked (s : State) (sl : Nat) (p : Parked) : State :=
  s.setSlice sl { s.slice sl with replay := (s.slice sl).replay ++ [p] }

/-- One parked access of slice `sl` is issued again: it goes on once every VA it needs translates, faults again and stays
parked, or fails (R196, R199, R226, R230). -/
def State.replayAccess (s : State) (sl id : Nat) : State :=
  match s.access id with
  | none => s
  | some a =>
    let stay (s : State) : State := s.stayParked sl (.access id)
    let fault (va : Nat) : State :=
      stay (s.recordFault sl (va / 4096) a.op.writes (match s.rewalk va with | .fault m => m | _ => false) false)
    match s.replayTrans a a.va, a.second.map fun va => (va, s.replayTrans a va) with
    | .perm, _ => s.denyAccess a
    | _, some (_, .perm) => s.denyAccess a
    | .bad, _ => s.badLine a
    | _, some (_, .bad) => s.badLine a
    | .at l, none => s.resume { a with place := l.place, key := l.key, chk := l.chk }
    | .at l, some (_, .at l') =>
      match a.op with
      | .bfpadd blk _ _ _ =>
        match s.bfpHomes l.place l'.place with
        | none => s.denyAccess a
        | some (p, p') => s.resume { a with place := p, key := l.key, chk := l.chk, op := .bfpadd blk p' l'.key l'.chk }
      | _ => s.resume { a with place := l.place, key := l.key, chk := l.chk }
    | .at _, some (va, _) => fault va
    | _, _ => fault a.va

/-- A place in the replay queue whose context has not yet taken the slice's answer: the answer becomes what the walk now
finds, or the access faults again (R196, R199). -/
def State.replayMiss (s : State) (sl : Nat) (m : Miss) : State :=
  let x := s.ctx m.cell m.ctx
  if !(x.busy && x.answers.contains (.parkIn m.vpn)) then s
  else
    let say (r : Answer) : State := s.modCtx m.cell m.ctx fun x =>
      { x with answers := x.answers.map fun y => if y = .parkIn m.vpn then r else y }
    match s.rewalk (m.vpn * 4096) with
    | .fault mal => (s.recordFault sl m.vpn m.write mal false).stayParked sl (.miss m)
    | .bad => (s.recordError (x.launch.map BitVec.toNat) 0x05 x.lcell.toNat).kill m.cell m.ctx
    | .leaf size pte => if s.denied pte size (m.vpn * 4096) m.write m.sys then say (.denied m.vpn) else say (.page m.vpn size pte)

/-- REPLAYALL on one slice: the faults of what has parked there are recorded, and everything parked there now is issued again in the order it parked; an engine's
transfer, command or write-back is released to its own event (R185, R199, R271, R391). -/
def State.replaySlice (s : State) (sl : Nat) : State :=
  let s := s.recordAll sl
  let q := s.slice sl
  let s := s.setSlice sl { q with replay := [], dropped := false, ovf := 0 }
  q.replay.foldl (fun s p => match p with
    | .access id => s.replayAccess sl id
    | .miss m => s.replayMiss sl m
    | _ => s) s

/-- The slices a REPLAYALL operand names (R259). -/
def slicesNamed (x : Nat) : List Nat :=
  if x = 0xFF then List.range Config.stackCount else if x < Config.stackCount then [x] else []

end Sys2Proof.Machine
end

