-- ==== Sys2Proof/Machine/Gq.lean ====
section
/-! DEFINITION. Gradient queues (R324-R327, R353-R358). -/
namespace Sys2Proof.Machine

def State.group (s : State) (g : Nat) : Group := look {} s.groups g

def State.setGroup (s : State) (g : Nat) (x : Group) : State := { s with groups := put s.groups g x }

def State.gqueue (s : State) (g q : Nat) : GQueue := look {} (s.group g).queues q

def State.setQueue (s : State) (g q : Nat) (x : GQueue) : State :=
  s.setGroup g { s.group g with queues := put (s.group g).queues q x }

/-- The depot group of a depot cell (R322). -/
def groupOf (cell : Nat) : Nat := (cell - Config.depotBase) / 4

/-- A result that another unit will return sets out for its register. -/
def State.deliver (s : State) (id value : Nat) : State :=
  match s.access id with
  | some a => s.finish a value 0 true
  | none => s

/-- A push is accepted when the queue exists and has room: the packet at TAIL, the grant NSLOT − COUNT (R326). -/
def State.accept (s : State) (p : Push) : Option State :=
  let q := s.gqueue p.group p.queue
  if q.valid && q.packets.length < q.nslot.toNat then
    let q' := { q with
      packets := q.packets ++ [(p.sideband, p.data)], pushed := q.pushed + 1
      tail := BitVec.ofNat 6 ((q.tail.toNat + 1) % q.nslot.toNat) }
    some ((s.setQueue p.group p.queue q').deliver p.id (q.nslot.toNat - q'.packets.length))
  else none

/-- Waiting pushes are accepted, oldest first, as far as there is room. -/
def State.acceptWaiting (s : State) (g q : Nat) : Nat → State
  | 0 => s
  | fuel + 1 =>
    match (s.gqueue g q).waiting with
    | p :: rest =>
      match (s.setQueue g q { s.gqueue g q with waiting := rest }).accept p with
      | some s' => s'.acceptWaiting g q fuel
      | none => s
    | [] => s

/-- PERM for a group of 48 or above; GQCREATE and the pops act on their own group instead (R353). -/
def gqGroup (a : Word) : Except Stop Unit :=
  if 48 ≤ bits a.toNat 8 6 then .error (.trap causePerm a) else .ok ()

/-- GQCREATE (R354). -/
def gqcreateBody (a b : Reg) : Body := fun s => do
  let g := groupOf s.now.cell
  let k := bits (s.s a).toNat 0 8
  let w := (s.s b).toNat
  let ty := bits w 1 3
  let n := bits w 16 7
  let q := s.gqueue g k
  let q' : GQueue :=
    { valid := bit w 0 && 3 ≤ ty && ty ≤ 5 && n != 0 && n ≤ 64, ty := BitVec.ofNat 3 ty, block := BitVec.ofNat 12 (bits w 4 12)
      nslot := BitVec.ofNat 7 n, waiting := q.waiting, pops := q.pops }
  pure { s := (s.setQueue g k q').acceptWaiting g k 64 }

def execGqcreate (a b : Reg) (s : State) := issue (.gqcreate a b) s (gqcreateBody a b)

/-- GQPUSH: the packet block is read at issue, and the packet travels to its group (R326, R347, R355). -/
def gqpushBody (d a b : Reg) : Body := fun s => do
  let ops := s.kept ((s.s b).toNat + 2 ^ 64 * (s.s a).toNat)
  let q := BitVec.ofNat 64 (ops / 2 ^ 64)
  gqGroup q
  let blk := bits ops 0 64
  s.block blk 144 16
  match s.badLocal blk 136 with
  | some e => .error (.trap causeCheck (BitVec.ofNat 64 e))
  | none =>
    let (s, rd) ← s.gather ops 16 0 blk 144
    let g := bits q.toNat 8 6
    -- beyond 1,024 waiting pushes of a group, later ones wait at the cell's port (R326)
    let id := s.nextId
    let p : Push :=
      { group := g, queue := bits q.toNat 0 8, data := rd.localBytes blk 128
        sideband := BitVec.ofNat 64 (rd.localRead (blk + 128) 8), id := id, cell := s.now.cell, ctx := s.now.ctx }
    let s' := s.enter (Access.of 0 noHome .reply (.s d))
    pure { s := { s' with pushes := s'.pushes ++ [p] } }

def execGqpush (d a b : Reg) (s : State) := issue (.gqpush d a b) s (gqpushBody d a b)

/-- GQ_PUSH_ARRIVAL: push `a` reaches its queue and is accepted or waits; pushes of one context to one group
arrive in order, and a group holds 1,024 waiting ones (R326). -/
def execGqPushArrival (s : State) : Host.Outcome State Fault Refusal :=
  event s do
    let k := s.now.arg.a
    let p ← s.pushes[k]?
    let waitingOf := ((s.group p.group).queues.map fun e => e.2.waiting.length).foldl (· + ·) 0
    if (s.pushes.take k).any fun q => q.cell == p.cell && q.ctx == p.ctx && q.group == p.group then none
    else
      let s1 := { s with pushes := removeAt s.pushes k }
      let q := s1.gqueue p.group p.queue
      match (if q.waiting.isEmpty then s1.accept p else none) with
      | some s2 => some s2
      | none => if 1024 ≤ waitingOf then none else some (s1.setQueue p.group p.queue { q with waiting := q.waiting ++ [p] })

/-- GQPOP and GQPOP.DROP: the pop waits at its queue; on the reply the packet is written at the address that was checked, its
136 bytes one in each step where `late` says so, or GQTYPE traps (R207, R327, R356, log 13). -/
def gqpopBody (d a b : Reg) (drop : Bool) : Body := fun s => do
  let ops := s.kept ((s.s b).toNat + 2 ^ 64 * (s.s a).toNat)
  let blk := bits ops 0 64
  s.block blk 144 16
  match s.cur.answers.findSome? (fun x => match x with | .packet w l => some (w, l) | _ => none), s.reply? with
  | some (w, l), _ =>
    let k := s.cur.stage - 1024
    let s1 := if k = 0 then { s with late := s.late.tail } else s
    if k = 0 ∧ s.late.headD false = false then
      let s' := s1.localWrite blk 128 (ofBytes l)
      pure { s := (s'.localWrite (blk + 128) 8 w.toNat).setS d w }
    else
      let s' := s1.localWrite (blk + k) 1 (((l ++ toBytes 8 w.toNat).getD k 0).toNat)
      if 135 ≤ k then pure { s := s'.setS d w } else .error (.wait (s'.modCur fun x => { x with stage := 1025 + k }))
  | none, some (v, _) => .error (.trap causeGqtype (BitVec.ofNat 64 v))
  | none, none =>
    let g := groupOf s.now.cell
    let k := bits ops 64 8
    let q := s.gqueue g k
    if 4 ≤ q.pops.length then .error .hold
    else
      let id := s.nextId
      let w : PopWait := { id := id, cell := s.now.cell, ctx := s.now.ctx, drop := drop }
      let s' := { s with nextId := id + 1 }.setQueue g k { q with pops := q.pops ++ [w] }
      .error (.wait (s'.modCur fun x => { x with answers := [.word 512 ops], wait := .queue id }))

def execGqpop (d a b : Reg) (s : State) := issue (.gqpop d a b) s (gqpopBody d a b false)
def execGqpopDrop (d a b : Reg) (s : State) := issue (.gqpopDrop d a b) s (gqpopBody d a b true)

/-- A bad check value on what a pop delivers to context (n, k) (R203, R356). -/
def State.popBad (s : State) (n k : Nat) : State :=
  let x := s.ctx n k
  (s.recordError (x.launch.map BitVec.toNat) 0x05 x.lcell.toNat).kill n k

/-- GQ_POP_SERVE: the oldest pop waiting at queue `b` of group `a` takes the head packet, or is told that it is
mistyped; the pop of a context that no longer waits is withdrawn (R327).  `flag` says that the delivered data has good
check values: with a bad one the packet is popped, and the task is killed (R203, R356). -/
def execGqPopServe (s : State) : Host.Outcome State Fault Refusal :=
  event s (
    let g := s.now.arg.a
    let k := s.now.arg.b
    let q := s.gqueue g k
    match q.pops with
    | [] => none
    | w :: rest =>
      let s1 := s.setQueue g k { q with pops := rest }
      if (s.ctx w.cell w.ctx).wait ≠ .queue w.id then some s1
      else match q.packets with
        | [] => none
        | (sb, data) :: more =>
          if !q.valid then none
          else if !w.drop && (bits sb.toNat 0 3 != q.ty.toNat || bits sb.toNat 8 12 != q.block.toNat) then
            some (s1.modCtx w.cell w.ctx fun x => { x with wait := .none, answers := x.answers ++ [.value sb.toNat false] })
          else
            let q' := { q with
              pops := rest, packets := more, popped := q.popped + 1
              head := BitVec.ofNat 6 ((q.head.toNat + 1) % q.nslot.toNat) }
            let s2 := (s.setQueue g k q').acceptWaiting g k 1
            some (if s.now.arg.flag then s2.modCtx w.cell w.ctx fun x => { x with wait := .none, answers := x.answers ++ [.packet sb data] }
              else s2.popBad w.cell w.ctx))

/-- GQSTAT: one doubleword of a queue's record (R357). -/
def gqstatBody (d a b : Reg) : Body := fun s => do
  gqGroup (s.s a)
  let x := bits (s.s a).toNat 8 6 * 256 + bits (s.s a).toNat 0 8
  pure { s := s.enter (Access.of 0 noHome (.query 3 x (bits (s.s b).toNat 0 2)) (.s d)) }

def execGqstat (d a b : Reg) (s : State) := issue (.gqstat d a b) s (gqstatBody d a b)

end Sys2Proof.Machine
end

