-- ==== Sys2Proof/Machine/Fabric.lean ====
section
/-! DEFINITION. Arrivals, built-in handlers, slot returns, retransmission, rounds, ports (R303-R319). -/
namespace Sys2Proof.Machine

/-! ### Flits (R305) -/

/-- CRC-32C of the low `n` bits, the low bit of each byte first (R305, log 19). -/
def crc32c (n x : Nat) : Nat :=
  ((List.range n).foldl (fun c i => (c / 2) ^^^ (if (c % 2 == 1) != bit x i then 0x82F63B78 else 0)) 0xFFFFFFFF) ^^^ 0xFFFFFFFF

end Sys2Proof.Machine

namespace Sys2Proof

/-- The header flit with MCRC zero (R305). -/
def Packet.header (p : Packet) : Nat :=
  p.ddev % 2 ^ 9 + 2 ^ 9 * (p.dcell % 2 ^ 16) + 2 ^ 25 * (p.sdev % 2 ^ 9) + 2 ^ 34 * (p.scell % 2 ^ 16) + 2 ^ 50 * (p.cls % 2 ^ 8)
    + 2 ^ 58 * p.rel.toNat + 2 ^ 59 * p.retx.toNat + 2 ^ 60 * p.first.toNat + 2 ^ 64 * (p.seq % 2 ^ 16)
    + 2 ^ 80 * (p.launch % 2 ^ 12) + 2 ^ 92 * (p.paylen % 2 ^ 13) + 2 ^ 105 * (p.spcell % 2 ^ 17)
    + 2 ^ 128 * (p.args.getD 0 0 % 2 ^ 64) + 2 ^ 192 * (p.args.getD 1 0 % 2 ^ 64) + 2 ^ 256 * (p.args.getD 2 0 % 2 ^ 64)
    + 2 ^ 320 * (p.args.getD 3 0 % 2 ^ 64) + 2 ^ 384 * (p.path % 2 ^ 64) + 2 ^ 480 * (p.paddr % 2 ^ 19) + 2 ^ 499 * (p.rnd % 2 ^ 12)

/-- The message of a header flit and the bytes behind it (R305). -/
def Packet.ofHeader (h : Nat) (payload : List Nat) : Packet :=
  { ddev := bits h 0 9, dcell := bits h 9 16, sdev := bits h 25 9, scell := bits h 34 16, cls := bits h 50 8
    rel := bit h 58, retx := bit h 59, first := bit h 60, seq := bits h 64 16, launch := bits h 80 12, paylen := bits h 92 13
    spcell := bits h 105 17, args := [bits h 128 64, bits h 192 64, bits h 256 64, bits h 320 64], path := bits h 384 64
    paddr := bits h 480 19, rnd := bits h 499 12, payload := payload }

/-- The flits of a message: the header with its MCRC, then the payload, the last flit padded with zeros (R305). -/
def Packet.flits (p : Packet) : List Nat :=
  (p.header + 2 ^ 448 * Machine.crc32c 512 p.header) ::
    (List.range ((p.paylen + 63) / 64)).map fun k =>
      Machine.ofBytes ((List.range 64).map fun j => BitVec.ofNat 8 (if 64 * k + j < p.paylen then p.payload.getD (64 * k + j) 0 else 0))

/-- The message as its flits carry it: each field in its width, PAYLEN bytes of payload (R305). -/
def Packet.onLink (p : Packet) : Packet :=
  .ofHeader p.header ((List.range (p.paylen % 2 ^ 13)).map fun i => p.payload.getD i 0 % 256)

end Sys2Proof

namespace Sys2Proof.Machine

/-! ### What the links hand over -/

/-- A packet for this module comes off a link.  One that this module sent to itself must be on the links (R376). -/
def State.receive (s : State) (p : Packet) : Option State :=
  if p.ddev ≠ s.devidx.toNat then none
  else if p.sdev = s.devidx.toNat then
    if s.out.contains p then some { s with out := s.out.erase p } else none
  else some s

/-- A message that is not sequenced acts when it comes; with a dropped flit or a bad check value it is discarded whole,
and counted (R306, R307, R319). -/
def State.arrive (s : State) (p : Packet) (act : State → State) : Option State :=
  (s.receive p).map fun s => if s.now.arg.flag then act s else s.fabError

/-- Classes that are sequenced on a flow (R307). -/
def sequenced (cls : Nat) : Bool := cls ≤ 2 || (8 ≤ cls && cls ≤ 12) || 16 ≤ cls

/-- Messages in every flow's reorder store, which holds 16,384 (R310). -/
def State.reorderUsed (s : State) : Nat := (s.serai.map fun f => f.held.length).foldl (· + ·) 0

/-- In-order messages leave the reorder store (R310). -/
def Serai.advance (f : Serai) : Nat → Serai
  | 0 => f
  | fuel + 1 =>
    match f.held.find? (·.seq == f.expected) with
    | some p =>
      Serai.advance { f with
        held := f.held.filter (·.seq != f.expected), queue := f.queue ++ [(p, 0)]
        expected := (f.expected + 1) % 65536 } fuel
    | none => f

/-- A half acknowledgement on the engine's flow (R335). -/
def State.sendAck (s : State) (g block dev hseq status : Nat) : State :=
  let (h, s) := s.header
  s.sendOn { h with
    ddev := dev, scell := 0xFF00 + g, cls := 9, args := [block % 4096 + 4096 * g, hseq, status] ++ h.args.drop 3 } none [] false

/-- The cached LREPLY of a request (R311). -/
def Serai.cached (f : Serai) (seq : Nat) : Option Packet := f.replies.find? fun r => bits (r.args.getD 3 0) 0 16 == seq

/-- The serai takes an arriving message by its distance from the expected SEQ (R310). -/
def State.seraiTake (s : State) (p : Packet) : State :=
  let slot := s.findSerai p.sdev p.scell
  let d := match slot with
    | some f => (p.seq + 65536 - f.expected % 65536) % 65536
    | none => 0
  if p.first && (slot.isNone || (32 ≤ d && d < 32768)) then
    if slot.isNone && 4096 ≤ s.serai.length then s.nack p 1
    else
      let f : Serai := Serai.advance { sdev := p.sdev, scell := p.scell, expected := p.seq, held := [p] } 1
      (s.setSerai f).seraiRun p.sdev p.scell 64
  else match slot with
    | none => s.nack p 1
    | some f =>
      if d < 32 then
        if f.held.any (·.seq == p.seq) || (d != 0 && 16384 ≤ s.reorderUsed) then s
        else (s.setSerai (Serai.advance { f with held := f.held ++ [p] } 33)).seraiRun p.sdev p.scell 64
      else if 32768 ≤ d then
        let s := s.slotReturn p.sdev p.scell
        let s := match f.cached p.seq with
          | some r => if p.cls = 0 || p.cls = 2 then s.transmit r else s
          | none => s
        -- a half whose trailer has been delivered and applied is a duplicate; its acknowledgement waits for room (R336)
        let g := bits (p.args.getD 0 0) 12 6
        if p.cls = 10 && g < 48 && s.reaches p.sdev && !f.waits p.seq then
          s.sendAck g (bits (p.args.getD 0 0) 0 12) p.sdev (bits (p.args.getD 2 0) 0 32) 1
        else s
      else s.fabError

/-- A trailer that may need an acknowledgement waits on its link while no flow record is free for one (R309, R336). -/
def State.ackRoom (s : State) (p : Packet) : Bool :=
  p.cls != 10 || (s.findFlow (0xFF00 + bits (p.args.getD 0 0) 12 6) p.sdev).isSome || s.flows.length < 8192

/-- MESSAGE_ARRIVAL of packet `p`; `flag` says that its flits are those it was sent as, with good check values (R306). -/
def execMessageArrival (s : State) : Host.Outcome State Fault Refusal :=
  let p := s.now.arg.p
  event s (if sequenced p.cls && s.ackRoom p then s.arrive p fun s => s.seraiTake p.onLink else none)

/-- RESERVED_CLASS_DISCARD: classes 13-15 (R307). -/
def execReservedClassDiscard (s : State) : Host.Outcome State Fault Refusal :=
  event s do
    let p := s.now.arg.p
    if p.cls < 13 || 15 < p.cls then none
    else
      let s ← s.receive p
      pure s.fabError

/-! ### Remote loads, stores and AMOs at their home (R307, R308, R311) -/

/-- The message of a flow whose turn it is, of a class. -/
def State.flowHead (s : State) (cls : Nat) : Option Packet := do
  let f ← s.findSerai s.now.arg.a s.now.arg.b
  let p ← f.turn
  if p.cls = cls then some p else none

/-- A built-in message is applied: freed, and counted for its round unless its issue to the home has been (R311,
R315). -/
def State.builtinDone (s : State) (p : Packet) : State :=
  let counted := match s.findSerai p.sdev p.scell with
    | some f => !f.waits p.seq
    | none => false
  let s := s.seraiFree p.sdev p.scell p.seq
  if counted then s else s.delivered p.sdev p.rnd

/-- LREPLY to a request: two value words and a status; replies of RLOAD and RAMO are kept (R307, R311). -/
def State.lreply (s : State) (p : Packet) (v0 v1 status : Nat) (keep : Bool) : State :=
  let (h, s) := s.header
  let r := { h with ddev := p.sdev, cls := 3, args := [v0 % 2 ^ 64, v1 % 2 ^ 64, status, p.seq + 65536 * p.scell] }
  let s := s.transmit r
  match s.findSerai p.sdev p.scell with
  | some f => if keep then s.setSerai { f with replies := f.replies.drop (f.replies.length - 31) ++ [r] } else s
  | none => s

/-- The home of a request's PA on this module; none where this module has no memory there. -/
def hbmPlace (pa : Nat) : Option Place := if pa < Config.hbmBytes then some (.hbm pa) else none

/-- RLOAD of the flow of (a, b) (R307). -/
def execRload (s : State) : Host.Outcome State Fault Refusal :=
  event s do
    let p ← s.flowHead 0
    let pa := p.args.getD 0 0
    let a1 := p.args.getD 1 0
    let z := bits a1 0 8
    let key := bits a1 8 13
    let n := if z = 0x10 then 16 else sizeOf (BitVec.ofNat 3 z)
    match hbmPlace pa with
    | none => pure ((s.lreply p 0 0 2 true).builtinDone p)
    | some pl =>
      if s.placeBad pl then pure ((s.lreply p 0 0 1 true).builtinDone p)
      else
        let (x, s) ← s.placeRead pl key n
        let v := if z = 0x10 then x else (extend (BitVec.ofNat 3 z) x).toNat
        pure ((s.lreply p v (v / 2 ^ 64) 0 true).builtinDone p)

/-- RSTORE of the flow of (a, b); a failing one is answered with a status alone (R307, R308). -/
def execRstore (s : State) : Host.Outcome State Fault Refusal :=
  event s do
    let p ← s.flowHead 1
    let pa := p.args.getD 0 0
    let a1 := p.args.getD 1 0
    let z := bits a1 0 8
    let key := bits a1 8 13
    let data := p.args.getD 2 0 + 2 ^ 64 * p.args.getD 3 0
    match hbmPlace pa with
    | none => pure ((s.lreply p 0 0 2 false).builtinDone p)
    | some pl =>
      if s.wordTaken pl 16 then none
      else
      let s' ← if z = 0x10 then s.placeWrite pl key 16 (bits a1 21 16) data
        else
          let n := sizeOf (BitVec.ofNat 3 z)
          s.placeWrite pl key n (2 ^ n - 1) data
      pure (s'.builtinDone p)

/-- The operation of a RAMO (R228, R231, R307); FN 0x88 and 0x89 are a matrix unit's updates of its scale record
(log 23). -/
def ramoOp (p : Packet) : AccOp :=
  let a1 := p.args.getD 1 0
  let fn := bits a1 0 8
  let b := p.args.getD 2 0
  if fn = 11 then .bfpadd (p.payload.map (BitVec.ofNat 8)) (.hbm b) (p.args.getD 3 0) false
  else if fn = 0x81 then .phinit b
  else if fn = 0x82 then .pharr
  else if fn = 0x83 then .phadd b
  else if fn = 0x84 then .phwait b
  else if fn = 0x85 then .phread b
  else if fn = 0x86 || fn = 0x87 then .phengine b (fn == 0x87)
  else if fn = 0x88 || fn = 0x89 then .scale (fn == 0x88) b
  else .amo fn (if bit a1 8 then 8 else 4) b (p.args.getD 3 0)

/-- The home of a RAMO on this module; none where its line, or the exponent pair of an AMOBFPADD, is not memory of this module,
or the two lie in different stacks (R230, R308). -/
def ramoHome (p : Packet) : Option Place :=
  let pa := p.args.getD 0 0
  match ramoOp p with
  | .bfpadd _ (.hbm b) _ _ => if b < Config.hbmBytes && (bankOf pa).1 == (bankOf b).1 then hbmPlace pa else none
  | _ => hbmPlace pa

/-- The lines a RAMO reads are not all good: its own, and the exponent pair's (R203, R308). -/
def State.ramoBad (s : State) (pl : Place) (op : AccOp) : Bool :=
  s.placeBad pl || (match op with | .bfpadd _ pair _ _ => s.placeBad pair | _ => false)

/-- A CANCEL that another home's request sets in a launch's record here is spread from here (R49, R119, log 14). -/
def State.ramoCancel (s : State) (pa : Nat) (op : AccOp) : State :=
  match op with
  | .amo 3 4 b _ => if b % 2 = 1 then (match s.lflagsAt pa with | some va => s.spreadCancel va | none => s) else s
  | _ => s

/-- RAMO of the flow of (a, b): one event at the home, answered by LREPLY (R307).  Its second value word carries
the flags, and for an arrival or byte update whether it was rejected (log 23). -/
def execRamo (s : State) : Host.Outcome State Fault Refusal :=
  event s do
    let p ← s.flowHead 2
    let key := bits (p.args.getD 1 0) 9 13
    match ramoHome p with
    | none => pure ((s.lreply p 0 0 2 true).builtinDone p)
    | some pl =>
      if (ramoOp p).writes && s.wordTaken pl 32 then none
      else if s.ramoBad pl (ramoOp p) then pure ((s.lreply p 0 0 1 true).builtinDone p)
      else
        let (s', v, fl, ok) ← s.perform pl key (ramoOp p)
        pure (((s'.ramoCancel (p.args.getD 0 0) (ramoOp p)).lreply p v (fl.toNat + 32 * (!ok).toNat) 0 true).builtinDone p)

/-! ### Replies and returns at the sender -/

/-- The access that a request of a flow carries. -/
def State.sentAccess (s : State) (scell dev seq : Nat) : Option (FlowMsg × Access) := do
  let f ← s.findFlow scell dev
  let m ← f.buf.find? (·.pkt.seq == seq)
  let id ← m.access
  let a ← s.access id
  if a.phase = .sent dev seq then some (m, a) else none

/-- Messages that are acknowledged and replied to leave the replay buffer, and the flow goes on (R309, R312). -/
def State.trimFlow (s : State) (scell dev : Nat) : State :=
  match s.findFlow scell dev with
  | some f => (s.setFlow { f with buf := f.buf.filter fun m => !(m.acked && m.replied) }).pump scell dev
  | none => s

/-- The value a remote result has at its register (R72, R226). -/
def replyValue (op : AccOp) (v0 v1 : Nat) : Nat × BitVec 5 × Bool :=
  match op with
  | .load z => ((extend z v0).toNat, 0, true)
  | .vload off n _ => ((v0 + 2 ^ 64 * v1) % 2 ^ (8 * n) * 256 ^ off, 0, true)
  | _ => (v0, BitVec.ofNat 5 v1, v1 / 32 % 2 = 0)

/-- The cause that ERRSUM records for an LREPLY's status (R308, R219). -/
def replyCause (status : Nat) : Nat := if status = 1 then 0x05 else if status = 2 then 0x04 else 0x0B

/-- The request with this SEQ of a flow has its LREPLY. -/
def Flow.reply (f : Flow) (seq : Nat) : Flow :=
  { f with
    buf := f.buf.map fun (m : FlowMsg) => if m.pkt.seq = seq then { m with replied := true } else m
    answered := f.answered.drop (f.answered.length - 31) ++ [seq] }

/-- LREPLY `p` at its requester.  A status of CHECK or PERM is recorded and a load writes 0 whatever the check mode of its page:
R308 says so of every home on another module, where R203 has CHK choose (DESIGN CHOICE, log 23).  A request that is no longer
outstanding is an RSTORE that has been acknowledged, whose status is still recorded, or one that the serai answers again, which
changes nothing (R308, R311). -/
def State.takeReply (s : State) (p : Packet) : State :=
  let seq := bits (p.args.getD 3 0) 0 16
  let scell := bits (p.args.getD 3 0) 16 16
  let status := bits (p.args.getD 2 0) 0 8
  match s.sentAccess scell p.sdev seq with
  | none =>
    let again := match s.findFlow scell p.sdev with
      | some f => f.answered.contains seq
      | none => false
    if status = 0 || again then s else s.recordError (s.launchSent scell p.sdev seq) (replyCause status) scell
  | some (_, a) =>
    let s := match s.findFlow scell p.sdev with
      | some f => s.setFlow (f.reply seq)
      | none => s
    let s := if status = 0 then
        let (v, fl, ok) := replyValue a.op (p.args.getD 0 0) (p.args.getD 1 0)
        s.finish a v fl ok
      else s.failAccess a (replyCause status)
    s.trimFlow scell p.sdev

/-- LREPLY: the outstanding result at the requester completes; an error status is recorded and a load writes 0
(R307, R308). -/
def execLreply (s : State) : Host.Outcome State Fault Refusal :=
  let p := s.now.arg.p
  event s (if p.cls = 3 then s.arrive p fun s => s.takeReply p.onLink else none)

/-- The access of a request is a store, performed once the request is acknowledged; any other waits for its LREPLY
(R307, R312). -/
def AccOp.ackEnds : AccOp → Bool
  | .store .. | .vstore .. | .record .. => true
  | _ => false

/-- SLOTRET `p` at the sender: every message below FREE is acknowledged; a store is then performed (R312). -/
def State.takeReturn (s : State) (p : Packet) : State :=
  let scell := bits (p.args.getD 0 0) 0 16
  let free := bits (p.args.getD 1 0) 0 16
  match s.findFlow scell p.sdev with
  | none => s
  | some f =>
    let open' := f.buf.filter fun m => m.sent && !m.acked
    let n := match open'.head? with
      | some m => (free + 65536 - m.pkt.seq % 65536) % 65536
      | none => 0
    if n = 0 || open'.length < n then s
    else
      let acked := (open'.take n).map fun m => m.pkt.seq
      let buf := f.buf.map fun m => if acked.contains m.pkt.seq then { m with acked := true } else m
      let s := s.setFlow { f with buf := buf, nackWait := 0 }
      let s := acked.foldl (fun s q => match s.sentAccess scell p.sdev q with
        | some (_, a) => if a.op.ackEnds then s.finish a 0 0 true else s
        | none => s) s
      s.trimFlow scell p.sdev

/-- SLOTRET (R312). -/
def execSlotret (s : State) : Host.Outcome State Fault Refusal :=
  let p := s.now.arg.p
  event s (if p.cls = 6 then s.arrive p fun s => s.takeReturn p.onLink else none)

/-- MARKER `p`: held until its round is counted (R315). -/
def State.takeMarker (s : State) (p : Packet) : State :=
  let r := p.args.getD 0 0
  if r < s.rounds.next then s
  else State.endRecv { s with rounds := { s.rounds with got := put s.rounds.got (r * 512 + p.sdev) (p.args.getD 1 0) } }

/-- MARKER (R315). -/
def execMarker (s : State) : Host.Outcome State Fault Refusal :=
  let p := s.now.arg.p
  event s (if p.cls = 5 then s.arrive p fun s => s.takeMarker p.onLink else none)

/-- SLOT_RETURN_RESEND of the flow of (a, b) (R312). -/
def execSlotReturnResend (s : State) : Host.Outcome State Fault Refusal :=
  event s (if (s.findSerai s.now.arg.a s.now.arg.b).isSome then some (s.slotReturn s.now.arg.a s.now.arg.b) else none)

/-- SERAI_SLOT_RELEASE of the slot of (a, b), which holds nothing (R310). -/
def execSeraiSlotRelease (s : State) : Host.Outcome State Fault Refusal :=
  event s (match s.findSerai s.now.arg.a s.now.arg.b with
    | some f => if f.held.isEmpty && f.queue.isEmpty then
        some { s with serai := s.serai.filter fun g => !(g.sdev == f.sdev && g.scell == f.scell) } else none
    | none => none)

/-- FLOW_RECORD_RELEASE of the flow (a, b), which has nothing unacknowledged (R309). -/
def execFlowRecordRelease (s : State) : Host.Outcome State Fault Refusal :=
  event s (match s.findFlow s.now.arg.a s.now.arg.b with
    | some f => if f.buf.isEmpty then
        some { s with flows := s.flows.filter fun g => !(g.scell == f.scell && g.ddev == f.ddev) } else none
    | none => none)

/-- A message that has been sent and waits to be acknowledged, or for its LREPLY (R312, R313). -/
def FlowMsg.due (m : FlowMsg) : Bool := m.sent && !(m.acked && m.replied)

/-- RETRANSMIT_TIMEOUT of the message with SEQ `c` of flow (a, b): resent with RETX, its wait doubled; timers
stand still while the flow has no route.  A request that is acknowledged and waits for its LREPLY alone goes without FIRST, so
that it cannot open a slot and be performed again (R313, R318, R320, log 23). -/
def execRetransmitTimeout (s : State) : Host.Outcome State Fault Refusal :=
  event s do
    let f ← s.findFlow s.now.arg.a s.now.arg.b
    let m ← f.buf.find? (·.pkt.seq == s.now.arg.c)
    if !m.due || m.engine || s.dark f.ddev then none
    else
      let p := { m.pkt with retx := true, first := m.pkt.first && !m.acked }
      let s := s.setFlow { f with buf := f.buf.map fun (g : FlowMsg) => if g.pkt.seq = m.pkt.seq then { m with wait := min 64 (2 * m.wait) } else g }
      pure { s with out := s.out ++ [p] }

/-- NACK_RESEND of flow (a, b): after its wait the port sends every unacknowledged message that it holds again, FIRST on the
flow's oldest, be that the port's or the engine's; nothing is resent while the flow has no route (R310, R318, R335). -/
def execNackResend (s : State) : Host.Outcome State Fault Refusal :=
  event s do
    let f ← s.findFlow s.now.arg.a s.now.arg.b
    if !f.nackDue || s.dark f.ddev then none
    else
      let open' := f.buf.filter fun m => m.sent && !m.acked
      let oldest := open'.head?.map (·.pkt.seq)
      let pkts := (open'.filter fun m => !m.engine).map fun m =>
        { m.pkt with retx := true, first := m.pkt.first || some m.pkt.seq == oldest }
      let s := s.setFlow { f with nackDue := false }
      pure { s with out := s.out ++ pkts }

/-! ### Rounds (R315) -/

/-- A message of the stage table waits for the accesses before it (R382). -/
def State.stageHolds (s : State) : Bool := s.flows.any fun f => f.scell == 0xFFFF && f.buf.any fun m => !m.sent

/-- ROUND_TICK: a timed tick, or in round mode the tick that the stage table has requested, once the messages
before its request have been sent (R315, R377). -/
def execRoundTick (s : State) : Host.Outcome State Fault Refusal :=
  event s (
    if s.stage.mode = 1 then
      (if s.stage.asks && !s.stageHolds then some (State.roundTick { s with stage := { s.stage with asks := false } }) else none)
    else some s.roundTick)

/-- MARKER_RESEND: the latest marker to each module of the set (R315). -/
def execMarkerResend (s : State) : Host.Outcome State Fault Refusal :=
  event s (some (s.roundSet.foldl (fun s d => match look? s.rounds.markers d with
    | some (r, n) => s.portSend d 5 [r, n]
    | none => s) s))

/-- The DEVIDX values of a 64-byte mask at a VA (R319). -/
def State.readMask (s : State) (va : Nat) : Option (List Nat) :=
  (s.vaBytes (va / 64 * 64) 64).map fun l =>
    let x := ofBytes l
    (List.range 320).filter (bit x)

/-- RNDSET_WRITE of value `a`: the mask is read at the write; a module outside the reach mask is dropped from
the set at once (R314, R319). -/
def execRndsetWrite (s : State) : Host.Outcome State Fault Refusal :=
  let va := s.now.arg.a / 64 * 64
  event s (some (
    let s := { s with rndset := BitVec.ofNat 64 va }
    match s.readMask va with
    | some l => State.endRecv { s with rounds := { s.rounds with set := some (l.filter s.reaches) } }
    | none => s))

/-! ### Ports and plan changes (R318, R319) -/

def State.modPort (s : State) (q : Nat) (f : FabPort → FabPort) : State :=
  { s with fabports := put s.fabports q (f (look {} s.fabports q)) }

/-- DRAIN: packet `p` on the port in its a1: sent by this module, which stops routing new traffic there (`data`: the
groups then left without a route), or received from the peer (R318, log 19).  The a1 of the peer's too names this module's own
port (DESIGN CHOICE, log 19). -/
def execDrain (s : State) : Host.Outcome State Fault Refusal :=
  event s (
    let p := s.now.arg.p
    let q := p.args.getD 1 0
    if p.cls ≠ 7 || 16 ≤ q then none
    else if p.sdev = s.devidx.toNat then
      some ((s.reroute.modPort q fun x => { x with draining := true, next := p.args.getD 0 0 }).transmit p)
    else s.arrive p fun s => s.modPort q fun x => { x with drained := true })

/-- PORT_RELOCK of port `a`: a port that both ends have drained retrains and announces the new plan number; held sends
go on where there is a route again (R318, log 19). -/
def execPortRelock (s : State) : Host.Outcome State Fault Refusal :=
  let q := s.now.arg.a
  let x := look {} s.fabports q
  event s (if x.draining && x.drained then
      some (State.modPort { s.reroute with plan := x.next } q fun x => { x with draining := false, drained := false }).pumpAll else none)

/-- PARKMAX of PARKCTL: 7 is taken as 6 (R319). -/
def State.parkMax (s : State) : Nat := min 6 (bits s.parkctl.toNat 0 3)

/-- WAVELENGTH_PARK: port `a`, whose queue has been empty long enough, parks `b` wavelengths (R319). -/
def execWavelengthPark (s : State) : Host.Outcome State Fault Refusal :=
  let q := s.now.arg.a
  event s (if 16 ≤ q || s.parkMax < s.now.arg.b || (look {} s.fabports q).waking then none
    else some (s.modPort q fun x => { x with live := 8 - s.now.arg.b }))

/-- WAVELENGTH_WAKE: port `a` starts to wake all of its wavelengths (R319). -/
def execWavelengthWake (s : State) : Host.Outcome State Fault Refusal :=
  let q := s.now.arg.a
  event s (if 16 ≤ q || (look {} s.fabports q).live = 8 then none else some (s.modPort q fun x => { x with waking := true }))

/-- WAKE_DONE: port `a` runs at full width (R319). -/
def execWakeDone (s : State) : Host.Outcome State Fault Refusal :=
  let q := s.now.arg.a
  event s (if (look {} s.fabports q).waking then some (s.modPort q fun x => { x with waking := false, live := 8 }) else none)

end Sys2Proof.Machine
end

