-- ==== Sys2Proof/Machine/Caravan.lean ====
section
/-! DEFINITION. The Caravan engine: blocks, halves, waybills, merges, and the mixing forms (R322-R345, R359-R366). -/
namespace Sys2Proof.Machine

/-! ### f32 arithmetic without flags (R331) -/

def addF32 (a b : Nat) : Nat := (f32.add .rne a b).1
def subF32 (a b : Nat) : Nat := (f32.sub .rne a b).1
def divF32 (a b : Nat) : Nat := (f32.div .rne a b).1
def isNanF32 (a : Nat) : Bool := (f32.decode a).isNan
def finiteF32 (a : Nat) : Bool := bits a 23 8 != 255

/-- Round(w, f32, RNE) × 2^−40 (R336, R342). -/
def massF32 (w : Word) : Nat := (f32.roundDyadic .rne false ⟨w.toNat, -40⟩).1

/-- S_i and X_i − S_i: a zero remainder keeps the sign of the old X_i (R333). -/
def halveF32 (x : Nat) : Nat × Nat :=
  let s := (f32.mul .rne x 0x3F000000).1
  let r := subF32 x s
  (s, if r % 2 ^ 31 = 0 then bits x 31 1 * 2 ^ 31 else r)

/-- q, the mean squared difference of S / ms and X / m (R336). -/
def disagreement (xs ss : List Nat) (m ms : Nat) : Nat :=
  let d := (List.zip ss xs).foldl (fun d e =>
    let e := subF32 (divF32 e.1 ms) (divF32 e.2 m)
    (f32.fma .rne false false e e d).1) 0
  divF32 d (f32.ofInt .rne xs.length).1

/-- Round(D + (q − D) / 8), one rounding (R336). -/
def disagNext (d q : Nat) : Nat :=
  let eighth (x : Fp) : Fp := match x with | .fin n m e => .fin n m (e - 3) | x => x
  (f32.sum .rne false [some (f32.decode d), some (eighth (f32.decode q)), some (eighth (f32.decode d)).neg]).1

/-! ### Blocks (R328, R329, R334) -/

def State.block' (s : State) (g b : Nat) : Block := look {} (s.group g).blocks b

def State.setBlock (s : State) (g b : Nat) (x : Block) : State :=
  s.setGroup g { s.group g with blocks := put (s.group g).blocks b x }

/-- MIXST (R329). -/
def Block.status (b : Block) : Nat :=
  b.zm.toNat + 2 * b.nanrej.toNat + 4 * b.quar.toNat + 8 * b.hold.toNat + 16 * b.left.toNat + 32 * b.refd.toNat
    + 2 ^ 8 * b.waybills.length + 2 ^ 11 * (b.waybills.any (·.2.doubt)).toNat

/-- The block record (R328). -/
def Block.toNat (b : Block) : Nat :=
  b.w.toNat + 2 ^ 64 * b.doubt.toNat + 2 ^ 128 * b.disag.toNat + 2 ^ 160 * b.status + 2 ^ 192 * b.nan.toNat
    + 2 ^ 224 * b.tick.toNat + 2 ^ 256 * b.nsend.toNat + 2 ^ 288 * b.every.toNat + 2 ^ 304 * b.len.toNat
    + 2 ^ 320 * b.timeout.toNat + 2 ^ 352 * b.retry.toNat + 2 ^ 360 * b.stride.toNat + 2 ^ 368 * b.offset.toNat
    + 2 ^ 376 * b.peers.length

/-- A waybill's 192 bits (R334). -/
def Waybill.toNat (w : Waybill) : Nat :=
  w.seq.toNat + 2 ^ 32 * w.peer.toNat + 2 ^ 48 * w.fseq.toNat + 2 ^ 64 * w.ws.toNat + 2 ^ 128 * w.tries.toNat
    + 2 ^ 136 * w.doubt.toNat + 2 ^ 137 * w.leave.toNat

/-- X changed, QUAR set when it holds a non-finite value. -/
def Block.withX (b : Block) (x : List Nat) : Block := { b with x := x, quar := b.quar || !x.all finiteF32 }

/-- The peer of the schedule at send count n (R330). -/
def Block.peerAt (b : Block) (n : Nat) : Nat :=
  (b.peers.getD ((n % 2 ^ 32 * b.stride.toNat + b.offset.toNat) % b.peers.length) 0).toNat

/-! ### Halves (R335) -/

/-- Element i of S as a chunk carries it.  Past LEN the spec gives it no value: a free one, the same at each resend
(log 6). -/
def Waybill.element (w : Waybill) (g blk i : Nat) : Nat :=
  w.s.getD i (Config.freeWord (2 ^ 128 + i + 2 ^ 15 * blk + 2 ^ 27 * g + 2 ^ 33 * w.seq.toNat) % 2 ^ 32)

/-- The chunks of S, 4,096 bytes each, and the trailer: class, arguments, payload (R335). -/
def halfMessages (g blk : Nat) (w : Waybill) : List (Nat × List Nat × List Nat) :=
  let a0 := blk + 2 ^ 12 * g
  let n := (w.s.length + 1023) / 1024
  let chunk (c : Nat) : Nat × List Nat × List Nat :=
    (8, [a0 + 2 ^ 32 * c, w.seq.toNat, w.s.length, 0],
      ((List.range 1024).map fun i =>
        let x := w.element g blk (1024 * c + i);
        [x % 256, x / 2 ^ 8 % 256, x / 2 ^ 16 % 256, x / 2 ^ 24 % 256]).flatten)
  (List.range n).map chunk ++ [(10, [a0, w.ws.toNat, w.seq.toNat + 2 ^ 32 * w.leave.toNat, n], [])]

/-- One message of the engine of group `g`. -/
def State.enginePacket (s : State) (g dev : Nat) (m : Nat × List Nat × List Nat) : Packet × State :=
  let (h, s) := s.header
  ({ h with ddev := dev, scell := 0xFF00 + g, cls := m.1, args := m.2.1, paylen := m.2.2.length, paddr := 0, payload := m.2.2 }, s)

/-- The flow takes a whole half. -/
def State.halfRoom (s : State) (g dev len : Nat) : Bool :=
  let used := match s.findFlow (0xFF00 + g) dev with | some f => f.buf.length | none => 0
  s.flowRoom (0xFF00 + g) dev && used + (len + 1023) / 1024 + 1 ≤ 32 && !s.dark dev

/-- The first transmission of a half; its port keeps no copy. -/
def State.sendHalf (s : State) (g blk : Nat) (w : Waybill) : State :=
  (halfMessages g blk w).foldl (fun s m =>
    let (p, s) := s.enginePacket g w.peer.toNat m
    s.sendOn p none [] false true) s

/-- A waybill's messages sent again: their flow SEQs and round, RETX, FIRST as given (R335). -/
def State.resendHalf (s : State) (g blk : Nat) (w : Waybill) (first : Bool) : State :=
  (List.range ((w.s.length + 1023) / 1024 + 1)).foldl (fun s i =>
    match (halfMessages g blk w)[i]? with
    | some m =>
      let (p, s) := s.enginePacket g w.peer.toNat m
      { s with out := s.out ++ [{ p with
          seq := (w.fseq.toNat + i) % 65536, rnd := w.rnd % 4096, retx := true, first := first && i == 0 }] }
    | none => s) s

/-! ### Reclaim and freeing (R337, R339) -/

/-- A waybill ends; one in doubt leaves MIXDOUBT (R338). -/
def Block.settle (b : Block) (pos : Nat) (w : Waybill) : Block :=
  { b with waybills := del b.waybills pos, doubt := if w.doubt then b.doubt - w.ws else b.doubt }

/-- A reclaim: mass and values come back (R339). -/
def Block.reclaim (b : Block) (pos : Nat) (w : Waybill) : Block :=
  ({ b with w := b.w + w.ws }.withX (List.zipWith addF32 b.x w.s)).settle pos w

/-- A half is sent with a new waybill in the lowest free position; a peer outside the reach mask completes it
with UNREACH at once, and it is reclaimed (R333, R334, R339). -/
def State.ship (s : State) (g blk peer : Nat) (b : Block) (ss : List Nat) (ws : Word) (leave : Bool) : State :=
  let pos := (firstBelow 4 fun k => (look? b.waybills k).isNone).getD 0
  let flow := s.findFlow (0xFF00 + g) peer
  let w : Waybill :=
    { seq := b.nsend, peer := BitVec.ofNat 9 peer, ws := ws, leave := leave, s := ss, first := flow.isNone
      fseq := BitVec.ofNat 16 ((flow.map (·.next)).getD 0), rnd := s.rounds.send }
  let b := { b with nsend := b.nsend + 1, waybills := put b.waybills pos w }
  if s.reaches peer then (s.setBlock g blk b).sendHalf g blk w else s.setBlock g blk (b.reclaim pos w)

/-! ### Ticks and leaves (R332, R333, R341, R363) -/

/-- A tick sends when nothing of R332 holds it. -/
def Block.sends (b : Block) : Bool :=
  b.len != 0 && b.every != 0 && b.tick.toNat % b.every.toNat == 0 && !b.hold && !b.quar && !b.left && 2 ≤ b.w.toNat
    && !b.peers.isEmpty && b.waybills.length < 4

/-- MIXTICK; none while the flow has no room for the half. -/
def State.mixTick (s : State) (g blk : Nat) : Option State :=
  let b := { s.block' g blk with tick := (s.block' g blk).tick + 1 }
  if !b.sends then some (s.setBlock g blk b)
  else
    let peer := b.peerAt b.nsend.toNat
    if peer = s.devidx.toNat then some (s.setBlock g blk { b with nsend := b.nsend + 1 })
    else if s.reaches peer && !s.halfRoom g peer b.len.toNat then none
    else
      let hs := b.x.map halveF32
      let ws := b.w >>> 1
      some (s.ship g blk peer { b with x := hs.map (·.2), w := b.w - ws } (hs.map (·.1)) ws false)

/-- The leave's peer, and by how much n advances to it (R341). -/
def Block.leavePeer (b : Block) (own : Nat) : Option (Nat × Nat) :=
  match firstBelow b.peers.length fun k => b.peerAt (b.nsend.toNat + k) != own with
  | some k => some (k, b.peerAt (b.nsend.toNat + k))
  | none => (b.peers.find? (·.toNat != own)).map fun d => (b.peers.length, d.toNat)

/-- MIXLEAVE; none while it waits for a waybill or for room (R341, R363). -/
def State.mixLeave (s : State) (g blk : Nat) : Option State :=
  let b := s.block' g blk
  if b.len = 0 ∨ b.w = 0 then some (s.setBlock g blk { b with left := true })
  else match b.leavePeer s.devidx.toNat with
    | none => some s
    | some (k, peer) =>
      if 4 ≤ b.waybills.length || (s.reaches peer && !s.halfRoom g peer b.len.toNat) then none
      else
        let b' := { b with nsend := b.nsend + BitVec.ofNat 32 k, x := b.x.map fun _ => 0, w := 0, left := true }
        some (s.ship g blk peer b' b.x b.w true)

/-! ### Configuration, contributions, reads (R331, R341, R342, R360-R365) -/

/-- LEN of a configuration: 0 for a length that is not allowed (R360). -/
def mixLen (n : Nat) : Nat := if n % 256 = 0 ∧ 256 ≤ n ∧ n ≤ 16384 then n else 0

/-- MIXCFG and MIXJOIN: all but the peer list and its schedule is cleared. -/
def Block.configure (b : Block) (len : Nat) (w : Word) : Block :=
  { w := w, len := BitVec.ofNat 15 len, x := List.replicate len 0, stride := b.stride, offset := b.offset, peers := b.peers }

/-- MIXADD: the status and the block (R331, R362). -/
def Block.contribute (b : Block) (len : Nat) (g : List Nat) : Nat × Block :=
  if len = 0 ∨ b.len.toNat ≠ len ∨ b.left then (2, b)
  else if g.any isNanF32 then (1, { b with nan := if b.nan = 0xFFFFFFFF then b.nan else b.nan + 1, nanrej := true })
  else (0, { b with nanrej := false }.withX (List.zipWith addF32 b.x g))

/-- MIXREAD's y and ZM (R342). -/
def Block.readY (b : Block) : List Nat × Block :=
  if b.w = 0 then (b.x.map fun _ => 0x7FC00000, { b with zm := true })
  else (b.x.map fun x => divF32 x (massF32 b.w), { b with zm := false })

/-- MIXSTAT's value (R365). -/
def Block.stat (b : Block) (q : Nat) : Nat :=
  if q < 8 then bits b.toNat (64 * q) 64
  else if 20 ≤ q then 0
  else match look? b.waybills (q % 4) with
    | some w => bits w.toNat (64 * ((q - 8) / 4)) 64
    | none => 0

/-- The result of an operation returns to its register. -/
def State.mixReply (s : State) (id : Option Nat) (v : Nat) : State :=
  match id with
  | some i => s.deliver i v
  | none => s

/-- Bytes of a MIXREAD's y go to the rows, as many as the event's `b` says (all for 0), in ascending order; the status returns
behind the last.  Until then nothing else of the block is applied (R207, R344, R364). -/
def State.mixWrite (s : State) (g : Nat) (op : MixOp) (cell addr : Nat) (data : List Byte) (status : Nat) : State :=
  let n := if s.now.arg.b = 0 then data.length else min s.now.arg.b data.length
  let s := s.padWrite cell addr n (ofBytes (data.take n))
  if n = data.length then s.mixReply op.id status
  else s.setGroup g { s.group g with ops := { op with kind := .write cell (addr + n) (data.drop n) status } :: (s.group g).ops }

/-- An accepted operation applied whole, but for the writes of a MIXREAD (R344, R359, R364). -/
def State.applyMix (s : State) (g : Nat) (op : MixOp) : Option State :=
  let b := s.block' g op.block
  match op.kind with
  | .cfg n => some (s.setBlock g op.block (b.configure n (2 ^ 40)))
  | .join n => some (s.setBlock g op.block (b.configure n 0))
  | .peer p stride offset list =>
    let ok := p ≤ 62 && list.all (· ≤ 319)
    some (s.setBlock g op.block { b with
      stride := BitVec.ofNat 8 stride, offset := BitVec.ofNat 8 offset, peers := if ok then list.map (BitVec.ofNat 9) else [] })
  | .add len l =>
    let (st, b') := b.contribute len l
    some ((s.setBlock g op.block b').mixReply op.id st)
  | .tick => s.mixTick g op.block
  | .leave => s.mixLeave g op.block
  | .hold on => some (s.setBlock g op.block { b with hold := on })
  | .stat q => some (s.mixReply op.id (b.stat q))
  | .read len cell addr =>
    if len = 0 ∨ b.len.toNat ≠ len then some (s.mixReply op.id (2 ^ 64 - 1))
    else
      let (y, b') := b.readY
      some ((s.setBlock g op.block b').mixWrite g op cell addr (toBytes (4 * len) (packElems 32 y)) b'.status)
  | .write cell addr data status => some (s.mixWrite g op cell addr data status)

/-- The first accepted operation that no earlier one of its block or its context precedes and that can be
applied now. -/
def mixTurn (ops : List MixOp) (k : Nat) (o : MixOp) : Bool :=
  !((ops.take k).any fun e => e.block == o.block || (e.cell == o.cell && e.ctx == o.ctx))

/-- MIX_OPERATION_APPLY of group `a` (R344). -/
def execMixOperationApply (s : State) : Host.Outcome State Fault Refusal :=
  let g := s.now.arg.a
  let ops := (s.group g).ops
  event s (if s.stopped then none else (List.range ops.length).findSome? fun k => do
    let o ← ops[k]?
    if mixTurn ops k o then (s.setGroup g { s.group g with ops := removeAt ops k }).applyMix g o else none)

/-! ### Halves received (R336) -/

/-- A chunk is staged by source, block and half SEQ; a fifth half waits. -/
def Group.stage (x : Group) (sdev blk seq c len : Nat) (data : List Nat) : Option Group :=
  let here (h : Staged) : Bool := h.sdev == sdev && h.block == blk && h.seq == seq
  match x.staged.find? here with
  | some _ =>
    some { x with staged := x.staged.map fun (h : Staged) => if here h then { h with chunks := put h.chunks c (len, data) } else h }
  | none =>
    if 4 ≤ x.staged.length then none
    else some { x with staged := x.staged ++ [{ sdev := sdev, block := blk, seq := seq, chunks := [(c, (len, data))] }] }

/-- f32 values of a payload. -/
def payloadF32 : Nat → List Nat → List Nat
  | 0, _ => []
  | n + 1, l => (l.getD 0 0 + 2 ^ 8 * l.getD 1 0 + 2 ^ 16 * l.getD 2 0 + 2 ^ 24 * l.getD 3 0) :: payloadF32 n (l.drop 4)

/-- A message whose turn it is for a Caravan engine; the engines start nothing while the module is halted (R256). -/
def State.engineHead (s : State) (cls : Nat) : Option Packet := if s.stopped then none else s.flowHead cls

/-- HALF: chunk of the flow of (a, b) is staged (R336). -/
def execHalf (s : State) : Host.Outcome State Fault Refusal :=
  event s do
    let p ← s.engineHead 8
    let a0 := p.args.getD 0 0
    let g := bits a0 12 6
    if !s.reaches p.sdev || 48 ≤ g then pure (s.builtinDone p)
    else
      let x ← (s.group g).stage p.sdev (bits a0 0 12) (bits (p.args.getD 1 0) 0 32) (bits a0 32 32) (p.args.getD 2 0)
        (payloadF32 (p.payload.length / 4) p.payload)
      pure ((s.setGroup g x).builtinDone p)

/-- The half merged into the block: disagreement before the merge, then values and mass (R336). -/
def Block.merge (b : Block) (ss : List Nat) (ws : Word) : Block :=
  let disag := if b.w ≠ 0 ∧ ss.all finiteF32 ∧ b.x.all finiteF32 then
      BitVec.ofNat 32 (disagNext b.disag.toNat (disagreement b.x ss (massF32 b.w) (massF32 ws)))
    else b.disag
  { b with disag := disag, w := b.w + ws }.withX (List.zipWith addF32 b.x ss)

/-- The half is recorded: the last 8 of its source, the last 256 sources (R336). -/
def Block.record (b : Block) (src seq : Nat) : Block :=
  let l := (look? b.merged src).getD [] ++ [seq]
  let m := (b.merged.filter (·.1 != src)) ++ [(src, l.drop (l.length - 8))]
  { b with merged := m.drop (m.length - 256) }

/-- The S of a staged half: every chunk there, each with the block's LEN. -/
def stagedHalf (h : Option Staged) (n len : Nat) : Option (List Nat) := do
  let h ← h
  let cs := (List.range n).map fun c => look? h.chunks c
  if len ≠ 0 ∧ n ≠ 0 ∧ cs.all (fun c => match c with | some (l, _) => l == len | none => false) then
    let ss := (cs.map fun c => match c with | some (_, d) => d | none => []).flatten
    if ss.length < len then none else some (ss.take len)
  else none

/-- TRAILER: the half of the flow of (a, b) is merged, found a duplicate, or refused (R336). -/
def execTrailer (s : State) : Host.Outcome State Fault Refusal :=
  event s do
    let p ← s.engineHead 10
    let a0 := p.args.getD 0 0
    let blk := bits a0 0 12
    let g := bits a0 12 6
    let seq := bits (p.args.getD 2 0) 0 32
    if !s.reaches p.sdev || 48 ≤ g then pure (s.builtinDone p)
    else if !s.flowRoom (0xFF00 + g) p.sdev then none
    else
      let b := s.block' g blk
      let here (h : Staged) : Bool := h.sdev == p.sdev && h.block == blk && h.seq == seq
      let half := stagedHalf ((s.group g).staged.find? here) (p.args.getD 3 0) b.len.toNat
      let s1 := s.setGroup g { s.group g with staged := (s.group g).staged.filter fun h => !here h }
      let (s2, st) :=
        if ((look? b.merged p.sdev).getD []).contains seq then (s1, 1)
        else match (if b.left then none else half) with
          | none => (s1, 2)
          | some ss => (s1.setBlock g blk ((b.merge ss (BitVec.ofNat 64 (p.args.getD 1 0))).record p.sdev seq), 0)
      pure ((s2.sendAck g blk p.sdev seq st).builtinDone p)

/-- ACK: the half of the flow of (a, b) names a waybill, which is freed or reclaimed, or none (R337). -/
def execAck (s : State) : Host.Outcome State Fault Refusal :=
  event s do
    let p ← s.engineHead 9
    let a0 := p.args.getD 0 0
    let blk := bits a0 0 12
    let g := bits a0 12 6
    let b := s.block' g blk
    match (if g < 48 then b.waybills.find? fun e => e.2.seq.toNat == bits (p.args.getD 1 0) 0 32 && e.2.peer.toNat == p.sdev else none) with
    | none => pure (s.builtinDone p)
    | some (pos, w) =>
      let b' := if bits (p.args.getD 2 0) 0 8 = 2 then { b.reclaim pos w with refd := true } else b.settle pos w
      pure ((s.setBlock g blk b').builtinDone p)

/-! ### Deadlines and resends (R335, R338) -/

/-- WAYBILL_DEADLINE of waybill `c` of block `b` of group `a`; while the flow has no route nothing is resent, and the
deadline is acted on once it has one (R318, R338). -/
def execWaybillDeadline (s : State) : Host.Outcome State Fault Refusal :=
  event s do
    let g := s.now.arg.a
    let blk := s.now.arg.b
    let b := s.block' g blk
    let w ← if s.stopped then none else look? b.waybills s.now.arg.c
    if s.dark w.peer.toNat then none
    else
      let doubts := !w.doubt && b.retry.toNat ≤ w.tries.toNat
      let w' := { w with doubt := w.doubt || doubts, tries := if w.tries = 255 then 255 else w.tries + 1 }
      let b' := { b with waybills := put b.waybills s.now.arg.c w', doubt := if doubts then b.doubt + w.ws else b.doubt }
      pure ((s.setBlock g blk b').resendHalf g blk w w.first)

/-- Waybills of a group to a module, oldest flow SEQ first. -/
def State.waybillsTo (s : State) (g dev : Nat) : List (Nat × Waybill) :=
  let ws := ((s.group g).blocks.map fun e => (e.2.waybills.filter (·.2.peer.toNat == dev)).map fun w => (e.1, w.2)).flatten
  let next := ((s.findFlow (0xFF00 + g) dev).map (·.next)).getD 0
  let key (w : Waybill) : Nat := (w.fseq.toNat + 65536 - next % 65536) % 65536
  let rec place (e : Nat × Waybill) : List (Nat × Waybill) → List (Nat × Waybill)
    | [] => [e]
    | h :: r => if key e.2 < key h.2 then e :: h :: r else h :: place e r
  ws.foldl (fun l e => place e l) []

/-- ENGINE_NACK_RESEND of group `a` to module `b`: every outstanding waybill's messages in flow order, FIRST on
the oldest; TRIES and deadlines stay (R335). -/
def execEngineNackResend (s : State) : Host.Outcome State Fault Refusal :=
  let g := s.now.arg.a
  let dev := s.now.arg.b
  event s (if s.stopped || !(s.group g).nacks.contains dev || s.dark dev then none
    else
      let s1 := s.setGroup g { s.group g with nacks := (s.group g).nacks.filter (· != dev) }
      let ws := s1.waybillsTo g dev
      some ((List.range ws.length).foldl (fun s i => match ws[i]? with
        | some (blk, w) => s.resendHalf g blk w (i == 0 || w.first)
        | none => s) s1))

/-! ### The forms (R359-R365) -/

/-- The block a mixing form names; PERM when there is none such (R359). -/
def mixBlock (a : Word) : Except Stop Nat :=
  if 4096 ≤ bits a.toNat 0 16 then .error (.trap causePerm a) else .ok (bits a.toNat 0 16)

/-- The form is accepted by the engine of the cell's group, and its block becomes the current one (R323, R344). -/
def State.mixAccept (s : State) (blk : Nat) (kind : MixKind) (id : Option Nat) : State :=
  let g := groupOf s.now.cell
  let op : MixOp := { cell := s.now.cell, ctx := s.now.ctx, block := blk, kind := kind, id := id }
  (s.setGroup g { s.group g with ops := (s.group g).ops ++ [op] }).modCur fun x => { x with block := BitVec.ofNat 12 blk }

/-- LEN at issue: after the context's own configurations that are still on their way (R359, log 24). -/
def State.issueLen (s : State) (blk : Nat) : Nat :=
  let g := groupOf s.now.cell
  let own := (s.group g).ops.reverse.findSome? fun o =>
    if o.cell = s.now.cell ∧ o.ctx = s.now.ctx ∧ o.block = blk then
      (match o.kind with | .cfg n => some n | .join n => some n | _ => none) else none
  own.getD (s.block' g blk).len.toNat

/-- CHECK on an operand that the form reads (R203). -/
def State.checkLocal (s : State) (a n : Nat) : Except Stop Unit :=
  match s.badLocal a n with
  | some e => .error (.trap causeCheck (BitVec.ofNat 64 e))
  | none => .ok ()

def mixcfgBody (a b : Reg) (kind : Nat → MixKind) : Body := fun s => do
  let blk ← mixBlock (s.s a)
  pure { s := s.mixAccept blk (kind (mixLen (s.s b).toNat)) none }

def execMixcfg (a b : Reg) (s : State) := issue (.mixcfg a b) s (mixcfgBody a b .cfg)
def execMixjoin (a b : Reg) (s : State) := issue (.mixjoin a b) s (mixcfgBody a b .join)

/-- MIXPEER (R361): its record is read at issue (R347). -/
def mixpeerBody (a b : Reg) : Body := fun s => do
  let ops := s.kept ((s.s b).toNat + 2 ^ 64 * (s.s a).toNat)
  let blk ← mixBlock (BitVec.ofNat 64 (ops / 2 ^ 64))
  let r := bits ops 0 64
  s.block r 4 16
  -- the first unit holds the count, as it has been read
  let p := (s.word? 1024).getD (s.localRead r 2) % 2 ^ 16
  let n := min p 62
  s.block r (4 + 2 * n) 16
  s.checkLocal r (4 + 2 * n)
  let (s, rd) ← s.gather ops 16 0 r (4 + 2 * n)
  let list := (List.range n).map fun q => rd.localRead (r + 4 + 2 * q) 2
  pure { s := s.mixAccept blk (.peer p (rd.localRead (r + 2) 1) (rd.localRead (r + 3) 1) list) none }

def execMixpeer (a b : Reg) (s : State) := issue (.mixpeer a b) s (mixpeerBody a b)

/-- The form's result returns from the engine. -/
def State.mixResult (s : State) (d : Reg) (blk : Nat) (kind : MixKind) : State :=
  let id := s.nextId
  (s.enter (Access.of 0 noHome .reply (.s d))).mixAccept blk kind (some id)

/-- MIXADD (R362): its contribution, of as many elements as the block has at issue, is read then (R347). -/
def mixaddBody (d a b : Reg) : Body := fun s => do
  let blk0 ← mixBlock (s.s a)
  let ops := s.kept ((s.s b).toNat + 2 ^ 64 * blk0 + 2 ^ 80 * s.issueLen blk0)
  let blk := bits ops 64 16
  let len := ops / 2 ^ 80
  let r := bits ops 0 64
  s.block r (4 * len) 16
  s.checkLocal r (4 * len)
  let (s, rd) ← s.gather ops 16 0 r (4 * len)
  pure { s := s.mixResult d blk (.add len ((List.range len).map fun i => rd.localRead (r + 4 * i) 4)) }

def execMixadd (d a b : Reg) (s : State) := issue (.mixadd d a b) s (mixaddBody d a b)

def mixtickBody (a : Reg) : Body := fun s => do
  let blk ← mixBlock (s.s a)
  pure { s := s.mixAccept blk .tick none }

def execMixtick (a : Reg) (s : State) := issue (.mixtick a) s (mixtickBody a)

/-- MIXREAD: until its status has returned the context makes no access (R364). -/
def mixreadBody (d a b : Reg) : Body := fun s => do
  let blk ← mixBlock (s.s a)
  let len := s.issueLen blk
  let r := (s.s b).toNat
  s.block r (4 * len) 16
  let id := s.nextId
  let s' := s.mixResult d blk (.read len s.now.cell (s.localAddr s.now.cell s.cur r))
  pure { s := s'.modCur fun x => { x with mixreads := x.mixreads ++ [id] } }

def execMixread (d a b : Reg) (s : State) := issue (.mixread d a b) s (mixreadBody d a b)

def mixstatBody (d a b : Reg) : Body := fun s => do
  let blk ← mixBlock (s.s a)
  pure { s := s.mixResult d blk (.stat (bits (s.s b).toNat 0 5)) }

def execMixstat (d a b : Reg) (s : State) := issue (.mixstat d a b) s (mixstatBody d a b)

def mixleaveBody (a : Reg) : Body := fun s => do
  let blk ← mixBlock (s.s a)
  pure { s := s.mixAccept blk .leave none }

def execMixleave (a : Reg) (s : State) := issue (.mixleave a) s (mixleaveBody a)

def mixholdBody (a b : Reg) : Body := fun s => do
  let blk ← mixBlock (s.s a)
  pure { s := s.mixAccept blk (.hold (bit (s.s b).toNat 0)) none }

def execMixhold (a b : Reg) (s : State) := issue (.mixhold a b) s (mixholdBody a b)

/-! ### NACK and REACH (R307, R310, R313, R318, R339) -/

/-- A NACK of cause 1 makes a resend due: after 64 router cycles for the first, and twice as long for each further one
(R310). -/
def Flow.nacked (f : Flow) : Flow :=
  { f with nackDue := true, nackWait := if f.nackWait = 0 then 64 else min 4096 (2 * f.nackWait) }

/-- NACK `p` at the sender: cause 1 makes the flow's messages be sent again, by the engine on its own flow; cause 2
records LOCALRANGE, cause 6 CAPDENY (R306, R307, R310, R298). -/
def State.takeNack (s : State) (p : Packet) : State :=
  let scell := bits (p.args.getD 0 0) 16 16
  let cause := bits (p.args.getD 1 0) 0 8
  let seq := bits (p.args.getD 0 0) 0 16
  let launch := s.launchSent scell p.sdev seq
  match cause with
  | 1 =>
    let s := match s.findFlow scell p.sdev with
      | some f => s.setFlow f.nacked
      | none => s
    let g := scell - 0xFF00
    if 0xFF00 ≤ scell && g < 48 && !(s.group g).nacks.contains p.sdev then
      s.setGroup g { s.group g with nacks := (s.group g).nacks ++ [p.sdev] } else s
  | 2 => s.recordError launch 0x0F scell
  | 6 => match s.mremAt scell p.sdev (bits (p.args.getD 0 0) 0 16) with
    | some r => s.mremFinish r 6 0
    | none => s
  | _ => s.recordError launch cause scell

/-- NACK (R307). -/
def execNack (s : State) : Host.Outcome State Fault Refusal :=
  let p := s.now.arg.p
  event s (if p.cls = 4 then s.arrive p fun s => s.takeNack p.onLink else none)

/-- Every message of a flow to a module completes with UNREACH: a load or AMO that has no reply yet writes 0, ERRSUM records it.  The
record keeps its next SEQ until it has been idle long enough (R219, R309, R313). -/
def State.unreachFlow (s : State) (f : Flow) : State :=
  let s := s.setFlow { f with buf := [] }
  f.buf.foldl (fun s m => match m.access, m.owner with
    | some id, _ => match s.access id with
      | some a => if a.phase = .sent f.ddev m.pkt.seq then s.failAccess a 0x0B else s
      | none => s
    | none, some (l, lcell) => s.recordError l 0x0B lcell
    | none, none => if 16 ≤ m.pkt.cls then s.recordError (s.launchOf f.scell) 0x0B f.scell else s) s

/-- The engines take back every waybill to a module that is gone and drop what it staged (R336, R339). -/
def State.unreachEngines (s : State) (gone : Nat → Bool) : State :=
  { s with groups := s.groups.map fun e =>
      (e.1, { e.2 with
        staged := e.2.staged.filter fun h => !gone h.sdev
        blocks := e.2.blocks.map fun b =>
          (b.1, b.2.waybills.foldl (fun x w => if gone w.2.peer.toNat then x.reclaim w.1 w.2 else x) b.2) }) }

/-- REACH_WRITE of value `a`: the mask is read at the write, flows to modules outside it complete, and they leave
the round set (R313, R314, R318, R339). -/
def execReachWrite (s : State) : Host.Outcome State Fault Refusal :=
  let va := s.now.arg.a / 64 * 64
  event s (some (
    let s := { s with reachva := BitVec.ofNat 64 va }
    match s.readMask va with
    | none => s
    | some l =>
      let s := { s with reach := some l }
      let gone (d : Nat) : Bool := !s.reaches d
      let s := { s with rounds := { s.rounds with set := s.rounds.set.map fun (r : List Nat) => r.filter fun d => !gone d } }
      let s := (s.flows.filter fun f => gone f.ddev).foldl State.unreachFlow s
      let s := (s.mrems.filter fun r => gone r.dev).foldl (fun s r => s.mremFinish r 5 0) s
      (s.unreachEngines gone).endRecv))

end Sys2Proof.Machine
end

