-- ==== Sys2Proof/Machine/Compact.lean ====
section
/-! DEFINITION. The sixteen compact forms: each has the effect of its 32-bit equivalent (R78). -/
namespace Sys2Proof.Machine

/-- I5, sign-extended (R78). -/
def imm5 (i : BitVec 5) : Word := i.signExtend 64

def execCMv (d a : Reg) (s : State) := issue (.cMv d a) s (opImm d a 0 (· + ·))
def execCAdd (d a : Reg) (s : State) := issue (.cAdd d a) s (op2 d d a (· + ·))
def execCSub (d a : Reg) (s : State) := issue (.cSub d a) s (op2 d d a (· - ·))
def execCAnd (d a : Reg) (s : State) := issue (.cAnd d a) s (op2 d d a (· &&& ·))
def execCOr (d a : Reg) (s : State) := issue (.cOr d a) s (op2 d d a (· ||| ·))
def execCXor (d a : Reg) (s : State) := issue (.cXor d a) s (op2 d d a (· ^^^ ·))
def execCAddi (d : Reg) (i : BitVec 5) (s : State) := issue (.cAddi d i) s (opImm d d (imm5 i) (· + ·))
def execCLi (d : Reg) (i : BitVec 5) (s : State) := issue (.cLi d i) s (writes d fun _ => imm5 i)
def execCSlli (d : Reg) (i : BitVec 5) (s : State) := issue (.cSlli d i) s (writes d fun s => shl (s.s d) i.toNat)
def execCSrli (d : Reg) (i : BitVec 5) (s : State) := issue (.cSrli d i) s (writes d fun s => shr (s.s d) i.toNat)
def execCSrai (d : Reg) (i : BitVec 5) (s : State) := issue (.cSrai d i) s (writes d fun s => sar (s.s d) i.toNat)

/-- A trap of a compact form reports the 16-bit instruction: R78 says so of every trap of one, where R222 and R244 have the
address in TRAPVAL for the equivalent's address traps (DEDUCED, log 17). -/
def compactTrap (i : Instr) (body : Body) : Body := fun s =>
  match body s with
  | .error (.trap cause _) => .error (.trap cause (BitVec.ofNat 64 (value i s.now.sw % 2 ^ 16)))
  | r => r

/-- The 64-bit private-row forms with offset 0: Z = 6. -/
def execCLdl (d a : Reg) (s : State) := issue (.cLdl d a) s (compactTrap (.cLdl d a) (loadNear false d a 6 0))
def execCStl (d a : Reg) (s : State) := issue (.cStl d a) s (compactTrap (.cStl d a) (storeNear false d a 6 0))

def execCBnez (d : Reg) (i : BitVec 5) (s : State) :=
  issue (.cBnez d i) s (branch d 0 (i.signExtend 11) fun x y => x != y)

/-- No link: the link register of the equivalent is s0. -/
def execCJreg (a : Reg) (s : State) := issue (.cJreg a) s (jumpReg 0 a 0 link)

def execCEndtask (s : State) := issue .cEndtask s (endtaskBody 0)

end Sys2Proof.Machine
end

