-- ==== Sys2Proof/Machine/Engine.lean ====
section
/-! DEFINITION. Memory accesses of copy engines and matrix units (R178, R181, R195, R203, R271). -/
namespace Sys2Proof.Machine

/-- The work that waits. -/
def Parked.work : Parked → Option Nat
  | .transfer _ id => some id
  | .command _ id => some id
  | .stage id => some id
  | _ => none

/-- A fault of engine work at a VA: the slice records it with ENG, and the work leaves its miss port for the replay queue; none
while the queue is full (R198, R200, R271). -/
def State.unitPark (s : State) (va : Nat) (write mal : Bool) (p : Parked) : Option State :=
  let sl := sliceOf va
  if (look {} s.slices sl).full 1 then none
  else
    let s1 := s.recordFault sl (va / 4096) write mal true
    let s1 := match p.work with | some id => s1.leavePort id | none => s1
    some (s1.setSlice sl { s1.slice sl with replay := (s1.slice sl).replay ++ [p] })

/-- The fault of a walk. -/
def State.walkMal (s : State) (va : Nat) : Bool := match s.walk va with | .fault m => m | _ => false

/-- A type code's load of `n` bytes, zero-extended (R72). -/
def zeroLoad (n : Nat) : AccOp := .load (if n = 1 then 1 else if n = 2 then 3 else if n = 4 then 5 else 6)

/-- `n` bytes (1, 2, 4 or 8) at an aligned VA read for engine work; a value that came from another module stays in
flight until the work clears it. -/
def State.unitRead (s : State) (j : Job') (va n : Nat) : Reach Nat :=
  match s.unitTranslate j.tlb j.id va false with
  | (none, _) => .park va false (s.walkMal va)
  | (some (.at l), s) =>
    match l.place with
    | .remote dev pa =>
      match s.inflight.find? fun a => a.unit == some j.id && a.va == va && a.op == zeroLoad n with
      | some a => match a.phase with
        | .done v _ => .got (v % 2 ^ (8 * n)) s
        | .failed c => .fail (statusOf c)
        | _ => .wait none
      | none => if !s.reaches dev then .fail 5 else .wait (s.unitSend j va l.key dev pa (zeroLoad n) l.chk)
    | p =>
      if s.placeBad p && !l.chk then .fail 1
      else
        let s := if s.placeBad p then s.recordError j.launch 0x05 j.lcell else s
        match s.placeRead p l.key n with
        | some (x, s') => .got x s'
        | none => .fail 2
  | (some .miss, s) => .wait (some s)
  | (some .bad, _) => .fail 1
  | (some _, _) => .fail 2

/-- An indivisible update at a VA's home for engine work; the value it answers (R275). -/
def State.unitUpdate (s : State) (j : Job') (va : Nat) (op : AccOp) : Reach Nat :=
  match s.unitTranslate j.tlb j.id va true with
  | (none, _) => .park va true (s.walkMal va)
  | (some (.at l), s) =>
    match l.place with
    | .remote dev pa =>
      match s.inflight.find? fun a => a.unit == some j.id && a.va == va && a.op == op with
      | some a => match a.phase with
        | .done v _ => .got v s
        | .failed c => .fail (statusOf c)
        | _ => .wait none
      | none => if !s.reaches dev then .fail 5 else .wait (s.unitSend j va l.key dev pa op l.chk)
    | p =>
      if s.placeBad p && !l.chk then .fail 1
      else
        let s := if s.placeBad p then s.recordError j.launch 0x05 j.lcell else s
        match s.perform p l.key op with
        | some (s', v, _, _) => .got v s'
        | none => .fail 2
  | (some .miss, s) => .wait (some s)
  | (some .bad, _) => .fail 1
  | (some _, _) => .fail 2

/-- `n` bytes (1, 2, 4 or 8) at an aligned VA written for engine work. -/
def State.unitWrite (s : State) (j : Job') (va n x : Nat) : Reach Unit :=
  match s.unitTranslate j.tlb j.id va true with
  | (none, _) => .park va true (s.walkMal va)
  | (some (.at l), s) =>
    match l.place with
    | .remote dev pa =>
      if !s.reaches dev then .fail 5
      else match s.unitSend j va l.key dev pa (.store n (x % 2 ^ (8 * n))) with
        | some s' => .got () s'
        | none => .wait none
    | p => match s.placeWrite p l.key n (2 ^ n - 1) x with
      | some s' => .got () s'
      | none => .fail 2
  | (some .miss, s) => .wait (some s)
  | (some .bad, _) => .fail 1
  | (some _, _) => .fail 2

/-- Swizzled place of byte `a` of a region that starts in row `row0` (R176). -/
def swizzle (z row0 a : Nat) : Nat :=
  let q : Int := (a / 128 : Nat) - (row0 : Int)
  let u := a % 128 / 16
  a / 128 * 128 + (u ^^^ (q % (2 ^ z : Nat)).toNat) * 16 + a % 16

end Sys2Proof.Machine
end

