-- ==== Sys2Proof/Machine/Fetch.lean ====
section
/-! DEFINITION. What happens next: an event of the agenda, or the next instruction of a ready context. -/
namespace Sys2Proof.Machine

/-- What the next step does. -/
inductive Action where
  /-- An event or an instruction is executed in this state. -/
  | run (i : Instr) (s : State)
  /-- The word at the program counter is no instruction; TRAPVAL is `val` (R80, R82). -/
  | illegal (val : Word) (s : State)
  /-- No context of the cell is ready. -/
  | idle (s : State)
  /-- A thermal trip holds the module (R398). -/
  | held

/-- A context is ready (R28): it runs an activation, its cell is not halted nor held by the current governor (R396), and it
neither waits nor is parked, nor has pending entries to issue again (R254).  One that is to be saved only finishes an
instruction that has begun (R251), and so does every one of a cell that is to halt at an instruction boundary (R256). -/
def State.ready (s : State) (n k : Nat) : Bool :=
  let x := s.ctx n k
  x.busy && (!x.saving || x.finishing) && !s.governor.holds.contains n && (!(s.cell n).still || (x.debugStep && (s.cell n).evac.isNone)) && x.wait == .none
  && (x.pendingTrap == none || !s.owedAtTrap n k)
  && !((x.parked || x.ending) && s.owed n k)
  && !(x.following && x.stream.isEmpty) && x.again.isEmpty
  && (!(s.cell n).halting || (s.cell n).saves || x.inside)

/-- Round robin over the ready contexts of a cell (R28). -/
def State.nextCtx (s : State) (n : Nat) : Option Nat :=
  (List.range 4).findSome? fun j =>
    let k := ((s.cell n).last + 1 + j) % 4
    if s.ready n k then some k else none

/-- The cell's local clock runs on by `d` cycles: CYCLE, and every DLINE that is not 0 (R64, R248).  A cell that was to halt at
an instruction boundary has come to it (R256). -/
def State.tick (s : State) (n d : Nat) : State :=
  if (s.cell n).still then (if (s.cell n).halting then s.modCell n Cell.haltIfDue else s)
  else s.modCell n fun c =>
    { c.mapCtxs (fun x => { x with dline := BitVec.ofNat 32 (x.dline.toNat - d) }) with
      cycle := c.cycle + BitVec.ofNat 64 d }

/-- DLINE has run out under a request, in user mode, and no ENDTASK has issued (R249). -/
def State.overdue (s : State) (n k : Nat) : Bool :=
  let x := s.ctx n k
  x.busy && x.prq != 0 && x.dline == 0 && !x.ending && !x.saving && !(s.cell n).still && !s.sysMode n k

/-- The result is the grant of a push that has not been accepted; a save does not wait for it (R358). -/
def State.isGrant (s : State) (id : Nat) : Bool :=
  (s.pushes.any (·.id == id)) || s.groups.any fun g => g.2.queues.any fun q => q.2.waiting.any (·.id == id)

/-- An access that a forced save withdraws: parked, or a PHWAIT that waits (R251). -/
def Access.withdrawn (a : Access) : Bool :=
  a.phase == .parked || (a.phase.open && (match a.op with | .phwait _ => true | _ => false))

/-- A forced save of context (n, k) may begin: it stands between two instructions, and nothing is owed but what is
withdrawn and grants (R170, R251, R358). -/
def State.saveReady (s : State) (n k : Nat) : Bool :=
  (s.ctx n k).saving && (s.ctx n k).storing.isNone && (s.ctx n k).again.isEmpty && !s.midway n k &&
  !(s.inflight.any fun a => s.owns n k a && a.op.returns && !a.withdrawn && !s.isGrant a.id)

/-- The leader has issued the instruction that context (n, k) waits for (R43). -/
def State.engaged (s : State) (n k : Nat) : Bool :=
  (s.ctx n k).following && (match (s.ctx n k).wait with | .follow _ => true | _ => false)

/-- The instruction that context (n, k) issues: from its stream while the addresses agree, else from its own
code store (R43, R44, R66). -/
def State.fetch (s : State) (n k : Nat) : Action :=
  let x := s.ctx n k
  let s := s.modCell n fun c => { c with last := k % 4 }
  let x := x.sequel
  let s := s.setCtx n k { x with parked := false }
  match x.stream with
  | (i, sw, pc, _) :: _ =>
    if pc = x.pc then .run i { s with now := { cell := n, ctx := k, sw := sw, streamed := true, arg := {} } }
    else .idle (s.modCtx n k fun x => { x with stream := [], following := false })
  | [] =>
    let h0 := (s.cell n).fetchHalf x x.pc.toNat
    let h1 := if x.pc = 0x3FFF then 0 else (s.cell n).fetchHalf x (x.pc.toNat + 1)
    let s := { s with now := { cell := n, ctx := k, sw := swAt h0, streamed := false, arg := {} } }
    match decodePair h0 h1 with
    | .ok i => .run i s
    | .error _ => .illegal (BitVec.ofNat 64 (if h0 % 2 = 0 then h0 else h1 * 65536 + h0)) s

/-- The next instruction of a cell, after its clock has moved on (log 13): an overdue context's deadline,
a forced save, a follower's start and a waiting trap come first. -/
def State.fetchCell (s : State) (n : Nat) : Action :=
  let s := s.tick n (s.delays.headD 1)
  let s := { s with delays := s.delays.tail }
  match (List.range 4).find? (s.overdue n) with
  | some k => .run .dlineExpiry { s with now := { s.now with arg := { a := n, b := k } } }
  | none =>
   match (List.range 4).find? (s.saveReady n) with
   | some k => .run .forcedSave { s with now := { s.now with arg := { a := n, b := k } } }
   | none =>
   match (List.range 4).find? (s.engaged n) with
   | some k => .run .followEngage { s with now := { s.now with arg := { a := n, b := k } } }
   | none =>
    match s.nextCtx n with
    | none => .idle s
    | some k =>
      if (s.ctx n k).pendingTrap ≠ none then
        .run .trapEntry { s with now := { s.now with arg := { a := n, b := k } } }
      else s.fetch n k

/-- What a module whose firmware failed at boot still offers: SPDM and another reset (R406). -/
def bootEvent : Instr → Bool
  | .reset | .getMeasurements | .challenge | .keyExchange => true
  | _ => false

/-- What the next step does: the agenda's first event, or else an instruction of the cell whose turn it is. -/
def State.nextAction (s : State) : Action :=
  match s.agenda with
  | (i, arg) :: rest =>
    if s.held && i != .reset then .held
    else
      let s' := { s with agenda := rest, now := { s.now with arg := arg } }
      if width i = 0 && (!s.boot.failed || bootEvent i) then .run i s' else .idle s'
  | [] =>
    if s.held then .held
    else if s.boot.failed then .idle s
    else match s.turns with
      | n :: rest => State.fetchCell { s with turns := rest } n
      | [] => s.fetchCell s.now.cell

/-- The cell whose context runs a placed instruction first (log 5): a compute cell for forms only it may
execute, a depot cell for depot forms, else system core 0. -/
def placeCell (i : Option Instr) : Nat :=
  match i with
  | none => Config.systemBase
  | some i =>
    if allowedOn .system i && !(match i with | .spawnPath .. | .spawnNear .. | .spawnSteal .. | .join .. => true | _ => false)
    then Config.systemBase
    else if allowedOn .compute i then 0
    else if allowedOn .depot i then Config.depotBase
    else Config.systemBase

/-- An instruction stored where the next step fetches: the code store of the chosen cell at context 0's PC,
the context running an activation and the agenda and turns empty, as after a load from outside (log 5). -/
def State.placeWord (s : State) (nbits w : Nat) : State :=
  let w := w % 2 ^ nbits
  let n := placeCell (decodeTableWord nbits w)
  let pc := (s.ctx n 0).pc.toNat
  let s := s.modCell n fun c =>
    { (c.setHalf pc (BitVec.ofNat 16 w)).setHalf (pc + 1) (BitVec.ofNat 16 (w / 65536)) with last := 3, halted := false, evac := none }
  let s := s.modCtx n 0 fun x =>
    { x with
      busy := true, parked := false, ending := false, wait := .none, pendingTrap := none, following := false, stream := []
      ahead := [] }
  { s with agenda := [], turns := [], held := false, boot := { s.boot with failed := false },
           governor := { s.governor with holds := [] }, now := { cell := n, ctx := 0 } }

end Sys2Proof.Machine
end

