-- ==== Sys2Proof/Machine/Sfu.lean ====
section
/-! DEFINITION. Special functions and interpolation tables: VSFU (R151-R154, R166). -/
namespace Sys2Proof.Machine

/-! ### Table images (R152) -/

/-- A parsed table image. -/
structure Table where
  x0 : Dyadic
  h : Dyadic
  seg : Nat
  lmode : Nat
  rmode : Nat
  lc : Fp
  rc : Fp
  knots : List Fp
  deriving DecidableEq, Repr

def Fp.isFinite : Fp → Bool
  | .fin .. => true
  | _ => false

/-- The type of the knots from byte 11; none when invalid. -/
def knotFmt (kt : Nat) : Option Fmt :=
  if kt = 3 then some bf16 else if kt = 4 then some f16 else if kt = 5 then some f32 else none

/-- The header of an image: X0, H, SEG, LMODE, RMODE, KT, LC, RC when all are valid (R152). -/
def tableHeader (img : List Byte) : Option (Fmt × Nat) :=
  let n (i k : Nat) := ofBytes ((img.drop i).take k)
  match f32.decode (n 0 4), f32.decode (n 4 4), knotFmt (n 11 1) with
  | .fin .., .fin neg m _, some t =>
    if !neg && m != 0 && 1 ≤ n 8 1 && n 8 1 ≤ 64 && n 9 1 ≤ 1 && n 10 1 ≤ 1
      && !(bf16.decode (n 12 2)).isNan && !(bf16.decode (n 14 2)).isNan then some (t, n 8 1) else none
  | _, _, _ => none

/-- Bytes of an image with `seg` segments and knots of type `t`. -/
def tableLen (t : Fmt) (seg : Nat) : Nat := 16 + (seg + 1) * (t.width / 8)

/-- The table of a loaded image; an image in a slot is valid throughout. -/
def parseTable (img : List Byte) : Option Table :=
  let n (i k : Nat) := ofBytes ((img.drop i).take k)
  match tableHeader img with
  | none => none
  | some (t, seg) =>
    let kb := t.width / 8
    let knots := (List.range (seg + 1)).map fun k => t.decode (n (16 + k * kb) kb)
    if img.length = tableLen t seg ∧ knots.all Fp.isFinite then
      some { x0 := (f32.decode (n 0 4)).dyadic, h := (f32.decode (n 4 4)).dyadic, seg := seg,
             lmode := n 9 1, rmode := n 10 1, lc := bf16.decode (n 12 2), rc := bf16.decode (n 14 2),
             knots := knots }
    else none

/-- K[k] + f × (K[k+1] − K[k]) at x inside the table, rounded once (R154). -/
def Table.inside (tb : Table) (t : Fmt) (r : Rnd) (x : Dyadic) : Nat × BitVec 5 :=
  let e := min x.e (min tb.x0.e tb.h.e)
  let at' (d : Dyadic) : Int := d.z * 2 ^ (d.e - e).toNat
  let off := at' x - at' tb.x0
  let h := at' tb.h
  let k := (off / h).toNat
  let rem := off % h
  let k0 := tb.knots.getD k (.fin false 0 0)
  let k1 := tb.knots.getD (k + 1) (.fin false 0 0)
  if rem = 0 then t.ofFp r k0
  else
    let a := k0.dyadic
    let b := k1.dyadic
    let ek := min a.e b.e
    let a' : Int := a.z * 2 ^ (a.e - ek).toNat
    let b' : Int := b.z * 2 ^ (b.e - ek).toNat
    let num := a' * h + rem * (b' - a')
    if num = 0 then (t.zero (r.mode == 3), 0)
    else
      let m := Mag.ofDyadic num.natAbs ek
      t.round r (decide (num < 0)) ⟨m.num, m.den * h.toNat⟩

/-- One element of VTIE (R154). -/
def tieElem (tb : Option Table) (t : Fmt) (r : Rnd) (x : Nat) : Nat × BitVec 5 :=
  match tb, t.decode x with
  | none, _ => (t.nan, flagNV)
  | some _, .nan q => (t.nan, flagIf q flagNV)
  | some tb, v =>
    let hi := tb.x0.add ⟨tb.h.z * tb.seg, tb.h.e⟩
    let below := v.cmp (.fin (decide (tb.x0.z < 0)) tb.x0.z.natAbs tb.x0.e) == .lt
    let above := v.cmp (.fin (decide (hi.z < 0)) hi.z.natAbs hi.e) != .lt
    if below then (if tb.lmode = 1 then (x, 0) else t.ofFp r tb.lc)
    else if above then (if tb.rmode = 1 then (x, 0) else t.ofFp r tb.rc)
    else tb.inside t r v.dyadic

/-- The table in slot 0 or 1 of the executing context (R151). -/
def State.table (s : State) (slot : Nat) : Option Table :=
  (if slot = 0 then s.cur.tables[0] else s.cur.tables[1]).bind parseTable

/-- VTLOAD: the image at ea into a slot, or the slot empty when the image is invalid; it sees every earlier store of its
context to those rows, as LDL does.  Its aligned 16-byte units are read one in each step where `late` says so, in ascending
order, and each is taken whole (R153, R207, log 13). -/
def vtloadBody (d : BitVec 1) (a b : Reg) : Body := fun s =>
  let k := s.cur.stage - 1024
  let ea := s.kept (s.s a + wrap (sext b.val 5 * 16)).toNat
  let ok (n : Nat) := s.localOk s.now.cell s.cur ea n
  let unit (j : Nat) : List Byte := if j < k then toBytes 16 ((s.word? j).getD 0) else s.localBytes (ea + 16 * j) 16
  if ea % 16 ≠ 0 then .error (.trap causeMisalign (BitVec.ofNat 64 ea))
  else if !ok 16 then .error (.trap causeLocalrange (BitVec.ofNat 64 ea))
  else if s.rowsBusy ea 16 then .error .hold
  else
    let len := match tableHeader (unit 0) with
      | some (t, seg) => tableLen t seg
      | none => 16
    let n := (len + 15) / 16
    if !ok len then .error (.trap causeLocalrange (BitVec.ofNat 64 ea))
    else if s.rowsBusy ea len then .error .hold
    else match s.badLocal ea len with
      | some x => .error (.trap causeCheck (BitVec.ofNat 64 x))
      | none =>
        let s1 := if k = 0 then { s with late := s.late.tail } else s
        if n ≤ k + 1 ∨ (k = 0 ∧ s.late.headD false = false) then
          let img := if k = 0 then s.localBytes ea len else (((List.range n).map unit).flatten).take len
          let slot := if (parseTable img).isSome then some img else none
          .ok { s := s1.modCur fun x =>
            { x with tables := if d = 0 then x.tables.set 0 slot else x.tables.set 1 slot } }
        else .error (.wait (s1.modCur fun x =>
          let x := if k = 0 then x.keep ea else x;
          { x with stage := 1025 + k, answers := x.answers ++ [.word k (ofBytes (unit k))] }))

def execVtload (d : BitVec 1) (a b : Reg) (s : State) := issue (.vtload d a b) s (vtloadBody d a b)

/-! ### Special functions (R166) -/

/-- A unary special function under FRM. -/
def sfu (y : BitVec 3) (p : Fin 8) (d a : Reg) (f : Sfu) : Body :=
  laneOp y p d true fun s i => (fmtOf y).sfu f (s.rnd i) (s.el y a i)

def execVrcp (d a : Reg) (p : Fin 8) (y : BitVec 3) (s : State) := issue (.vrcp d a p y) s (sfu y p d a .rcp)
def execVrsqrt (d a : Reg) (p : Fin 8) (y : BitVec 3) (s : State) :=
  issue (.vrsqrt d a p y) s (sfu y p d a .rsqrt)
def execVsqrt (d a : Reg) (p : Fin 8) (y : BitVec 3) (s : State) := issue (.vsqrt d a p y) s (sfu y p d a .sqrt)
def execVexp2 (d a : Reg) (p : Fin 8) (y : BitVec 3) (s : State) := issue (.vexp2 d a p y) s (sfu y p d a .exp2)
def execVlog2 (d a : Reg) (p : Fin 8) (y : BitVec 3) (s : State) := issue (.vlog2 d a p y) s (sfu y p d a .log2)
def execVdiv (d a b : Reg) (p : Fin 8) (y : BitVec 3) (s : State) :=
  issue (.vdiv d a b p y) s (laneOp y p d true fun s i => (fmtOf y).div (s.rnd i) (s.el y a i) (s.el y b i))
def execVtie (d a b : Reg) (p : Fin 8) (y : BitVec 3) (s : State) :=
  issue (.vtie d a b p y) s
    (laneOp y p d true fun s i => tieElem (s.table b.val) (fmtOf y) (s.rnd i) (s.el y a i))

end Sys2Proof.Machine
end

