-- ==== Sys2Proof/Machine/Stage.lean ====
section
/-! DEFINITION. The stage table and its instructions (R368-R383). -/
namespace Sys2Proof.Machine

/-! ### Entries and conditions (R369-R373) -/

def entryKind (e : Nat) : Nat := bits e 0 2
def entrySlot (e : Nat) : Nat := bits e 8 8
def entryMb (e : Nat) : Nat := bits e 16 16
def entryClass (e : Nat) : Nat := bits e 32 8
def entryTmpl (e : Nat) : Nat := bits e 40 4

/-- NSTASH, UPDEV, DNDEV, FIRST and LAST of the configuration word (R371). -/
def cfgStash (c : Nat) : Nat := bits c 8 8
def cfgUp (c : Nat) : Nat := bits c 32 9
def cfgDn (c : Nat) : Nat := bits c 41 9
def cfgFirst (c : Nat) : Bool := bit c 50
def cfgLast (c : Nat) : Bool := bit c 51
def cfgMode (c : Nat) : Nat := bits c 52 2

/-- A link of an entry: a module, or 0x8000 for the configuration's. -/
def linkDev (x dflt : Nat) : Nat := if x = 0x8000 then dflt else x

/-- An entry breaks R369. -/
def entryBad (nstash e : Nat) : Bool :=
  let badLink (x : Nat) : Bool := x != 0x8000 && 319 < x
  bits e 2 6 != 0 || bits e 44 4 != 0 || bits e 80 48 != 0 || entryClass e < 16
  || (entryKind e != 3 && nstash ≤ entrySlot e) || badLink (bits e 48 16) || badLink (bits e 64 16)

def Stage.entry (t : Stage) : Nat := t.entries.getD t.ptr 0

/-- STASHFREE (R372). -/
def Stage.free (t : Stage) : Nat := cfgStash t.cfg.toNat - t.slots.length

/-- A slot holds MB (R373). -/
def Stage.holds (t : Stage) (slot mb : Nat) : Bool :=
  match look? t.slots slot with
  | some (m, done) => m == mb && done
  | none => false

/-- The first condition that fails: 0 input, 1 downstream room, 2 stash; none when the entry can start (R373). -/
def Stage.why (t : Stage) : Option Nat :=
  let e := t.entry
  let mb := entryMb e
  let c := t.cfg.toNat
  match entryKind e with
  | 0 =>
    if !((look? t.acts mb).isSome || cfgFirst c) then some 0
    else if !(0 < t.dnslots.toNat || cfgLast c) then some 1
    else if (look? t.slots (entrySlot e)).isSome then some 2 else none
  | 1 =>
    if !((look? t.grads mb).isSome || cfgLast c) then some 0
    else if t.holds (entrySlot e) mb then none else some 2
  | 2 => if t.holds (entrySlot e) mb then none else some 2
  | _ => if t.free = cfgStash c then none else some 2

/-- Nothing runs and the table has not finished. -/
def Stage.idle (t : Stage) : Bool := !t.running && t.starting.isNone && t.ptr < t.nent

/-- One more bubble in a counter, saturating (R368, R379). -/
def Stage.bubble (t : Stage) (c : Nat) : Stage :=
  let up (x : BitVec 32) : BitVec 32 := if x = 0xFFFFFFFF then x else x + 1
  match c with
  | 0 => { t with bubup := up t.bubup }
  | 1 => { t with bubdn := up t.bubdn }
  | _ => { t with bubstash := up t.bubstash }

/-- An error in ERRSUM of template 0's launch, valid or not (R374, R376). -/
def State.stageError (s : State) : State :=
  match look? s.stage.templates 0 with
  | some t => s.recordError (some t.launch) 0x01 t.lcell
  | none => s

/-! ### Arrivals (R376, R377) -/

/-- A message of the table is freed in its flow. -/
def State.stageFree (s : State) (m : StageMsg) : State := s.seraiFree m.sdev m.scell m.seq

/-- A message is applied, or joins the pending list behind its flow or for want of room. -/
def State.stageApply (s : State) (m : StageMsg) : State :=
  let t := s.stage
  if t.pending.any fun q => q.sdev == m.sdev && q.scell == m.scell then
    { s with stage := { t with pending := t.pending ++ [m] } }
  else if m.kind = 2 then State.stageFree { s with stage := { t with dnslots := t.dnslots + 1 } } m
  else
    let store := if m.kind = 0 then t.acts else t.grads
    if m.kind = 3 || (look? store m.mb).isSome then s.stageError.stageFree m
    else if 256 ≤ store.length then { s with stage := { t with pending := t.pending ++ [m] } }
    else
      State.stageFree { s with stage :=
        if m.kind = 0 then { t with acts := put t.acts m.mb m.v } else { t with grads := put t.grads m.mb m.v } } m

/-- The pending list is gone through in order, as room allows. -/
def State.stagePending (s : State) : State :=
  let ms := s.stage.pending
  ms.foldl State.stageApply { s with stage := { s.stage with pending := [] } }

/-- The messages that wait for their round are applied, those stamped `upto` or earlier (R377). -/
def State.stageArrivals (s : State) (upto : Option Nat) : State :=
  let due (m : StageMsg) : Bool := match upto with | some r => m.round ≤ r | none => true
  let ms := s.stage.arrivals
  (ms.filter due).foldl State.stageApply { s with stage := { s.stage with arrivals := ms.filter fun m => !due m } }

/-- STAGE_MESSAGE of the flow of (a, b): delivered and counted; applied at once, or in round mode at a round's
start (R376-R378). -/
def execStageMessage (s : State) : Host.Outcome State Fault Refusal :=
  event s do
    let p ← s.flowHead 12
    let round := if s.roundSet.contains p.sdev then s.rounds.unwrap p.rnd else s.rounds.next
    let m : StageMsg :=
      { round := round, kind := bits (p.args.getD 0 0) 0 2, mb := bits (p.args.getD 1 0) 0 16, v := BitVec.ofNat 64 (p.args.getD 2 0)
        sdev := p.sdev, scell := p.scell, seq := p.seq }
    let s := s.markSerai p.sdev p.scell p.seq 3
    let s := if s.stage.mode = 1 then { s with stage := { s.stage with arrivals := s.stage.arrivals ++ [m] } } else s.stageApply m
    pure ((s.delivered p.sdev p.rnd).seraiRun p.sdev p.scell 64)

/-! ### Starting and completing (R372, R374, R375) -/

/-- The start message of an entry; its source fields are not given (R374, log 6). -/
def State.stagePost (s : State) (t : Template) (e : Nat) (a3 : Word) : State :=
  let (f, s) := s.fresh
  s.post
    { msg :=
        { cls := BitVec.ofNat 8 (entryClass e), place := 3, launch := BitVec.ofNat 12 t.launch, dest := BitVec.ofNat 16 t.lcell
          path := 0, srcpcell := BitVec.ofNat 17 f, srcdev := s.devidx
          args := (((Vector.replicate 4 (0 : Word)).set 0 (BitVec.ofNat 64 (entryMb e))).set 1 (BitVec.ofNat 64 (entrySlot e))
            |>.set 2 (BitVec.ofNat 64 (entryKind e))).set 3 a3 }
      target := .logical t.lcell } true

/-- The write of WCNT and RCNT in the slot's scale record that an entry makes: VA, bytes, value, settled as the entry starts
(R372, R374 step 3). -/
def Stage.recordWrite (t : Stage) (e : Nat) : Option (Nat × Nat × Nat) :=
  let va := t.srbase.toNat + 64 * entrySlot e
  if t.srbase = 0 then none
  else match entryKind e with
    | 0 => some (va, 2, 0)
    | 2 => some (va + 1, 1, 0)
    | _ => none

/-- The table's write of `n` bytes at a VA: made at once, or sent to the record's home on the table's flow (log 8). -/
def State.stageWrite (s : State) (t : Template) (va n x : Nat) : Reach Unit :=
  match s.engine va true with
  | none => .park va true (s.walkMal va)
  | some (.at l) =>
    match l.place with
    | .remote dev pa =>
      if !s.reaches dev then .fail 5
      else .wait (s.unitSend ⟨s.nextId, 0, 0, 0xFFFF, some t.launch⟩ va l.key dev pa (.store n x))
    | p => match s.placeWrite p l.key n (2 ^ n - 1) x with
      | some s' => .got () s'
      | none => .fail 2
  | some _ => .fail 2

/-- The table's own changes at a completion; STGPTR advances (R375). -/
def Stage.complete (t : Stage) : Stage :=
  let e := t.entry
  let t := match entryKind e with
    | 0 => { t with slots := put t.slots (entrySlot e) (entryMb e, true) }
    | 1 => { t with slots := del t.slots (entrySlot e) }
    | _ => t
  { t with running := false, ptr := t.ptr + 1 }

/-- Free mode takes pending messages in as soon as room appears; round mode leaves them to a round's start (R376). -/
def State.stageFreePending (s : State) : State := if s.stage.mode = 1 then s else s.stagePending

/-- LIVE and the start message of the entry that is starting; a failed write of its record is an error of the
template's launch (R374 steps 4 and 5, R308). -/
def State.stageLaunch (s : State) (t : Starting) (status : Option Nat) : State :=
  let s := match status with | some st => s.recordError (some t.template.launch) (causeOf st) t.template.lcell | none => s
  State.stagePost { s with stage := { s.stage with running := true, starting := none } } t.template t.entry t.a3

/-- The starting entry's record is written and its task posted, or the write is sent, or parks once in its slice's replay
queue; it waits for room there (R374, R198, R200). -/
def State.stageTry (s : State) (t : Starting) : State :=
  let keep (s' : State) (w : StageWrite) : State :=
    { s' with nextId := max s'.nextId (s.nextId + 1), stage := { s'.stage with starting := some { t with write := w } } }
  match t.record with
  | none => s.stageLaunch t none
  | some (va, n, x) =>
    match s.stageWrite t.template va n x with
    | .got _ s' => s'.stageLaunch t none
    | .fail st => s.stageLaunch t (some st)
    | .park va w mal => match s.unitPark va w mal (.stage s.nextId) with
      | some s' => keep s' (.parked s.nextId)
      | none => s
    | .wait r => match r with
      | some s' => keep s' (.sent s.nextId)
      | none => s

/-- An entry that is starting goes on: its record is written, or the write's acknowledgement is waited for, and then
its task is posted.  A parked write is made again only when REPLAYALL has released it (R374, R198, R199). -/
def State.stageGoOn (s : State) : State :=
  match s.stage.starting with
  | none => s
  | some t => match t.write with
    | .sent id => if s.unitOpen id then s else (s.unitClear id).stageLaunch t (s.unitFailed id)
    | .parked id => if s.slices.any fun q => q.2.replay.contains (.stage id) then s else s.stageTry t
    | .due => s.stageTry t

/-- The entry at STGPTR starts (R374); whether a task is posted or will be. -/
def State.stageStart (s : State) : State × Bool :=
  let e := s.stage.entry
  let mb := entryMb e
  let c := s.stage.cfg.toNat
  let k := entryKind e
  let own := if k = 0 then cfgFirst c else cfgLast c
  let word := if k = 0 then look? s.stage.acts mb else if k = 1 then look? s.stage.grads mb else none
  let a3 : Word := if own then 0 else word.getD 0
  let s := if k ≤ 1 && own && word.isSome then s.stageError else s
  let t := s.stage
  let t := if k = 0 then { t with acts := del t.acts mb } else if k = 1 then { t with grads := del t.grads mb } else t
  let t := if k = 0 then
      let slots := put t.slots (entrySlot e) (mb, false)
      { t with
        dnslots := if cfgLast c then t.dnslots else t.dnslots - 1, slots := slots
        stashmax := BitVec.ofNat 8 (max t.stashmax.toNat slots.length) }
    else t
  let tm := look { launch := 0, lcell := 0, valid := false } t.templates (entryTmpl e)
  if tm.valid then
    ((State.stageGoOn { s with stage := { t with starting := some { entry := e, template := tm, a3 := a3, record := t.recordWrite e } } }).stageFreePending, true)
  else ((State.stageError { s with stage := t.complete }).stageFreePending, false)

/-- A tick is requested (R377). -/
def State.stageAsk (s : State) : State := { s with stage := { s.stage with asks := true } }

/-- STAGE_ROUND_START: the table's next round begins once the receive round before it has ended (R377, R379); an entry
that is still starting goes on. -/
def execStageRoundStart (s : State) : Host.Outcome State Fault Refusal :=
  let r := s.stage.round
  event s (
    if s.stage.mode ≠ 1 then none
    else if s.stage.starting.isSome then some s.stageGoOn
    else if s.rounds.next < r then none
    else
      let s := (s.stageArrivals (some (r - 1))).stagePending
      let s := { s with stage := { s.stage with round := r + 1 } }
      if s.stage.running then some s
      else if !s.stage.idle then some s.stageAsk
      else match s.stage.why with
        | some c => some (State.stageAsk { s with stage := s.stage.bubble c })
        | none =>
          let (s', posted) := s.stageStart
          some (if posted then s' else s'.stageAsk))

/-- STAGE_FREE_EVALUATE: in free mode the entry at STGPTR starts as soon as it can (R378); one that is still starting
goes on, also when a refused STGCFG, which abandons nothing, has stopped the table (R374, R381). -/
def execStageFreeEvaluate (s : State) : Host.Outcome State Fault Refusal :=
  event s (if s.stage.mode != 1 && s.stage.starting.isSome then some s.stageGoOn
    else if s.stage.mode = 2 && s.stage.idle && s.stage.why.isNone then some s.stageStart.1 else none)

/-- STAGE_BUBBLE_TIMER: a tick of the free mode's timer (R378, R379). -/
def execStageBubbleTimer (s : State) : Host.Outcome State Fault Refusal :=
  event s (
    if s.stage.mode ≠ 2 || !s.stage.idle then none
    else s.stage.why.map fun c => { s with stage := s.stage.bubble c })

/-! ### The instructions (R380-R382) -/

/-- STGCFG with MODE = 0 (R381).  Messages that have no room stay pending, as they are freed only when they are stored;
those that waited for a round need not wait any more (R376). -/
def State.stageOff (s : State) : State :=
  State.stageArrivals { s with stage := { s.stage with
    mode := 0, acts := [], grads := [], slots := [], templates := [], running := false, starting := none, asks := false } } none

/-- The configuration and table are put in force, or refused (R381). -/
def State.stageConfigure (s : State) (cfg : Word) (entries : List Nat) : State :=
  let c := cfg.toNat
  let launch := s.cur.launch.map BitVec.toNat
  if bits c 54 10 ≠ 0 || cfgMode c = 3 || cfgStash c = 0 || 319 < cfgUp c || 319 < cfgDn c
    || entries.any (entryBad (cfgStash c)) then
    (State.stageArrivals { s with stage := { s.stage with mode := 0, asks := false } } none).recordError launch 0x01 s.cur.lcell.toNat
  else
    let wasOff := s.stage.mode = 0
    let t := s.stage
    let t : Stage := { t with
      mode := BitVec.ofNat 2 (cfgMode c), cfg := cfg, entries := entries, running := false, starting := none
      acts := if wasOff then [] else t.acts, grads := if wasOff then [] else t.grads
      dnslots := if wasOff then BitVec.ofNat 16 (bits c 16 16) else t.dnslots
      slots := [], ptr := 0, bubup := 0, bubdn := 0, bubstash := 0, stashmax := 0, srbase := 0
      templates := [(0, { launch := launch.getD 0, lcell := s.cur.lcell.toNat })]
      round := s.rounds.send + 1, asks := cfgMode c = 1 }
    -- a tick kept from before is merged with the request: one is kept at most (R315, R377)
    let s := { s with stage := t, rounds := { s.rounds with tick := s.rounds.tick && t.mode != 1 } }
    if t.mode = 1 then s else (s.stageArrivals none).stagePending

/-- STGCFG: the entries are read as global loads of the context, one after the other, then the table is
written; s[A] and s[B] are read once, at the first (R381). -/
def stgcfgBody (i : Instr) (a b : Reg) : Body := fun s => do
  let ops := s.kept ((s.s a).toNat + 2 ^ 64 * (s.s b).toNat)
  let va := bits ops 0 64
  let cfg := BitVec.ofNat 64 (ops / 2 ^ 64)
  aligned va 16
  if cfgMode cfg.toNat = 0 then pure { s := s.stageOff }
  else
    let n := if bits cfg.toNat 0 8 = 0 then 256 else bits cfg.toNat 0 8
    let j := s.cur.stage
    if j < n then
      let ld := { Access.of ((va + 16 * j) % 2 ^ 64) (.hbm 0) (.vload 0 16 0xFFFF) .none with word := value i s.now.sw, data := j }
      let s' ← s.global false ld
      .error (.wait (s'.modCur fun x => { (if j = 0 then x.keep ops else x) with stage := j + 1 }))
    else match (List.range n).mapM s.word? with
      | some entries => pure { s := s.stageConfigure cfg entries }
      | none => .error .hold

def execStgcfg (a b : Reg) (s : State) := issue (.stgcfg a b) s (stgcfgBody (.stgcfg a b) a b)

/-- A message of the table on its flow; one to a module outside the reach mask completes with UNREACH. -/
def State.stageSend (s : State) (m : Nat × List Nat) (after : List Nat) : State :=
  if !s.reaches m.1 then s.recordError (s.cur.launch.map BitVec.toNat) 0x0B s.cur.lcell.toNat
  else
    let (h, s) := s.header
    s.sendOn { h with ddev := m.1, scell := 0xFFFF, cls := 12, args := m.2, paylen := 0 } none after false
      (owner := some (s.cur.launch.map BitVec.toNat, s.cur.lcell.toNat))

/-- The messages of a completion: module and arguments (R375). -/
def Stage.outputs (t : Stage) (v : Word) : List (Nat × List Nat) :=
  let e := t.entry
  let c := t.cfg.toNat
  let mb := entryMb e
  let dn := linkDev (bits e 64 16) (cfgDn c)
  let up := linkDev (bits e 48 16) (cfgUp c)
  match entryKind e with
  | 0 => if cfgLast c then [] else [(dn, [0, mb, v.toNat, 0])]
  | 1 => if cfgFirst c then [] else [(up, [1, mb, v.toNat, 0]), (up, [2, mb, 0, 0])]
  | _ => []

/-- The table's flow to a module takes `n` more messages (R309). -/
def State.stageRoom (s : State) (dev n : Nat) : Bool :=
  !s.reaches dev || (!s.dark dev && s.flowRoom 0xFFFF dev &&
    (match s.findFlow 0xFFFF dev with | some f => f.buf.length + n ≤ 32 | none => true))

/-- STGDONE (R375, R382). -/
def stgdoneBody (a : Reg) : Body := fun s =>
  if !s.stage.running then .error (.trap causePerm 0)
  else
    let msgs := s.stage.outputs (s.s a)
    if !(msgs.all fun m => s.stageRoom m.1 msgs.length) then .error .hold
    else
      let after := s.openAccesses
      let s1 := msgs.foldl (fun s m => s.stageSend m after) { s with stage := s.stage.complete }
      .ok { s := if s1.stage.mode = 1 then s1.stageAsk else s1 }

def execStgdone (a : Reg) (s : State) := issue (.stgdone a) s (stgdoneBody a)

/-- STGTMPL: the fields are written whatever VALID is (R382). -/
def stgtmplBody (a b : Reg) : Body := fun s =>
  let w := (s.s b).toNat
  let k := bits (s.s a).toNat 0 4
  .ok { s := { s with stage := { s.stage with
    templates := put s.stage.templates k { launch := bits w 0 12, lcell := bits w 16 16, valid := bit w 32 } } } }

def execStgtmpl (a b : Reg) (s : State) := issue (.stgtmpl a b) s (stgtmplBody a b)

/-- STGSREC (R382). -/
def stgsrecBody (a : Reg) : Body := fun s => do
  aligned (s.s a).toNat 64
  pure { s := { s with stage := { s.stage with srbase := s.s a } } }

def execStgsrec (a : Reg) (s : State) := issue (.stgsrec a) s (stgsrecBody a)

/-- STGSTAT (R382). -/
def stgstatBody (d a : Reg) : Body := fun s =>
  .ok { s := s.enter (Access.of 0 noHome (.query 4 0 (bits (s.s a).toNat 0 2)) (.s d)) }

def execStgstat (d a : Reg) (s : State) := issue (.stgstat d a) s (stgstatBody d a)

end Sys2Proof.Machine
end

