-- ==== Sys2Proof/Machine/Planner.lean ====
section
/-! DEFINITION. LIVE at its home, jobs and nodes, hosting and release of logical cells (R45-R48, R58-R60, R388, R395,
R401-R403). -/
namespace Sys2Proof.Machine

/-! ### Level records (R45, R46) -/

/-- A level record's 64 bytes (R45): PHASE set up for one arrival. -/
def levelRecord (phase live kind errsum save parent lid : Nat) : Nat :=
  phase + 2 ^ 128 * (live % 2 ^ 32) + 2 ^ 160 * (2 * kind) + 2 ^ 192 * errsum + 2 ^ 256 * save + 2 ^ 320 * parent + 2 ^ 384 * lid

/-- A phase word with ARR_TGT = 1 and BYTE_TGT = 0. -/
def freshPhase : PhaseWord := ⟨1, 0, 0, 0, 0, false⟩

/-- A phase word flipped in error, whatever its counts (R188, R395). -/
def PhaseWord.forced (w : PhaseWord) : PhaseWord := PhaseWord.flip { w with err := true }

/-- A LIVE addition has come to an outcome: its message is released or void. -/
def setGate (ticket : Nat) (g : Gate) (p : Post) : Post := if p.gate = .pending ticket then { p with gate := g } else p

def State.gate (s : State) (ticket : Nat) (g : Gate) : State :=
  { s with
    posts := s.posts.map (setGate ticket g)
    near := s.near.map fun e => (e.1, e.2.map (setGate ticket g))
    cells := s.cells.map fun e => if e.2.deque.isEmpty then e else (e.1, { e.2 with deque := e.2.deque.map (setGate ticket g) }) }

/-- A job's PHASE has flipped: its record is copied to DONE and the port's vector is raised (R403). -/
def State.jobDone (s : State) (va : Nat) : State :=
  match s.jobs.find? (·.jrec == va) with
  | none => s
  | some j =>
    let s := { s with jobs := s.jobs.filter (·.jrec != va) }
    let s := match s.vaRead va 64, (s.vaRead (j.va + 48) 8).bind hostPa with
      | some r, some (q, off) => s.hostPut q off (toBytes 64 r)
      | _, _ => s
    s.setHostPort j.port { s.hostPort j.port with msix := (s.hostPort j.port).msix + 1 }

/-- LIVE of a record goes down by 1; at 0 its PHASE takes one arrival and its parent's LIVE goes down (R46). -/
def State.liveDown (s : State) (va : Nat) : Option State := do
  let n ← s.vaRead (va + 16) 4
  let s ← s.vaWrite (va + 16) 4 ((n + 2 ^ 32 - 1) % 2 ^ 32)
  if n ≠ 1 then pure s
  else
    let ph ← s.vaRead va 16
    let s ← match (PhaseWord.ofNat ph).update 1 0 with
      | some w => s.vaWrite va 16 w.toNat
      | none => some s
    let parent ← s.vaRead (va + 40) 8
    let s := if parent = 0 then s else { s with records := s.records ++ [RecOp.liveSub parent] }
    pure (s.jobDone va)

/-- LIVE goes up by 1 for a message, or the message is void where LIVE was 0 in a launch that has completed: its PHASE has
flipped (R46). -/
def State.liveUp (s : State) (va ticket : Nat) : Option State := do
  let n ← s.vaRead (va + 16) 4
  let ph ← s.vaRead va 16
  if n = 0 ∧ (PhaseWord.ofNat ph).gen ≠ 0 ∧ ticket ≠ 0 then pure (s.gate ticket .void)
  else
    let s ← s.vaWrite (va + 16) 4 ((n + 1) % 2 ^ 32)
    pure (s.gate ticket .clear)

/-- LIVE_UPDATE: the update of index `a`, in its record's order (R46). -/
def execLiveUpdate (s : State) : Host.Outcome State Fault Refusal :=
  let k := s.now.arg.a
  let s' := { s with records := removeAt s.records k }
  event s (match s.records[k]? with
    | some (.liveAdd va t) => if s.recordTurn k va then s'.liveUp va t else none
    | some (.liveSub va) => if s.recordTurn k va then s'.liveDown va else none
    | _ => none)

/-! ### Job and node records (R401, R402) -/

/-- `n` bytes at a VA, across pages. -/
def State.vaNum (s : State) (va n : Nat) : Option Nat := (s.vaBytes va n).map ofBytes

/-- A node's record, with the overrides of its W and P applied. -/
structure NodeRec where
  code : Nat
  codeLen : Nat
  nrout : Nat
  zero : Nat
  rout : Nat
  regImg : Nat
  regLen : Nat
  w : Nat
  p : Nat
  mode : Nat
  npred : Nat
  lcount : Nat
  ninit : Nat
  nsucc : Nat
  init : Nat
  succ : Nat
  deriving DecidableEq, Repr

def NodeRec.ofNat (x : Nat) : NodeRec :=
  ⟨bits x 0 64, bits x 64 16, bits x 80 16, bits x 96 32, bits x 128 64, bits x 192 64, bits x 256 32, bits x 288 16, bits x 304 16,
    bits x 320 8, bits x 328 8, bits x 336 16, bits x 352 16, bits x 368 16, bits x 384 64, bits x 448 64⟩

/-- One override entry: node index, W and P; 0x1FFF keeps the node's value. -/
def NodeRec.override (r : NodeRec) (node e : Nat) : NodeRec :=
  if bits e 0 16 ≠ node then r
  else { r with
    w := if bits e 16 13 = 0x1FFF then r.w else bits e 16 13
    p := if bits e 29 13 = 0x1FFF then r.p else bits e 29 13 }

/-- The override list of a job record. -/
def State.overrides (s : State) (job : Nat) : Option (List Nat) :=
  (List.range (bits job 320 16)).mapM fun i => s.vaNum (bits job 256 64 + 8 * i) 8

/-- A node's record as it stands in the graph image. -/
def State.nodeOwn (s : State) (job node : Nat) : Option NodeRec :=
  (s.vaNum (bits job 0 64 + 16 + 64 * node) 64).map NodeRec.ofNat

/-- A node's record under a job's overrides; the last entry for a node stands. -/
def State.nodeRec (s : State) (job node : Nat) : Option NodeRec := do
  let r ← s.nodeOwn job node
  let os ← s.overrides job
  pure (os.foldl (fun r e => r.override node e) r)

/-- A node's bindings, initial tasks and successors. -/
def State.bindings (s : State) (r : NodeRec) : Option (List Nat) := (List.range r.nrout).mapM fun i => s.vaNum (r.rout + 4 * i) 4
def State.initials (s : State) (r : NodeRec) : Option (List Nat) := (List.range r.ninit).mapM fun i => s.vaNum (r.init + 48 * i) 48
def State.successors (s : State) (r : NodeRec) : Option (List Nat) := (List.range r.nsucc).mapM fun i => s.vaNum (r.succ + 2 * i) 2

/-- Every field of a node lies in its range; with window rows LCOUNT makes whole groups of 16 (R173, R402, R403). -/
def nodeOk (nnode : Nat) (r : NodeRec) (binds inits succs : List Nat) : Bool :=
  1 ≤ r.codeLen && r.codeLen ≤ 16384 && 1 ≤ r.nrout && r.nrout ≤ 240 && r.zero == 0 && r.w ≤ 4096 && r.p ≤ 4096
  && r.w + r.p ≤ 4096 && r.regLen ≤ r.p * 128 && bits r.mode 0 2 ≤ 2 && bits r.mode 4 3 ≤ 4 && bits r.mode 7 1 == 0
  && 1 ≤ r.lcount && (r.w == 0 || r.lcount % 16 == 0)
  && binds.all (fun b => bits b 18 6 == 0 && 16 ≤ bits b 24 8)
  && inits.all (fun t => bits t 264 56 == 0 && 16 ≤ bits t 256 8)
  && succs.all (· < nnode)

/-- Node `node` of a job record passes its checks, as it stands and under the overrides (log 26); none while its records
cannot be read (R403). -/
def State.nodeChecks (s : State) (job nnode node : Nat) : Option Bool := do
  let own ← s.nodeOwn job node
  let r ← s.nodeRec job node
  if own.nrout ≤ 240 then
    let bs ← s.bindings own
    let is ← s.initials own
    let ss ← s.successors own
    pure (nodeOk nnode own bs is ss && nodeOk nnode r bs is ss)
  else pure false

/-- The job record and every node record pass their checks (R401-R403). -/
def State.jobChecks (s : State) (va job : Nat) : Option Bool := do
  let head ← s.vaNum (bits job 0 64) 16
  let n := bits head 0 16
  if va % 64 ≠ 0 ∨ bits job 64 64 % 64 ≠ 0 ∨ 4096 < bits job 320 16 ∨ bits job 336 48 ≠ 0 ∨ bits job 448 64 ≠ 0
      ∨ n = 0 ∨ 4096 < n ∨ head / 2 ^ 16 ≠ 0 then pure false
  else
    let os ← s.overrides job
    let okOvr (e : Nat) : Bool :=
      bits e 42 22 == 0 && (bits e 16 13 ≤ 4096 || bits e 16 13 == 0x1FFF) && (bits e 29 13 ≤ 4096 || bits e 29 13 == 0x1FFF)
    let ns ← (List.range n).mapM (s.nodeChecks job n)
    pure (os.all okOvr && ns.all id)

/-- JOB_START of the job record at `a`, rung on port `b`; `data` says where the planner puts the phase's and the
graph's level records, each at a multiple of 64 (R45), and the LIDs of job, phase and graph (R403). -/
def execJobStart (s : State) : Host.Outcome State Fault Refusal :=
  event s do
    let va := s.now.arg.a
    let d (i : Nat) : Nat := s.now.arg.data.getD i 0
    let job ← s.vaNum va 64
    let jrec := bits job 64 64
    let save := bits job 192 64
    let j : Job := { va := va, jrec := jrec, graphRec := d 1, port := s.now.arg.b % 4 }
    if s.jobs.any (·.jrec == jrec) || d 0 % 64 ≠ 0 || d 1 % 64 ≠ 0 then none
    else if ← s.jobChecks va job then
      let head ← s.vaNum (bits job 0 64) 16
      let s ← s.vaWrite jrec 64 (levelRecord freshPhase.toNat 1 3 0 save 0 (d 2))
      let s ← s.vaWrite (d 0) 64 (levelRecord freshPhase.toNat 1 2 0 save jrec (d 3))
      let s ← s.vaWrite (d 1) 64 (levelRecord freshPhase.toNat (bits head 0 16) 1 0 save (d 0) (d 4))
      pure { s with jobs := s.jobs ++ [j] }
    else
      let s ← s.vaWrite jrec 64 (levelRecord freshPhase.forced.toNat 0 3 (errsumAdd 0 0x01 0 0) save 0 (d 2))
      pure (State.jobDone { s with jobs := s.jobs ++ [j] } jrec)

/-! ### Hosting (R58-R60, R395) -/

/-- Two ranges of halfwords overlap. -/
def overlaps (a n b m : Nat) : Bool := a < b + m && b < a + n

/-- A spare site's cells host nothing (R409). -/
def State.spareSite (s : State) (cell : Nat) : Bool := cell < Config.computeCells && 2048 ≤ s.siteXY (cell / 16)

/-- A cell meets R59 and R60 for one more logical cell of a launch that it does not host yet or hosts at the
same base: its rows fit at the current U, its image overlaps no other, and its classes are bound by no other launch of the
cell, be the binding in force or not, nor by firmware. -/
def State.qualifies (s : State) (cell launch rows base len : Nat) (classes : List Nat) : Bool :=
  let c := s.cell cell
  let others := c.hosted.filter (·.launch != launch)
  let mine := c.hosted.filter (·.launch == launch)
  (kindOf cell == some .compute || kindOf cell == some .depot) && !s.spareSite cell
  && c.hosted.length < 4 && c.hostedRows + rows ≤ s.rowsOf cell
  && base + len ≤ c.codelim.toNat
  && others.all (fun h => !overlaps base len h.base.toNat h.len && !(h.classes.any classes.contains))
  && (!mine.isEmpty || classes.all fun k => !(look {} c.routines k).bound)

/-- The cell qualifies for the logical cell `h` of a launch with its image at some base: the lowest, or right above another
launch's image (R60). -/
def State.qualifiesAt (s : State) (cell : Nat) (h : Hosted) : Bool :=
  (0 :: (s.cell cell).hosted.map fun o => o.base.toNat + o.len).any fun b => s.qualifies cell h.launch (h.w + h.p) b h.len h.classes

/-- A logical cell is mapped onto a physical cell (R58, R388). -/
def State.mapCell (s : State) (cell : Nat) (h : Hosted) : State :=
  let s := s.modCell cell fun c => { c with hosted := c.hosted ++ [h] }
  { s with
    l2p := put s.l2p h.lcell cell
    tags := s.tags.filter fun e => e.1 / 256 ≠ h.lcell }

/-- A routine-table write; GEN counts every change of ENTRY; classes 0-15 are ignored (R33, R34). -/
def Cell.bind (c : Cell) (cls : Nat) (entry : CodeAddr) (chan : BitVec 3) (bound strict : Bool) : Cell :=
  if cls < 16 then c
  else
    let r := look {} c.routines cls
    let r' : Routine :=
      { entry := entry, chan := chan, bound := bound, strict := strict, gen := if entry = r.entry then r.gen else r.gen + 1 }
    { c with routines := put c.routines cls r' }

/-- The code image and the bindings of a launch are loaded into a cell (R23, R60, R403). -/
def Cell.load (c : Cell) (base : Nat) (code : List Nat) (binds : List Nat) : Cell :=
  let c := (List.range code.length).foldl (fun c i => c.setHalf (base + i) (BitVec.ofNat 16 (code.getD i 0))) c
  binds.foldl (fun c b =>
    c.bind (bits b 24 8) (BitVec.ofNat 14 (base + bits b 0 14)) (BitVec.ofNat 3 (bits b 14 3)) true (bit b 17)) c

/-- A level record has flipped, and with ERR. -/
def State.flipped (s : State) (va : Nat) : Option (Bool × Bool) :=
  (s.vaRead va 16).map fun x => let w := PhaseWord.ofNat x; (w.gen != 0, w.err)

/-- How a node stands: none not ended; some true ended well; some false failed or never started. -/
def State.nodeEnd (s : State) (j : Job) (node : Nat) : Option Bool :=
  match look? j.nodes node with
  | some r => match r.launch with
    | some _ => match s.flipped r.recva with
      | some (true, err) => some (!err)
      | _ => none
    | none => some false
  | none => none

/-- The predecessors of a node. -/
def State.predecessors (s : State) (job nnode node : Nat) : Option (List Nat) :=
  (List.range nnode).filterM fun m => do
    let r ← s.nodeRec job m
    let l ← s.successors r
    pure (l.contains node)

/-- The launch-table index is free: no entry, or one whose launch has flipped and is hosted nowhere. -/
def State.launchFree (s : State) (i : Nat) : Bool :=
  i < 4096 && (match look? s.launches i with
    | none => true
    | some e => (s.flipped e.recva.toNat).any (·.1) && !(s.cells.any fun c => c.2.hosted.any (·.launch == i)))

/-- A range of logical cells that no live launch holds; the engines' and the table's names are never given. -/
def State.rangeFree (s : State) (base n : Nat) : Bool :=
  base + n ≤ 0xFF00 && !((List.range n).any fun i => (look? s.l2p (base + i)).isSome)

/-- A cell may be a home of the launch's logical cell number `i`: with window rows it is member i mod 16 of a cluster
(R173). -/
def Hosted.memberOk (h : Hosted) (i cell : Nat) : Bool := h.w == 0 || (cell < Config.computeCells && cell % 16 == i % 16)

/-- Each group of 16 stands on one whole cluster, in order (R173). -/
def groupsOk (cells : List Nat) : Bool :=
  (List.range cells.length).all fun i =>
    let c := cells.getD i 0
    c < Config.computeCells && c % 16 == i % 16 && c / 16 == cells.getD (i / 16 * 16) 0 / 16

/-- The logical cells of a launch mapped in ascending order on the cells of a plan; or the first that finds no home: no cell
of the set qualifies for it at any base (R395).  With `none` the plan is not the planner's: another cell or base fits, or a
step of a cell's operating point runs, for which the mapping waits (R390). -/
def State.mapAll (s : State) (first : Hosted) (set : List Nat) : List Nat → Nat → Except (Option Nat) State
  | [], _ => .ok s
  | cell :: rest, l =>
    let may (c : Nat) : Bool := first.memberOk (l - first.lcell) c
    if may cell && (s.cell cell).evac.isNone
        && s.qualifies cell first.launch (first.w + first.p) first.base.toNat first.len first.classes then
      State.mapAll (s.mapCell cell { first with lcell := l }) first set rest (l + 1)
    else if set.any fun c => may c && ((s.cell c).evac.isSome || s.qualifiesAt c first) then .error none
    else .error (some l)

/-- The planner's place for an initial task under the node's placement: the hash of its path (R53); for NEAR the cluster of
the cell that the hash gives, as a hint of radius 0; for STEAL the bottom of that cell's deque, or its inbox when the deque
is full (R54, R55, R402; DESIGN CHOICE, log 26). -/
def State.postInitial (s : State) (launch place t : Nat) : State :=
  let (f, s) := s.fresh
  let path : Word := BitVec.ofNat 64 (bits t 320 64)
  let dest := pathCell (look {} s.launches launch) path
  let cell := (look? s.l2p dest).getD 0
  let (x, y) := s.clusterXY cell
  let m : Msg :=
    { cls := BitVec.ofNat 8 (bits t 256 8), place := BitVec.ofNat 2 place, launch := BitVec.ofNat 12 launch
      dest := BitVec.ofNat 16 dest, path := path, srcpcell := BitVec.ofNat 17 f, srcdev := s.devidx
      args := (((Vector.replicate 4 (0 : Word)).set 0 (BitVec.ofNat 64 (bits t 0 64))).set 1 (BitVec.ofNat 64 (bits t 64 64))
        |>.set 2 (BitVec.ofNat 64 (bits t 128 64))).set 3 (BitVec.ofNat 64 (bits t 192 64)) }
  if place = 1 then s.post { msg := m, target := .near x y x y 0 } false
  else if place = 2 && (s.cell cell).deque.length < 32 then
    s.modCell cell fun c => { c with deque := { msg := m, target := .physical cell } :: c.deque }
  else s.post { msg := if place = 2 then { m with place := 3 } else m, target := .logical dest } false

/-- A job with a node's run filled in. -/
def State.setNode (s : State) (jva node : Nat) (r : NodeRun) : State :=
  { s with jobs := s.jobs.map fun (x : Job) => if x.va = jva then { x with nodes := put x.nodes node r } else x }

/-- The launch that a node becomes, step by step (R403).  One with NINIT 0 starts with LIVE 0, and its PHASE stays open, neither
flipped nor failed: no subtraction brings LIVE to 0, and R46 names no other completion (DESIGN CHOICE, log 26); `none` where the plan is not one that the planner may
choose.  The plan: launch index, level record VA, LID, first logical cell, image base, then the cells; after them the set of
cells that the planner has for the launch, all of the module's when none follows (R384, R395, log 26). -/
def State.startNode (s : State) (j : Job) (job node : Nat) (plan : List Nat) : Option State := do
  let d (i : Nat) : Nat := plan.getD i 0
  let r ← s.nodeRec job node
  let binds ← s.bindings r
  let inits ← s.initials r
  let code ← (List.range r.codeLen).mapM fun i => s.vaNum (r.code + 2 * i) 2
  let region ← s.vaBytes r.regImg r.regLen
  let cells := (plan.drop 5).take r.lcount
  let set := if plan.length ≤ 5 + r.lcount then List.range Config.systemBase else plan.drop (5 + r.lcount)
  if !s.launchFree (d 0) || !s.rangeFree (d 3) r.lcount || cells.length ≠ r.lcount || d 1 % 64 ≠ 0
      || (r.w ≠ 0 && !groupsOk cells) || !cells.all set.contains then none
  else
    let save := bits job 192 64
    let first : Hosted :=
      { lcell := d 3, launch := d 0, w := r.w, p := r.p, base := BitVec.ofNat 14 (d 4), len := r.codeLen
        classes := binds.map fun b => bits b 24 8 }
    match s.mapAll first set cells (d 3) with
    | .error none => none
    | .error (some l) =>
      let s ← s.vaWrite (d 1) 64 (levelRecord freshPhase.forced.toNat 0 0 (errsumAdd 0 0x06 l 0) save j.graphRec (d 2))
      let s := s.setNode j.va node { launch := some (d 0), recva := d 1 }
      pure { s with records := s.records ++ [RecOp.liveSub j.graphRec] }
    | .ok s =>
      let e : LaunchEntry :=
        { recva := BitVec.ofNat 64 (d 1), lid := BitVec.ofNat 64 (d 2), lbase := BitVec.ofNat 32 (d 3), lcount := BitVec.ofNat 32 r.lcount
          wrows := BitVec.ofNat 13 r.w, prows := BitVec.ofNat 13 r.p, frm := BitVec.ofNat 3 (bits r.mode 4 3), det := bit r.mode 2
          replay := bit r.mode 3, jseed := BitVec.ofNat 64 (bits job 128 64) }
      let s := { s with launches := put s.launches (d 0) e }
      let s := cells.dedup.foldl (fun s c => s.modCell c fun x => x.load (d 4) code binds) s
      let s := (List.range r.lcount).foldl (fun s i => s.rowBytes (d 3 + i) false 0 region) s
      let s ← s.vaWrite (d 1) 64 (levelRecord freshPhase.toNat r.ninit 0 0 save j.graphRec (d 2))
      let s := s.setNode j.va node { launch := some (d 0), recva := d 1 }
      pure (inits.foldl (fun s t => s.postInitial (d 0) (bits r.mode 0 2) t) s)

/-- NODE_START of node `b` of the job at `a`, with the planner's choices in `data` (R395, R403). -/
def execNodeStart (s : State) : Host.Outcome State Fault Refusal :=
  event s do
    let node := s.now.arg.b
    let j ← s.jobs.find? (·.va == s.now.arg.a)
    let job ← s.vaNum j.va 64
    let head ← s.vaNum (bits job 0 64) 16
    let preds ← s.predecessors job (bits head 0 16) node
    let ends := preds.map (s.nodeEnd j)
    if bits head 0 16 ≤ node || (look? j.nodes node).isSome then none
    else if ends.any (· == some false) then
      let s := s.setNode j.va node { launch := none, recva := 0 }
      pure { s with records := s.records ++ [RecOp.liveSub j.graphRec] }
    else if ends.all (· == some true) then s.startNode j job node s.now.arg.data
    else none

/-! ### Release and compaction (R60, R388) -/

/-- Rows `from' .. from' + n - 1` of a cell copied to `to'` and up, in ascending order, with their marks (R202, R388). -/
def State.copyRows (s : State) (cell from' to' n : Nat) : State :=
  let t := s.padWrite cell (to' * 128) (n * 128) (s.padRead cell (from' * 128) (n * 128))
  if n = 0 then s else { t with badPad := t.badPad ++ marksMoved s.badPad cell from' cell to' n }

/-- A hosted logical cell leaves a cell: the rows above it move down (R388), its classes and its entry go. -/
def State.unhost (s : State) (cell k : Nat) (h : Hosted) : State :=
  let c := s.cell cell
  let base := c.rowBase h.lcell
  let above := ((c.hosted.drop (k + 1)).map fun x => x.w + x.p).foldl (· + ·) 0
  let s := s.copyRows cell (base + h.w + h.p) base above
  let hosted := removeAt c.hosted k
  let c := { c with hosted := hosted }
  let c := if hosted.any (·.launch == h.launch) then c
    else { c with routines := c.routines.map fun e => if h.classes.contains e.1 then (e.1, { e.2 with bound := false }) else e }
  s.setCell cell c

/-- Nothing is on its way to or from a cell's rows, and no step of its operating point runs. -/
def State.rowsQuiet (s : State) (n : Nat) : Bool :=
  (s.cell n).evac.isNone
  && !(s.inflight.any fun a => a.phase.open && (match a.place with | .pad c _ => c == n | _ => false))
  && !(s.groups.any fun g => g.2.ops.any fun o => o.cell == n)

/-- ROW_COMPACTION: hosted logical cell `b` of cell `a`, whose launch has completed, is released (R60, R388). -/
def execRowCompaction (s : State) : Host.Outcome State Fault Refusal :=
  event s do
    let n := s.now.arg.a
    let h ← (s.cell n).hosted[s.now.arg.b]?
    let e ← look? s.launches h.launch
    let (over', _) ← s.flipped e.recva.toNat
    if !over' || !s.rowsQuiet n then none
    else
      let s := s.unhost n s.now.arg.b h
      pure { s with l2p := del s.l2p h.lcell, tags := s.tags.filter fun t => t.1 / 256 ≠ h.lcell }

end Sys2Proof.Machine
end

