-- ==== Sys2Proof/Machine/Tag.lean ====
section
/-! DEFINITION. The tag table and its forms (R174-R177, R237, R238). -/
namespace Sys2Proof.Machine

/-- The key of a context's tag table: its logical cell's, a system core's own, or, for an activation of no
launch elsewhere, its cell's (R174, R408, log 17). -/
def tagKey (cell : Nat) (x : Ctx) : Nat :=
  if kindOf cell = some .system then 0x10000 + (cell - Config.systemBase)
  else if x.launch = none then 0x20000 + cell else x.lcell.toNat

def State.tagEntry (s : State) (table slot : Nat) : TagEntry := look {} s.tags (table * 256 + slot)

def State.setTag (s : State) (table slot : Nat) (e : TagEntry) : State :=
  { s with tags := put s.tags (table * 256 + slot) e }

/-- Entry bits 127:0 (R174). -/
def TagEntry.toNat (e : TagEntry) : Nat :=
  e.tag.toNat + 2 ^ 64 * e.row.toNat + 2 ^ 76 * e.len.toNat + 2 ^ 89 * e.valid.toNat + 2 ^ 90 * e.dirty.toNat
    + 2 ^ 91 * e.pin.toNat + 2 ^ 92 * e.evicted.toNat + 2 ^ 93 * e.swz.toNat

/-- TAG ≤ line < TAG + LEN (R175). -/
def TagEntry.hasLine (e : TagEntry) (line : Nat) : Bool :=
  e.tag.toNat ≤ line && line < e.tag.toNat + e.len.toNat

/-- The lookup of a line: slot, −1 or −2 (R175). -/
def State.tagLookup (s : State) (table line : Nat) : Int :=
  match firstBelow 256 (fun k => (s.tagEntry table k).hasLine line && (s.tagEntry table k).valid) with
  | some k => k
  | none =>
    if (List.range 256).any (fun k => (s.tagEntry table k).hasLine line && (s.tagEntry table k).evicted)
    then -2 else -1

/-- The entry TAGSET writes from VA[59:7] and the image of bits 127:64 (R238). -/
def tagImage (va img : Nat) : TagEntry :=
  let len := bits img 12 13
  let swz := bits img 29 4
  { tag := BitVec.ofNat 53 (bits va 7 53), row := BitVec.ofNat 12 img, len := BitVec.ofNat 13 len
    valid := bit img 25 && len != 0 && len ≤ 4096 && swz < 4
    dirty := bit img 26, pin := bit img 27, evicted := false, swz := BitVec.ofNat 4 swz }

/-- TAGLK: −2 is a variable-latency result (R237). -/
def taglkBody (d a : Reg) : Body := fun s =>
  let r := s.tagLookup (tagKey s.now.cell s.cur) (bits (s.s a).toNat 7 53)
  if r = -2 then .ok { s := s.later d (wrap r) } else .ok { s := s.setS d (wrap r) }

def execTaglk (d a : Reg) (s : State) := issue (.taglk d a) s (taglkBody d a)

def tagsetBody (d a b : Reg) : Body := fun s =>
  .ok { s := s.setTag (tagKey s.now.cell s.cur) (bits (s.s d).toNat 0 8) (tagImage (s.s a).toNat (s.s b).toNat) }

def execTagset (d a b : Reg) (s : State) := issue (.tagset d a b) s (tagsetBody d a b)

/-- TAGINV clears VALID, DIRTY and EVICTED and writes nothing back (R238). -/
def taginvBody (a : Reg) : Body := fun s =>
  let t := tagKey s.now.cell s.cur
  let k := bits (s.s a).toNat 0 8
  .ok { s := s.setTag t k { s.tagEntry t k with valid := false, dirty := false, evicted := false } }

def execTaginv (a : Reg) (s : State) := issue (.taginv a) s (taginvBody a)

def execTagstat (d a b : Reg) (s : State) :=
  issue (.tagstat d a b) s (writes d fun s =>
    BitVec.ofNat 64 (bits (s.tagEntry (tagKey s.now.cell s.cur) (bits (s.s a).toNat 0 8)).toNat (64 * b.val) 64))

end Sys2Proof.Machine
end

