-- ==== Sys2Proof/Machine/Power.lean ====
section
/-! DEFINITION. Operating points, row capacity, thermal migration and the limits (R385-R398, R409). -/
namespace Sys2Proof.Machine

/-! ### Row maps (R386, R393) -/

/-- The code of a physical row; 6 counts as 7 in every use (R386). -/
def Cell.rowCode (c : Cell) (i : Nat) : Nat := look 0 c.rowmap i

/-- Good rows at OP `k` below physical row `i`. -/
def Cell.goodBelow (c : Cell) (k i : Nat) : Nat := i - (c.rowmap.filter fun e => e.1 < i && k < e.2).length

/-- ROWQ's answer (R393). -/
def State.rowq (s : State) (n sel x : Nat) : Nat :=
  let c := s.cell n
  let op := c.opcur.toNat
  match sel with
  | 0 =>
    let i := bits x 0 13
    if 4160 ≤ i then 7
    else
      let code := c.rowCode i
      let r := c.goodBelow op i
      code + (if code ≤ op && r < c.rowsAt op then 8 + 16 * r else 0)
  | 1 => c.rowsAt (bits x 0 3)
  | 2 => op + 16 * (look 4 s.unitOps (n / 16)).toNat
  | _ =>
    let xy := s.siteXY (n / 16)
    if 2048 ≤ xy then 2 ^ 15 else xy % 64 + 2 ^ 8 * (xy / 64)

/-! ### Pinned rows (R388) -/

/-- Private row `r` of a logical cell is covered by a valid slot with PIN = 0. -/
def State.unpinned (s : State) (h : Hosted) (r : Nat) : Bool :=
  (List.range 256).any fun k =>
    let e := s.tagEntry h.lcell k
    e.valid && !e.pin && e.row.toNat ≤ h.w + r && h.w + r < e.row.toNat + e.len.toNat

/-- Pinned P of the logical cell mapped last. -/
def State.pinnedRows (s : State) (n : Nat) (h : Hosted) : Nat :=
  let c := s.cell n
  let first := c.rowBase h.lcell + h.w
  let lim := min h.p (s.rowsOf n - first)
  match (List.range lim).reverse.find? fun r => !s.unpinned h r with
  | some r => r + 1
  | none => 0

/-- ROWPIN (R388). -/
def State.rowPin (s : State) (n : Nat) : Nat :=
  match (s.cell n).hosted.reverse with
  | [] => 0
  | h :: rest => (rest.map fun x => x.w + x.p).foldl (· + ·) 0 + h.w + s.pinnedRows n h

/-! ### OPSET and ROWQ (R389, R390, R393) -/

/-- The cell an operand names (R259): the executing one, or a PCELL that exists. -/
def State.targetCell (s : State) (a : Word) : Option Nat :=
  if bit a.toNat 63 then some s.now.cell
  else if (kindOf (bits a.toNat 32 17)).isSome then some (bits a.toNat 32 17) else none

/-- The compute cell an operating-point form names. -/
def State.opTarget (s : State) (a : Word) : Option Nat :=
  match s.targetCell a with
  | some n => if kindOf n = some .compute then some n else none
  | none => none

/-- A request joins a power controller's sequence; its result returns later. -/
def State.opRequest (s : State) (d : Reg) (n : Nat) (unit : Bool) (query : Option Nat) (op : Nat) : State :=
  let r : OpRequest := { id := s.nextId, query := query, op := op }
  let s := s.enter (Access.of 0 noHome .reply (.s d))
  if unit then { s with unitOpq := put s.unitOpq (n / 16) (look [] s.unitOpq (n / 16) ++ [r]) }
  else s.modCell n fun c => { c with opq := c.opq ++ [r] }

def opsetBody (d a b : Reg) : Body := fun s =>
  match s.opTarget (s.s a) with
  | none => .ok { s := s.later d 3 }
  | some n => .ok { s := s.opRequest d n (bit (s.s a).toNat 62) none (bits (s.s b).toNat 0 3) }

def execOpset (d a b : Reg) (s : State) := issue (.opset d a b) s (opsetBody d a b)

def rowqBody (d a b : Reg) : Body := fun s =>
  match s.opTarget (s.s a) with
  | none => .ok { s := s.later d 0 }
  | some n => .ok { s := s.opRequest d n false (some (s.s b).toNat) 0 }

def execRowq (d a b : Reg) (s : State) := issue (.rowq d a b) s (rowqBody d a b)

/-- The thermal limit: values above 120 are taken as 120 (R398). -/
def State.thermalLimit (s : State) : Nat := min 120 s.thermlim.toNat

/-- The head request of a cell's sequence is answered. -/
def State.opDone (s : State) (n : Nat) (r : OpRequest) (v : Nat) : State :=
  (s.modCell n fun c => { c with opq := c.opq.tail, evac := none }).deliver r.id v

/-! ### Evacuation (R391) -/

/-- The slot that a step down to `uj` rows evacuates next, from slot `k` on. -/
def State.evacSlot (s : State) (h : Hosted) (base uj k : Nat) : Option Nat :=
  (List.range 256).find? fun j =>
    let e := s.tagEntry h.lcell j
    k ≤ j && e.valid && uj < base + e.row.toNat + e.len.toNat

/-- Relative row `q` of a slot in linear order: unit u stands in unit u XOR (q mod 2^z) (R176). -/
def unswizzle (z q raw : Nat) : Nat :=
  (List.range 8).foldl (fun x u => x + bits raw (128 * (u ^^^ (q % 2 ^ z))) 128 * 2 ^ (128 * u)) 0

/-- The entry of an evacuated slot. -/
def State.markEvicted (s : State) (h : Hosted) (k : Nat) : State :=
  let e := s.tagEntry h.lcell k
  s.setTag h.lcell k { e with valid := false, dirty := false, evicted := true }

/-- The controller's work on a cell's step: its accesses carry the OPSET's number (R391). -/
def Hosted.work (h : Hosted) (cell : Nat) (r : OpRequest) : Job' := ⟨r.id, l1Key cell, cell, h.lcell, some h.launch⟩

/-- The line of a remote module is written by 8 stores on the logical cell's flow; none while there is no room. -/
def State.storeLine (s : State) (j : Job') (va dev pa key x : Nat) : Option State :=
  let used := match s.findFlow j.lcell dev with | some f => f.buf.length | none => 0
  if 24 < used then none
  else (List.range 8).foldlM (fun s u =>
    s.unitSend j (va + 16 * u) key dev (pa + 16 * u) (.vstore 0 16 0xFFFF (bits x (128 * u) 128))) s

/-- One row of a dirty slot is written back: done, dropped with a cause, parked, or not now (R391). -/
inductive WriteBack where
  | done (s : State)
  | drop (cause : Nat)
  | parks (mal : Bool)
  | later

/-- A row `x` of cell `cell`, whose check value is `bad`, goes to its line.  A bad one goes, marked and recorded, only to a
page with CHK = 1, as an engine's data do (R202, R203). -/
def State.writeBack (s : State) (h : Hosted) (cell : Nat) (r : OpRequest) (va x : Nat) (bad : Bool) : WriteBack :=
  match s.engine va true with
  | none => .parks (s.walkMal va)
  | some (.at l) =>
    if bad && !l.chk then .drop 0x05
    else
      let s := if bad then s.recordError (some h.launch) 0x05 h.lcell else s
      match l.place with
      | .remote dev pa =>
        if !s.reaches dev then .drop 0x0B
        else match s.storeLine (h.work cell r) va dev pa l.key x with | some s' => .done s' | none => .later
      | p => match s.placeWrite p l.key 128 (2 ^ 128 - 1) x with
        | some s' => .done (match p with
          | .hbm pa => if bad then { s' with badHbm := s'.badHbm ++ [pa / 128] } else s'
          | _ => s')
        | none => .drop 0x04
  | some .bad => .drop 0x05
  | some _ => .drop 0x04

/-- A slice's replay queue holds this cell's write-back. -/
def State.evacParked (s : State) (n : Nat) : Bool :=
  s.slices.any fun e => e.2.replay.any fun p => match p with | .writeback c _ => c == n | _ => false

/-- One piece of the step of cell `n` down to OP `r.op`: a row of a slot, a slot's end, or the step's end.  A parked
write-back waits for REPLAYALL (R198); a slot ends once its lines have reached their homes, and one that failed drops it
(R391). -/
def State.stepDown (s : State) (n : Nat) (r : OpRequest) (slot row : Nat) : Option State :=
  let c := s.cell n
  let uj := c.rowsAt r.op
  match c.hosted.getLast? with
  | none => some ((s.modCell n fun c => { c with opcur := BitVec.ofNat 3 r.op }).opDone n r 0)
  | some h =>
    let base := c.rowBase h.lcell
    let drop (s : State) (k cause : Nat) : State := (s.markEvicted h k).recordError (some h.launch) cause h.lcell
    let to' (s : State) (k q : Nat) : State := s.modCell n fun c => { c with evac := some (k, q) }
    if s.evacParked n then none
    else match s.evacSlot h base uj slot with
    | none => some ((s.modCell n fun c => { c with opcur := BitVec.ofNat 3 r.op }).opDone n r 0)
    | some k =>
      let e := s.tagEntry h.lcell k
      let q := if k = slot then row else 0
      if !e.dirty || e.len.toNat ≤ q then
        if s.unitOpen r.id then none
        else match s.unitFailed r.id with
          | some st => some (to' (drop (s.unitClear r.id) k (causeOf st)) (k + 1) 0)
          | none => some (to' ((s.unitClear r.id).markEvicted h k) (k + 1) 0)
      else if h.w + h.p ≤ e.row.toNat + q || s.rowsOf n ≤ base + e.row.toNat + q then some (to' s k (q + 1))
      else
        let p := (base + e.row.toNat + q) * 128
        let va := 128 * (e.tag.toNat + q)
        match s.writeBack h n r va (unswizzle e.swz.toNat q (s.padRead n p 128)) (s.placeBad (.pad n p)) with
        | .done s' => some (to' s' k (q + 1))
        | .drop cause => if s.unitOpen r.id then none else some (to' (drop (s.unitClear r.id) k cause) (k + 1) 0)
        | .later => none
        | .parks mal => (s.unitPark va true mal (.writeback n k)).map fun s' => to' s' k q

/-- The rows that a step up backs anew are written zero (R390). -/
def State.zeroRows (s : State) (n from' to' : Nat) : State :=
  s.padWrite n (from' * 128) ((to' - from') * 128) 0

/-- The cell stands at an instruction boundary, and its own accesses have reached its rows, so that a step may begin: what comes to the
rows during the step is other cells' (R390, R392). -/
def State.stepReady (s : State) (n : Nat) : Bool :=
  !([0, 1, 2, 3].any fun k => (s.ctx n k).inside) &&
  !(s.inflight.any fun a => a.unit.isNone && a.cell == n && a.phase == .issued && !a.unresolved && s.homeTurn a
      && (match s.resolve a.place with | .pad c _ => c == n | _ => false))

/-- The head request of cell `n`'s sequence, with the cell's temperature (R390-R394). -/
def State.opCell (s : State) (n reading : Nat) : Option State := do
  let c := s.cell n
  let r ← c.opq.head?
  let k := c.opcur.toNat
  match r.query with
  | some x => pure (s.opDone n r (s.rowq n (bits x 62 2) x))
  | none =>
    match c.evac with
    | some (slot, row) => s.stepDown n r slot row
    | none =>
      if 5 < r.op then pure (s.opDone n r 2)
      else if r.op = k then pure (s.opDone n r 0)
      else if r.op < k then
        if c.rowsAt r.op < s.rowPin n then pure (s.opDone n r 1)
        else if !s.stepReady n then none
        else pure (s.modCell n fun c => { c with evac := some (0, 0) })
      else if s.thermalLimit < reading then pure (s.opDone n r 4)
      else if !s.stepReady n then none
      else
        let s := s.zeroRows n (c.rowsAt k) (c.rowsAt r.op)
        pure ((s.modCell n fun c => { c with opcur := BitVec.ofNat 3 r.op }).opDone n r 0)

/-- The head request of a matrix unit's sequence: no capacity check (R390). -/
def State.opUnit (s : State) (cl : Nat) : Option State := do
  let q := look [] s.unitOpq cl
  let r ← q.head?
  let s := { s with unitOpq := put s.unitOpq cl q.tail }
  if 5 < r.op then pure (s.deliver r.id 2)
  else pure (State.deliver { s with unitOps := put s.unitOps cl (BitVec.ofNat 3 r.op) } r.id 0)

/-- OP_STEP of cell `a`, or with `b` = 1 of its cluster's matrix unit; `c` is the cell's temperature. -/
def execOpStep (s : State) : Host.Outcome State Fault Refusal :=
  event s (if s.now.arg.b = 1 then s.opUnit (s.now.arg.a / 16) else s.opCell s.now.arg.a s.now.arg.c)

/-! ### Thermal migration (R394) -/

/-- No activation of a logical cell runs on a cell, and its deque holds no task of it. -/
def State.lcellIdle (s : State) (n lcell : Nat) : Bool :=
  let c := s.cell n
  [0, 1, 2, 3].all (fun k => !((c.ctx k).busy && (c.ctx k).launch.isSome && (c.ctx k).lcell.toNat == lcell))
  && !(c.deque.any fun p => p.msg.dest.toNat == lcell)
  && (match c.unbound.bind (look? c.slots) with | some m => m.dest.toNat != lcell | none => true)

/-- A cell that runs nothing. -/
def State.cellIdle (s : State) (n : Nat) : Bool := [0, 1, 2, 3].all fun k => !(s.ctx n k).busy

/-- A cell takes a logical cell that leaves another of its cluster (R394, R59, R60). -/
def State.takesMoved (s : State) (n hot : Nat) (h : Hosted) (reading : Nat) : Bool :=
  n != hot && s.cellIdle n && (s.cell n).evac.isNone && reading ≤ s.thermalLimit && s.rowsQuiet n
  && s.qualifies n h.launch (h.w + h.p) h.base.toNat h.len h.classes

/-- The inbox slots of a logical cell's messages, in channel order. -/
def Cell.messagesOf (c : Cell) (lcell : Nat) : List (Nat × Nat × Msg) :=
  (List.range 8).flatMap fun ch => (look [] c.queue ch).filterMap fun i =>
    (look? c.slots i).bind fun m => if m.dest.toNat = lcell then some (ch, i, m) else none

/-- The launch's code image and bindings copied from one cell to another. -/
def Cell.adopt (c from' : Cell) (h : Hosted) : Cell :=
  let c := (List.range h.len).foldl (fun c i => c.setHalf (h.base.toNat + i) (BitVec.ofNat 16 (from'.half (h.base.toNat + i)))) c
  h.classes.foldl (fun c k =>
    let r := look {} from'.routines k
    c.bind k r.entry r.chan r.bound r.strict) c

/-- The move: rows and tag table, the table entry, the inbox messages (R394). -/
def State.migrate (s : State) (hot n k : Nat) (h : Hosted) : State :=
  let src := s.cell hot
  let rows := h.w + h.p
  let from' := src.rowBase h.lcell
  let data := s.padRead hot (from' * 128) (rows * 128)
  let bad := s.badPad
  let ms := src.messagesOf h.lcell
  let s := s.modCell hot fun c => ms.foldl (fun c m => c.take m.1 (some m.2.1)) c
  let s := s.unhost hot k h
  let s := s.modCell n fun c => { (c.adopt src h) with hosted := c.hosted ++ [h] }
  let to' := (s.cell n).rowBase h.lcell
  let s := s.padWrite n (to' * 128) (rows * 128) data
  let s := { s with badPad := s.badPad ++ marksMoved bad hot from' n to' rows }
  let s := { s with l2p := put s.l2p h.lcell n }
  ms.foldl (fun (s : State) m =>
    let was := hot * 64 + m.2.1
    let t := s.modCell n (·.enqueue m.2.2)
    match (s.cell n).freeSlot with
    | some i => { t with unstarted := t.unstarted.map fun e => if e.1 = was then (n * 64 + i, e.2) else e }
    | none => t) s

/-- THERMAL_MIGRATION: cell `a` is above the limit and its hosted logical cell `b` is idle; `data` are the readings
of its cluster's 16 cells and `c` the member that takes it.  With no cell that could, the hot cell is slowed. -/
def execThermalMigration (s : State) : Host.Outcome State Fault Refusal :=
  event s do
    let hot := s.now.arg.a
    let temp (j : Nat) : Nat := s.now.arg.data.getD j 0
    let h ← (s.cell hot).hosted[s.now.arg.b]?
    let first := hot / 16 * 16
    let takes (j : Nat) : Bool := s.takesMoved (first + j) hot h (temp j)
    let free (j : Nat) : Bool := ((s.cell hot).messagesOf h.lcell).length ≤ (s.cell (first + j)).freeSlots
    if kindOf hot ≠ some .compute || temp (hot % 16) ≤ s.thermalLimit || !s.lcellIdle hot h.lcell || !s.rowsQuiet hot then none
    else if s.now.arg.c < 16 && takes s.now.arg.c then
      (if free s.now.arg.c then some (s.migrate hot (first + s.now.arg.c) s.now.arg.b h) else none)
    else if (List.range 16).any takes then none
    else some (s.modCell hot fun c => { c with stretched := true })

/-- READING_FALLS_BELOW_LIMIT: cell `a` reads `b`; its clock runs at its OP's rate again (R394). -/
def execReadingFallsBelowLimit (s : State) : Host.Outcome State Fault Refusal :=
  event s (if s.now.arg.b < s.thermalLimit && (s.cell s.now.arg.a).stretched then
    some (s.modCell s.now.arg.a fun c => { c with stretched := false }) else none)

/-! ### Stopping every cell (R256, R397, R398) -/

/-- Every compute and depot cell halts at an instruction boundary: one that is `mid` an instruction's steps or a forced save
when that is over (R256). -/
def State.haltAll (s : State) : State :=
  { s with
    stopped := true
    cells := s.cells.map fun e =>
      if kindOf e.1 = some .system then e
      else if e.2.mid then (e.1, { e.2 with halting := true })
      else (e.1, e.2.halt) }

/-- THERMAL_TRIP: a junction reading of `a` halts everything and holds the module until reset (R398). -/
def execThermalTrip (s : State) : Host.Outcome State Fault Refusal :=
  event s (if s.now.arg.a < 125 then none else some { s.haltAll with held := true })

/-- `us` more microseconds at the current read last. -/
def Governor.elapse (g : Governor) (us : Nat) : List Bool :=
  let l := g.recent ++ List.replicate (min us 100) (decide (16000 < g.current.toNat))
  l.drop (l.length - 100)

/-- A current the governor and the ballast let the core rails draw after `us` microseconds: it rises and falls by at most
1,500 A in each, and stands above 16,000 A, never above 30,000 A, for at most 10 of any 100, those that have passed and the
next (R396, R397). -/
def Governor.allows (g : Governor) (load us : Nat) : Bool :=
  let l := g.elapse us
  load ≤ g.current.toNat + 1500 * us && g.current.toNat ≤ load + 1500 * us && load ≤ 30000 && decide ((l.filter id).length ≤ 10)
    && (load ≤ 16000 || ((l.drop (l.length - 99)).filter id).length < 10)

/-- CURRENT_GOVERNOR: the core rails draw `a` A, `b` microseconds after the last reading; `data` are the cells and units
that the governor holds not ready until the next one (R396). -/
def execCurrentGovernor (s : State) : Host.Outcome State Fault Refusal :=
  let g := s.governor
  let load := s.now.arg.a
  event s (if !g.allows load s.now.arg.b then none
    else some { s with governor := { g with
      current := BitVec.ofNat 32 load
      excursions := if 16000 < load ∧ g.current.toNat ≤ 16000 then (if g.excursions = 0xFFFF then g.excursions else g.excursions + 1)
        else g.excursions
      recent := g.elapse s.now.arg.b
      holds := s.now.arg.data
      holding := !s.now.arg.data.isEmpty } })

/-- BALLAST_DRAW: load has fallen by `a` A over `b` µs; ballast draws what is beyond 1,500 A/µs (R397). -/
def execBallastDraw (s : State) : Host.Outcome State Fault Refusal :=
  event s (some { s with governor := { s.governor with ballast := s.governor.ballast + s.now.arg.a - 1500 * s.now.arg.b } })

end Sys2Proof.Machine
end

