-- ==== Sys2Proof/Machine/HostPorts.lean ====
section
/-! DEFINITION. The host's ports, checkpoints, boot and attestation (R399-R406). -/
namespace Sys2Proof.Machine

/-! ### Doorbells and registers (R399-R401) -/

/-- DOORBELL: the host writes the VA `b` to port `a`; a full queue drops it (R401). -/
def execDoorbell (s : State) : Host.Outcome State Fault Refusal :=
  let q := s.now.arg.a
  let h := s.hostPort q
  event s (if 4 ≤ q then none
    else if h.doorbells.length < 64 then some (s.setHostPort q { h with doorbells := h.doorbells ++ [s.now.arg.b % 2 ^ 64] })
    else some (s.setHostPort q { h with lost := h.lost + 1 }))

/-- DOORBELL_POST: port `a` posts its oldest doorbell to firmware's system core and class (R401). -/
def execDoorbellPost (s : State) : Host.Outcome State Fault Refusal :=
  let q := s.now.arg.a
  let h := s.hostPort q
  event s (match h.doorbells with
    | va :: rest => if h.cls < 16 then none
        else some ((s.setHostPort q { h with doorbells := rest }).postSystem h.core h.cls [va, q])
    | [] => none)

/-- HOST_REGISTER_WRITE of value `c` to offset `b` of port `a`'s BAR0: APBASE, or a host window (R400). -/
def execHostRegisterWrite (s : State) : Host.Outcome State Fault Refusal :=
  let q := s.now.arg.a
  let off := s.now.arg.b
  let v := s.now.arg.c
  let h := s.hostPort q
  event s (if 4 ≤ q then none
    else if off = 0x018 then some (s.setHostPort q { h with apbase := BitVec.ofNat 52 (bits v 36 16 * 2 ^ 36) })
    else if 0x100 ≤ off ∧ off < 0x200 ∧ off % 16 = 0 then
      let w := bits v 12 52 * 2 ^ 12 + bits v 64 6 * 2 ^ 64 + bits v 70 2 * 2 ^ 70
      some (s.setHostPort q { h with windows := put h.windows ((off - 0x100) / 16) (BitVec.ofNat 128 w) })
    else none)

/-- BAR2_INBOUND_WRITE of `data` at aperture offset `b` of port `a`: plain bytes with check values (R399). -/
def execBar2InboundWrite (s : State) : Host.Outcome State Fault Refusal :=
  let q := s.now.arg.a
  let off := s.now.arg.b
  let l := s.now.arg.data
  let pa := (s.hostPort q).apbase.toNat + off
  event s (if 4 ≤ q || 2 ^ 36 < off + l.length || Config.hbmBytes < pa + l.length then none
    else some (s.hbmWrite 0 pa l.length (packElems 8 l)))

/-! ### Checkpoints (R404, R405) -/

/-- CKDESC written with `a`: the descriptor is read and the cut set for its round's edge; an edge that has passed
means the next one.  A write while BUSY is ignored (R404). -/
def execCkdesc (s : State) : Host.Outcome State Fault Refusal :=
  let va := s.now.arg.a / 64 * 64
  event s (if s.cut.busy then none
    else match s.vaRead va 64 with
    | none => some { s with cut := { s.cut with desc := BitVec.ofNat 64 va, err := true } }
    | some d =>
      let cut : Cut :=
        { desc := BitVec.ofNat 64 va, busy := true, err := false, last := s.cut.last, due := some (max (bits d 0 64) s.rounds.send)
          full := bit d 64, cls := bits d 72 8, core := bits d 80 8 % 8
          dst := (List.range 4).map fun i => bits d (128 + 64 * i) 64 }
      some { s with cut := cut })

/-- The frames with lines that the cut still protects. -/
def State.cutFrames (s : State) : List Nat :=
  if s.cut.full then List.range (Config.hbmBytes / 4096) else (s.cut.shares.map (· / 64)).dedup

/-- CHECKPOINT_COMPLETION: the frames that are left are copied, BUSY clears and the class is posted (R405). -/
def execCheckpointCompletion (s : State) : Host.Outcome State Fault Refusal :=
  event s (if !s.cut.active then none
    else
      let s := s.cutFrames.foldl State.copyFrame s
      let c := s.cut
      let s := { s with cut := { c with busy := false, active := false, last := BitVec.ofNat 32 c.round, shares := [], done := [], copied := 0 } }
      some (s.postSystem c.core c.cls [c.round, c.copied]))

/-! ### Boot and attestation (R406) -/

/-- Firmware's settings at boot, four numbers each: 0 row-map code (cell, row, code); 1 site map (site, place);
2 DEVIDX; 3 a port's doorbell core and class; 4 a halfword of a system core's code store; 5 a system core's start
at an address. -/
def State.settings (s : State) : List Nat → State
  | t :: x :: y :: z :: r =>
    let s' := match t with
      | 0 => s.modCell x fun c => { c with rowmap := if z = 0 then del c.rowmap y else put c.rowmap y (z % 8) }
      | 1 => { s with sites := put s.sites x y }
      | 2 => { s with devidx := BitVec.ofNat 9 x }
      | 3 => s.setHostPort (x % 4) { s.hostPort (x % 4) with core := y % 8, cls := z % 256 }
      | 4 => s.modCell (Config.systemBase + x % 8) fun c => c.setHalf y (BitVec.ofNat 16 z)
      | 5 =>
        let (token, s) := s.newId
        s.modCtx (Config.systemBase + x % 8) 0 fun c => { c with busy := true, pc := BitVec.ofNat 14 y, acts := c.acts + 1, token := token }
      | _ => s
    s'.settings r
  | _ => s

/-- RESET: every register takes its reset value, memory keeps its bytes; the boot ROM verifies firmware image `a`
(`flag`: its signature is good), which then makes its settings.  A bad image is not run: port 0 shows the code `b`. -/
def execReset (s : State) : Host.Outcome State Fault Refusal :=
  let base := { State.reset with
    agenda := s.agenda, turns := s.turns, delays := s.delays, free := s.free, nextId := s.nextId, outCap := s.outCap
    hbm := s.hbm, pad := s.pad, badHbm := s.badHbm, badPad := s.badPad, lineKeys := s.lineKeys, hostOut := s.hostOut }
  let boot : Boot := { firmware := s.now.arg.a, failed := !s.now.arg.flag }
  event s (some (
    if s.now.arg.flag then State.settings { base with boot := boot } s.now.arg.data
    else State.setHostPort { base with boot := boot } 0 { status := s.now.arg.b }))

/-- The measurements of boot ROM, firmware, partition table and row maps (R406). -/
def State.measurements (s : State) : List Nat :=
  [Config.digest [0], Config.digest [1, s.boot.firmware], Config.digest (2 :: s.partition.getD []),
    Config.digest (3 :: s.cells.flatMap fun e => e.2.rowmap.flatMap fun r => [e.1, r.1, r.2])]

/-- An SPDM answer leaves the module. -/
def State.attest (s : State) (kind : Nat) (values : List Nat) : State :=
  { s with boot := { s.boot with answers := s.boot.answers ++ values.map fun v => (kind, v) } }

/-- GET_MEASUREMENTS (R406). -/
def execGetMeasurements (s : State) := event s (some (s.attest 0 s.measurements))

/-- CHALLENGE with nonce `a`: a signature over the nonce and the measurements (R406). -/
def execChallenge (s : State) := event s (some (s.attest 1 [Config.sign 0 (Config.digest (s.now.arg.a :: s.measurements))]))

/-- KEY_EXCHANGE with the requester's share `a`: it opens a session (R406). -/
def execKeyExchange (s : State) : Host.Outcome State Fault Refusal :=
  let s' := s.attest 2 [Config.sign 1 s.now.arg.a]
  event s (some { s' with boot := { s'.boot with session := some s.now.arg.a } })

/-- PARTITION_TABLE_ACCEPT of the DEVIDX values in `data`; only under a good host signature (`flag`) (R178, R406). -/
def execPartitionTableAccept (s : State) : Host.Outcome State Fault Refusal :=
  event s (if s.now.arg.flag && !s.boot.failed then some { s with partition := some (s.now.arg.data.filter (· < 320)) } else none)

end Sys2Proof.Machine
end

