-- ==== Sys2Proof/Machine/Csr.lean ====
section
/-! DEFINITION. Control and status registers (R64, R121, R122, R247, R319, R323, R368, R398, R404). -/
namespace Sys2Proof.Machine

/-- The loop registers in the order of their numbers, 0x018-0x020. -/
def Ctx.loopCsr (x : Ctx) (j : Nat) : Nat :=
  match j with
  | 0 => x.ls[0].toNat | 1 => x.le[0].toNat | 2 => x.lc[0].toNat
  | 3 => x.ls[1].toNat | 4 => x.le[1].toNat | 5 => x.lc[1].toNat
  | 6 => x.ls[2].toNat | 7 => x.le[2].toNat | _ => x.lc[2].toNat

def Ctx.setLoopCsr (x : Ctx) (j v : Nat) : Ctx :=
  let a : CodeAddr := BitVec.ofNat 14 v
  let w : Word := BitVec.ofNat 64 v
  match j with
  | 0 => { x with ls := x.ls.set 0 a } | 1 => { x with le := x.le.set 0 a } | 2 => { x with lc := x.lc.set 0 w }
  | 3 => { x with ls := x.ls.set 1 a } | 4 => { x with le := x.le.set 1 a } | 5 => { x with lc := x.lc.set 1 w }
  | 6 => { x with ls := x.ls.set 2 a } | 7 => { x with le := x.le.set 2 a } | _ => { x with lc := x.lc.set 2 w }

/-- TASKID (R64). -/
def taskId (n k : Nat) (x : Ctx) : Nat := k % 4 + 4 * n + 2 ^ 19 * x.acts.toNat

/-- CLUSTER: depots and system cores read bit 15 alone; a spare site's place is outside the mesh (R64, R409). -/
def State.clusterCsr (s : State) (n : Nat) : Nat :=
  if Config.computeCells ≤ n then 2 ^ 15
  else
    let (x, y) := s.clusterXY n
    x + 2 ^ 8 * y

/-- Registers of a context and of its cell, below 0x060 (R64). -/
def State.taskCsr (s : State) (n k num : Nat) : Nat :=
  let c := s.cell n
  let x := s.ctx n k
  match num with
  | 0x000 => n | 0x001 => x.lcell.toNat | 0x002 => s.clusterCsr n | 0x003 => s.devidx.toNat | 0x004 => taskId n k x
  | 0x005 => x.path.toNat | 0x006 => x.level.toNat | 0x007 => x.chancls.toNat | 0x008 => k % 4 | 0x009 => x.codebase.toNat
  | 0x010 => x.fflags.toNat | 0x011 => x.frm.toNat | 0x012 => x.jseed.toNat | 0x013 => x.srctr.toNat
  | 0x028 => c.cycle.toNat | 0x029 => x.retired.toNat | 0x030 => x.prq.toNat | 0x031 => x.dline.toNat
  | 0x040 => c.opcur.toNat | 0x041 => s.rowsOf n | 0x042 => s.rowPin n | 0x043 => x.cwrows.toNat
  | _ =>
    if 0x018 ≤ num ∧ num ≤ 0x020 then x.loopCsr (num - 0x018)
    else if kindOf n = some .compute then c.rowsAt (num - 0x048) else 4096

/-- The current block of a depot context (R323). -/
def State.depotCsr (s : State) (n k num : Nat) : Nat :=
  let b := s.block' (groupOf n) (s.ctx n k).block.toNat
  match num with
  | 0x060 => b.w.toNat | 0x061 => b.disag.toNat | 0x062 => b.status | 0x063 => b.doubt.toNat | 0x064 => b.nan.toNat
  | 0x065 => b.every.toNat | 0x066 => b.timeout.toNat | _ => b.retry.toNat

/-- The stage table's registers (R368). -/
def Stage.csr (t : Stage) (num : Nat) : Nat :=
  match num with
  | 0x070 => t.ptr % 256 | 0x071 => t.free | 0x072 => t.dnslots.toNat | 0x073 => t.bubup.toNat | 0x074 => t.bubdn.toNat
  | 0x075 => t.bubstash.toNat | 0x076 => t.stashmax.toNat | _ => t.mode.toNat

/-- System registers of a context, a cell and the module (R64, R247, R319, R398, R404). -/
def State.systemCsr (s : State) (n k num : Nat) : Nat :=
  let c := s.cell n
  let x := s.ctx n k
  match num with
  | 0x100 => x.trapcause.toNat | 0x101 => x.trappc.toNat | 0x102 => x.trapval.toNat | 0x103 => x.trapstate.toNat
  | 0x200 => c.trapvec.toNat | 0x201 => c.ovfvec.toNat
  | 0x204 => x.sscr[0].toNat | 0x205 => x.sscr[1].toNat | 0x206 => x.sscr[2].toNat | 0x207 => x.sscr[3].toNat
  | 0x208 => c.dldef.toNat | 0x209 => c.codelim.toNat | 0x210 => s.xroot.toNat
  | 0x280 => c.haltcyc.toNat | 0x281 => c.haltsent.toNat | 0x282 => c.haltrecv.toNat
  | 0x2C0 => s.rndlen.toNat | 0x2C1 => s.rounds.send | 0x2C2 => s.rounds.recv | 0x2C3 => s.rndset.toNat | 0x2C4 => s.reachva.toNat
  | 0x2C5 => s.rto.toNat | 0x2C6 => s.parkctl.toNat | 0x2C7 => s.faberr.toNat
  | 0x2D0 => s.cut.desc.toNat | 0x2D1 => s.cut.busy.toNat + 2 * s.cut.err.toNat + 2 ^ 32 * s.cut.last.toNat
  | 0x2E0 => s.thermlim.toNat
  | 0x2E1 => s.governor.current.toNat + 2 ^ 32 * s.governor.excursions.toNat + 2 ^ 48 * s.governor.holding.toNat
  | _ => if 0x240 ≤ num ∧ num < 0x270 then (look 0 s.fnroute (num - 0x240)).toNat else 0

/-- The value of a register as context (n, k) reads it. -/
def State.csrRead (s : State) (n k num : Nat) : Word :=
  BitVec.ofNat 64 (
    if num < 0x060 then s.taskCsr n k num
    else if num < 0x070 then s.depotCsr n k num
    else if num < 0x100 then s.stage.csr num
    else s.systemCsr n k num)

/-- A write of a depot register: a field of the current block; MIXTO below 1,024 is stored as 1,024 (R323). -/
def State.depotCsrWrite (s : State) (n k num v : Nat) : State :=
  let g := groupOf n
  let blk := (s.ctx n k).block.toNat
  let b := s.block' g blk
  s.setBlock g blk (match num with
    | 0x065 => { b with every := BitVec.ofNat 16 v }
    | 0x066 => { b with timeout := BitVec.ofNat 32 (max 1024 (v % 2 ^ 32)) }
    | _ => { b with retry := BitVec.ofNat 8 v })

/-- A write of a module register that takes effect as an event: its event comes next (R314, R319, R404). -/
def State.eventWrite (s : State) (i : Instr) (v : Nat) : State := { s with agenda := (i, { a := v }) :: s.agenda }

/-- A register written with a value, of which it keeps its width (R121). -/
def State.csrWrite (s : State) (n k num : Nat) (w : Word) : State :=
  let v := w.toNat
  let ctx (f : Ctx → Ctx) : State := s.modCtx n k f
  let cell (f : Cell → Cell) : State := s.modCell n f
  match num with
  | 0x010 => ctx fun x => { x with fflags := BitVec.ofNat 5 v }
  | 0x011 => if 5 ≤ v % 8 then s else ctx fun x => { x with frm := BitVec.ofNat 3 v }
  | 0x012 => ctx fun x => { x with jseed := w }
  | 0x013 => ctx fun x => { x with srctr := w }
  | 0x100 => ctx fun x => { x with trapcause := BitVec.ofNat 8 v }
  | 0x101 => ctx fun x => { x with trappc := BitVec.ofNat 14 v }
  | 0x102 => ctx fun x => { x with trapval := w }
  | 0x103 => ctx fun x => { x with trapstate := BitVec.ofNat 64 (x.trapstate.toNat / 4 * 4 + v % 4) }
  | 0x200 => cell fun c => { c with trapvec := BitVec.ofNat 14 v }
  | 0x201 => cell fun c => { c with ovfvec := BitVec.ofNat 14 v }
  | 0x204 => ctx fun x => { x with sscr := x.sscr.set 0 w }
  | 0x205 => ctx fun x => { x with sscr := x.sscr.set 1 w }
  | 0x206 => ctx fun x => { x with sscr := x.sscr.set 2 w }
  | 0x207 => ctx fun x => { x with sscr := x.sscr.set 3 w }
  | 0x208 => cell fun c => { c with dldef := BitVec.ofNat 32 v }
  | 0x209 => cell fun c => { c with codelim := BitVec.ofNat 15 (min 0x4000 (v % 2 ^ 15)) }
  | 0x210 => { s with xroot := BitVec.ofNat 52 (v / 2 ^ 15 * 2 ^ 15) }
  | 0x2C0 => { s with rndlen := BitVec.ofNat 32 v }
  | 0x2C3 => s.eventWrite .rndsetWrite v
  | 0x2C4 => s.eventWrite .reachWrite v
  | 0x2C5 => { s with rto := BitVec.ofNat 32 v }
  | 0x2C6 => { s with parkctl := w }
  | 0x2D0 => s.eventWrite .ckdesc v
  | 0x2E0 => { s with thermlim := BitVec.ofNat 8 v }
  | _ =>
    if 0x018 ≤ num ∧ num ≤ 0x020 then ctx fun x => x.setLoopCsr (num - 0x018) v
    else if 0x065 ≤ num ∧ num ≤ 0x067 then s.depotCsrWrite n k num v
    else if 0x240 ≤ num ∧ num < 0x270 then { s with fnroute := put s.fnroute (num - 0x240) (BitVec.ofNat 11 v) }
    else s

/-- The common body of the CSR forms: s[D] takes the old value; a write form writes the new one (R121). -/
def csrBody (d a : Reg) (k : BitVec 10) (writes : Bool) (new : Word → Word → Word) : Body := fun s =>
  let old := s.csrRead s.now.cell s.now.ctx k.toNat
  let v := new old (s.s a)
  let s1 := s.setS d old
  .ok { s := if writes then s1.csrWrite s.now.cell s.now.ctx k.toNat v else s1 }

def execCsrrw (d a : Reg) (k : BitVec 10) (s : State) := issue (.csrrw d a k) s (csrBody d a k true fun _ x => x)
def execCsrrs (d a : Reg) (k : BitVec 10) (s : State) := issue (.csrrs d a k) s (csrBody d a k (a != 0) fun o x => o ||| x)
def execCsrrc (d a : Reg) (k : BitVec 10) (s : State) := issue (.csrrc d a k) s (csrBody d a k (a != 0) fun o x => o &&& ~~~x)

end Sys2Proof.Machine
end

