-- ==== Sys2Proof/Machine/Msg.lean ====
section
/-! DEFINITION. SEND, REPLY and SENDLB (R347-R352); the image of an inbox slot (R30). -/
namespace Sys2Proof.Machine

/-! ### Slot images (R30) -/

def Msg.toNat (m : Msg) : Nat :=
  m.cls.toNat + 2 ^ 8 * m.chan.toNat + 2 ^ 11 * m.rel.toNat + 2 ^ 12 * m.lb.toNat + 2 ^ 13 * m.place.toNat
    + 2 ^ 15 * m.launch.toNat + 2 ^ 27 * m.jslot.toNat + 2 ^ 48 * m.dest.toNat + 2 ^ 64 * m.path.toNat
    + 2 ^ 128 * m.jrec.toNat + 2 ^ 192 * m.payaddr.toNat + 2 ^ 211 * m.paylen.toNat + 2 ^ 224 * m.srcpcell.toNat
    + 2 ^ 241 * m.srcdev.toNat + 2 ^ 256 * m.args[0].toNat + 2 ^ 320 * m.args[1].toNat + 2 ^ 384 * m.args[2].toNat
    + 2 ^ 448 * m.args[3].toNat

/-- The four argument words as a vector. -/
def argVec (a b c d : Nat) : Vector Word 4 :=
  ((((Vector.replicate 4 (0 : Word)).set 0 (BitVec.ofNat 64 a)).set 1 (BitVec.ofNat 64 b)).set 2 (BitVec.ofNat 64 c)).set 3
    (BitVec.ofNat 64 d)

def Msg.ofNat (x : Nat) : Msg :=
  { cls := BitVec.ofNat 8 x, chan := BitVec.ofNat 3 (x / 2 ^ 8), rel := bit x 11, lb := bit x 12
    place := BitVec.ofNat 2 (x / 2 ^ 13), launch := BitVec.ofNat 12 (x / 2 ^ 15), jslot := BitVec.ofNat 12 (x / 2 ^ 27)
    dest := BitVec.ofNat 16 (x / 2 ^ 48), path := BitVec.ofNat 64 (x / 2 ^ 64), jrec := BitVec.ofNat 64 (x / 2 ^ 128)
    payaddr := BitVec.ofNat 19 (x / 2 ^ 192), paylen := BitVec.ofNat 13 (x / 2 ^ 211)
    srcpcell := BitVec.ofNat 17 (x / 2 ^ 224), srcdev := BitVec.ofNat 9 (x / 2 ^ 241)
    args := argVec (x / 2 ^ 256) (x / 2 ^ 320) (x / 2 ^ 384) (x / 2 ^ 448) }

/-! ### SEND and REPLY (R348-R351) -/

/-- The return address of the executing activation (R348). -/
def State.returnAddress (s : State) : Nat :=
  s.devidx.toNat + 2 ^ 16 * (s.cur.launch.getD 0).toNat + 2 ^ 32 * s.cur.lcell.toNat

/-- Where a message goes: module, logical cell, launch index. -/
structure Dst where
  dev : Nat
  cell : Nat
  launch : Nat

/-- The destination a send block names (R348). -/
def State.blockDst (s : State) (b : Nat) : Dst :=
  let l := s.localRead (b + 56) 2
  { dev := if s.localRead (b + 37) 1 / 2 % 2 = 1 then s.devidx.toNat else s.localRead (b + 34) 2 % 512
    cell := s.localRead (b + 32) 2
    launch := if bit l 15 then (s.cur.launch.getD 0).toNat else l % 4096 }

/-- The destination a return address names (R350). -/
def addressDst (w : Word) : Dst :=
  { dev := bits w.toNat 0 9, cell := bits w.toNat 32 16, launch := bits w.toNat 16 12 }

/-- The sender's name in the flows of its module: its logical cell, or the cell of an activation of no launch. -/
def State.flowName (s : State) : Nat := if s.cur.launch = none then 0x10000 + s.now.cell else s.cur.lcell.toNat

/-- A message to a logical cell of this module is posted (R349). -/
def State.sendHere (s : State) (m : Msg) (payload : List Byte) (after : List Nat) : State :=
  let toSystem := match look? s.l2p m.dest.toNat with
    | some c => kindOf c == some .system
    | none => false
  s.post
    { msg := m, target := .logical m.dest.toNat, payload := payload, out := true, after := after, placed := payload.isEmpty
      held := (look? s.l2p m.dest.toNat).isNone, flow := some (s.flowName, m.dest.toNat), system := toSystem
      det := if toSystem then none else s.window m } true

/-- A message to another module enters the sender's flow (R305, R349). -/
def State.sendAway (s : State) (m : Msg) (dev : Nat) (payload : List Byte) (pdst : Nat) (after : List Nat) : State :=
  s.sendOn
    { Packet.none with
      ddev := dev, dcell := m.dest.toNat, scell := s.cur.lcell.toNat, sdev := s.devidx.toNat, cls := m.cls.toNat
      rel := m.rel, launch := m.launch.toNat, paylen := payload.length, spcell := s.now.cell
      args := [m.args[0].toNat, m.args[1].toNat, m.args[2].toNat, m.args[3].toNat], path := m.path.toNat
      paddr := pdst, payload := payload.map BitVec.toNat } none after false
    (owner := some (s.cur.launch.map BitVec.toNat, s.cur.lcell.toNat))

/-- SEND and REPLY: room in the cell's outbound queue before issue (R113), the checks in order, then the message; the block and
the payload are read at issue, 16 bytes in each step where `late` says so (R207, R347, R349).  `reply` is the register of the
return address (R350). -/
def sendBody (a : Reg) (rel : Bool) (reply : Option Reg) : Body := fun s => do
  let ops := s.kept ((s.s a).toNat + 2 ^ 64 * (match reply with | some r => (s.s r).toNat | none => 0))
  let b := bits ops 0 64
  if s.outFull then .error s.notReady
  s.block b 64 64
  match s.badLocal b 64 with
  | some e => .error (.trap causeCheck (BitVec.ofNat 64 e))
  | none =>
    let (s, rd) ← s.gather ops 16 0 b 64
    let cls := rd.localRead (b + 36) 1
    let n := rd.localRead (b + 38) 2
    if cls < 16 then .error (.trap causePerm (BitVec.ofNat 64 cls))
    else if 4096 < n then .error (.trap causePerm (BitVec.ofNat 64 n))
    else
      let psrc := rd.localRead (b + 40) 4 % 2 ^ 19
      let pdst := rd.localRead (b + 44) 4 % 2 ^ 19
      if n ≠ 0 then s.block psrc n 16
      if n ≠ 0 ∧ pdst % 16 ≠ 0 then .error (.trap causeMisalign (BitVec.ofNat 64 pdst))
      match (if n = 0 then none else s.badLocal psrc n) with
      | some e => .error (.trap causeCheck (BitVec.ofNat 64 e))
      | none =>
        let (s, rp) ← s.gather ops 16 4 psrc n
        let t := match reply with
          | some _ => addressDst (BitVec.ofNat 64 (ops / 2 ^ 64))
          | none => rd.blockDst b
        let arg3 := if rd.localRead (b + 37) 1 % 2 = 1 then s.returnAddress else rd.localRead (b + 24) 8
        let m : Msg :=
          { cls := BitVec.ofNat 8 cls, rel := rel, place := 3, launch := BitVec.ofNat 12 t.launch
            dest := BitVec.ofNat 16 t.cell, path := BitVec.ofNat 64 (rd.localRead (b + 48) 8)
            payaddr := BitVec.ofNat 19 pdst, paylen := BitVec.ofNat 13 n, srcpcell := BitVec.ofNat 17 s.now.cell
            srcdev := s.devidx
            args := argVec (rd.localRead b 8) (rd.localRead (b + 8) 8) (rd.localRead (b + 16) 8) arg3 }
        let payload := rp.localBytes psrc n
        let after := if rel then s.openAccesses else []
        if t.dev = s.devidx.toNat then pure { s := (s.sendHere m payload after).countSent }
        else if 320 ≤ t.dev || !s.reaches t.dev then
          pure { s := s.recordError (s.cur.launch.map BitVec.toNat) 0x0B s.cur.lcell.toNat }
        else if s.dark t.dev || !s.flowRoom s.cur.lcell.toNat t.dev then .error s.notReady
        else pure { s := (s.sendAway m t.dev payload pdst after).countSent }

def execSend (a : Reg) (s : State) := issue (.send a) s (sendBody a false none)
def execSendRel (a : Reg) (s : State) := issue (.sendRel a) s (sendBody a true none)
def execReply (a b : Reg) (s : State) := issue (.reply a b) s (sendBody a false (some b))
def execReplyRel (a b : Reg) (s : State) := issue (.replyRel a b) s (sendBody a true (some b))

/-! ### SENDLB (R352) -/

/-- The 64-byte image in four registers, the lowest first. -/
def State.vecImage (s : State) (a : Reg) : Nat :=
  (List.range 4).foldl (fun x j => x + (s.v (Fin.ofNat 32 (a.val + j))).toNat * 2 ^ (128 * j)) 0

/-- SENDLB admits the image at once while a slot is free.  A built-in class's handler starts without a context (R34) and
its message never waits; what it does for a message that came on no flow is not stated, and in the model it does nothing
(DESIGN CHOICE, log 12). -/
def sendlbBody (a : Reg) : Body := fun s =>
  let m := { Msg.ofNat (s.vecImage a) with lb := true }
  if s.here.freeSlots = 0 then .error .hold
  else if m.cls.toNat < 16 then .ok { s := s }
  else .ok { s := s.modHere fun c => c.enqueue m }

def execSendlb (a : Reg) (s : State) := issue (.sendlb a) s (sendlbBody a)

end Sys2Proof.Machine
end

