-- ==== Sys2Proof/Machine/Sys.lean ====
section
/-! DEFINITION. The SYS forms: return from traps, traps by instruction, code and binding writes, inbox, fault-buffer,
translation, key, bounce, halt and debug forms (R242-R259). -/
namespace Sys2Proof.Machine

/-! ### ERET, TRAP, BKPT (R245, R259) -/

/-- The UNBOUND message goes back to the head of its channel while its slot is allocated (R245). -/
def Cell.returnUnbound (c : Cell) (slot : Nat) : Cell :=
  let c' := { c with unbound := none }
  match look? c.slots slot with
  | some m => if c.unbound = some slot then
      { c' with queue := put c.queue m.chan.toNat (slot :: look [] c.queue m.chan.toNat) } else c'
  | none => c'

/-- The end of the activation that an UNBOUND trap started: as ENDTASK on context 3, LIVE unchanged (R245). -/
def State.endUnbound (s : State) : State :=
  let slot := bits s.cur.trapstate.toNat 16 6
  let s := s.modCur fun x => { x with retired := x.retired + 1 }
  (s.modHere fun c => c.returnUnbound slot).freeCtx s.now.cell s.now.ctx

def eretBody : Body := fun s =>
  if bit s.cur.trapstate.toNat 3 then
    if s.owed s.now.cell s.now.ctx then .error (.wait (s.modCur fun x => { x with ending := true }))
    else .error (.wait s.endUnbound)
  else .error (.wait s.trapReturn)

def execEret (s : State) := issue .eret s eretBody

def execTrap (a : Reg) (s : State) := issue (.trap a) s fun s => .error (.trap causeTrap (s.s a))
def execBkpt (s : State) := issue .bkpt s fun _ => .error (.trap causeBkpt 0)

/-! ### Code store and routine table (R36, R84) -/

/-- Two halfwords at an even address, in one write. -/
def Cell.writeCode (c : Cell) (a x : Nat) : Cell :=
  (c.setHalf a (BitVec.ofNat 16 x)).setHalf (a + 1) (BitVec.ofNat 16 (x / 65536))

/-- Two halfwords of a cell's code store written in one cycle; a context that has fetched them before keeps their old
bits, as far ahead as a free value says for each (R84, log 25). -/
def State.writeCode (s : State) (n a x : Nat) : State :=
  let (f, s) := s.fresh
  s.modCell n fun c =>
    let c' := (List.range 4).foldl (fun (c' : Cell) k =>
      c'.setCtx k ((c.ctx k).prefetched c ((c.ctx k).fetchedUnits (f / 8 ^ k)) a)) c
    c'.writeCode a x

def codewBody (a b : Reg) : Body := fun s =>
  let at' := bits (s.s a).toNat 0 14
  if at' % 2 = 1 then .error (.trap causeMisalign (BitVec.ofNat 64 at'))
  else match s.targetCell (s.s a) with
    | some n => .ok { s := s.writeCode n at' (s.s b).toNat }
    | none => .ok { s := s }

def execCodew (a b : Reg) (s : State) := issue (.codew a b) s (codewBody a b)

def rtsetBody (a b : Reg) : Body := fun s =>
  let x := (s.s b).toNat
  match s.targetCell (s.s a) with
  | some n =>
    let cls := bits (s.s a).toNat 0 8
    if cls < 16 then .ok { s := s }
    else .ok { s := s.modCell n fun c => c.bind cls (BitVec.ofNat 14 x) (BitVec.ofNat 3 (x / 2 ^ 14)) (bit x 17) (bit x 18) }
  | none => .ok { s := s }

def execRtset (a b : Reg) (s : State) := issue (.rtset a b) s (rtsetBody a b)

/-! ### The inbox of the executing cell (R31, R259) -/

/-- INBHEAD: the slot of a channel's head, or −1. -/
def execInbhead (d a : Reg) (s : State) := issue (.inbhead d a) s (writes d fun s =>
  match (look [] s.here.queue (bits (s.s a).toNat 0 3)).head? with
  | some i => BitVec.ofNat 64 i
  | none => BitVec.allOnes 64)

/-- INBRD: a doubleword of a slot; 0 for a free one. -/
def execInbrd (d a b : Reg) (s : State) := issue (.inbrd d a b) s (writes d fun s =>
  match look? s.here.slots (bits (s.s a).toNat 0 6) with
  | some m => BitVec.ofNat 64 (bits m.toNat (64 * bits (s.s b).toNat 0 3) 64)
  | none => 0)

/-- A slot is free again, wherever its message stood. -/
def Cell.freeInbox (c : Cell) (slot : Nat) : Cell :=
  { c with
    slots := del c.slots slot
    queue := c.queue.map fun e => (e.1, e.2.filter (· != slot))
    unbound := if c.unbound = some slot then none else c.unbound }

def inbfreeBody (a b : Reg) : Body := fun s =>
  let i := bits (s.s a).toNat 0 6
  match look? s.here.slots i with
  | none => .ok { s := s }
  | some m =>
    let s0 := s.modHere fun c => c.freeInbox i
    let s1 := { s0 with unstarted := del s0.unstarted (s.now.cell * 64 + i) }
    .ok { s := if bit (s.s b).toNat 0 then s1.lostTask s.now.cell m else s1 }

def execInbfree (a b : Reg) (s : State) := issue (.inbfree a b) s (inbfreeBody a b)

/-! ### Fault buffers, replay, TLBs (R197, R199, R259) -/

def execFbstat (d a : Reg) (s : State) := issue (.fbstat d a) s fun s =>
  .ok { s := s.enter (Access.of 0 noHome (.query 1 (bits (s.s a).toNat 0 8) 0) (.s d)) }

def execFbread (d a b : Reg) (s : State) := issue (.fbread d a b) s fun s =>
  .ok { s := s.enter (Access.of 0 noHome (.query 2 (bits (s.s a).toNat 0 8) (bits (s.s b).toNat 0 3)) (.s d)) }

/-- FBCLR clears one entry and nothing else of its slice. -/
def fbclrBody (a b : Reg) : Body := fun s =>
  let sl := bits (s.s a).toNat 0 8
  .ok { s := if sl < Config.stackCount then
      s.setSlice sl { s.slice sl with faults := del (s.slice sl).faults (bits (s.s b).toNat 0 3) }
    else s }

def execFbclr (a b : Reg) (s : State) := issue (.fbclr a b) s (fbclrBody a b)

def execReplayall (a : Reg) (s : State) := issue (.replayall a) s fun s =>
  .ok { s := (slicesNamed (bits (s.s a).toNat 0 8)).foldl State.replaySlice s }

/-- log2 of the granules of a TLBINV size: 4 KiB, 64 KiB, 2 MiB, 1 GiB, 32 GiB (R259). -/
def invSize : Nat → Option Nat
  | 0 => some 0 | 1 => some 4 | 2 => some 9 | 3 => some 18 | 4 => some 23 | _ => none

/-- TLBINV removes the translations of a VA at a size, or all, from every TLB at once. -/
def tlbinvBody (a b : Reg) : Body := fun s =>
  let n := bits (s.s b).toNat 0 3
  let vpn := (s.s a).toNat / 4096
  let keep (e : TlbEntry) : Bool := !(n == 7 || (some e.size == invSize n && e.covers vpn))
  .ok { s := { s with
    l1 := s.l1.map fun e => (e.1, e.2.filter keep)
    slices := s.slices.map fun e => (e.1, { e.2 with tlb := e.2.tlb.filter keep }) } }

def execTlbinv (a b : Reg) (s : State) := issue (.tlbinv a b) s (tlbinvBody a b)

/-! ### Patterns and keys (R183, R201) -/

/-- A pattern entry's fields: VALID, ESZ, and the stride of bits 63:32. -/
def patternWord (x : Nat) : Word := BitVec.ofNat 64 (x % 8 + bits x 32 32 * 2 ^ 32)

def sgloadBody (a b : Reg) : Body := fun s =>
  let x := (s.s a).toNat
  let stacks' := if bit x 63 then List.range Config.stackCount
    else if bits x 8 6 < Config.stackCount then [bits x 8 6] else []
  .ok { s := { s with patterns := stacks'.foldl (fun t st => put t (st * 16 + x % 16) (patternWord (s.s b).toNat)) s.patterns } }

def execSgload (a b : Reg) (s : State) := issue (.sgload a b) s (sgloadBody a b)

/-- KEYW: the 64 bytes of a key, read in one step or byte by byte (R207, R259). -/
def keywBody (a b : Reg) : Body := fun s => do
  let ops := s.kept ((s.s b).toNat + 2 ^ 64 * (s.s a).toNat)
  let base := bits ops 0 64
  let k := bits ops 64 13
  s.block base 64 64
  match s.badLocal base 64 with
  | some e => .error (.trap causeCheck (BitVec.ofNat 64 e))
  | none =>
    let (s, rd) ← s.gather ops 1 0 base 64
    pure { s := if k = 0 then s else { s with keys := put s.keys k (BitVec.ofNat 512 (rd.localRead base 64)) } }

def execKeyw (a b : Reg) (s : State) := issue (.keyw a b) s (keywBody a b)

/-! ### Pre-emption and the bounce table (R248, R255) -/

def preemptBody (a b : Reg) : Body := fun s => do
  let va := (s.s a).toNat
  aligned va 64
  let d := bits (s.s b).toNat 0 32
  let dl := if d = 0 then none else some (BitVec.ofNat 32 d)
  pure { s := s.launches.foldl (fun s e => if e.2.recva.toNat = va then s.requestAll e.1 1 dl else s) s }

def execPreempt (a b : Reg) (s : State) := issue (.preempt a b) s (preemptBody a b)

/-- BNCSET: 1 when 256 logical cells are absent already and this is not one of them. -/
def bncsetBody (d a b : Reg) : Body := fun s =>
  let l := bits (s.s a).toNat 0 16
  if (look? s.bounce l).isNone && 256 ≤ s.bounce.length then .ok { s := s.setS d 1 }
  else .ok { s := State.setS { s with bounce := put s.bounce l (s.s b).toNat } d 0 }

def execBncset (d a b : Reg) (s : State) := issue (.bncset d a b) s (bncsetBody d a b)

/-- BNCCLR: it waits while a ring in another module's memory is applied, entry by entry (R255, log 20). -/
def bncclrBody (a : Reg) : Body := fun s =>
  let l := s.kept (bits (s.s a).toNat 0 16)
  match s.bounceStep l with
  | .got _ t => .ok { s := t }
  | .wait (some t) => .error (.wait (t.modCur fun x => if (s.word? 512).isSome then x else x.keep l))
  | _ => .error .hold

def execBncclr (a : Reg) (s : State) := issue (.bncclr a) s (bncclrBody a)

/-! ### Gang stop (R256) -/

/-- Every halted cell of the module goes on. -/
def State.resumeAll (s : State) : State :=
  { s with
    stopped := false
    cells := s.cells.map fun e => (e.1, { e.2 with halted := false, halting := false }) }

def execHalt (s : State) := issue .halt s fun s => .ok { s := s.haltAll }
def execResume (s : State) := issue .resume s fun s => .ok { s := s.resumeAll }

/-! ### Debug forms (R257) -/

/-- The item a debug operand names. -/
inductive Item where
  | sreg (r : Nat) | half (r h : Nat) | csr (k : Nat) | byte (a : Nat) | code (a : Nat)

/-- The cell, context and item; none for a missing cell, another kind, an index out of range, or a register item
on a cell that is not halted. -/
def State.debugItem (s : State) (a i : Nat) : Option (Nat × Nat × Item) := do
  let n := bits a 0 17
  let k := bits a 17 2
  let ck ← kindOf n
  let c := s.cell n
  let reg (ok : Bool) (x : Item) : Option (Nat × Nat × Item) := if ok && c.halted then some (n, k, x) else none
  match bits a 20 4 with
  | 0 => reg (i < 32) (.sreg i)
  | 1 => reg (i < 64) (.half (i / 2) (i % 2))
  | 2 => reg (i < 1024 && csrExists (BitVec.ofNat 10 i) && csrOn ck (BitVec.ofNat 10 i)) (.csr i)
  | 3 => if i % 8 = 0 && s.localOk n (c.ctx k) i 8 then some (n, k, .byte i) else none
  | 4 => if i % 2 = 0 && i < 0x4000 then some (n, k, .code i) else none
  | _ => none

/-- The value of an item. -/
def State.debugRead (s : State) (n k : Nat) : Item → Word
  | .sreg r => (s.ctx n k).getS (Fin.ofNat 32 r)
  | .half r h => BitVec.ofNat 64 (bits ((s.ctx n k).getV (Fin.ofNat 32 r)).toNat (64 * h) 64)
  | .csr num => s.csrRead n k num
  | .byte a => BitVec.ofNat 64 (s.padRead n (s.localAddr n (s.ctx n k) a) 8)
  | .code a => BitVec.ofNat 64 ((s.cell n).half a + 65536 * (s.cell n).half (a + 1))

/-- An item written. -/
def State.debugWrite (s : State) (n k : Nat) (w : Word) : Item → State
  | .sreg r => (s.modCtx n k (·.setS (Fin.ofNat 32 r) w)).clobber n k (.s (Fin.ofNat 32 r)) 0xFFFF
  | .half r h =>
    let v := ((s.ctx n k).getV (Fin.ofNat 32 r)).toNat
    let v' := if h = 0 then v / 2 ^ 64 * 2 ^ 64 + w.toNat else v % 2 ^ 64 + 2 ^ 64 * w.toNat
    (s.modCtx n k (·.setV (Fin.ofNat 32 r) (BitVec.ofNat 128 v'))).clobber n k (.v (Fin.ofNat 32 r))
      (if h = 0 then 0xFF else 0xFF00)
  | .csr num => if csrWritable (BitVec.ofNat 10 num) then s.csrWrite n k num w else s
  | .byte a => s.padWrite n (s.localAddr n (s.ctx n k) a) 8 w.toNat
  | .code a => s.writeCode n a w.toNat

def execDbgrd (d a b : Reg) (s : State) := issue (.dbgrd d a b) s fun s =>
  .ok { s := s.later d (match s.debugItem (s.s a).toNat (s.s b).toNat with
    | some (n, k, x) => s.debugRead n k x
    | none => 0) }

def execDbgwr (a b : Reg) (s : State) := issue (.dbgwr a b) s fun s =>
  .ok { s := match s.debugItem (s.s a).toNat (s.s b).toNat with
    | some (n, k, x) => s.debugWrite n k s.cur.sscr[0] x
    | none => s }

/-- DBGSTEP: one retirement or trap entry of a context of a halted cell. -/
def execDbgstep (a : Reg) (s : State) := issue (.dbgstep a) s fun s =>
  let n := bits (s.s a).toNat 0 17
  .ok { s := if (kindOf n).isSome && (s.cell n).halted then
      s.modCtx n (bits (s.s a).toNat 17 2) fun x => { x with debugStep := true }
    else s }

end Sys2Proof.Machine
end

