-- ==== Sys2Proof/Machine/Save.lean ====
section
/-! DEFINITION. The forced save, its record, restore and dispatch (R249-R254, R37). -/
namespace Sys2Proof.Machine

/-! ### The record (R252) -/

/-- `w` bytes of value `x` at offset `off`. -/
def field (off w x : Nat) : Nat := x % 2 ^ (8 * w) * 2 ^ (8 * off)

/-- A pending entry: the VA, the data or operands, the instruction word, the governing predicate. -/
structure PendEntry where
  va : Nat
  data : Nat
  word : Nat
  pred : Nat
  deriving DecidableEq, Repr

def PendEntry.toNat (e : PendEntry) : Nat :=
  field 0 8 e.va + field 8 16 e.data + field 24 4 e.word + field 28 2 e.pred

def PendEntry.ofNat (x : Nat) : PendEntry := ⟨bits x 0 64, bits x 64 128, bits x 192 32, bits x 224 16⟩

/-- The VA that an entry gives a withdrawn access: a vector access's is the whole vector's. -/
def Access.entryVa (a : Access) : Nat :=
  match a.op with
  | .vload off .. => a.va - off
  | .vstore off .. => a.va - off
  | _ => a.va

/-- The entry of a withdrawn access; of a vector, with the part's bytes as its predicate. -/
def Access.entry (a : Access) : PendEntry :=
  ⟨a.entryVa, (match a.op with | .phadd n => n | _ => a.data), a.word, a.pred⟩

/-- The parts of one vector access that were withdrawn share an entry, whose predicate names the bytes of them all. -/
def groupParts : List Access → List (List Access)
  | [] => []
  | a :: r =>
    let vec (a : Access) : Bool := match a.op with | .vload .. => true | .vstore .. => true | _ => false
    match groupParts r with
    | (b :: l) :: gs =>
      if vec a && vec b && b.id == a.id + 1 && a.word == b.word && a.entryVa == b.entryVa then (a :: b :: l) :: gs
      else [a] :: (b :: l) :: gs
    | gs => [a] :: gs

/-- The entry of a group. -/
def groupEntry : List Access → PendEntry
  | [] => ⟨0, 0, 0, 0⟩
  | a :: r => { a.entry with pred := (a :: r).foldl (fun m b => m ||| b.pred) 0 }

/-- A table word that STGCFG loads; the instruction runs again as a whole (log 28). -/
def Access.tableLoad (a : Access) : Bool := a.dest == .none && a.op.returns

/-- Fields of a list, `w` bytes each, from offset `off` on. -/
def fieldList (off w : Nat) : List Nat → Nat
  | [] => 0
  | x :: r => field off w x + fieldList (off + w) w r

/-- The record of a context, COMMIT apart (R252). -/
def Ctx.record (x : Ctx) (k pcw : Nat) (pend : List PendEntry) : Nat :=
  let reg (j : Nat) : Reg := Fin.ofNat 32 j
  let (jva, jcnt) := match x.join with | some (v, c) => (v.toNat, c) | none => (0, 0)
  let table (i : Fin 2) : Nat := match x.tables[i] with
    | some img => 1 + 2 ^ 64 * (ofBytes img % 2 ^ 2208)
    | none => 0
  field 0x008 8 (x.lcell.toNat + 2 ^ 16 * (k % 4) + 2 ^ 18 * (x.launch.getD 0).toNat)
  + field 0x010 8 pcw + field 0x018 8 jva + field 0x020 8 jcnt + field 0x028 8 pend.length
  + fieldList 0x040 8 ((List.range 31).map fun j => (x.getS (reg (j + 1))).toNat)
  + fieldList 0x140 2 ((List.range 7).map fun j => (x.getP (Fin.ofNat 8 (j + 1))).toNat)
  + fieldList 0x150 8 [x.fflags.toNat, x.frm.toNat, x.jseed.toNat, x.srctr.toNat,
      x.ls[0].toNat, x.le[0].toNat, x.lc[0].toNat, x.ls[1].toNat, x.le[1].toNat, x.lc[1].toNat,
      x.ls[2].toNat, x.le[2].toNat, x.lc[2].toNat, x.retired.toNat, x.path.toNat, x.level.toNat, x.chancls.toNat]
  + fieldList 0x200 16 ((List.range 32).map fun j => (x.getV (reg j)).toNat)
  + field 0x400 284 (table 0) + field 0x520 284 (table 1)
  + fieldList 0x640 32 (pend.map PendEntry.toNat)
  + field 0xF40 64 (match x.retained with | some m => m.toNat | none => 0)

/-- A context's fields from a record; `x` has been entered afresh. -/
def Ctx.ofRecord (x : Ctx) (img : Nat) : Ctx :=
  let f (off w : Nat) : Nat := bits img (8 * off) (8 * w)
  let w (off : Nat) : Word := BitVec.ofNat 64 (f off 8)
  let table (off : Nat) : Option (List Byte) :=
    if bit (f off 8) 0 then
      let raw := toBytes 276 (f (off + 8) 276)
      match tableHeader raw with
      | some (t, seg) => some (raw.take (tableLen t seg))
      | none => none
    else none
  let regs (x : Ctx) : Ctx := (List.range 32).foldl (fun (x : Ctx) j =>
    (x.setS (Fin.ofNat 32 j) (w (0x040 + 8 * (j - 1)))).setV (Fin.ofNat 32 j) (BitVec.ofNat 128 (f (0x200 + 16 * j) 16))) x
  let preds (x : Ctx) : Ctx := (List.range 8).foldl (fun (x : Ctx) j =>
    x.setP (Fin.ofNat 8 j) (BitVec.ofNat 16 (f (0x140 + 2 * (j - 1)) 2))) x
  let a (off : Nat) : CodeAddr := BitVec.ofNat 14 (f off 8)
  { preds (regs x) with
    pc := a 0x010
    join := if f 0x018 8 = 0 then none else some (w 0x018, bits img (8 * 0x020) 13)
    fflags := BitVec.ofNat 5 (f 0x150 8), frm := BitVec.ofNat 3 (f 0x158 8), jseed := w 0x160, srctr := w 0x168
    ls := ((x.ls.set 0 (a 0x170)).set 1 (a 0x188)).set 2 (a 0x1A0)
    le := ((x.le.set 0 (a 0x178)).set 1 (a 0x190)).set 2 (a 0x1A8)
    lc := ((x.lc.set 0 (w 0x180)).set 1 (w 0x198)).set 2 (w 0x1B0)
    retired := w 0x1B8, path := w 0x1C0, level := w 0x1C8, chancls := BitVec.ofNat 13 (f 0x1D0 8)
    tables := (x.tables.set 0 (table 0x400)).set 1 (table 0x520)
    retained := if bit (f 0x1D0 8) 11 then some (Msg.ofNat (f 0xF40 64)) else none }

/-! ### The forced save (R251, R253) -/

/-- The word at a context's PC. -/
def State.wordAt (s : State) (n k : Nat) : Nat :=
  let pc := (s.ctx n k).pc.toNat
  (s.cell n).fetchHalf (s.ctx n k) pc + 65536 * (s.cell n).fetchHalf (s.ctx n k) (pc + 1)

/-- The context stands at an instruction of the record that had not retired, with the operands it was issued with (R234, R254). -/
def Ctx.backTo (x : Ctx) (ops : Nat) (w : Wait) : Ctx := { x with pc := x.pc - 2, answers := [.word 512 ops], wait := w }

/-- The withdrawn accesses of context (n, k) that have entries, in issue order, by entry. -/
def State.pendGroups (s : State) (n k : Nat) : List (List Access) :=
  groupParts (s.inflight.filter fun a => s.owns n k a && a.withdrawn && !a.tableLoad)

/-- The entries of context (n, k) in issue order, and the PC of the next instruction after them. -/
def State.pendEntries (s : State) (n k : Nat) : List PendEntry × CodeAddr :=
  let x := s.ctx n k
  let es := (s.pendGroups n k).map groupEntry
  let unretired := s.inflight.any fun a => s.owns n k a && a.withdrawn && a.op.replies
  -- a pop's s[A] and s[B] are those it issued with
  let ops := (x.answers.findSome? fun r => match r with | .word 512 v => some v | _ => none).getD 0
  match x.wait, decodeTableWord 32 (s.wordAt n k) with
  | .queue _, some (.gqpop ..) => (es ++ [⟨ops / 2 ^ 64, bits ops 0 64, s.wordAt n k, 0xFFFF⟩], x.pc + 2)
  | .queue _, some (.gqpopDrop ..) => (es ++ [⟨ops / 2 ^ 64, bits ops 0 64, s.wordAt n k, 0xFFFF⟩], x.pc + 2)
  | _, _ => (es, if unretired then x.pc + 2 else x.pc)

/-- The withdrawn accesses are taken back: from the replay queues, with a place that none of them has taken yet, and a pop from
its queue (R251). -/
def State.withdraw (s : State) (n k : Nat) : State :=
  let s := s.giveBack n k
  let ids := (s.inflight.filter fun a => s.owns n k a && a.withdrawn).map (·.id)
  let pop := match (s.ctx n k).wait with | .queue id => some id | _ => none
  { s with
    inflight := s.inflight.filter fun a => !ids.contains a.id
    slices := s.slices.map fun e =>
      (e.1, { e.2 with replay := e.2.replay.filter fun p => match p with | .access id => !ids.contains id | _ => true })
    groups := if pop.isNone then s.groups else s.groups.map fun g =>
      (g.1, { g.2 with queues := g.2.queues.map fun q => (q.1, { q.2 with pops := q.2.pops.filter fun w => some w.id != pop }) }) }

/-- The header line of a save area, read for the context's logical cell: none where it cannot be reached, or has a bad check value
under CHK = 0; under CHK = 1 that is recorded and the line delivered (R203, R251). -/
def State.areaLine (s : State) (x : Ctx) (va : Nat) : Option State :=
  match s.engineHome va false with
  | some (pa, _, chk) =>
    if !s.badHbm.contains (pa / 128) then some s
    else if chk then some (s.recordError (x.launch.map BitVec.toNat) 0x05 x.lcell.toNat) else none
  | none => none

/-- A record is allocated: its number, or none when the save aborts (R251 step 3). -/
def State.allocRecord (s : State) (x : Ctx) (area : Nat) : Option (Nat × State) := do
  if area % 4096 ≠ 0 then none
  else
    let s ← s.areaLine x area
    let nrec ← s.vaRead area 4
    let next ← s.vaRead (area + 8) 8
    let s ← s.vaWrite (area + 8) 8 (next + 1)
    if nrec ≤ next then none else pure (next, s)

/-- The save as far as the record: the record's VA, or none for an abort. -/
def State.writeRecord (s : State) (n k : Nat) (pend : List PendEntry) (pcw : CodeAddr) : Option (Nat × State) := do
  let x := s.ctx n k
  let area ← s.vaRead (x.level.toNat + 32) 8
  let (j, s) ← s.allocRecord x area
  let va := area + 4096 * (j + 1)
  let s ← s.vaWrite va 4096 (x.record k pcw.toNat pend)
  let s ← s.vaWrite va 8 (1 + 2 ^ 32 * (j % 2 ^ 32))
  pure (va, s)

/-- NEXT is taken even by a save that finds no record left (R251 step 3). -/
def State.takeNext (s : State) (x : Ctx) : State :=
  (do let area ← s.vaRead (x.level.toNat + 32) 8
      if area % 4096 ≠ 0 then none
      else
        let s ← s.areaLine x area
        let next ← s.vaRead (area + 8) 8
        s.vaWrite (area + 8) 8 (next + 1)).getD s

/-- A save aborts: the context is LOST and its task counts as ended; the launch is cancelled (R253). -/
def State.saveLost (s : State) (n k : Nat) : State :=
  let x := s.ctx n k
  let s := s.recordError (x.launch.map BitVec.toNat) 0x11 x.lcell.toNat 2
  let s := s.cancelRecord x.level.toNat
  ((s.endUpdates n k 0 true).freeCtx n k).modCtx n k fun x => { x with lost := true }

/-- It aborts before a record is written. -/
def State.saveAbort (s : State) (n k : Nat) : State :=
  ((s.takeNext (s.ctx n k)).withdraw n k).saveLost n k

/-- What the save keeps of the task beside its record. -/
def State.savedTask (s : State) (n k : Nat) : SavedTask :=
  let x := s.ctx n k
  { jrec := x.jrec, jslot := x.jslot, gen := x.gen, token := x.token, parked := x.parked, block := x.block, fence := x.fence
    withdrawn := s.pendGroups n k
    flying := (s.inflight.filter fun (a : Access) => s.owns n k a && a.phase.open && !a.withdrawn && a.op.isAccess).map fun (a : Access) => a.id }

/-- The save area of a level record, when it, or the record it allocates next, is in another module's memory. -/
def State.areaAway (s : State) (level : Nat) : Option Nat := do
  let area ← s.vaRead (level + 32) 8
  let next := ((s.vaRead (area + 8) 8).filter fun x => (s.vaRead area 4).any fun m => decide (x < m)).any fun x =>
    s.away (area + 4096 * (x + 1))
  if area % 4096 = 0 && (s.away area || next) then some area else none

/-- The next access of a save whose area is in another module's memory; each body write is acknowledged at its home before
COMMIT is written, and the context is free once COMMIT is.  An access that fails, or whose translation faults, aborts the
save (R251, R253). -/
def State.storeStep (s : State) (n k : Nat) (st : Storing) : Option State :=
  let x := s.ctx n k
  let j : Job' := ⟨st.id, l1Key n, n, x.lcell.toNat, x.launch.map BitVec.toNat⟩
  let lost (t : State) : Option State := some ((t.unitClear st.id).saveLost n k)
  let go (t : State) (st' : Storing) : Option State :=
    some ((t.unitClear st.id).modCtx n k fun x => { x with storing := some st' })
  let va := st.area + 4096 * (st.num + 1)
  if (s.unitFailed st.id).isSome then lost s
  else match st.pos with
    | 0 => match s.unitRead j st.area 4 with
      | .got m t => go t { st with pos := 1, num := m }
      | .wait r => r
      | _ => lost s
    | 1 => match s.unitUpdate j (st.area + 8) (.amo 1 8 1 0) with
      | .got old t => if st.num ≤ old then lost t else go t { st with pos := 2, num := old }
      | .wait r => r
      | _ => lost s
    | p + 2 =>
      if s.unitOpen st.id then none
      else if 512 < p then
        let t := s.unitClear st.id
        some (State.freeCtx { t with savedTasks := put t.savedTasks va st.task } n k)
      else match s.unitWrite j (va + if p = 512 then 0 else 8 * p) 8
          (if p = 512 then 1 + 2 ^ 32 * (st.num % 2 ^ 32) else bits st.body (64 * p) 64) with
        | .got _ t => go t { st with pos := st.pos + 1 }
        | .wait r => r
        | _ => lost s

/-- The whole forced save of context (n, k), or of one whose area is in another module its next access (R251). -/
def State.forcedSave (s : State) (n k : Nat) : Option State :=
  let x := s.ctx n k
  (match x.storing with
  | some st => if x.busy then s.storeStep n k st else none
  | none =>
    if !x.busy || !s.saveReady n k then none
    else
      let (pend, pcw) := s.pendEntries n k
      match s.areaAway x.level.toNat with
      | some area =>
        let st : Storing := { id := s.nextId, area := area, body := x.record k pcw.toNat pend, task := s.savedTask n k }
        some ((State.withdraw { s with nextId := s.nextId + 1 } n k).modCtx n k fun x => { x with storing := some st })
      | none => match s.writeRecord n k pend pcw with
        | none => some (s.saveAbort n k)
        | some (va, s1) =>
          some ((State.withdraw { s1 with savedTasks := put s1.savedTasks va (s.savedTask n k) } n k).freeCtx n k)).map
    fun (t : State) => t.modCell n Cell.haltIfDue

/-- FORCED_SAVE of context (a, b). -/
def execForcedSave (s : State) := event s (s.forcedSave s.now.arg.a s.now.arg.b)

/-! ### Restore (R254) -/

/-- A record whose COMMIT has been written 0: 0 and it is taken, or 2 because the launch is over or cancelled: the task ends
as any does, its armed join closed (R46, R57, R254). -/
def State.recordTaken (s : State) (va img : Nat) : Nat × State :=
  let launch := bits img (8 * 0x008 + 18) 12
  let level := bits img (8 * 0x1C8) 64
  let live := match look? s.launches launch with
    | some e => e.recva.toNat == level && s.liveLaunch level
    | none => false
  if live && !s.cancelled level then (0, { s with restores := s.restores ++ [{ va := va, image := img }] })
  else
    let t := look ({} : SavedTask) s.savedTasks va
    let child := if t.jrec = 0 then [] else [RecOp.joinChild t.jrec.toNat t.jslot.toNat 0 true s.nextId]
    let jva := bits img (8 * 0x018) 64
    let close := if jva = 0 then [] else [RecOp.joinClose jva (bits img (8 * 0x020) 13) s.nextId]
    (2, { s with records := s.records ++ close ++ child ++ [RecOp.liveSub level], savedTasks := del s.savedTasks va })

/-- CTXREST of a record in this module's memory; 1 where it is not committed or cannot be read (R254). -/
def State.takeRecord (s : State) (va : Nat) : Nat × State :=
  match s.vaRead va 4096 with
  | none => (1, s)
  | some img =>
    if !bit img 0 then (1, s)
    else match s.vaWrite va 8 0 with
      | none => (1, s)
      | some s1 => s1.recordTaken va img

/-- CTXREST of a record in another module's memory, in several steps: its 512 words are read, COMMIT first, then COMMIT is
exchanged for 0 at its home, and what it held there says whether the record is still this CTXREST's to take (R254, log 14). -/
def takeAway (d : Reg) (va : Nat) : Body := fun s =>
  match s.word? 513 with
  | none =>
    .error (.wait (State.modCur { s with nextId := s.nextId + 1 } fun x => { x with
      answers := x.answers ++ [.word 512 va, .word 513 s.nextId] }))
  | some id =>
    let j : Job' := ⟨id, l1Key s.now.cell, s.now.cell, s.cur.lcell.toNat, none⟩
    let k := s.cur.stage
    let ends (t : State) (r : Nat) : Except Stop Done := .ok { s := (t.unitClear id).later d (BitVec.ofNat 64 r) }
    if k < 512 then
      match s.unitRead j (va + 8 * k) 8 with
      | .got w t =>
        if k = 0 ∧ bit w 0 = false then ends t 1
        else .error (.wait ((t.unitClear id).modCur fun x => { x with answers := x.answers ++ [.word k w], stage := k + 1 }))
      | .wait (some t) => .error (.wait t)
      | .wait none => .error .hold
      | _ => ends s 1
    else match s.unitUpdate j va (.amo 0 8 0 0) with
      | .got old t =>
        if bit old 0 then
          let r := t.recordTaken va ((List.range 512).foldl (fun n i => n + (s.word? i).getD 0 * 2 ^ (64 * i)) 0)
          ends r.2 r.1
        else ends t 1
      | .wait (some t) => .error (.wait (t.modCur fun x => { x with stage := 513 }))
      | .wait none => .error .hold
      | _ => ends s 1

def ctxrestBody (d a : Reg) : Body := fun s => do
  let va := s.kept (s.s a).toNat
  aligned va 4096
  if (s.word? 513).isSome || s.away va then takeAway d va s
  else
    let (r, s') := s.takeRecord va
    pure { s := s'.later d (BitVec.ofNat 64 r) }

def execCtxrest (d a : Reg) (s : State) := issue (.ctxrest d a) s (ctxrestBody d a)

/-- The accesses an entry stands for, as its instruction made them: VA, operation, destination, the second VA.  An AMOBFPADD's
block is read again, from the rows as they are and whatever their check values (DESIGN CHOICE, log 27). -/
def State.entryAccesses (s : State) (e : PendEntry) (i : Instr) : List (Nat × AccOp × Dest × Option Nat) :=
  let lo := e.data % 2 ^ 64
  let hi := e.data / 2 ^ 64
  let amo (d : Reg) (fn size : Nat) : List (Nat × AccOp × Dest × Option Nat) := [(e.va, .amo fn size lo hi, .s d, none)]
  let vec (y : BitVec 3) : Nat × List (Nat × Nat) :=
    let mask := activeBytes (BitVec.ofNat 16 e.pred) y
    (mask, vecParts e.va (elemBytes y) mask)
  match i with
  | .ld d _ z _ => [(e.va, .load z, .s d, none)]
  | .st _ _ z _ => [(e.va, .store (sizeOf z) lo, .none, none)]
  | .ldv d _ _ _ _ y => (vec y).2.map fun p => (e.va + p.1, .vload p.1 p.2 ((vec y).1 / 2 ^ p.1 % 2 ^ p.2), .v d, otherPage e.va (vec y).1 p.1)
  | .stv _ _ _ _ _ y => (vec y).2.map fun p => (e.va + p.1, .vstore p.1 p.2 (vec y).1 e.data, .none, otherPage e.va (vec y).1 p.1)
  | .amoswap d _ _ z _ => amo d 0 (amoSize z)
  | .amoadd d _ _ z _ => amo d 1 (amoSize z)
  | .amoand d _ _ z _ => amo d 2 (amoSize z)
  | .amoor d _ _ z _ => amo d 3 (amoSize z)
  | .amoxor d _ _ z _ => amo d 4 (amoSize z)
  | .amomin d _ _ z _ => amo d 5 (amoSize z)
  | .amomax d _ _ z _ => amo d 6 (amoSize z)
  | .amominu d _ _ z _ => amo d 7 (amoSize z)
  | .amomaxu d _ _ z _ => amo d 8 (amoSize z)
  | .amocas d _ _ z _ => amo d 9 (amoSize z)
  | .amofadd d _ _ _ => amo d 10 4
  | .amobfpadd d _ _ =>
    let blk := s.localBytes lo 48
    [(e.va, .bfpadd blk (.hbm (ofBytes (blk.drop 40))) 0 false, .s d, some (ofBytes (blk.drop 40)))]
  | .phinit .. => [(e.va, .phinit lo, .none, none)]
  | .pharr .. => [(e.va, .pharr, .none, none)]
  | .phadd .. => [(e.va, .phadd lo, .none, none)]
  | .gqpop .. | .gqpopDrop .. => [(e.va, .reply, .none, none)]
  | .phwait d _ _ _ => [(e.va, .phwait (bits lo 0 15), .s d, none)]
  | .phread d _ b _ => [(e.va, .phread b.val, .s d, none)]
  | .join .. => [(e.va, .record 8 lo, .none, none)]
  | .cancel _ => [(e.va, .orBits 4 1, .none, none)]
  | _ => []

/-- One access enters flight again under the number it had. -/
def State.reenter (s : State) (id : Nat) (a : Access) : State :=
  let t := State.enter { s with nextId := id } a
  { t with nextId := max s.nextId (id + 1) }

/-- One entry is issued again by the restored context, which is the executing one (R254 step 2), with its recorded VA, data and
predicate: it translates anew and may park again; `ws` are the accesses it was made of. -/
def State.reissue (s : State) (e : PendEntry) (ws : List Access) : State :=
  match decodeTableWord 32 e.word with
  | none => s
  | some i =>
    ((List.range (s.entryAccesses e i).length).zip (s.entryAccesses e i)).foldl (fun s p =>
      let (va, op, dest, second) := p.2
      let was := ws[p.1]?
      let id := (was.map Access.id).getD s.nextId
      let acc := { Access.of va (.hbm va) op dest with
        word := e.word, data := e.data, pred := e.pred, second := second, clobber := (was.map Access.clobber).getD 0
        grain := grainOf i }
      match i with
      -- the access goes out again, and the instruction retires when its reply comes, as it would have
      | .pharr .. | .phadd .. => ((s.reenter id { acc with phase := .parked }).replayAccess (sliceOf va) id).modCur
          (·.backTo (e.va + 2 ^ 64 * e.data) (.home id))
      -- a pop goes to its queue as the context's first instruction
      | .gqpop .. | .gqpopDrop .. => s.modCur (·.backTo (e.data + 2 ^ 64 * e.va) .none)
      | .phwait _ _ _ t =>
        if t = 0 then (s.reenter id { acc with phase := .parked }).replayAccess (sliceOf va) id
        else match phasePlace s t.toNat va with
          | some pl => s.reenter id { acc with place := pl }
          | none => s
      | _ => (s.reenter id { acc with phase := .parked }).replayAccess (sliceOf va) id) s

/-- More accesses of the executing context await translation than may, or more stand in a replay queue, the misses that have
entered its slice among them, than it holds (R200, R250). -/
def State.overParked (s : State) : Bool := decide (64 < s.awaiting) || s.slices.any fun q => q.2.full 0

/-- Entries are issued again in list order, as far as the accesses that park find room; the rest wait (R200, R250, R254). -/
def State.reissueAll (s : State) : List (Nat × List Access) → State
  | [] => s.modCur fun x => { x with again := [] }
  | e :: r =>
    let t := s.reissue (PendEntry.ofNat e.1) e.2
    if t.overParked then s.modCur fun x => { x with again := e :: r } else t.reissueAll r

/-- A restored context goes on with its pending entries; none when none can go. -/
def State.goOnRestoring (s : State) (n k : Nat) : Option State :=
  let left := (s.ctx n k).again
  let t := State.reissueAll { s with now := { s.now with cell := n, ctx := k, streamed := false } } left
  if (t.ctx n k).again.length < left.length then some { t with now := s.now } else none

/-- A unit of another cluster keeps a task's commands and tiles as those of an ended task, under a number of their
own (R293). -/
def MxUnit.orphan (u : MxUnit) (token new : Nat) : MxUnit :=
  { u with
    cmds := u.cmds.map fun (c : MxCmd) => if c.token = token ∧ c.ret.isNone then { c with token := new } else c
    owners := u.owners.map fun e => if e.2 = token then (e.1, new) else e
    recs := u.recs.filter (·.token != token)
    earlier := u.earlier.filter fun e => e.2.1 != token }

/-- The record is loaded into context (n, k), whose bounce entries have been applied (R254): the pending entries, then it runs
at PCW. -/
def State.restoreOn (s : State) (n k : Nat) (r : Restore) : State :=
  let img := r.image
  let lcell := bits img (8 * 0x008) 16
  let launch := bits img (8 * 0x008 + 18) 12
  let e : LaunchEntry := look {} s.launches launch
  let t := look { token := s.nextId } s.savedTasks r.va
  let s := { s with
    nextId := s.nextId + 2, restores := s.restores.filter (· != r), savedTasks := del s.savedTasks r.va
    units := s.units.map fun (u : Nat × MxUnit) => if u.1 = l1Key n then u else (u.1, u.2.orphan t.token (s.nextId + 1)) }
  let host := (s.cell n).hosted.find? (·.lcell == lcell)
  let s := s.modCtx n k fun x =>
    { (x.enter 0 (Vector.replicate 4 0)).ofRecord img with
      lcell := BitVec.ofNat 16 lcell, launch := some (BitVec.ofNat 12 launch)
      codebase := (host.map (·.base)).getD 0, cwrows := e.wrows, prows := e.prows
      jrec := t.jrec, jslot := t.jslot, gen := t.gen, token := t.token, lastLaunch := some (launch, e.lid) }
  let pend := (List.range (min 72 (bits img (8 * 0x028) 7))).map fun j => (bits img (8 * (0x640 + 32 * j)) 256, t.withdrawn.getD j [])
  let focus := s.now
  let s := { s with now := { focus with cell := n, ctx := k, streamed := false } }
  -- what is still on its way from before the save is the restored task's (R208, R251)
  let act := s.cur.acts.toNat
  let s := { s with inflight := s.inflight.map fun (a : Access) => if t.flying.contains a.id then { a with cell := n, ctx := k, act := act } else a }
  let s := s.reissueAll pend
  { s.modCur fun x => { x with fence := t.fence, parked := t.parked, block := t.block } with now := focus }

/-! ### Dispatch (R37, R39, R254) -/

/-- The record that the cell restores next: ahead of channel selection, while its logical cell is mapped here. -/
def State.nextRestore (s : State) (n : Nat) : Option Restore :=
  s.restores.find? fun r => look? s.l2p (bits r.image (8 * 0x008) 16) == some n

/-- DISPATCH on cell `a`, which is neither halted nor paused (R256, R392): a restored context goes on with its pending entries, a
record is restored, its bounce entries being applied first, in several steps where the ring is another module's (log 20), or a
message starts. -/
def execDispatch (s : State) : Host.Outcome State Fault Refusal :=
  let n := s.now.arg.a
  event s (if (s.cell n).still then none else match (List.range 3).findSome? fun k => s.goOnRestoring n k with
    | some t => some t
    | none => match s.nextRestore n, (List.range 3).find? fun k => !(s.ctx n k).busy with
      | some r, some k => match s.bounceStep (bits r.image (8 * 0x008) 16) with
        | .got _ t => some (t.restoreOn n k r)
        | .wait t => t
        | _ => none
      | _, _ => s.dispatch n)

end Sys2Proof.Machine
end

