-- ==== Sys2Proof/Machine/Copy.lean ====
section
/-! DEFINITION. The cluster copy engine: XFER, XFERN and the transfer's events (R180-R185, R239, R240). -/
namespace Sys2Proof.Machine

/-! ### The parameter block (R180) -/

/-- A parameter block's fields. -/
structure Params where
  src : Nat
  dst : Nat
  phw : Nat
  harg : Nat
  bx : Nat
  by' : Nat
  ss : Int
  ds : Int
  tx : Nat
  ty : Nat
  ox : Int
  oy : Int
  mode : Nat
  spaces : Nat
  esz : Nat
  flags : Nat
  tslot : Nat
  cls : Nat
  sgpat : Nat
  zero : Nat
  xid : Nat

def Params.ofNat (x : Nat) : Params :=
  let f (off w : Nat) : Nat := bits x (8 * off) (8 * w)
  { src := f 0 8, dst := f 8 8, phw := f 16 8, harg := f 24 8, bx := f 32 2, by' := f 34 2
    ss := sext (f 36 4) 32, ds := sext (f 40 4) 32, tx := f 44 2, ty := f 46 2, ox := sext (f 48 2) 16, oy := sext (f 50 2) 16
    mode := f 52 1, spaces := f 53 1, esz := f 54 1, flags := f 55 1, tslot := f 56 1, cls := f 57 1, sgpat := f 58 1
    zero := f 59 1, xid := f 60 4 }

def Params.e (p : Params) : Nat := 2 ^ (p.esz % 4)
def Params.ssp (p : Params) : Nat := bits p.spaces 0 2
def Params.dsp (p : Params) : Nat := bits p.spaces 2 2
def Params.psp (p : Params) : Nat := bits p.spaces 4 2
def Params.swz (p : Params) : Nat := bits p.flags 0 4
def Params.post (p : Params) : Bool := bit p.flags 4
def Params.phadd (p : Params) : Bool := bit p.flags 5
def Params.stamp (p : Params) : Bool := bit p.flags 6
/-- Mode 3's IDX (R180). -/
def Params.idx (p : Params) : Nat := p.tx + 65536 * p.ty

def Transfer.params (t : Transfer) : Params := Params.ofNat t.block

def Transfer.work (t : Transfer) : Job' := ⟨t.id, l1Key t.cell, t.cell, t.lcell, t.launch⟩

/-! ### The box (R181, R182) -/

/-- First inside index and inside count of a dimension: `n` elements from `off` under a bound, 0 for none. -/
def span (n bound : Nat) (off : Int) : Nat × Nat :=
  if bound = 0 then (0, n)
  else
    let lo : Nat := (-off).toNat
    (lo, (min (n : Int) (bound - off) - lo).toNat)

/-- Inside columns and rows of the box: first column, columns, first row, rows; all of it but in mode 1. -/
def Params.inside (p : Params) : Nat × Nat × Nat × Nat :=
  if p.mode = 1 then
    let (c0, nc) := span p.bx p.tx p.ox
    let (r0, nr) := span p.by' p.ty p.oy
    if nc = 0 ∨ nr = 0 then (0, 0, 0, 0) else (c0, nc, r0, nr)
  else (0, p.bx, 0, p.by')

def Params.isInside (p : Params) (i j : Nat) : Bool :=
  let (c0, nc, r0, nr) := p.inside
  c0 ≤ i && i < c0 + nc && r0 ≤ j && j < r0 + nr

/-- Some element is outside (R182). -/
def Params.clipped (p : Params) : Bool :=
  let (_, nc, _, nr) := p.inside
  p.mode == 1 && nc * nr != p.bx * p.by'

/-- An address modulo 2^64. -/
def addr64 (x : Int) : Nat := (x % 2 ^ 64).toNat

/-- The source of element (i, j); `ix` is mode 3's index. -/
def Params.srcAddr (p : Params) (i j ix : Nat) : Nat :=
  let e := (p.e : Int)
  match p.mode with
  | 0 => addr64 (p.src + (j * p.bx + i : Nat) * e)
  | 1 => addr64 (p.src + (p.oy + j) * p.ss + (p.ox + i) * e)
  | 2 => addr64 (p.src + (p.oy + i) * p.ss + (p.ox + j) * e)
  | _ => addr64 (p.src + ix * p.ss + i * e)

/-- The destination of element (i, j) before the swizzle. -/
def Params.dstAddr (p : Params) (i j : Nat) : Nat :=
  let e := (p.e : Int)
  if p.mode = 1 ∨ p.mode = 2 then addr64 (p.dst + j * p.ds + i * e) else addr64 (p.dst + (j * p.bx + i : Nat) * e)

/-! ### Places (R172, R387) -/

/-- W and P of the transfer's task. -/
def State.xferRows (s : State) (t : Transfer) : Nat × Nat :=
  match t.launch with
  | none => (0, 4096)
  | some l => ((look {} s.launches l).wrows.toNat, (look {} s.launches l).prows.toNat)

/-- A range of the local (1) or window (2) space is in bounds (R172). -/
def State.xferRange (s : State) (t : Transfer) (sp a n : Nat) : Bool :=
  let (w, p) := s.xferRows t
  n == 0 || a + n ≤ (if sp = 2 then 16 * w * 128 else p * 128)

/-- The home of a local or window byte of the transfer's task; none beyond U. -/
def State.xferPlace (s : State) (t : Transfer) (sp a : Nat) : Option Place :=
  match t.launch with
  | none => if a / 128 < s.rowsOf t.cell then some (.pad t.cell a) else none
  | some l =>
    if sp = 2 then
      let b := (look {} s.launches l).lbase.toNat
      let r := a / 128
      s.rowPlace (b + (t.lcell - b) / 16 * 16 + r % 16) true (r / 16 * 128 + a % 128)
    else s.rowPlace t.lcell false a

/-- An element of a space read, or written. -/
def State.xferRead (s : State) (t : Transfer) (sp a n : Nat) : Reach Nat :=
  if sp = 0 then s.unitRead t.work a n
  else if !s.xferRange t sp a n then .fail 4
  else match s.xferPlace t sp a with
    | none => .fail 4
    | some p =>
      if s.placeBad p then .fail 1
      else if s.rowsHeld p then .wait none
      else match s.placeRead p 0 n with
        | some (x, s') => .got x s'
        | none => .wait none

/-- A write of `n` bytes of a transfer; into rows of a logical cell that is away it waits until the cell is back (DESIGN CHOICE,
log 39). -/
def State.xferWrite (s : State) (t : Transfer) (sp a n x : Nat) : Reach Unit :=
  if sp = 0 then s.unitWrite t.work a n x
  else if !s.xferRange t sp a n then .fail 4
  else match s.xferPlace t sp a with
    | none => .fail 4
    | some p =>
      if s.rowsHeld p then .wait none
      else match s.placeWrite p 0 n (2 ^ n - 1) x with
        | some s' => .got () s'
        | none => .wait none

/-! ### The start (R180) -/

/-- A row's addresses are aligned and, in the rows' spaces, in range. -/
def State.rowOk (s : State) (t : Transfer) (sp a n e : Nat) : Bool := a % e == 0 && (sp == 0 || s.xferRange t sp a n)

/-- Every PARAM condition that is found at the start. -/
def State.paramBad (s : State) (t : Transfer) : Bool :=
  let p := t.params
  let e := p.e
  let (c0, nc, r0, nr) := p.inside
  let rows := if nc = 0 then [] else (List.range nr).map (r0 + ·)
  decide (3 < p.mode) || p.spaces / 64 != 0 || p.ssp == 3 || p.dsp == 3 || p.psp == 3 || decide (3 < p.esz) || bit p.flags 7
  || decide (3 < p.swz) || decide (15 < p.sgpat) || p.zero != 0 || ((p.post || p.clipped) && decide (p.cls < 16))
  || p.src % e != 0 || p.dst % e != 0
  || p.phw % 16 != 0 || (p.psp != 0 && !s.xferRange t p.psp p.phw 16)
  || (p.mode == 3 && !s.xferRange t 1 p.idx (4 * p.by'))
  || (p.mode == 2 && p.by' != 0 && (List.range p.bx).any fun i => !s.rowOk t p.ssp (p.srcAddr i 0 0) (p.by' * e) e)
  || rows.any (fun j => (p.mode ≤ 1 && !s.rowOk t p.ssp (p.srcAddr c0 j 0) (nc * e) e) || !s.rowOk t p.dsp (p.dstAddr c0 j) (nc * e) e)

/-- The `k`-th transfer of a cluster's engine. -/
def State.xferAt (s : State) (cl k : Nat) : Option Transfer := (s.transfers.filter fun t => l1Key t.cell == cl)[k]?

def State.setXfer (s : State) (t : Transfer) : State :=
  { s with transfers := s.transfers.map fun u => if u.id = t.id then t else u }

/-- The block as the rows hold it now, when they can be read: one on a line with a bad check value ends the transfer with
CHECK (R185, R202, R203).  Of a block that software has written meanwhile R185 lets each byte be old or new: the restart takes
the bytes that the rows hold now (DESIGN CHOICE, log 39). -/
def State.reread (s : State) (t : Transfer) : Transfer :=
  match s.xferPlace t 1 t.base with
  | some (.pad c a) => if s.placeBad (.pad c a) then { t with status := some ((t.status.filter (· != 0)).getD 1) } else { t with block := s.padRead c a 64 }
  | _ => t

/-- XFER_START of transfer `b` of cluster `a`, on the block as it stood at issue (R185, R239). -/
def execXferStart (s : State) : Host.Outcome State Fault Refusal :=
  event s do
    let t ← s.xferAt s.now.arg.a s.now.arg.b
    if s.stopped || t.started then none
    else some (s.setXfer { t with started := true, status := if s.paramBad t then some 4 else none })

/-! ### The copy (R181-R183) -/

/-- Mode 2 reads its tensor through a stack's pattern: VALID, and agreeing with ESZ and SSTRIDE (R183). -/
def State.patternOk (s : State) (stack pat esz : Nat) (stride : Int) : Bool :=
  let w := (look 0 s.patterns (stack * 16 + pat)).toNat
  bit w 0 && bits w 1 2 == esz && sext (bits w 32 32) 32 == stride

/-- The status that keeps mode 2 from reading element (i, j) at VA `a`: outside the tensor, not local HBM, or a
pattern that disagrees (R182, R183). -/
def State.patternFail (s : State) (t : Transfer) (p : Params) (i j a : Nat) : Option Nat :=
  let out (x : Int) (bound : Nat) : Bool := bound != 0 && (x < 0 || (bound : Int) ≤ x)
  if p.ssp ≠ 0 || out (p.ox + j) p.tx || out (p.oy + i) p.ty then some 3
  else match (s.unitTranslate t.work.tlb t.id a false).1 with
    | some (.at l) => match l.place with
      | .hbm pa => if s.patternOk (bankOf pa).1 p.sgpat p.esz p.ss then none else some 3
      | _ => some 3
    | _ => none

/-- One element copied: its source, then its destination. -/
def State.copyElem (s : State) (t : Transfer) : Reach Unit :=
  let p := t.params
  let e := p.e
  let i := t.k % p.bx
  let j := t.k / p.bx
  let move (s : State) (a : Nat) : Reach Unit :=
    match s.xferRead t p.ssp a e with
    | .got x s1 =>
      let d := p.dstAddr i j
      s1.xferWrite t p.dsp (if p.dsp = 0 ∨ p.swz = 0 then d else swizzle p.swz (p.dst / 128) d) e x
    | .fail st => .fail st
    | .park va w mal => .park va w mal
    | .wait r => .wait r
  if p.mode = 3 then
    match s.xferRead t 1 (p.idx + 4 * j) 4 with
    | .got ix s1 =>
      let row := p.srcAddr 0 j ix
      if !s1.rowOk t p.ssp row (p.bx * e) e then .fail 4 else move s1 (p.srcAddr i j ix)
    | .fail st => .fail st
    | .park va w mal => .park va w mal
    | .wait r => .wait r
  else
    let a := p.srcAddr i j 0
    match (if p.mode = 2 then s.patternFail t p i j a else none) with
    | some st => .fail st
    | none => move s a

/-- Elements from the next one on, at most `fuel` of them; the outside ones are passed over (R182). -/
def State.copyRun (s : State) (t : Transfer) : Nat → State × Transfer
  | 0 => (s, t)
  | fuel + 1 =>
    let p := t.params
    match s.unitFailed t.id with
    | some st => (s, { t with status := some st })
    | none =>
      if p.bx * p.by' ≤ t.k then (s, t)
      else if !p.isInside (t.k % p.bx) (t.k / p.bx) then s.copyRun { t with k := t.k + 1 } fuel
      else match s.copyElem t with
        | .got _ s1 => (s1.unitClear t.id).copyRun { t with k := t.k + 1, wrote := t.wrote + p.e } fuel
        | .fail st => (s.leavePort t.id, { t with status := some st })
        | .park va w mal => match s.unitPark va w mal (.transfer (l1Key t.cell) t.id) with
          | some s' => (s', { t with parked := true })
          | none => (s, t)
        | .wait r => (r.getD s, t)

/-- The copy is over once the box is done. -/
def Transfer.finished (t : Transfer) : Transfer :=
  if t.status.isNone && t.params.bx * t.params.by' ≤ t.k then { t with status := some 0 } else t

/-- XFER_ROW_COPY: transfer `b` of cluster `a` copies to the end of the row it is in. -/
def execXferRowCopy (s : State) : Host.Outcome State Fault Refusal :=
  event s do
    let t ← s.xferAt s.now.arg.a s.now.arg.b
    if s.stopped || !t.started || t.parked || t.status.isSome then none
    else
      let (s1, t1) := s.copyRun t (t.params.bx - t.k % t.params.bx)
      some (s1.setXfer t1.finished)

/-- XFER_RESTART of transfer `b` of cluster `a`, which REPLAYALL has released: the block is read again, and the copy
goes on at the first element not yet written (R185, R199). -/
def execXferRestart (s : State) : Host.Outcome State Fault Refusal :=
  event s do
    let t ← s.xferAt s.now.arg.a s.now.arg.b
    let queued := s.slices.any fun q => q.2.replay.contains (.transfer (l1Key t.cell) t.id)
    if s.stopped || !t.parked || queued then none
    else
      let t1 := { s.reread t with parked := false }
      some (s.setXfer (if t1.status.isNone && s.paramBad t1 then { t1 with status := some 4 } else t1))

/-! ### Completion (R184, R188) -/

/-- The tag table of the issuing logical cell. -/
def Transfer.table (t : Transfer) : Nat :=
  if kindOf t.cell = some .system then 0x10000 + (t.cell - Config.systemBase)
  else if t.launch = none then 0x20000 + t.cell else t.lcell

/-- The logical row of the issuing logical cell that holds DST; none when no row of it does (R184 step 1). -/
def State.stampRow (s : State) (t : Transfer) : Option Nat :=
  let p := t.params
  let (w, _) := s.xferRows t
  if p.dsp = 1 then some (w + p.dst / 128)
  else if p.dsp = 2 then
    let b := match t.launch with | some l => (look {} s.launches l).lbase.toNat | none => 0
    if (p.dst / 128) % 16 = (t.lcell - b) % 16 then some (p.dst / 128 / 16) else none
  else none

/-- Step 1: the swizzle stamp. -/
def State.xferStamp (s : State) (t : Transfer) : State :=
  let p := t.params
  let e := s.tagEntry t.table p.tslot
  if p.stamp && t.status == some 0 && e.valid && s.stampRow t == some e.row.toNat then
    s.setTag t.table p.tslot { e with swz := BitVec.ofNat 4 p.swz }
  else s

/-- A message of the engine to the issuing logical cell (R182, R184).  No cell sends it: SRCPCELL is a free value
(log 6). -/
def State.xferPost (s : State) (t : Transfer) (a2 a3 : Nat) : State :=
  let p := t.params
  if p.cls < 16 then s
  else
    let (f, s) := s.fresh
    let m : Msg :=
      { cls := BitVec.ofNat 8 p.cls, place := 3, launch := BitVec.ofNat 12 (t.launch.getD 0), dest := BitVec.ofNat 16 t.lcell
        path := t.path, args := argVec p.xid p.harg a2 a3, srcpcell := BitVec.ofNat 17 f, srcdev := s.devidx }
    match t.launch with
    | some _ => s.post { msg := m, target := .logical t.lcell } true
    | none => s.post { msg := m, target := .physical t.cell, system := true } false

/-- The box's clipping as the clipped-box message gives it (R182). -/
def Params.clipWord (p : Params) : Nat :=
  let (c0, nc, r0, nr) := p.inside
  c0 + 2 ^ 16 * r0 + 2 ^ 32 * nc + 2 ^ 48 * nr

/-- Step 3, and the end: the error is recorded, with ENGOVER for a rejected byte update (R188), the messages posted,
the transfer gone.  The clipped-box message is posted before the completion message (R182, R184; DESIGN CHOICE, log 10). -/
def State.xferEnd (s : State) (t : Transfer) (st : Nat) (overrun : Bool := false) : State :=
  let p := t.params
  let s := (s.unitClear t.id)
  let s := { s with transfers := s.transfers.filter (·.id != t.id) }
  let s := if st = 0 then s
    else s.recordError t.launch (if st = 6 then 0x08 else causeOf st) t.lcell overrun.toNat
  let s := if p.clipped then s.xferPost t p.clipWord (st + 0x100) else s
  if p.post then s.xferPost t t.wrote st else s

/-- Step 2: the byte update, as far as it goes now. -/
def State.xferPhase (s : State) (t : Transfer) (st : Nat) : Option State :=
  let p := t.params
  let n := p.bx * p.by' * p.e
  let op := AccOp.phengine n (st != 0)
  let over' (s : State) (v : Nat) : State := s.xferEnd t (if v = 1 ∧ st = 0 then 6 else st) (v == 1)
  let fail (s : State) (code : Nat) : State := s.xferEnd t (if st = 0 then code else st)
  if !p.phadd || p.psp = 3 || p.phw % 16 ≠ 0 then some (s.xferEnd t st)
  else if t.step = 2 then
    match s.inflight.find? fun a => a.unit == some t.id && a.op == op with
    | some a => match a.phase with
      | .done v _ => some (over' s v)
      | .failed c => some (fail s (statusOf c))
      | _ => none
    | none => some (s.xferEnd t st)
  else
    let at' (s : State) (pl : Place) (key : Nat) : Option State :=
      if s.wordTaken pl 16 then none else (s.perform pl key op).map fun r => over' r.1 r.2.1
    if p.psp = 0 then
      match s.unitTranslate t.work.tlb t.id p.phw true with
      | (none, _) => (s.unitPark p.phw true (s.walkMal p.phw) (.transfer (l1Key t.cell) t.id)).map
          (·.setXfer { t with step := 1, parked := true })
      | (some (.at l), s) =>
        match l.place with
        | .hbm _ =>
          if s.placeBad l.place then
            (if l.chk then at' (s.recordError t.launch 0x05 t.lcell) l.place l.key else some (fail s 1))
          else at' s l.place l.key
        | .remote dev pa =>
          if !s.reaches dev then some (fail s 5)
          else (s.unitSend t.work p.phw l.key dev pa op l.chk).map fun s' => s'.setXfer { t with step := 2 }
        | _ => some (fail s 2)
      | (some .miss, s) => some s
      | (some .bad, _) => some (fail s 1)
      | (some _, _) => some (fail s 2)
    else if !s.xferRange t p.psp p.phw 16 then some (s.xferEnd t st)
    else match s.xferPlace t p.psp p.phw with
      | none => some (fail s 4)
      | some (.pad c a) =>
        if s.rowsHeld (.pad c a) then none
        else if s.placeBad (.pad c a) then some (fail s 1)
        else at' s (.pad c a) 0
      | some _ => none

/-- XFER_COMPLETION of transfer `b` of cluster `a`, once every write has reached its home. -/
def execXferCompletion (s : State) : Host.Outcome State Fault Refusal :=
  event s do
    let t ← s.xferAt s.now.arg.a s.now.arg.b
    let st0 ← t.status
    if s.stopped || t.parked then none
    else if t.step = 0 then
      if s.unitOpen t.id then none
      else
        let st := if st0 = 0 then (s.unitFailed t.id).getD 0 else st0
        let t := { t with status := some st, step := 1 }
        let s := ((s.unitClear t.id).setXfer t).xferStamp t
        some ((s.xferPhase t st).getD s)
    else s.xferPhase t st0

/-! ### XFER and XFERN (R239, R240) -/

/-- XFER takes the parameter block as it stands at issue (R185, R239), in one step or byte by byte (R207).  A block on a line with a
bad check value traps CHECK after the checks that R239 lists, which does not name it (R203; DESIGN CHOICE, log 17). -/
def xferBody (a : Reg) : Body := fun s => do
  let base := s.kept (s.s a).toNat
  if 64 ≤ (s.transfers.filter fun t => l1Key t.cell == l1Key s.now.cell).length then .error s.notReady
  else
    s.block base 64 64
    match s.badLocal base 64 with
    | some x => .error (.trap causeCheck (BitVec.ofNat 64 x))
    | none =>
      let (s, rd) ← s.gather base 1 0 base 64
      let t : Transfer :=
        { id := s.nextId, cell := s.now.cell, token := s.cur.token, lcell := s.cur.lcell.toNat
          launch := s.cur.launch.map BitVec.toNat, path := s.cur.path, base := base, block := rd.localRead base 64 }
      pure { s := { s with nextId := s.nextId + 1, transfers := s.transfers ++ [t] } }

def execXfer (a : Reg) (s : State) := issue (.xfer a) s (xferBody a)

def execXfern (d : Reg) (s : State) := issue (.xfern d) s (writes d fun s =>
  BitVec.ofNat 64 (s.transfers.filter fun t => t.token == s.cur.token).length)

end Sys2Proof.Machine
end

