-- ==== Sys2Proof/Machine/MulDiv.lean ====
section
/-! DEFINITION. Multiply, divide and bit operations (R95, R96). -/
namespace Sys2Proof.Machine

/-! ### The operations -/

/-- The high 64 bits of an exact product (R95). -/
def highPart (x : Int) : Word := wrap (x / 2 ^ 64)

def divS (a b : Word) : Word :=
  if b = 0 then BitVec.allOnes 64
  else if a.toInt = -(2 ^ 63) ∧ b.toInt = -1 then a
  else wrap (a.toInt.tdiv b.toInt)

def divU (a b : Word) : Word := if b = 0 then BitVec.allOnes 64 else BitVec.ofNat 64 (a.toNat / b.toNat)

def remS (a b : Word) : Word :=
  if b = 0 then a
  else if a.toInt = -(2 ^ 63) ∧ b.toInt = -1 then 0
  else wrap (a.toInt - b.toInt * a.toInt.tdiv b.toInt)

def remU (a b : Word) : Word := if b = 0 then a else BitVec.ofNat 64 (a.toNat % b.toNat)

/-- The number of leading zero bits among the low `n` bits of `x`. -/
def leadingZeros (x : Nat) : Nat → Nat
  | 0 => 0
  | n + 1 => if x / 2 ^ n % 2 = 1 then 0 else 1 + leadingZeros x n

/-- The number of trailing zero bits, at most `n`. -/
def trailingZeros (x : Nat) : Nat → Nat
  | 0 => 0
  | n + 1 => if x % 2 = 1 then 0 else 1 + trailingZeros (x / 2) n

/-- The number of one bits among the low `n` bits. -/
def popCount (x : Nat) : Nat → Nat
  | 0 => 0
  | n + 1 => x % 2 + popCount (x / 2) n

/-- The low `n` digits of `x` to the given base, in reverse order. -/
def reverseDigits (base x : Nat) : Nat → Nat
  | 0 => 0
  | n + 1 => x % base * base ^ n + reverseDigits base (x / base) n

def clz (a : Word) : Word := BitVec.ofNat 64 (leadingZeros a.toNat 64)
def ctz (a : Word) : Word := BitVec.ofNat 64 (trailingZeros a.toNat 64)
def popc (a : Word) : Word := BitVec.ofNat 64 (popCount a.toNat 64)
def bswap (a : Word) : Word := BitVec.ofNat 64 (reverseDigits 256 a.toNat 8)
def brev (a : Word) : Word := BitVec.ofNat 64 (reverseDigits 2 a.toNat 64)

/-- A register operation on one register (R96). -/
def op1 (d a : Reg) (f : Word → Word) : Body := writes d fun s => f (s.s a)

/-! ### MULDIV (R95) -/

def execMul (d a b : Reg) (s : State) := issue (.mul d a b) s (op2 d a b (· * ·))
def execMulh (d a b : Reg) (s : State) :=
  issue (.mulh d a b) s (op2 d a b fun x y => highPart (x.toInt * y.toInt))
def execMulhsu (d a b : Reg) (s : State) :=
  issue (.mulhsu d a b) s (op2 d a b fun x y => highPart (x.toInt * y.toNat))
def execMulhu (d a b : Reg) (s : State) :=
  issue (.mulhu d a b) s (op2 d a b fun x y => BitVec.ofNat 64 (x.toNat * y.toNat / 2 ^ 64))
def execDiv (d a b : Reg) (s : State) := issue (.div d a b) s (op2 d a b divS)
def execDivu (d a b : Reg) (s : State) := issue (.divu d a b) s (op2 d a b divU)
def execRem (d a b : Reg) (s : State) := issue (.rem d a b) s (op2 d a b remS)
def execRemu (d a b : Reg) (s : State) := issue (.remu d a b) s (op2 d a b remU)

/-! ### BITS (R96) -/

def execClz (d a : Reg) (s : State) := issue (.clz d a) s (op1 d a clz)
def execCtz (d a : Reg) (s : State) := issue (.ctz d a) s (op1 d a ctz)
def execPopc (d a : Reg) (s : State) := issue (.popc d a) s (op1 d a popc)
def execBswap (d a : Reg) (s : State) := issue (.bswap d a) s (op1 d a bswap)
def execBrev (d a : Reg) (s : State) := issue (.brev d a) s (op1 d a brev)
def execRol (d a b : Reg) (s : State) :=
  issue (.rol d a b) s (op2 d a b fun x y => x.rotateLeft (count6 y))
def execRor (d a b : Reg) (s : State) :=
  issue (.ror d a b) s (op2 d a b fun x y => x.rotateRight (count6 y))

end Sys2Proof.Machine
end

