-- ==== Sys2Proof/Machine/Matrix.lean ====
section
/-! DEFINITION. The matrix unit: format contexts, tiles, commands, k-steps, norms and sampling (R262-R283). -/
namespace Sys2Proof.Machine

/-! ### Units and format contexts (R263, R264) -/

def State.mx (s : State) (cl : Nat) : MxUnit := look {} s.units cl

def State.setMx (s : State) (cl : Nat) (u : MxUnit) : State := { s with units := put s.units cl u }

def MxUnit.fmt (u : MxUnit) (fc : Nat) : FmtCtx := look {} u.ctxs fc

def MxUnit.setFmt (u : MxUnit) (fc : Nat) (x : FmtCtx) : MxUnit := { u with ctxs := put u.ctxs fc x }

def FmtCtx.aty (x : FmtCtx) : Nat := bits x.word.toNat 0 3
def FmtCtx.bty (x : FmtCtx) : Nat := bits x.word.toNat 3 3
def FmtCtx.oty (x : FmtCtx) : Nat := bits x.word.toNat 6 3
def FmtCtx.ornd (x : FmtCtx) : Nat := bits x.word.toNat 9 3
def FmtCtx.scm (x : FmtCtx) : Nat := bits x.word.toNat 12 2

/-- Key of a tile's element. -/
def accKey (tile i j : Nat) : Nat := tile * 16384 + i * 128 + j

def MxUnit.accAt (u : MxUnit) (tile i j : Nat) : Nat := look 0 u.acc (accKey tile i j)

def MxUnit.setAcc (u : MxUnit) (tile i j x : Nat) : MxUnit :=
  { u with acc := if x = 0 then del u.acc (accKey tile i j) else put u.acc (accKey tile i j) x }

/-- Every element of the M × N corner of a tile replaced. -/
def MxUnit.corner (u : MxUnit) (tile m n : Nat) (f : Nat → Nat → Nat → Nat) : MxUnit :=
  (List.range m).foldl (fun u i => (List.range n).foldl (fun u j => u.setAcc tile i j (f i j (u.accAt tile i j))) u) u

/-! ### Descriptors (R266) -/

def MxCmd.ava (c : MxCmd) : Nat := bits c.desc 0 64
def MxCmd.bva (c : MxCmd) : Nat := bits c.desc 64 64
def MxCmd.ald (c : MxCmd) : Nat := bits c.desc 128 12
def MxCmd.bld (c : MxCmd) : Nat := bits c.desc 140 12
/-- K. -/
def MxCmd.len (c : MxCmd) : Nat := bits c.desc 152 13
/-- M and N. -/
def MxCmd.m (c : MxCmd) : Nat := bits c.desc 165 7 + 1
def MxCmd.n (c : MxCmd) : Nat := bits c.desc 172 7 + 1
def MxCmd.tile (c : MxCmd) : Nat := bits c.desc 179 3
def MxCmd.col' (c : MxCmd) : Bool := bit c.desc 182
def MxCmd.swz (c : MxCmd) : Nat := bits c.desc 183 4
def MxCmd.sgpat (c : MxCmd) : Nat := bits c.desc 187 4
def MxCmd.clr (c : MxCmd) : Bool := bit c.desc 191
/-- Row and column of probe `q`. -/
def MxCmd.probeAt (c : MxCmd) (q : Nat) : Nat × Nat := (bits c.desc (256 + 16 * q) 7, bits c.desc (263 + 16 * q) 7)
def MxCmd.smin (c : MxCmd) : Nat := bits c.desc 320 16
def MxCmd.tau (c : MxCmd) : Nat := bits c.desc 352 32

/-- The commands that own a tile (R272, R289-R292). -/
def MxKind.tiled : MxKind → Bool
  | .mma | .mmas | .mxs | .mtout => true
  | .mnorm | .mfmt | .msrec | .mkey => false

/-- The command names a tile. -/
def MxCmd.names (c : MxCmd) (t : Nat) : Bool := c.kind.tiled && c.tile == t

def MxCmd.work (c : MxCmd) (cl : Nat) : Job' := ⟨c.id, cl, c.cell, c.lcell, c.launch⟩

/-! ### Queues and ownership (R269, R272, R277) -/

def MxUnit.queue (u : MxUnit) (fc : Nat) : List MxCmd := u.cmds.filter (·.fc == fc)

/-- Commands of a context's queue of 4; a key write that waits is none of them. -/
def MxUnit.queued (u : MxUnit) (fc : Nat) : Nat := ((u.queue fc).filter fun c => c.kind != .mkey).length

def MxUnit.setCmd (u : MxUnit) (c : MxCmd) : MxUnit := { u with cmds := u.cmds.map fun d => if d.id = c.id then c else d }

/-- A cell of the cluster runs the task, or holds its record after a forced save. -/
def State.taskAt (s : State) (cl token : Nat) : Bool :=
  (s.cells.any fun e => l1Key e.1 == cl && [0, 1, 2, 3].any fun k => (e.2.ctx k).busy && (e.2.ctx k).token == token)
  || s.savedTasks.any (·.2.token == token)

/-- The task has not ended. -/
def State.taskLive (s : State) (token : Nat) : Bool :=
  (s.cells.any fun e => [0, 1, 2, 3].any fun k => (e.2.ctx k).busy && (e.2.ctx k).token == token)
  || s.savedTasks.any (·.2.token == token)

/-- The owner of a tile: a task, or a command whose task has ended or that came by message (R272). -/
def State.tileOwner (s : State) (cl tile : Nat) : Option Nat :=
  match look? (s.mx cl).owners tile with
  | some t => if s.taskAt cl t || (s.mx cl).cmds.any (fun c => c.token == t && c.names tile) then some t else none
  | none => none

/-- Another requester than `token` owns the tile. -/
def State.tileTaken (s : State) (cl tile token : Nat) : Bool :=
  match s.tileOwner cl tile with
  | some t => t != token
  | none => false

/-- The format context and task that own the norm buffer (R277). -/
def State.normOwner (s : State) (cl : Nat) : Option (Nat × Nat) :=
  match (s.mx cl).norm with
  | some (fc, t) => if t = 0 || s.taskLive t then some (fc, t) else none
  | none => none

/-! ### Operands (R266, R267) -/

/-- An operand: named by slot or by VA, its base, row stride in bytes, type code and row length. -/
structure MxOperand where
  slot : Bool
  base : Nat
  ld : Nat
  ty : Nat
  len : Nat
  /-- Rows of the stride that the command reaches. -/
  rows : Nat

def MxCmd.opA (c : MxCmd) (x : FmtCtx) : MxOperand :=
  { slot := bit c.ava 63, base := if bit c.ava 63 then c.rowA else c.ava, ld := 16 * c.ald, ty := x.aty
    len := if c.col' then c.m else c.len, rows := if c.col' then c.len else c.m }

def MxCmd.opB (c : MxCmd) (x : FmtCtx) : MxOperand :=
  { slot := bit c.bva 63, base := if bit c.bva 63 then c.rowB else c.bva, ld := 16 * c.bld, ty := x.bty, len := c.n
    rows := c.len }

/-- Bytes of a whole element; of a bx element, its plane's alignment. -/
def MxOperand.align (o : MxOperand) : Nat := if 6 ≤ o.ty then 16 else if o.ty = 5 then 4 else 2

/-- Rows of the issuing logical cell, W + P, and how many of them lie below U now. -/
def State.cmdRows (s : State) (c : MxCmd) : Nat × Nat :=
  match c.launch with
  | none => (4096, s.rowsOf c.cell)
  | some l =>
    let e := look {} s.launches l
    let n := e.wrows.toNat + e.prows.toNat
    match s.rowsOfLcell c.lcell true with
    | some (cell, base, _) => (n, s.rowsOf cell - base)
    | none => (n, n)

/-- The home of byte `a` of the logical rows of the issuing logical cell; none past W + P or U. -/
def State.cmdPlace (s : State) (c : MxCmd) (a : Nat) : Option Place :=
  if (s.cmdRows c).1 ≤ a / 128 then none
  else match c.launch with
    | none => if a / 128 < s.rowsOf c.cell then some (.pad c.cell a) else none
    | some _ => s.rowPlace c.lcell true a

/-- `n` bytes at an offset of an operand. -/
def State.mxBytes (s : State) (cl : Nat) (c : MxCmd) (o : MxOperand) (off n : Nat) : Reach Nat :=
  if !o.slot then s.unitRead (c.work cl) (o.base + off) n
  else match s.cmdPlace c (swizzle c.swz o.base (o.base * 128 + off)) with
    | none => .fail 4
    | some p =>
      if s.placeBad p then .fail 1
      else if s.rowsHeld p then .wait none
      else match s.placeRead p 0 n with
        | some (x, s') => .got x s'
        | none => .wait none

/-- Element `k` of row `r` of an operand as it is stored. -/
def State.mxElem (s : State) (cl : Nat) (c : MxCmd) (o : MxOperand) (r k : Nat) : Reach Fp :=
  if o.ty < 6 then
    let n := if o.ty = 5 then 4 else 2
    (s.mxBytes cl c o (r * o.ld + k * n) n).bind fun x s => .got ((fmtOf (BitVec.ofNat 3 o.ty)).decode x) s
  else
    let four := o.ty == 7
    let plane := (o.len + 31) / 32 * (if four then 16 else 32)
    (s.mxBytes cl c o (r * o.ld + (if four then k / 2 else k)) 1).bind fun x s =>
    (s.mxBytes cl c o (r * o.ld + plane + 2 * (k / 32)) 2).bind fun e s =>
      .got (blockElem four (if four then x / 16 ^ (k % 2) % 16 else x) (e % 256) (e / 256)) s

/-- A value × 2^e (R275). -/
def Fp.scale (e : Int) : Fp → Fp
  | .fin n m e0 => .fin n m (e0 + e)
  | x => x

/-- Column `k` of A and row `k` of B, as the k-step reads them (R271, R275). -/
def State.mxTerms (s : State) (cl : Nat) (x : FmtCtx) (c : MxCmd) (k : Nat) : Reach (List Fp × List Fp) :=
  let a := c.opA x
  (reachAll (fun s i => if c.col' then s.mxElem cl c a k i else s.mxElem cl c a i k) s (List.range c.m)).bind fun as' s =>
  (reachAll (fun s j => s.mxElem cl c (c.opB x) k j) s (List.range c.n)).bind fun bs s =>
    .got (as'.map (Fp.scale c.sca), bs.map (Fp.scale c.scb)) s

def fpAt (l : List Fp) (i : Nat) : Fp := l.getD i (.fin false 0 0)

/-! ### Checks before the first step (R265, R267, R268, R281, R290-R292) -/

/-- An operand's address is misaligned, a message names a slot (R177, R267; its status is `MxCmd.refusal`), or a slot's extent
passes W + P or U. -/
def State.operandBad (s : State) (c : MxCmd) (o : MxOperand) : Bool :=
  if o.slot then
    let n := o.base + (o.rows * o.ld + 127) / 128
    c.ret.isSome || 4 ≤ c.swz || (s.cmdRows c).1 < n || (s.cmdRows c).2 < n
  else o.base % o.align != 0

/-- The command completes with PARAM, or with the status of `MxCmd.refusal`.  An MTOUT whose AVA has bit 63 = 1 is one of them: R292
has it be a VA and names no outcome (DESIGN CHOICE, log 40). -/
def State.mxParam (s : State) (c : MxCmd) (x : FmtCtx) : Bool :=
  let fmtBad := x.aty < 3 || x.bty < 3 || x.scm == 3
  let eb := if x.oty = 5 then 4 else 2
  match c.kind with
  | .mfmt | .msrec | .mkey => false
  | .mtout =>
    fmtBad || x.oty < 3 || 5 < x.oty || x.ornd == 5 || x.ornd == 6 || bit c.ava 63 || c.ava % eb != 0 || c.bva != 0
    || c.ald == 0 || c.bld != 0 || c.len != 0 || c.col' || c.swz != 0 || c.sgpat != 0 || c.clr
  | kind =>
    let long := (kind == .mnorm || kind == .mxs) && decide (4096 < c.len)
    let probes := kind == .mxs && ((List.range 4).any fun q => bits c.desc (270 + 16 * q) 2 != 0)
    let zeros := kind == .mxs && (bits c.desc 336 16 != 0 || bits c.desc 384 128 != 0)
    let count := kind == .mxs && (c.x.toNat < 2 || 1048576 < c.x.toNat)
    fmtBad || c.ald == 0 || c.bld == 0 || long || probes || zeros || count
    || s.operandBad c (c.opA x) || s.operandBad c (c.opB x) || (c.col' && (6 ≤ x.aty || 6 ≤ x.bty))

/-- COL = 1: every element of A lies in local HBM, and its stack's pattern agrees (R183, R268). -/
def State.mxPattern (s : State) (cl : Nat) (c : MxCmd) (x : FmtCtx) : Reach Unit :=
  if !c.col' || c.kind == .mtout then .got () s
  else if bit c.ava 63 then .fail 3
  else
    let eb := (c.opA x).align
    let one (s : State) (q : Nat) : Reach Unit :=
      let va := c.ava + q / c.m * 16 * c.ald + q % c.m * eb
      match s.unitTranslate cl c.id va false with
      | (none, _) => .park va false (s.walkMal va)
      | (some (.at l), s) => match l.place with
        | .hbm pa => if s.patternOk (bankOf pa).1 c.sgpat (Nat.log2 eb) (16 * c.ald : Nat) then .got () s else .fail 3
        | _ => .fail 3
      | (some .miss, s) => .wait (some s)
      | (some .bad, _) => .fail 1
      | (some _, _) => .fail 2
    (reachAll one s (List.range (c.len * c.m))).bind fun _ s => .got () s

/-- The scale exponents a command runs under, with the record's append or read: one update at the record's home.  SCM = 2
without a record ends with SCALE, and an MTOUT, which reads no operand, neither appends nor reads a pair (R275; DESIGN CHOICE,
log 40). -/
def State.mxScale (s : State) (cl : Nat) (c : MxCmd) (x : FmtCtx) : Reach (Int × Int) :=
  let live : Int × Int := (x.sca.toInt, x.scb.toInt)
  if x.scm = 0 || c.kind == .mtout then .got (0, 0) s
  else if x.srva = 0 then (if x.scm = 1 then .got live s else .fail 9)
  else
    (s.unitUpdate (c.work cl) x.srva.toNat (.scale (x.scm == 1) (x.sca.toNat + 256 * x.scb.toNat))).bind fun w s =>
      if bit w 16 then .fail 9 else .got (sext w 8, sext (w / 256) 8) (s.unitClear c.id)

/-- The status of a command that `mxParam` refuses: PARAM (R267, R268), or, of a message command that names a tag slot, SWIZZLE where
the part does as R177 says (log 40). -/
def MxCmd.refusal (c : MxCmd) (x : FmtCtx) : Nat :=
  if c.ret.isSome && c.kind != .mtout && ((c.opA x).slot || (c.opB x).slot) && Config.slotByMessage then 7 else 4

/-- What a command's first request does before any step: the checks, the scale record, the cleared corner and the
norm buffer (R265, R268, R275, R277, R289). -/
def State.mxStart (s : State) (cl : Nat) (c : MxCmd) : Reach MxCmd :=
  let x := (s.mx cl).fmt c.fc
  if s.mxParam c x then .fail (c.refusal x)
  else
    (s.mxPattern cl c x).bind fun _ s =>
    (s.mxScale cl c x).bind fun sc s =>
      let c := { c with started := true, sctr := x.sctr, sca := sc.1, scb := sc.2 }
      let u := s.mx cl
      let u := if (c.kind == .mma || c.kind == .mmas) && c.clr then u.corner c.tile c.m c.n fun _ _ _ => 0 else u
      .got c (s.setMx cl u)

/-! ### Steps of products and norms (R276, R289) -/

/-- One k-step of MMA or MMAS. -/
def MxUnit.product (u : MxUnit) (c : MxCmd) (as' bs : List Fp) : MxUnit :=
  u.corner c.tile c.m c.n fun i j acc =>
    let a := fpAt as' i
    (f32.sum .rne false [some (f32.decode acc), (if c.kind == .mmas then a.neg else a).mul (fpAt bs j)]).1

/-- The norm of one column or row (R276). -/
def normOf (xs : List Fp) : Nat :=
  (f32.sfu .sqrt .rne (xs.foldl (fun ss x => (f32.sum .rne false [some (f32.decode ss), x.mul x]).1) 0)).1

def MxUnit.normStep (u : MxUnit) (c : MxCmd) (as' bs : List Fp) : MxUnit :=
  { u with normA := put u.normA c.k (normOf as'), normB := put u.normB c.k (normOf bs) }

/-! ### The alias table (R278) -/

/-- ⌊K × w × 2^24 / W⌋ of two finite non-negative f32 values, W > 0. -/
def quota (k w total : Nat) : Nat :=
  match f32.decode w, f32.decode total with
  | .fin _ m e, .fin _ mw ew =>
    let d := e - ew
    if 0 ≤ d then k * m * 2 ^ 24 * 2 ^ d.toNat / mw else k * m * 2 ^ 24 / (mw * 2 ^ (-d).toNat)
  | _, _ => 0

/-- The table while it is built: prob, alias, Q. -/
structure Vose where
  prob : List (Nat × Nat) := []
  other : List (Nat × Nat) := []
  q : List (Nat × Nat)

/-- Small and Large are paired while both hold something; what is left. -/
def Vose.pair (t : Vose) (small large : List Nat) : Nat → Vose × List Nat
  | 0 => (t, small ++ large)
  | fuel + 1 =>
    match small, large with
    | a :: sm, l :: lg =>
      let qa := look 0 t.q a
      let ql := look 0 t.q l - (2 ^ 24 - qa)
      let t : Vose := { prob := put t.prob a qa, other := put t.other a l, q := put t.q l ql }
      if ql < 2 ^ 24 then t.pair (sm ++ [l]) lg fuel else t.pair sm (l :: lg) fuel
    | _, _ => (t, small ++ large)

/-- The lowest k whose weight is greatest. -/
def heaviest (ws : List Nat) : Nat :=
  (List.range ws.length).foldl (fun h k => if ws.getD h 0 < ws.getD k 0 then k else h) 0

/-- The Vose table of non-negative weights with sum `total` > 0. -/
def vose (ws : List Nat) (total : Nat) : Vose :=
  let n := ws.length
  let ks := List.range n
  let q := ks.map fun k => (k, quota n (ws.getD k 0) total)
  let small := ks.filter fun k => look 0 q k < 2 ^ 24
  let large := ks.filter fun k => !(look 0 q k < 2 ^ 24)
  let r := Vose.pair { q := q } small large (2 * n + 1)
  let h := heaviest ws
  r.2.foldl (fun (t : Vose) k =>
    if ws.getD k 0 != 0 then { t with prob := put t.prob k (2 ^ 24), other := put t.other k k }
    else { t with prob := put t.prob k 0, other := put t.other k h }) r.1

/-- The weights of a command. -/
def MxUnit.weights (u : MxUnit) (k : Nat) : List Nat :=
  (List.range k).map fun i => (f32.mul .rne (look 0 u.normA i) (look 0 u.normB i)).1

/-- MXS stops before any sample: its corner is +0, SCOUNT 0 and VAR as given (R277, R278). -/
def MxUnit.noSample (u : MxUnit) (c : MxCmd) (code var : Nat) : MxUnit × MxCmd :=
  (u.corner c.tile c.m c.n fun _ _ _ => 0, { c with built := true, code := some code, result := some (0, var) })

/-- The alias table of a command that has started (R277, R278): its queue is the norm buffer's owner or it ends
with NORM. -/
def MxUnit.build (u : MxUnit) (c : MxCmd) (owns : Bool) : MxUnit × MxCmd :=
  let ws := u.weights c.len
  let total := ws.foldl (fun t w => (f32.add .rne t w).1) 0
  if !owns || bits total 23 8 = 255 then u.noSample c 8 f32.nan
  else if total = 0 then u.noSample c 0 0
  else
    let t := vose ws total
    let rs := ((List.range c.len).filter fun k => ws.getD k 0 != 0).map fun k => (k, (f32.div .rne total (ws.getD k 0)).1)
    ({ (u.corner c.tile c.m c.n fun _ _ _ => 0) with
        norm := none, aliasCmd := some c.id, prob := t.prob, other := t.other, weight := rs },
      { c with built := true, probes := [(0, 0), (0, 0), (0, 0), (0, 0)] })

/-! ### Sampling (R279-R281) -/

def Fp.finite : Fp → Bool
  | .fin .. => true
  | _ => false

/-- Round(Σ terms / n): one rounding in all. -/
def quotF32 (terms : List Fp) (n : Nat) : Nat :=
  if terms.all Fp.finite then
    let total := terms.foldl (fun (acc : Dyadic) x => acc.add x.dyadic) ⟨0, 0⟩
    if total.z = 0 then f32.zero (terms.all Fp.isNeg)
    else
      let m := Mag.ofDyadic total.z.natAbs total.e
      (f32.round .rne (decide (total.z < 0)) ⟨m.num, m.den * n⟩).1
  else (f32.sum .rne false (terms.map some)).1

/-- A value × n, exact. -/
def Fp.times (n : Nat) : Fp → Fp
  | .fin s m e => .fin s (m * n) e
  | x => x

/-- Mean and M2 after one more value at the new count (R280). -/
def probeStep (p : Nat × Nat) (x count : Nat) : Nat × Nat :=
  let d := (f32.sub .rne x p.1).1
  let mean := quotF32 [(f32.decode p.1).times count, f32.decode d] count
  let e := (f32.sub .rne x mean).1
  (mean, (f32.fma .rne false false d e p.2).1)

/-- VAR at a count of at least 2 (R280). -/
def variance (probes : List (Nat × Nat)) (count : Nat) : Nat :=
  let den := (f32.ofInt .rne (count * (count - 1) : Nat)).1
  let v (q : Nat) : Nat := (f32.div .rne (probes.getD q (0, 0)).2 den).1
  quotF32 [f32.decode (f32.add .rne (v 0) (v 1)).1, f32.decode (f32.add .rne (v 2) (v 3)).1] 4

/-- a ≤ b of two f32 values; false for a NaN. -/
def leF32 (a b : Nat) : Bool :=
  let x := f32.decode a
  let y := f32.decode b
  !x.isNan && !y.isNan && x.cmp y != .gt

/-- The k that a sample draws: the t-th from the SCTR at the command's start (R279, R282). -/
def MxUnit.draw (u : MxUnit) (c : MxCmd) : Nat :=
  let w := (mix c.key (c.sctr + BitVec.ofNat 64 c.k)).toNat
  let j := bits w 32 32 * c.len / 2 ^ 32
  if bits w 0 24 < look 0 u.prob j then j else look 0 u.other j

/-- The variance that stops the command now, if it stops (R281). -/
def MxCmd.stops (c : MxCmd) : Option Nat :=
  let due := c.k % 16 = 0 ∧ c.smin ≤ c.k
  if c.k = c.x.toNat then some (variance c.probes c.k)
  else if due ∧ 2 ≤ c.k ∧ leF32 (variance c.probes c.k) c.tau then some (variance c.probes c.k) else none

/-- The term of one sample accumulated, the probes updated, and the stop taken (R279-R281). -/
def MxUnit.sample (u : MxUnit) (c : MxCmd) (k : Nat) (as' bs : List Fp) : MxUnit × MxCmd :=
  let r := f32.decode (look 0 u.weight k)
  let term (i j : Nat) : Option Fp := ((fpAt as' i).mul (fpAt bs j)).bind fun p => p.mul r
  let u := u.corner c.tile c.m c.n fun i j acc => (f32.sum .rne false [some (f32.decode acc), term i j]).1
  let x (q : Nat) : Nat :=
    let (i, j) := c.probeAt q
    if i < c.m ∧ j < c.n then (f32.sum .rne false [term i j]).1 else 0
  let c := { c with
    k := c.k + 1, probes := (List.range 4).map fun q => probeStep (c.probes.getD q (0, 0)) (x q) (c.k + 1) }
  let f := u.fmt c.fc
  let u := u.setFmt c.fc { f with sctr := f.sctr + 1 }
  match c.stops with
  | none => (u, c)
  | some var =>
    ({ (u.corner c.tile c.m c.n fun _ _ acc => quotF32 [f32.decode acc] c.k) with aliasCmd := none },
      { c with result := some (c.k, var), code := some 0 })

/-! ### Read-out (R292, R296) -/

/-- The mode of a read-out: ORND, or the given FRM for 7. -/
def FmtCtx.mode (x : FmtCtx) (frm : Nat) : Nat := if x.ornd = 7 then frm else x.ornd

/-- Every element of a row of MTOUT can be written where its VA leads now: a fault stops the command before the row (R271, R292). -/
def State.rowReach (s : State) (cl : Nat) (c : MxCmd) (n : Nat) : Reach (List Unit) :=
  reachAll (fun s j =>
    let va := c.ava + c.k * 16 * c.ald + j * n
    match s.unitTranslate cl c.id va true with
    | (none, _) => .park va true (s.walkMal va)
    | (some (.at l), s) => match l.place with
      | .remote dev _ => if s.reaches dev then .got () s else .fail 5
      | _ => .got () s
    | (some .miss, s) => .wait (some s)
    | (some .bad, _) => .fail 1
    | (some _, _) => .fail 2) s (List.range c.n)

/-- MTOUT takes up a row, which then has one SCTR for all of its draws, and under RSR advances the stream (R292, R296); a MAR
served between the elements of the row draws from behind it (DESIGN CHOICE, log 40). -/
def State.rowStart (s : State) (cl : Nat) (c : MxCmd) (n mode : Nat) : Reach MxCmd :=
  (s.rowReach cl c n).bind fun _ s =>
    let x := (s.mx cl).fmt c.fc
    let spent := if mode = 4 then BitVec.ofNat 64 ((c.n + 3) / 4) else 0
    .got { c with built := true, sctr := x.sctr } (s.setMx cl ((s.mx cl).setFmt c.fc { x with sctr := x.sctr + spent }))

/-- A step of MTOUT: it takes up a row, or writes the row's next element. -/
def State.mxOut (s : State) (cl : Nat) (c : MxCmd) : Reach MxCmd :=
  let x := (s.mx cl).fmt c.fc
  let y := BitVec.ofNat 3 x.oty
  let mode := x.mode c.frm
  let n := elemBytes y
  if !c.built then s.rowStart cl c n mode
  else
    let r := (fmtOf y).ofFp ⟨mode, drawAt c.key c.sctr c.col⟩ (f32.decode ((s.mx cl).accAt c.tile c.k c.col))
    (if c.col = 0 then s.rowReach cl c n else .got [] s).bind fun _ s =>
      (s.unitWrite (c.work cl) (c.ava + c.k * 16 * c.ald + c.col * n) n r.1).bind fun _ s =>
        let c := { c with flags := c.flags ||| r.2 }
        .got (if c.col + 1 < c.n then { c with col := c.col + 1 } else { c with k := c.k + 1, col := 0, built := false }) s

/-! ### One request (R269, R271) -/

/-- The command has nothing left to do. -/
def MxCmd.over' (c : MxCmd) : Bool :=
  match c.kind with
  | .mma | .mmas | .mnorm => c.len ≤ c.k
  | .mtout => c.m ≤ c.k
  | _ => false

def MxCmd.settled (c : MxCmd) : MxCmd := if c.code.isNone && c.over' then { c with code := some 0 } else c

/-- One step of a command that has started. -/
def State.mxStep (s : State) (cl : Nat) (c : MxCmd) : Reach MxCmd :=
  let u := s.mx cl
  let x := u.fmt c.fc
  match c.kind with
  | .mma | .mmas => (s.mxTerms cl x c c.k).bind fun t s => .got { c with k := c.k + 1 } (s.setMx cl ((s.mx cl).product c t.1 t.2))
  | .mnorm => (s.mxTerms cl x c c.k).bind fun t s => .got { c with k := c.k + 1 } (s.setMx cl ((s.mx cl).normStep c t.1 t.2))
  | .mxs =>
    let k := u.draw c
    (s.mxTerms cl x c k).bind fun t s =>
      let r := (s.mx cl).sample c k t.1 t.2
      .got r.2 (s.setMx cl r.1)
  | .mtout => s.mxOut cl c
  | .mfmt | .msrec | .mkey => .got c s

/-- A command whose operand faults waits in the slice's replay queue; while that is full it tries again (R200, R271).  An MTOUT whose
page has gone while it was in the middle of a row writes that row again from its start (R271, R292). -/
def State.mxPark (s : State) (cl : Nat) (c : MxCmd) (va : Nat) (write mal : Bool) : State × MxCmd :=
  match s.unitPark va write mal (.command cl c.id) with
  | some s' => (s', { c with parked := true, col := 0 })
  | none => (s, c)

/-- Steps of a command, at most `fuel`; those of MTOUT are its rows' starts and their elements. -/
def State.mxRun (s : State) (cl : Nat) (c : MxCmd) : Nat → State × MxCmd
  | 0 => (s, c)
  | fuel + 1 =>
    if c.code.isSome then (s, c)
    else match s.unitFailed c.id with
      | some st => (s, { c with code := some st })
      | none =>
        match s.mxStep cl c with
        | .got c1 s1 => (s1.unitClear c.id).mxRun cl c1.settled fuel
        | .fail st => (s.leavePort c.id, { c with code := some st })
        | .park va w mal => s.mxPark cl c va w mal
        | .wait r => (r.getD s, c)

/-- A request of at most `k` k-steps, samples or rows of a command (R269). -/
def State.mxRequest (s : State) (cl : Nat) (c : MxCmd) (k : Nat) : State × MxCmd :=
  let most := if c.kind == .mxs then min k 16 else k
  let go (s : State) (c : MxCmd) : State × MxCmd :=
    if c.kind == .mxs && !c.built then (s, c)
    else s.mxRun cl c (if c.kind == .mtout then most * (c.n + 1) else most)
  if c.started then go s c
  else match s.mxStart cl c with
    | .got c1 s1 => go s1 c1.settled
    | .fail st => (s.leavePort c.id, { c with code := some st })
    | .park va w mal => s.mxPark cl c va w mal
    | .wait r => (r.getD s, c)

end Sys2Proof.Machine
end

