-- ==== Sys2Proof/Machine/Mx.lean ====
section
/-! DEFINITION. The matrix unit's events and the matrix instructions (R269-R274, R284-R300). -/
namespace Sys2Proof.Machine

/-! ### Accumulator access (R295, R296) -/

/-- A free f32 pattern for each of `n` elements (log 6). -/
def State.freshMany (s : State) : Nat → List Nat × State
  | 0 => ([], s)
  | n + 1 =>
    let (x, s) := s.fresh
    let (r, s) := s.freshMany n
    (x % 2 ^ 32 :: r, s)

/-- Elements of a group of a tile; free ones before the task's MWAIT has returned (R273). -/
def State.tileGroup (s : State) (cl : Nat) (a : MxAcc) (n : Nat) : List Nat × State :=
  if a.loose then s.freshMany n else ((List.range n).map fun e => (s.mx cl).accAt a.tile a.row (a.col + e), s)

/-- A MAR takes its elements, free values before the task's MWAIT has returned (R273), or a MAW leaves v[D] in its: until that
MWAIT no MAR is promised what they hold, and a command on the tile that is still in flight goes on from there (R295; DEDUCED,
log 40).  A MAR under RSR advances its context's SCTR also while a sampling command of the context runs, whose draws go on from
the SCTR of its own start (R265, R279, R282, R296; DEDUCED, log 40). -/
def State.accServe (s : State) (cl : Nat) (a : MxAcc) : State :=
  match a.id with
  | none =>
    s.setMx cl ((List.range 4).foldl (fun u e => u.setAcc a.tile a.row (a.col + e) (a.data.getD e 0)) (s.mx cl))
  | some id =>
    let bad := a.oty < 3 || 5 < a.oty
    let y : BitVec 3 := if bad then 5 else BitVec.ofNat 3 a.oty
    let n := if y = 5 then 4 else 8
    let (xs, s) := s.tileGroup cl a n
    let f := (s.mx cl).fmt a.fc
    let one (e : Nat) : Nat × BitVec 5 :=
      if bad then (f32.nan, flagNV)
      else (fmtOf y).ofFp ⟨a.mode, drawAt a.key f.sctr e⟩ (f32.decode (xs.getD e 0))
    let out := (List.range n).map one
    let spent := if a.mode = 4 then BitVec.ofNat 64 ((n + 3) / 4) else 0
    let s := s.setMx cl ((s.mx cl).setFmt a.fc { f with sctr := f.sctr + spent })
    match s.access id with
    | some acc => s.finish acc (packElems (elemW y) (out.map (·.1))) (out.foldl (fun (fl : BitVec 5) x => fl ||| x.2) 0) true
    | none => s

/-- The accesses whose tile is free or their task's, in order, at a request boundary. -/
def State.serveAccs (s : State) (cl : Nat) : State :=
  (s.mx cl).accs.foldl (fun s a =>
    if s.tileTaken cl a.tile a.token then s
    else State.accServe (s.setMx cl { s.mx cl with accs := (s.mx cl).accs.erase a }) cl a) s

/-! ### Queueing (R272, R286, R295) -/

/-- A command enters its queue, and takes its tile when that is free and nothing waits for it: behind the accesses of the
tile that are to be made (R272, R286, R295). -/
def State.mxEnqueue (s : State) (cl : Nat) (c : MxCmd) : State :=
  let takes := c.kind.tiled && (s.tileOwner cl c.tile).isNone && !((s.mx cl).cmds.any (·.names c.tile))
  let s := if takes then s.serveAccs cl else s
  let u := s.mx cl
  let u := { u with
    cmds := u.cmds ++ [c]
    owners := if takes then put u.owners c.tile c.token else u.owners
    recs := if c.ret.isSome || c.kind == .mkey then u.recs
      else u.recs ++ [{ id := c.id, token := c.token, tile := if c.kind.tiled then some c.tile else none, out := c.kind == .mtout }] }
  s.setMx cl u

/-! ### Requests (R269, R277, R288, R300) -/

/-- The head of a format context's queue, when it is ready to run. -/
def State.mxReady (s : State) (cl fc : Nat) : Option MxCmd := do
  let c ← ((s.mx cl).queue fc).head?
  let ready := c.code.isNone && !c.parked && (match c.kind with
    | .mma | .mmas | .mtout => s.tileOwner cl c.tile == some c.token
    | .mxs => s.tileOwner cl c.tile == some c.token && (!c.started || c.built)
    | .mnorm => match s.normOwner cl with
      | some (g, _) => g == fc
      | none => true
    | .mfmt | .msrec | .mkey => true)
  if ready then some c else none

/-- The norm buffer released, if the context owns it. -/
def MxUnit.dropNorm (u : MxUnit) (fc : Nat) : MxUnit :=
  { u with norm := match u.norm with | some (g, t) => if g = fc then none else some (g, t) | none => none }

/-- MFMT, MSREC and a key write as they reach the head (R288, R298, R300). -/
def MxUnit.config (u : MxUnit) (c : MxCmd) : MxUnit :=
  let f := u.fmt c.fc
  match c.kind with
  | .mfmt =>
    let w := c.x.toNat
    (u.setFmt c.fc { f with
      word := BitVec.ofNat 14 w, sca := BitVec.ofNat 8 (bits w 16 8), scb := BitVec.ofNat 8 (bits w 24 8), sctr := c.y
      srva := if c.ret.isSome then BitVec.ofNat 64 (c.z.toNat / 64 * 64) else f.srva }).dropNorm c.fc
  | .msrec => u.setFmt c.fc { f with srva := c.x }
  | .mkey =>
    { (u.setFmt c.fc { lkey := c.x }).dropNorm c.fc with
      samples := u.samples.filter fun e => e.2.1 != c.fc
      earlier := u.earlier.map fun e => if e.2.2.1 = c.fc then (e.1, (e.2.1, (0, 0, 0))) else e }
  | _ => u

/-- The next ready command in round-robin order. -/
def State.mxNext (s : State) (cl : Nat) : Option MxCmd :=
  (List.range 32).findSome? fun i => s.mxReady cl (((s.mx cl).last + 1 + i) % 32)

/-- MATRIX_REQUEST of cluster `a`: the accumulator accesses that can be made, then one request of the next ready
command, of at most `b` k-steps (none given: 32).  Sampling commands become ready for the alias unit, and stand in its order,
as their first requests are arbitrated (R277; DESIGN CHOICE, log 40). -/
def execMatrixRequest (s : State) : Host.Outcome State Fault Refusal :=
  event s (
    let cl := s.now.arg.a
    let most := if s.now.arg.b = 0 then 32 else min s.now.arg.b 32
    if s.stopped || s.governor.holds.contains (0x20000 + cl) then none
    else
      let s := s.serveAccs cl
      match s.mxNext cl with
      | none => some s
      | some c =>
        let u := { s.mx cl with last := c.fc }
        match c.kind with
        | .mfmt | .msrec | .mkey => some (s.setMx cl ((u.config c).setCmd { c with code := some 0 }))
        | _ =>
          let (s1, c1) := (s.setMx cl u).mxRequest cl c most
          let u1 := (s1.mx cl).setCmd c1
          some (s1.setMx cl (
            if c.kind == .mnorm && c1.started then { u1 with norm := some (c.fc, c.task) }
            else if c.kind == .mxs && c1.started && !c.started then { u1 with aliasQueue := u1.aliasQueue ++ [c.id] }
            else u1)))

/-- ALIAS_TABLE_BUILD of cluster `a` for the MXS at the head of format context `b`, which has waited longest for the
alias unit (R277, R278). -/
def execAliasTableBuild (s : State) : Host.Outcome State Fault Refusal :=
  event s do
    let cl := s.now.arg.a
    let c ← ((s.mx cl).queue s.now.arg.b).head?
    if s.stopped || c.kind != .mxs || !c.started || c.built || c.code.isSome || (s.mx cl).aliasCmd.isSome
        || (s.mx cl).aliasQueue.head? != some c.id then none
    else
      let owns := match s.normOwner cl with | some (g, _) => g == c.fc | none => false
      let r := { s.mx cl with aliasQueue := (s.mx cl).aliasQueue.tail }.build c owns
      pure (s.setMx cl (r.1.setCmd r.2))

/-- TILE_OWNERSHIP_TAKE: a free tile `b` of cluster `a` goes to the command that waits longest for it, behind the
accesses that wait for the tile (R272, R295). -/
def execTileOwnershipTake (s : State) : Host.Outcome State Fault Refusal :=
  event s do
    let cl := s.now.arg.a
    let t := s.now.arg.b
    let u := s.mx cl
    let c ← u.cmds.find? (·.names t)
    if (s.tileOwner cl t).isSome then none
    else
      let s := s.serveAccs cl
      pure (s.setMx cl { s.mx cl with owners := put (s.mx cl).owners t c.token })

/-- MATRIX_RESTART of cluster `a`: the head of format context `b`, which REPLAYALL has released, continues at
k = ROWPROG (R271). -/
def execMatrixRestart (s : State) : Host.Outcome State Fault Refusal :=
  event s do
    let cl := s.now.arg.a
    let c ← ((s.mx cl).queue s.now.arg.b).head?
    if s.stopped || !c.parked || (s.slices.any fun q => q.2.replay.contains (.command cl c.id)) then none
    else pure (s.setMx cl ((s.mx cl).setCmd { c with parked := false }))

/-! ### Completion (R274, R293, R299) -/

/-- The status word.  ROWPROG has 13 bits: of an MXS that has drawn more than 8,191 samples it is their number modulo 2^13
(R274; DESIGN CHOICE, log 40). -/
def MxCmd.status (c : MxCmd) (code : Nat) : Nat := if code = 0 then 0 else code + c.k % 2 ^ 13 * 2 ^ 32

/-- The first non-zero status of the commands an MWAIT covers, and their flags (R292, R293). -/
def coverStatus (l : List MxRec) : Nat := (l.findSome? fun r => match r.status with
  | some st => if st % 256 = 0 then none else some st
  | none => none).getD 0

def coverFlags (l : List MxRec) : BitVec 5 := l.foldl (fun (f : BitVec 5) r => f ||| r.flags) 0

/-- The task has no other command, and no other MWAIT, on a tile. -/
def MxUnit.doneWith (u : MxUnit) (token t : Nat) : Bool :=
  !(u.cmds.any fun c => c.token == token && c.names t) && !(u.recs.any fun r => r.token == token && r.tile == some t)
  && !(u.waits.any fun w => w.token == token && w.tile == t)

/-- The task's ownership of a tile released (R272, R293). -/
def MxUnit.release (u : MxUnit) (token t : Nat) : MxUnit :=
  if u.doneWith token t then { u with owners := u.owners.filter fun e => !(e.1 == t && e.2 == token) } else u

/-- The MWAITs whose commands have all completed return (R293). -/
def State.settleWaits (s : State) (cl : Nat) : State :=
  (s.mx cl).waits.foldl (fun s w =>
    if w.covers.all (·.status.isSome) then
      let u := { s.mx cl with
        waits := (s.mx cl).waits.filter (·.id != w.id)
        earlier := (s.mx cl).earlier.filter fun e => !(e.1 == w.tile && e.2.1 == w.token) }
      let s := s.setMx cl (u.release w.token w.tile)
      match s.access w.id with
      | some a => s.finish a (coverStatus w.covers) (coverFlags w.covers) true
      | none => s
    else s) s

/-- A covered command's status. -/
def MxRec.settle (r : MxRec) (c : MxCmd) (code : Nat) : MxRec :=
  if r.id = c.id then { r with status := some (c.status code), flags := c.flags } else r

/-- The record that the task of an MXS goes on reading until its MWAIT: the one before its first MXS that no MWAIT has
covered (R297). -/
def MxUnit.keepEarlier (u : MxUnit) (c : MxCmd) : List (Nat × (Nat × (Nat × Nat × Nat))) :=
  match look? u.earlier c.tile with
  | some (t, _) => if t = c.token then u.earlier else put u.earlier c.tile (c.token, look (0, 0, 0) u.samples c.tile)
  | none => put u.earlier c.tile (c.token, look (0, 0, 0) u.samples c.tile)

/-- The record of a tile as a task reads it (R291, R297). -/
def MxUnit.sampleOf (u : MxUnit) (token t : Nat) : Nat × Nat :=
  match look? u.earlier t with
  | some (k, old) => if k = token then old.2 else (look (0, 0, 0) u.samples t).2
  | none => (look (0, 0, 0) u.samples t).2

/-- The command leaves the unit.  An MXS that ended in an error before it had SCOUNT and VAR leaves the tile's sampling record
as it is (R291; DESIGN CHOICE, log 40). -/
def State.mxLeave (s : State) (cl : Nat) (c : MxCmd) (code : Nat) : State :=
  let live := s.taskAt cl c.token
  let u := s.mx cl
  let cmds := u.cmds.filter (·.id != c.id)
  let u := { u with
    cmds := cmds
    aliasCmd := if u.aliasCmd = some c.id then none else u.aliasCmd
    aliasQueue := u.aliasQueue.filter (· != c.id)
    earlier := if c.result.isSome then u.keepEarlier c else u.earlier
    samples := match c.result with | some r => put u.samples c.tile (c.fc, r) | none => u.samples
    recs := (u.recs.map fun (r : MxRec) => r.settle c code).filter fun (r : MxRec) => live || r.token != c.token
    waits := u.waits.map fun (w : MxWait) => { w with covers := w.covers.map fun (r : MxRec) => r.settle c code }
    owners := u.owners.filter fun (e : Nat × Nat) => live || e.2 != c.token || cmds.any fun d => d.token == c.token && d.names e.1 }
  s.setMx cl u

/-- SCOUNT and VAR of a message's MXS; free where it ended in an error before it had them (log 6). -/
def State.mxPair (s : State) (c : MxCmd) : Nat × State :=
  match c.kind, c.result with
  | .mxs, some (n, var) => (n + var * 2 ^ 32, s)
  | .mxs, none => let (f, s) := s.fresh; (f % 2 ^ 64, s)
  | _, _ => (0, s)

/-- The completion of a message command goes back; none while its flow has no room (R299; log 30). -/
def State.mxReply (s : State) (c : MxCmd) (r : MxReturn) (code : Nat) : Option State :=
  let (a2, s) := s.mxPair c
  if r.dev = s.devidx.toNat then
    match s.mremAt c.lcell r.dev r.seq with
    | some m => some (s.mremFinish m (c.status code) a2)
    | none => some s
  else if !s.reaches r.dev then some s
  else if s.dark r.dev || !s.flowRoom mxFlow r.dev then none
  else
    let (h, s) := s.header
    let tile := if c.kind == .mfmt then 0 else c.tile
    some (s.sendOn { h with
      ddev := r.dev, dcell := c.lcell, scell := mxFlow, cls := r.cls, launch := c.launch.getD 0, path := r.path.toNat
      paddr := r.seq, paylen := 0, payload := [], args := [c.status code, r.harg.toNat, a2, r.kind + 256 * tile] } none [] false)

/-- MATRIX_COMPLETION of cluster `a`: the head of format context `b` is over, and every write of it performed. -/
def execMatrixCompletion (s : State) : Host.Outcome State Fault Refusal :=
  event s do
    let cl := s.now.arg.a
    let c ← ((s.mx cl).queue s.now.arg.b).head?
    let code0 ← c.code
    if s.stopped || s.unitOpen c.id then none
    else
      let code := if code0 = 0 then (s.unitFailed c.id).getD 0 else code0
      let s := (s.unitClear c.id).mxLeave cl c code
      match c.ret with
      | none =>
        let s := if code = 0 then s else s.recordError c.launch (causeOf code) c.lcell
        pure (s.settleWaits cl)
      | some r =>
        let s ← s.mxReply c r code
        pure (s.settleWaits cl)

/-! ### Commands (R286-R292) -/

/-- The unit and format context of the executing cell (R285). -/
def State.mxCluster (s : State) : Nat := l1Key s.now.cell
def State.mxContext (s : State) : Nat := s.now.cell % 16

/-- A command of the executing task with its number. -/
def State.mxCommand (s : State) (kind : MxKind) : MxCmd :=
  { id := s.nextId, fc := s.mxContext, kind := kind, token := s.cur.token, task := s.cur.token, cell := s.now.cell, lcell := s.cur.lcell.toNat
    launch := s.cur.launch.map BitVec.toNat, key := s.cur.randKey, frm := s.cur.frm.toNat }

/-- The command is queued; its context waits while four are. -/
def State.mxIssue (s : State) (c : MxCmd) : State := State.mxEnqueue { s with nextId := s.nextId + 1 } s.mxCluster c

def State.mxFull (s : State) : Bool := 4 ≤ (s.mx s.mxCluster).queued s.mxContext

/-- SWIZZLE for an operand named by slot (R177, R267). -/
def State.slotCheck (s : State) (va swz : Nat) : Except Stop Unit :=
  let e := s.tagEntry (tagKey s.now.cell s.cur) (bits va 0 8)
  if bit va 63 && e.swz.toNat != swz then
    .error (.trap causeSwizzle (BitVec.ofNat 64 (bits va 0 8 + 2 ^ 8 * e.swz.toNat + 2 ^ 12 * swz)))
  else .ok ()

/-- The first logical row of a slot. -/
def State.slotRow (s : State) (va : Nat) : Nat := (s.tagEntry (tagKey s.now.cell s.cur) (bits va 0 8)).row.toNat

/-- A form that takes a descriptor, read in one step or byte by byte (R207).  One whose descriptor has a bad check value is queued
all the same and completes with CHECK: of its fields, as they are stored, only TILE is taken, which says whose MWAIT returns it
(R286, R203; DESIGN CHOICE, log 40).  A slot's ROW is read at issue too, where R267 has its SWZ compared, and an MTOUT's AVA, which
R292 has be a VA, is compared with none (DESIGN CHOICE, log 40). -/
def mxBody (a : Reg) (kind : MxKind) (size : Nat) (x : State → Word) : Body := fun s => do
  let ops := s.kept ((s.s a).toNat + 2 ^ 64 * (x s).toNat)
  let base := bits ops 0 64
  if s.mxFull then .error s.notReady
  else
    s.block base size 32
    let bad := (s.badLocal base size).isSome
    let (s, rd) ← s.gather ops 1 0 base size
    let c := { s.mxCommand kind with
      desc := rd.localRead base size, x := BitVec.ofNat 64 (ops / 2 ^ 64), code := if bad then some 1 else none }
    if kind != .mtout && !bad then
      s.slotCheck c.ava c.swz
      s.slotCheck c.bva c.swz
    pure { s := s.mxIssue { c with rowA := s.slotRow c.ava, rowB := s.slotRow c.bva } }

def execMma (a : Reg) (s : State) := issue (.mma a) s (mxBody a .mma 32 fun _ => 0)
def execMmas (a : Reg) (s : State) := issue (.mmas a) s (mxBody a .mmas 32 fun _ => 0)
def execMnorm (a : Reg) (s : State) := issue (.mnorm a) s (mxBody a .mnorm 32 fun _ => 0)
def execMxs (a b : Reg) (s : State) := issue (.mxs a b) s (mxBody a .mxs 64 fun s => s.s b)
def execMtout (a : Reg) (s : State) := issue (.mtout a) s (mxBody a .mtout 32 fun _ => 0)

/-- MFMT and MSREC: queued as they are (R288). -/
def mfmtBody (a b : Reg) : Body := fun s =>
  if s.mxFull then .error .hold else .ok { s := s.mxIssue { s.mxCommand .mfmt with x := s.s a, y := s.s b } }

def execMfmt (a b : Reg) (s : State) := issue (.mfmt a b) s (mfmtBody a b)

def msrecBody (a : Reg) : Body := fun s =>
  if s.mxFull then .error .hold
  else if (s.s a).toNat % 64 ≠ 0 then .error (.trap causeMisalign (s.s a))
  else .ok { s := s.mxIssue { s.mxCommand .msrec with x := s.s a } }

def execMsrec (a : Reg) (s : State) := issue (.msrec a) s (msrecBody a)

/-! ### MWAIT, MAR, MAW (R293-R296) -/

/-- The access of an MWAIT names its tile where others have a VA. -/
def mwaitVa (t : Nat) : Nat := 2 ^ 64 + t

/-- The task has issued a command on the tile that none of its MWAITs has returned for yet (R261, R273, R295). -/
def State.unwaited (s : State) (t : Nat) : Bool :=
  let u := s.mx s.mxCluster
  (u.cmds.any fun c => c.token == s.cur.token && c.names t) || (u.recs.any fun r => r.token == s.cur.token && r.tile == some t)
    || s.inflight.any fun a => s.owns s.now.cell s.now.ctx a && a.va == mwaitVa t

/-- MWAIT takes the records of what it covers, and returns when they are complete: at once when they are, and it then
releases the task's tile (R293). -/
def mwaitBody (d a : Reg) : Body := fun s =>
  let t := (s.s a).toNat % 8
  let cl := s.mxCluster
  let mine (r : MxRec) : Bool := r.token == s.cur.token && (r.tile == some t || r.tile == none)
  let u := s.mx cl
  let covers := u.recs.filter mine
  let id := s.nextId
  let acc := Access.of (mwaitVa t) noHome .reply (.s d)
  let u1 := { u with recs := u.recs.filter fun r => !mine r }
  let s1 := if covers.all (·.status.isSome) then
      (s.enter { acc with phase := .done (coverStatus covers) (coverFlags covers) }).setMx cl
        ({ u1 with earlier := u.earlier.filter fun e => !(e.1 == t && e.2.1 == s.cur.token) }.release s.cur.token t)
    else (s.enter acc).setMx cl { u1 with waits := u.waits ++ [{ id := id, token := s.cur.token, tile := t, covers := covers }] }
  .ok { s := if covers.any (·.out) then s1.modCur fun x => { x with mixreads := x.mixreads ++ [id] } else s1 }

def execMwait (d a : Reg) (s : State) := issue (.mwait d a) s (mwaitBody d a)

/-- The group of elements that s[A] names. -/
def State.mxGroup (s : State) (a : Reg) (id : Option Nat) : MxAcc :=
  let w := (s.s a).toNat
  let t := bits w 0 3
  { id := id, fc := s.mxContext, token := s.cur.token, tile := t, row := bits w 8 7, col := bits w 16 7
    key := s.cur.randKey, loose := s.unwaited t }

def State.addAcc (s : State) (cl : Nat) (g : MxAcc) : State := s.setMx cl { s.mx cl with accs := (s.mx cl).accs ++ [g] }

/-- MAR: OTY and ORND are read as it issues. -/
def marBody (d a : Reg) : Body := fun s =>
  let x := (s.mx s.mxCluster).fmt s.mxContext
  let n : Nat := if x.oty = 3 ∨ x.oty = 4 then 8 else 4
  let mode := if x.ornd = 5 ∨ x.ornd = 6 then 0 else x.mode s.cur.frm.toNat
  let g : MxAcc := { s.mxGroup a (some s.nextId) with oty := x.oty, mode := mode }
  if g.col % n ≠ 0 then .error (.trap causeMisalign (s.s a))
  else .ok { s := (s.enter { Access.of 0 noHome .reply (.v d) with grain := 16 / n }).addAcc s.mxCluster g }

def execMar (d a : Reg) (s : State) := issue (.mar d a) s (marBody d a)

def mawBody (d a : Reg) : Body := fun s =>
  let g : MxAcc := { s.mxGroup a none with data := (List.range 4).map fun e => elem 5 (s.v d) e }
  if g.col % 4 ≠ 0 then .error (.trap causeMisalign (s.s a)) else .ok { s := s.addAcc s.mxCluster g }

def execMaw (d a : Reg) (s : State) := issue (.maw d a) s (mawBody d a)

/-! ### Status (R297) -/

/-- MSTAT's word; ROWPROG of a running MXS is the number of its samples modulo 2^13 (R297; DESIGN CHOICE, log 40). -/
def State.mstat (s : State) : Nat :=
  let cl := s.mxCluster
  let u := s.mx cl
  let q := u.queue s.mxContext
  let tiles (f : Nat → Bool) : Nat := (List.range 8).foldl (fun n t => n + (f t).toNat * 2 ^ t) 0
  let owns := match s.normOwner cl with | some (g, _) => g == s.mxContext | none => false
  let prog := match q.head? with | some c => if c.started then c.k % 2 ^ 13 else 0 | none => 0
  u.queued s.mxContext + 2 ^ 8 * tiles (fun t => s.tileOwner cl t == some s.cur.token)
    + 2 ^ 16 * tiles (fun t => (s.tileOwner cl t).isSome) + 2 ^ 24 * owns.toNat + 2 ^ 32 * prog

def execMstat (d : Reg) (s : State) := issue (.mstat d) s (writes d fun s => BitVec.ofNat 64 s.mstat)

/-- MXSRD waits while another requester owns the tile. -/
def mxsrdBody (d a : Reg) : Body := fun s =>
  let t := (s.s a).toNat % 8
  if s.tileTaken s.mxCluster t s.cur.token then .error .hold
  else
    let e := (s.mx s.mxCluster).sampleOf s.cur.token t
    .ok { s := s.setS d (BitVec.ofNat 64 (e.1 % 2 ^ 32 + 2 ^ 32 * (e.2 % 2 ^ 32))) }

def execMxsrd (d a : Reg) (s : State) := issue (.mxsrd d a) s (mxsrdBody d a)

/-! ### Remote commands (R270, R298-R300) -/

/-- MREM: once its cell's outbound queue has room (R113, R349), the block goes to the target module as a message of the task's flow,
with the FRM of the context as its a2 (R264, log 30).  A block with a bad check value does not leave: the command ends with CHECK, as nothing but the three conditions traps
(R202, R298, log 30). -/
def mremBody (t : BitVec 4) (a : Reg) : Body := fun s => do
  let b := s.kept (s.s a).toNat
  if s.outFull then .error s.notReady
  s.block b 128 64
  let (s, rd) ← s.gather b 16 0 b 128
  let cls := rd.localRead (b + 80) 1
  if cls < 16 then .error (.trap causePerm (BitVec.ofNat 64 cls))
  else
    let dest := rd.localRead (b + 64) 8
    let dev := bits dest 0 9
    let lcell := s.cur.lcell.toNat
    let launch := s.cur.launch.map BitVec.toNat
    let m : Mrem :=
      { frm := s.cur.frm.toNat, task := s.cur.token, lcell := lcell, launch := launch, dev := dev, seq := ((s.findFlow lcell dev).map (·.next)).getD 0, path := s.cur.path
        cls := cls, harg := BitVec.ofNat 64 (rd.localRead (b + 88) 8), kind := t.toNat
        tile := if t = 4 then 0 else bits (rd.localRead b 32) 179 3, core := if launch = none then some s.now.cell else none }
    if (s.badLocal b 128).isSome then pure { s := (s.mremFinish m 1 0).countSent }
    else if 320 ≤ dev || !s.reaches dev then pure { s := (s.mremFinish m 5 0).countSent }
    else if s.dark dev || !s.flowRoom lcell dev then .error s.notReady
    else
      let (h, s1) := s.header
      let p := { h with
        ddev := dev, dcell := bits dest 16 11, scell := lcell, cls := 11, launch := launch.getD 0, spcell := s.now.cell
        args := [s.cur.jseed.toNat, lcell + t.toNat * 2 ^ 16, s.cur.frm.toNat, 0], path := s.cur.path.toNat, paylen := 128
        payload := (rd.localBytes b 128).map BitVec.toNat }
      pure { s := (State.sendOn { s1 with mrems := s1.mrems ++ [m] } p none [] false).countSent }

def execMrem (a : Reg) (t : BitVec 4) (s : State) := issue (.mrem a t) s (mremBody t a)

/-- The capability checks, in order (R270).  An EXP exactly 2^23 away from the round counts as behind it: expired (DESIGN CHOICE,
log 30). -/
def State.capOk (s : State) (cluster kind cap : Nat) (lkey : Word) : Bool :=
  let mma := bit cap 15
  let samp := bit cap 16
  let right := match kind with | 0 => mma | 1 => mma | 2 => samp | 3 => samp | 4 => mma || samp | _ => bit cap 17
  let d := sext (bits cap 18 24 + 2 ^ 24 - s.rounds.send % 2 ^ 24) 24
  bits cap 0 11 == cluster && right && decide (0 ≤ d)
    && bits cap 42 22 == bits (mix lkey (BitVec.ofNat 64 (cap % 2 ^ 42))).toNat 42 22

def mxKindOf (t : Nat) : MxKind :=
  match t with | 0 => .mma | 1 => .mmas | 2 => .mnorm | 3 => .mxs | 4 => .mfmt | _ => .mtout

/-- A remote block as a queued command; its zero fields are checked here (R298). -/
def State.mxRemote (s : State) (p : Packet) : MxCmd × State :=
  let blk := ofBytes (p.payload.map (BitVec.ofNat 8))
  let t := bits (p.args.getD 1 0) 16 4
  let lcell := bits (p.args.getD 1 0) 0 16
  let kind := mxKindOf t
  let cap := bits blk 192 64
  let dest := bits blk 512 64
  let scnt := bits blk 576 64
  let bad := dest / 2 ^ 27 != 0 || bits dest 9 7 != 0 || (t == 3 && scnt / 2 ^ 21 != 0) || bits blk 648 56 != 0 || bits blk 768 256 != 0
  let own := if p.sdev = s.devidx.toNat then s.mremAt lcell p.sdev p.seq else none
  ({ id := s.nextId, task := (own.map Mrem.task).getD 0, fc := 16 + bits cap 11 4, kind := kind, token := s.nextId, cell := p.spcell, lcell := lcell
     launch := if kindOf p.spcell = some .system then none else some p.launch
     ret := some { dev := p.sdev, seq := p.seq, path := BitVec.ofNat 64 p.path, cls := bits blk 640 8
                   harg := BitVec.ofNat 64 (bits blk 704 64), kind := t, core := none }
     desc := bits blk 0 512
     x := if t = 3 then BitVec.ofNat 64 scnt else BitVec.ofNat 64 (bits blk 0 64)
     y := BitVec.ofNat 64 (bits blk 64 64), z := BitVec.ofNat 64 (bits blk 128 64)
     key := BitVec.ofNat 64 (p.args.getD 0 0) ^^^ BitVec.ofNat 64 (lcell * 0x5851F42D4C957F2D)
     frm := (own.map Mrem.frm).getD (bits (p.args.getD 2 0) 0 3), code := if bad then some 4 else none }, { s with nextId := s.nextId + 1 })

/-- MXCMD: the message of the flow of (a, b) is checked at its unit and queued on its leased context, or refused
with CAPDENY (R270, R298).  While four are queued there the message waits at the head of its flow (DESIGN CHOICE, log 30). -/
def execMxcmd (s : State) : Host.Outcome State Fault Refusal :=
  event s do
    let p ← if s.stopped then none else s.flowHead 11
    let (c, s1) := s.mxRemote p
    let cap := bits c.desc 192 64
    let cl := s.siteOf (p.dcell % 64) (p.dcell / 64)
    let u := s.mx (cl.getD 0)
    if cl.isNone || !s.capOk p.dcell (bits (p.args.getD 1 0) 16 4) cap (u.fmt c.fc).lkey then pure ((s.nack p 6).builtinDone p)
    else if 4 ≤ u.queued c.fc then none
    else pure ((s1.mxEnqueue (cl.getD 0) c).builtinDone p)

/-- The unit and leased context that MKEY and MCAP name (R300). -/
def State.leased (s : State) (w : Word) : Option (Nat × Nat) :=
  (s.siteOf (bits w.toNat 0 6) (bits w.toNat 6 5)).map fun cl => (cl, 16 + bits w.toNat 11 4)

/-- MKEY takes effect behind the commands queued on its context. -/
def mkeyBody (a b : Reg) : Body := fun s =>
  match s.leased (s.s a) with
  | none => .ok { s := s }
  | some (cl, fc) =>
    let c := { s.mxCommand .mkey with fc := fc, token := s.nextId, x := s.s b }
    if ((s.mx cl).queue fc).isEmpty then .ok { s := s.setMx cl ((s.mx cl).config c) }
    else .ok { s := State.mxEnqueue { s with nextId := s.nextId + 1 } cl c }

def execMkey (a b : Reg) (s : State) := issue (.mkey a b) s (mkeyBody a b)

def mcapBody (d a : Reg) : Body := fun s =>
  let x := (s.s a).toNat % 2 ^ 42
  let k := match s.leased (s.s a) with | some (cl, fc) => ((s.mx cl).fmt fc).lkey | none => 0
  .ok { s := s.later d (BitVec.ofNat 64 (x + bits (mix k (BitVec.ofNat 64 x)).toNat 42 22 * 2 ^ 42)) }

def execMcap (d a : Reg) (s : State) := issue (.mcap d a) s (mcapBody d a)

end Sys2Proof.Machine
end

