-- ==== Sys2Proof/Machine/Vcvt.lean ====
section
/-! DEFINITION. Conversions: VCVT (R137-R139, R167-R169). -/
namespace Sys2Proof.Machine

/-- A group of registers read as one value, the first at the low end (R168). -/
def State.regGroup (s : State) (a : Reg) : Nat → Nat
  | 0 => 0
  | g + 1 => (s.v a).toNat + 2 ^ 128 * s.regGroup (a + 1) g

/-- A group of registers written from one value. -/
def State.setRegGroup (s : State) (d : Reg) : Nat → Nat → State
  | 0, _ => s
  | g + 1, x => State.setRegGroup (s.setV d (BitVec.ofNat 128 x)) (d + 1) g (x / 2 ^ 128)

/-- Conversions whose destination holds every source value round nothing (R135). -/
def cvtExact (x w : BitVec 3) : Bool :=
  ((x == 3 || x == 4) && w == 5) || (6 ≤ x.toNat && (w == 3 || w == 5))
  || (x == 0 && 3 ≤ w.toNat && w.toNat ≤ 5) || (x == 1 && w == 5)
  || (x.toNat < 3 && w.toNat < 3)

/-- The effective mode: MD, or FRM for MD = 7 (R167). -/
def State.cvtMode (s : State) (m : BitVec 3) : Nat := if m = 7 then s.cur.frm.toNat else m.toNat

/-- VCVT (R169). -/
def vcvtBody (d a b : Reg) (w x m : BitVec 3) : Body := fun s =>
  let n := cvtCount x w
  let mode := s.cvtMode m
  let sw := elemBits x
  let dw := elemBits w
  let src := s.regGroup a (cvtGroup n x)
  let el (i : Nat) : Nat := bits src (i * sw) sw
  let uns := bit b.val 0
  let und := bit b.val 1
  let r (i : Nat) : Rnd := s.rndMode mode i
  let datum (i : Nat) : Fp :=
    if 6 ≤ x.toNat then blockElem (x == 7) (el i) ((s.s b).toNat % 256) ((s.s b).toNat / 256 % 256)
    else (fmtOf x).decode (el i)
  let spent (s' : State) : State := if cvtExact x w then s' else s'.spend mode n
  if 6 ≤ w.toNat then
    let (els, e0, e1, fl) := toBlock (w == 7) mode (fun i => (r i).draw) ((List.range n).map datum)
    let s' := (s.setRegGroup d (cvtGroup n w) (packElems dw els)).setS b (BitVec.ofNat 64 (e0 + 256 * e1))
    .ok { s := spent (s'.raise fl) }
  else
    let one (i : Nat) : Nat × BitVec 5 :=
      if x.toNat < 3 then
        let v := intOf (el i) sw uns
        if w.toNat < 3 then (toBits (sat v dw und) dw, 0) else (fmtOf w).ofInt (r i) v
      else if w.toNat < 3 then fpToInt (r i) (datum i) dw und
      else (fmtOf w).ofFp (r i) (datum i)
    let out := (List.range n).map one
    let s' := s.setRegGroup d (cvtGroup n w) (packElems dw (out.map (·.1)))
    .ok { s := spent (s'.raise (out.foldl (fun f y => f ||| y.2) 0)) }

def execVcvt (d a b : Reg) (w x m : BitVec 3) (s : State) := issue (.vcvt d a b w x m) s (vcvtBody d a b w x m)

end Sys2Proof.Machine
end

