-- ==== Sys2Proof/Machine/Vector.lean ====
section
/-! DEFINITION. Vector arithmetic, logic, compares, moves and reductions: VEC0-VEC7, VXL (R157-R165). -/
namespace Sys2Proof.Machine

/-! ### Element operations -/

/-- An operation with an integer and a floating-point reading (R157). -/
def arith (y : BitVec 3) (p : Fin 8) (d a b : Reg) (fi : Int → Int → Int)
    (ff : Fmt → Rnd → Nat → Nat → Nat × BitVec 5) : Body :=
  laneOp y p d true fun s i =>
    if isFloatTy y then ff (fmtOf y) (s.rnd i) (s.el y a i) (s.el y b i)
    else intLane y (fi (s.el y a i) (s.el y b i))

/-- VMIN and VMAX, signed or by R140; they round nothing. -/
def minMax (y : BitVec 3) (p : Fin 8) (d a b : Reg) (max : Bool) : Body :=
  laneOp y p d false fun s i =>
    if isFloatTy y then (fmtOf y).minmax max (s.el y a i) (s.el y b i)
    else intLane y (if decide (s.elS y a i ≤ s.elS y b i) != max then s.elS y a i else s.elS y b i)

/-- VMINU and VMAXU. -/
def minMaxU (y : BitVec 3) (p : Fin 8) (d a b : Reg) (max : Bool) : Body :=
  laneOp y p d false fun s i =>
    intLane y (if decide (s.el y a i ≤ s.el y b i) != max then s.el y a i else s.el y b i)

/-- ±(a × b) ± d (R149, R158). -/
def fused (y : BitVec 3) (p : Fin 8) (d a b : Reg) (negProd negAdd : Bool) : Body :=
  laneOp y p d true fun s i =>
    if isFloatTy y then (fmtOf y).fma (s.rnd i) negProd negAdd (s.el y a i) (s.el y b i) (s.el y d i)
    else
      let m : Int := s.el y a i * s.el y b i
      let c : Int := s.el y d i
      intLane y ((if negProd then -m else m) + (if negAdd then -c else c))

/-- VDOT and VDOTU: four 32-bit sums of m products each (R158). -/
def dot (y : BitVec 3) (p : Fin 8) (d a b : Reg) (unsigned : Bool) : Body := fun s =>
  let m := 4 / elemBytes y
  let s' := s.mapLanes 2 p d fun j =>
    let ks := (List.range m).map (m * j + ·)
    if isFloatTy y then
      let t := fmtOf y
      let acc := f32.decode (s.el 2 d j)
      let xs := ks.map fun k => (t.decode (s.el y a k), t.decode (s.el y b k))
      f32.sum (s.rnd j) (acc.isSnan || xs.any fun x => x.1.isSnan || x.2.isSnan)
        (some acc :: xs.map fun x => x.1.mul x.2)
    else
      let val (r : Reg) (k : Nat) : Int := if unsigned then s.el y r k else s.elS y r k
      intLane 2 (ks.foldl (fun t k => t + val a k * val b k) (s.el 2 d j))
  .ok { s := if isFloatTy y then s'.spend s.cur.frm.toNat 4 else s' }

/-- Saturating forms (R159). -/
def saturating (y : BitVec 3) (p : Fin 8) (d a b : Reg) (unsigned : Bool) (f : Int → Int → Int) : Body :=
  laneOp y p d false fun s i =>
    let val (r : Reg) : Int := if unsigned then s.el y r i else s.elS y r i
    intLane y (sat (f (val a) (val b)) (elemW y) unsigned)

/-- Bitwise forms (R160). -/
def bitwise (y : BitVec 3) (p : Fin 8) (d a b : Reg) (f : Nat → Nat → Nat → Nat) : Body :=
  laneOp y p d false fun s i => (f (elemW y) (s.el y a i) (s.el y b i), 0)

/-- A unary form on the bits of an element (R161, R163). -/
def unary (y : BitVec 3) (p : Fin 8) (d a : Reg) (f : Nat → Nat × BitVec 5) : Body :=
  laneOp y p d false fun s i => f (s.el y a i)

/-- Floating-point VABS and VNEG: the sign cleared or flipped, NaNs made canonical (R161). -/
def signOp (t : Fmt) (flip : Bool) (x : Nat) : Nat × BitVec 5 :=
  match t.decode x with
  | .nan q => (t.nan, flagIf q flagNV)
  | v => (x % 2 ^ (t.eb + t.fb) + t.zero (flip && !v.isNeg), 0)

/-! ### Compares (R162) -/

/-- A compare writes the predicate bits of each active element and raises NV as the table gives. -/
def compare (y : BitVec 3) (p : Fin 8) (d a b : Reg) (fi : Int → Int → Bool) (unsigned : Bool)
    (ff : Ordering → Bool) (onNan : Bool) (quietNV : Bool) : Body := fun s =>
  let q := s.p p
  let old := s.p (predOf d)
  let eb := elemBytes y
  let one (i : Nat) : Nat × BitVec 5 :=
    if active q y i then
      let (r, fl) :=
        if isFloatTy y then
          let x := (fmtOf y).decode (s.el y a i)
          let z := (fmtOf y).decode (s.el y b i)
          if x.isNan || z.isNan then (onNan, flagIf (x.isSnan || z.isSnan || quietNV) flagNV)
          else (ff (x.cmp z), 0)
        else if unsigned then (fi (s.el y a i) (s.el y b i), 0) else (fi (s.elS y a i) (s.elS y b i), 0)
      (if r then 2 ^ eb - 1 else 0, fl)
    else (bits old.toNat (i * eb) eb, 0)
  let out := (List.range (lanes y)).map one
  .ok { s := (s.setP (predOf d) (BitVec.ofNat 16 (packElems eb (out.map (·.1))))).raise
          (out.foldl (fun f x => f ||| x.2) 0) }

/-! ### Cross-lane forms (R163, R164) -/

/-- Element i of v[D] receives element `src i` of v[A] when both are active (R164). -/
def shuffle (y : BitVec 3) (p : Fin 8) (d a : Reg) (src : State → Nat → Option Nat) : Body := fun s =>
  let q := s.p p
  let old := s.v d
  let take (i : Nat) : Option Nat :=
    match src s i with
    | some j => if active q y i && active q y j && j < lanes y then some j else none
    | none => none
  let out := (List.range (lanes y)).map fun i => match take i with
    | some j => s.el y a j
    | none => elem y old i
  .ok { s := s.setVLanes d (BitVec.ofNat 128 (packElems (elemW y) out)) (byteLanes y fun i => (take i).isSome) }

/-! ### Reductions (R141, R165) -/

/-- One level of the pairwise tree: an absent operand passes the other on. -/
def pairUp {α : Type} (f : α → α → α) : List (Option α) → List (Option α)
  | x :: z :: r => (match x, z with
      | some u, some v => some (f u v)
      | some u, none => some u
      | none, v => v) :: pairUp f r
  | r => r

/-- The root of the pairwise tree over at most 2^levels lanes. -/
def tree {α : Type} (f : α → α → α) : Nat → List (Option α) → Option α
  | 0, l => (l.head?).join
  | n + 1, l => tree f n (pairUp f l)

/-- The active elements of v[A]. -/
def State.activeEls (s : State) (y : BitVec 3) (p : Fin 8) (a : Reg) : List (Option Nat) :=
  (List.range (lanes y)).map fun i => if active (s.p p) y i then some (s.el y a i) else none

/-- VRSUM and VRSUMU: s[D] (R165). -/
def reduceSum (y : BitVec 3) (p : Fin 8) (d a : Reg) (unsigned : Bool) : Body := fun s =>
  let els := s.activeEls y p a
  if isFloatTy y then
    let t := fmtOf y
    let snan := els.any fun x => match x with | some v => (t.decode v).isSnan | none => false
    -- every node computes in f32, which holds each source exactly (R141)
    let leaf (x : Option Nat) : Option (Nat × BitVec 5) :=
      x.map fun v => ((f32.ofFp .rne (t.decode v)).1, (0 : BitVec 5))
    let node (u v : Nat × BitVec 5) : Nat × BitVec 5 :=
      let r := f32.add .rne u.1 v.1
      (r.1, u.2 ||| v.2 ||| r.2)
    let (res, fl) := match tree node 4 (els.map leaf) with
      | none => (t.zero false, 0)
      | some (v, f) =>
        let root := t.ofFp (s.rnd 0) (f32.decode v)
        (root.1, f ||| root.2)
    .ok { s := ((s.setS d (BitVec.ofNat 64 res)).raise (fl ||| flagIf snan flagNV)).spend s.cur.frm.toNat 1 }
  else
    let val (v : Nat) : Int := if unsigned then v else sext v (elemW y)
    .ok { s := s.setS d (wrap (els.foldl (fun acc x => acc + (x.map val).getD 0) 0)) }

/-- VRMIN, VRMAX, VRMINU and VRMAXU: s[D] (R165). -/
def reduceMinMax (y : BitVec 3) (p : Fin 8) (d a : Reg) (unsigned max : Bool) : Body := fun s =>
  let els := s.activeEls y p a
  if isFloatTy y then
    let t := fmtOf y
    let snan := els.any fun x => match x with | some v => (t.decode v).isSnan | none => false
    let node (u v : Nat) : Nat := (t.minmax max u v).1
    let res := match tree node 4 els with
      | none => t.infBits max
      | some v => if (t.decode v).isNan then t.nan else v
    .ok { s := (s.setS d (BitVec.ofNat 64 res)).raise (flagIf snan flagNV) }
  else
    let w := elemW y
    let val (v : Nat) : Int := if unsigned then v else sext v w
    let vs := els.filterMap (·.map val)
    let pick (u v : Int) : Int := if decide (u ≤ v) != max then u else v
    .ok { s := s.setS d (wrap (vs.foldl pick (if max then intMin w unsigned else intMax w unsigned))) }

/-! ### VEC0 (R157) -/

def execVadd (d a b : Reg) (p : Fin 8) (y : BitVec 3) (s : State) :=
  issue (.vadd d a b p y) s (arith y p d a b (· + ·) Fmt.add)
def execVsub (d a b : Reg) (p : Fin 8) (y : BitVec 3) (s : State) :=
  issue (.vsub d a b p y) s (arith y p d a b (· - ·) Fmt.sub)
def execVmul (d a b : Reg) (p : Fin 8) (y : BitVec 3) (s : State) :=
  issue (.vmul d a b p y) s (arith y p d a b (· * ·) Fmt.mul)
def execVmin (d a b : Reg) (p : Fin 8) (y : BitVec 3) (s : State) :=
  issue (.vmin d a b p y) s (minMax y p d a b false)
def execVmax (d a b : Reg) (p : Fin 8) (y : BitVec 3) (s : State) :=
  issue (.vmax d a b p y) s (minMax y p d a b true)
def execVminu (d a b : Reg) (p : Fin 8) (y : BitVec 3) (s : State) :=
  issue (.vminu d a b p y) s (minMaxU y p d a b false)
def execVmaxu (d a b : Reg) (p : Fin 8) (y : BitVec 3) (s : State) :=
  issue (.vmaxu d a b p y) s (minMaxU y p d a b true)

/-! ### VEC1 (R158) -/

def execVfma (d a b : Reg) (p : Fin 8) (y : BitVec 3) (s : State) :=
  issue (.vfma d a b p y) s (fused y p d a b false false)
def execVfms (d a b : Reg) (p : Fin 8) (y : BitVec 3) (s : State) :=
  issue (.vfms d a b p y) s (fused y p d a b false true)
def execVfnma (d a b : Reg) (p : Fin 8) (y : BitVec 3) (s : State) :=
  issue (.vfnma d a b p y) s (fused y p d a b true false)
def execVfnms (d a b : Reg) (p : Fin 8) (y : BitVec 3) (s : State) :=
  issue (.vfnms d a b p y) s (fused y p d a b true true)
def execVdot (d a b : Reg) (p : Fin 8) (y : BitVec 3) (s : State) :=
  issue (.vdot d a b p y) s (dot y p d a b false)
def execVdotu (d a b : Reg) (p : Fin 8) (y : BitVec 3) (s : State) :=
  issue (.vdotu d a b p y) s (dot y p d a b true)

/-! ### VEC2 (R159) -/

def execVadds (d a b : Reg) (p : Fin 8) (y : BitVec 3) (s : State) :=
  issue (.vadds d a b p y) s (saturating y p d a b false (· + ·))
def execVaddsu (d a b : Reg) (p : Fin 8) (y : BitVec 3) (s : State) :=
  issue (.vaddsu d a b p y) s (saturating y p d a b true (· + ·))
def execVsubs (d a b : Reg) (p : Fin 8) (y : BitVec 3) (s : State) :=
  issue (.vsubs d a b p y) s (saturating y p d a b false (· - ·))
def execVsubsu (d a b : Reg) (p : Fin 8) (y : BitVec 3) (s : State) :=
  issue (.vsubsu d a b p y) s (saturating y p d a b true (· - ·))
def execVnegs (d a : Reg) (p : Fin 8) (y : BitVec 3) (s : State) :=
  issue (.vnegs d a p y) s (saturating y p d a a false fun x _ => -x)

/-! ### VEC3 (R160) -/

/-- A shift count: the low log2(element bits) bits, read unsigned. -/
def laneCount (w b : Nat) : Nat := b % w

def execVand (d a b : Reg) (p : Fin 8) (y : BitVec 3) (s : State) :=
  issue (.vand d a b p y) s (bitwise y p d a b fun _ x z => x &&& z)
def execVor (d a b : Reg) (p : Fin 8) (y : BitVec 3) (s : State) :=
  issue (.vor d a b p y) s (bitwise y p d a b fun _ x z => x ||| z)
def execVxor (d a b : Reg) (p : Fin 8) (y : BitVec 3) (s : State) :=
  issue (.vxor d a b p y) s (bitwise y p d a b fun _ x z => x ^^^ z)
def execVandn (d a b : Reg) (p : Fin 8) (y : BitVec 3) (s : State) :=
  issue (.vandn d a b p y) s (bitwise y p d a b fun w x z => x &&& (2 ^ w - 1 - z))
def execVsll (d a b : Reg) (p : Fin 8) (y : BitVec 3) (s : State) :=
  issue (.vsll d a b p y) s (bitwise y p d a b fun w x z => x * 2 ^ laneCount w z % 2 ^ w)
def execVsrl (d a b : Reg) (p : Fin 8) (y : BitVec 3) (s : State) :=
  issue (.vsrl d a b p y) s (bitwise y p d a b fun w x z => x / 2 ^ laneCount w z)
def execVsra (d a b : Reg) (p : Fin 8) (y : BitVec 3) (s : State) :=
  issue (.vsra d a b p y) s (bitwise y p d a b fun w x z => toBits (sext x w / 2 ^ laneCount w z) w)

/-! ### VEC4 (R162) -/

def execVcmpeq (d a b : Reg) (p : Fin 8) (y : BitVec 3) (s : State) :=
  issue (.vcmpeq d a b p y) s (compare y p d a b (fun u v => u == v) false (· == .eq) false false)
def execVcmpne (d a b : Reg) (p : Fin 8) (y : BitVec 3) (s : State) :=
  issue (.vcmpne d a b p y) s (compare y p d a b (fun u v => u != v) false (· != .eq) true false)
def execVcmplt (d a b : Reg) (p : Fin 8) (y : BitVec 3) (s : State) :=
  issue (.vcmplt d a b p y) s (compare y p d a b (fun u v => u < v) false (· == .lt) false true)
def execVcmple (d a b : Reg) (p : Fin 8) (y : BitVec 3) (s : State) :=
  issue (.vcmple d a b p y) s (compare y p d a b (fun u v => u ≤ v) false (· != .gt) false true)
def execVcmpltu (d a b : Reg) (p : Fin 8) (y : BitVec 3) (s : State) :=
  issue (.vcmpltu d a b p y) s (compare y p d a b (fun u v => u < v) true (· == .lt) false true)
def execVcmpleu (d a b : Reg) (p : Fin 8) (y : BitVec 3) (s : State) :=
  issue (.vcmpleu d a b p y) s (compare y p d a b (fun u v => u ≤ v) true (· != .gt) false true)

/-! ### VEC5 (R163) -/

def execVmv (d a : Reg) (p : Fin 8) (y : BitVec 3) (s : State) :=
  issue (.vmv d a p y) s (unary y p d a fun x => (x, 0))
def execVbcast (d a : Reg) (p : Fin 8) (y : BitVec 3) (s : State) :=
  issue (.vbcast d a p y) s (laneOp y p d false fun s _ => ((s.s a).toNat % 2 ^ elemW y, 0))

/-- VINS writes element B of v[D] alone. -/
def vinsBody (d a b : Reg) (y : BitVec 3) : Body := fun s =>
  let out := (List.range (lanes y)).map fun i =>
    if i = b.val then (s.s a).toNat % 2 ^ elemW y else s.el y d i
  .ok { s := s.setVLanes d (BitVec.ofNat 128 (packElems (elemW y) out)) (byteLanes y (· == b.val)) }

def execVins (d a b : Reg) (y : BitVec 3) (s : State) := issue (.vins d a b y) s (vinsBody d a b y)
def execVext (d a b : Reg) (y : BitVec 3) (s : State) :=
  issue (.vext d a b y) s (writes d fun s => wrap (s.elS y a b.val))
def execVextu (d a b : Reg) (y : BitVec 3) (s : State) :=
  issue (.vextu d a b y) s (writes d fun s => BitVec.ofNat 64 (s.el y a b.val))

/-! ### VEC6 (R165) -/

def execVrsum (d a : Reg) (p : Fin 8) (y : BitVec 3) (s : State) :=
  issue (.vrsum d a p y) s (reduceSum y p d a false)
def execVrsumu (d a : Reg) (p : Fin 8) (y : BitVec 3) (s : State) :=
  issue (.vrsumu d a p y) s (reduceSum y p d a true)
def execVrmin (d a : Reg) (p : Fin 8) (y : BitVec 3) (s : State) :=
  issue (.vrmin d a p y) s (reduceMinMax y p d a false false)
def execVrmax (d a : Reg) (p : Fin 8) (y : BitVec 3) (s : State) :=
  issue (.vrmax d a p y) s (reduceMinMax y p d a false true)
def execVrminu (d a : Reg) (p : Fin 8) (y : BitVec 3) (s : State) :=
  issue (.vrminu d a p y) s (reduceMinMax y p d a true false)
def execVrmaxu (d a : Reg) (p : Fin 8) (y : BitVec 3) (s : State) :=
  issue (.vrmaxu d a p y) s (reduceMinMax y p d a true true)

/-! ### VEC7 (R161) -/

def execVabs (d a : Reg) (p : Fin 8) (y : BitVec 3) (s : State) :=
  issue (.vabs d a p y) s (unary y p d a fun x =>
    if isFloatTy y then signOp (fmtOf y) false x else intLane y |sext x (elemW y)|)
def execVneg (d a : Reg) (p : Fin 8) (y : BitVec 3) (s : State) :=
  issue (.vneg d a p y) s (unary y p d a fun x =>
    if isFloatTy y then signOp (fmtOf y) true x else intLane y (-(x : Int)))
def execVclz (d a : Reg) (p : Fin 8) (y : BitVec 3) (s : State) :=
  issue (.vclz d a p y) s (unary y p d a fun x => (leadingZeros x (elemW y), 0))
def execVpopc (d a : Reg) (p : Fin 8) (y : BitVec 3) (s : State) :=
  issue (.vpopc d a p y) s (unary y p d a fun x => (popCount x (elemW y), 0))

/-! ### VXL (R164) -/

def execVshuf (d a b : Reg) (p : Fin 8) (y : BitVec 3) (s : State) :=
  issue (.vshuf d a b p y) s (shuffle y p d a fun s i => some (s.el y b i % lanes y))
def execVsplat (d a b : Reg) (p : Fin 8) (y : BitVec 3) (s : State) :=
  issue (.vsplat d a b p y) s (shuffle y p d a fun _ _ => some b.val)
def execVslidedn (d a b : Reg) (p : Fin 8) (y : BitVec 3) (s : State) :=
  issue (.vslidedn d a b p y) s (shuffle y p d a fun _ i => some (i + b.val))
def execVslideup (d a b : Reg) (p : Fin 8) (y : BitVec 3) (s : State) :=
  issue (.vslideup d a b p y) s (shuffle y p d a fun _ i => if i < b.val then none else some (i - b.val))

end Sys2Proof.Machine
end

