-- ==== Sys2Proof/Machine/Vpred.lean ====
section
/-! DEFINITION. Predicate forms: VPRED (R155, R156). -/
namespace Sys2Proof.Machine

/-- PLEN: the first max(0, s[A]) elements (R155). -/
def plenBody (d a : Reg) (y : BitVec 3) : Body := fun s =>
  let c := max 0 (s.s a).toInt
  .ok { s := s.setP (predOf d) (BitVec.ofNat 16 (byteLanes y fun i => (i : Int) < c)) }

def execPlen (d a : Reg) (y : BitVec 3) (s : State) := issue (.plen d a y) s (plenBody d a y)

/-- A bitwise predicate form: the bits of p[D] whose bit in p[P] is 1 (R156). -/
def predOp (p : Fin 8) (d a b : Reg) (f : Pred → Pred → Pred) : Body := fun s =>
  let q := s.p p
  .ok { s := s.setP (predOf d)
          ((f (s.p (predOf a)) (s.p (predOf b)) &&& q) ||| (s.p (predOf d) &&& ~~~q)) }

def execPand (d a b : Reg) (p : Fin 8) (s : State) := issue (.pand d a b p) s (predOp p d a b (· &&& ·))
def execPor (d a b : Reg) (p : Fin 8) (s : State) := issue (.por d a b p) s (predOp p d a b (· ||| ·))
def execPxor (d a b : Reg) (p : Fin 8) (s : State) := issue (.pxor d a b p) s (predOp p d a b (· ^^^ ·))
def execPandn (d a b : Reg) (p : Fin 8) (s : State) :=
  issue (.pandn d a b p) s (predOp p d a b fun x z => x &&& ~~~z)
def execPget (d a : Reg) (s : State) :=
  issue (.pget d a) s (writes d fun s => (s.p (predOf a)).zeroExtend 64)
def execPset (d a : Reg) (s : State) :=
  issue (.pset d a) s fun s => .ok { s := s.setP (predOf d) ((s.s a).setWidth 16) }

/-- The active elements of a predicate (R156). -/
def countActive (q : Pred) (y : BitVec 3) : Nat := ((List.range (lanes y)).filter (active q y)).length

def execPcnt (d a : Reg) (y : BitVec 3) (s : State) :=
  issue (.pcnt d a y) s (writes d fun s => BitVec.ofNat 64 (countActive (s.p (predOf a)) y))

end Sys2Proof.Machine
end

