-- ==== Sys2Proof/Machine/Dispatch.lean ====
section
/-! DEFINITION. The one dispatch from an instruction to its meaning. -/
namespace Sys2Proof.Machine
open Sys2Proof

def exec (i : Instr) (s : State) : Host.Outcome State Fault Refusal :=
  match i with
  | .add d a b => Sys2Proof.Machine.execAdd d a b s
  | .sub d a b => Sys2Proof.Machine.execSub d a b s
  | .and d a b => Sys2Proof.Machine.execAnd d a b s
  | .or d a b => Sys2Proof.Machine.execOr d a b s
  | .xor d a b => Sys2Proof.Machine.execXor d a b s
  | .andn d a b => Sys2Proof.Machine.execAndn d a b s
  | .orn d a b => Sys2Proof.Machine.execOrn d a b s
  | .sll d a b => Sys2Proof.Machine.execSll d a b s
  | .srl d a b => Sys2Proof.Machine.execSrl d a b s
  | .sra d a b => Sys2Proof.Machine.execSra d a b s
  | .slt d a b => Sys2Proof.Machine.execSlt d a b s
  | .sltu d a b => Sys2Proof.Machine.execSltu d a b s
  | .min d a b => Sys2Proof.Machine.execMin d a b s
  | .max d a b => Sys2Proof.Machine.execMax d a b s
  | .minu d a b => Sys2Proof.Machine.execMinu d a b s
  | .maxu d a b => Sys2Proof.Machine.execMaxu d a b s
  | .seq d a b => Sys2Proof.Machine.execSeq d a b s
  | .addi d a imm => Sys2Proof.Machine.execAddi d a imm s
  | .andi d a imm => Sys2Proof.Machine.execAndi d a imm s
  | .ori d a imm => Sys2Proof.Machine.execOri d a imm s
  | .xori d a imm => Sys2Proof.Machine.execXori d a imm s
  | .slti d a imm => Sys2Proof.Machine.execSlti d a imm s
  | .sltiu d a imm => Sys2Proof.Machine.execSltiu d a imm s
  | .slli d a h => Sys2Proof.Machine.execSlli d a h s
  | .srli d a h => Sys2Proof.Machine.execSrli d a h s
  | .srai d a h => Sys2Proof.Machine.execSrai d a h s
  | .li d imm => Sys2Proof.Machine.execLi d imm s
  | .lih d h q => Sys2Proof.Machine.execLih d h q s
  | .mul d a b => Sys2Proof.Machine.execMul d a b s
  | .mulh d a b => Sys2Proof.Machine.execMulh d a b s
  | .mulhsu d a b => Sys2Proof.Machine.execMulhsu d a b s
  | .mulhu d a b => Sys2Proof.Machine.execMulhu d a b s
  | .div d a b => Sys2Proof.Machine.execDiv d a b s
  | .divu d a b => Sys2Proof.Machine.execDivu d a b s
  | .rem d a b => Sys2Proof.Machine.execRem d a b s
  | .remu d a b => Sys2Proof.Machine.execRemu d a b s
  | .clz d a => Sys2Proof.Machine.execClz d a s
  | .ctz d a => Sys2Proof.Machine.execCtz d a s
  | .popc d a => Sys2Proof.Machine.execPopc d a s
  | .bswap d a => Sys2Proof.Machine.execBswap d a s
  | .brev d a => Sys2Proof.Machine.execBrev d a s
  | .rol d a b => Sys2Proof.Machine.execRol d a b s
  | .ror d a b => Sys2Proof.Machine.execRor d a b s
  | .rand d => Sys2Proof.Machine.execRand d s
  | .beq a b o => Sys2Proof.Machine.execBeq a b o s
  | .bne a b o => Sys2Proof.Machine.execBne a b o s
  | .blt a b o => Sys2Proof.Machine.execBlt a b o s
  | .bge a b o => Sys2Proof.Machine.execBge a b o s
  | .bltu a b o => Sys2Proof.Machine.execBltu a b o s
  | .bgeu a b o => Sys2Proof.Machine.execBgeu a b o s
  | .jmp o => Sys2Proof.Machine.execJmp o s
  | .call o => Sys2Proof.Machine.execCall o s
  | .jreg d a imm => Sys2Proof.Machine.execJreg d a imm s
  | .loop a imm => Sys2Proof.Machine.execLoop a imm s
  | .endtask a => Sys2Proof.Machine.execEndtask a s
  | .spawnPath d a c r => Sys2Proof.Machine.execSpawnPath d a c r s
  | .spawnNear d a c r => Sys2Proof.Machine.execSpawnNear d a c r s
  | .spawnSteal d a c r => Sys2Proof.Machine.execSpawnSteal d a c r s
  | .join d a k => Sys2Proof.Machine.execJoin d a k s
  | .yieldchk d => Sys2Proof.Machine.execYieldchk d s
  | .follow a k => Sys2Proof.Machine.execFollow a k s
  | .cancel a => Sys2Proof.Machine.execCancel a s
  | .rtquiet d a k => Sys2Proof.Machine.execRtquiet d a k s
  | .csrrw d a k => Sys2Proof.Machine.execCsrrw d a k s
  | .csrrs d a k => Sys2Proof.Machine.execCsrrs d a k s
  | .csrrc d a k => Sys2Proof.Machine.execCsrrc d a k s
  | .ld d a z o => Sys2Proof.Machine.execLd d a z o s
  | .st d a z o => Sys2Proof.Machine.execSt d a z o s
  | .ldl d a z o => Sys2Proof.Machine.execLdl d a z o s
  | .stl d a z o => Sys2Proof.Machine.execStl d a z o s
  | .ldc d a z o => Sys2Proof.Machine.execLdc d a z o s
  | .stc d a z o => Sys2Proof.Machine.execStc d a z o s
  | .ldv d a b p n y => Sys2Proof.Machine.execLdv d a b p n y s
  | .stv d a b p n y => Sys2Proof.Machine.execStv d a b p n y s
  | .amoswap d a b z u => Sys2Proof.Machine.execAmoswap d a b z u s
  | .amoadd d a b z u => Sys2Proof.Machine.execAmoadd d a b z u s
  | .amoand d a b z u => Sys2Proof.Machine.execAmoand d a b z u s
  | .amoor d a b z u => Sys2Proof.Machine.execAmoor d a b z u s
  | .amoxor d a b z u => Sys2Proof.Machine.execAmoxor d a b z u s
  | .amomin d a b z u => Sys2Proof.Machine.execAmomin d a b z u s
  | .amomax d a b z u => Sys2Proof.Machine.execAmomax d a b z u s
  | .amominu d a b z u => Sys2Proof.Machine.execAmominu d a b z u s
  | .amomaxu d a b z u => Sys2Proof.Machine.execAmomaxu d a b z u s
  | .amocas d a b z u => Sys2Proof.Machine.execAmocas d a b z u s
  | .amofadd d a b u => Sys2Proof.Machine.execAmofadd d a b u s
  | .amobfpadd d a b => Sys2Proof.Machine.execAmobfpadd d a b s
  | .fence t => Sys2Proof.Machine.execFence t s
  | .phinit a b t => Sys2Proof.Machine.execPhinit a b t s
  | .pharr a t => Sys2Proof.Machine.execPharr a t s
  | .phadd a b t => Sys2Proof.Machine.execPhadd a b t s
  | .phwait d a b t => Sys2Proof.Machine.execPhwait d a b t s
  | .phread d a b t => Sys2Proof.Machine.execPhread d a b t s
  | .taglk d a => Sys2Proof.Machine.execTaglk d a s
  | .tagset d a b => Sys2Proof.Machine.execTagset d a b s
  | .taginv a => Sys2Proof.Machine.execTaginv a s
  | .tagstat d a b => Sys2Proof.Machine.execTagstat d a b s
  | .xfer a => Sys2Proof.Machine.execXfer a s
  | .xfern d => Sys2Proof.Machine.execXfern d s
  | .send a => Sys2Proof.Machine.execSend a s
  | .sendRel a => Sys2Proof.Machine.execSendRel a s
  | .reply a b => Sys2Proof.Machine.execReply a b s
  | .replyRel a b => Sys2Proof.Machine.execReplyRel a b s
  | .sendlb a => Sys2Proof.Machine.execSendlb a s
  | .gqcreate a b => Sys2Proof.Machine.execGqcreate a b s
  | .gqpush d a b => Sys2Proof.Machine.execGqpush d a b s
  | .gqpop d a b => Sys2Proof.Machine.execGqpop d a b s
  | .gqpopDrop d a b => Sys2Proof.Machine.execGqpopDrop d a b s
  | .gqstat d a b => Sys2Proof.Machine.execGqstat d a b s
  | .mixcfg a b => Sys2Proof.Machine.execMixcfg a b s
  | .mixjoin a b => Sys2Proof.Machine.execMixjoin a b s
  | .mixpeer a b => Sys2Proof.Machine.execMixpeer a b s
  | .mixadd d a b => Sys2Proof.Machine.execMixadd d a b s
  | .mixtick a => Sys2Proof.Machine.execMixtick a s
  | .mixread d a b => Sys2Proof.Machine.execMixread d a b s
  | .mixstat d a b => Sys2Proof.Machine.execMixstat d a b s
  | .mixleave a => Sys2Proof.Machine.execMixleave a s
  | .mixhold a b => Sys2Proof.Machine.execMixhold a b s
  | .mfmt a b => Sys2Proof.Machine.execMfmt a b s
  | .mma a => Sys2Proof.Machine.execMma a s
  | .mmas a => Sys2Proof.Machine.execMmas a s
  | .mwait d a => Sys2Proof.Machine.execMwait d a s
  | .mar d a => Sys2Proof.Machine.execMar d a s
  | .maw d a => Sys2Proof.Machine.execMaw d a s
  | .mstat d => Sys2Proof.Machine.execMstat d s
  | .msrec a => Sys2Proof.Machine.execMsrec a s
  | .mtout a => Sys2Proof.Machine.execMtout a s
  | .mrem a t => Sys2Proof.Machine.execMrem a t s
  | .mkey a b => Sys2Proof.Machine.execMkey a b s
  | .mcap d a => Sys2Proof.Machine.execMcap d a s
  | .mnorm a => Sys2Proof.Machine.execMnorm a s
  | .mxs a b => Sys2Proof.Machine.execMxs a b s
  | .mxsrd d a => Sys2Proof.Machine.execMxsrd d a s
  | .stgcfg a b => Sys2Proof.Machine.execStgcfg a b s
  | .stgdone a => Sys2Proof.Machine.execStgdone a s
  | .stgtmpl a b => Sys2Proof.Machine.execStgtmpl a b s
  | .stgsrec a => Sys2Proof.Machine.execStgsrec a s
  | .stgstat d a => Sys2Proof.Machine.execStgstat d a s
  | .vadd d a b p y => Sys2Proof.Machine.execVadd d a b p y s
  | .vsub d a b p y => Sys2Proof.Machine.execVsub d a b p y s
  | .vmul d a b p y => Sys2Proof.Machine.execVmul d a b p y s
  | .vmin d a b p y => Sys2Proof.Machine.execVmin d a b p y s
  | .vmax d a b p y => Sys2Proof.Machine.execVmax d a b p y s
  | .vminu d a b p y => Sys2Proof.Machine.execVminu d a b p y s
  | .vmaxu d a b p y => Sys2Proof.Machine.execVmaxu d a b p y s
  | .vfma d a b p y => Sys2Proof.Machine.execVfma d a b p y s
  | .vfms d a b p y => Sys2Proof.Machine.execVfms d a b p y s
  | .vfnma d a b p y => Sys2Proof.Machine.execVfnma d a b p y s
  | .vfnms d a b p y => Sys2Proof.Machine.execVfnms d a b p y s
  | .vdot d a b p y => Sys2Proof.Machine.execVdot d a b p y s
  | .vdotu d a b p y => Sys2Proof.Machine.execVdotu d a b p y s
  | .vadds d a b p y => Sys2Proof.Machine.execVadds d a b p y s
  | .vaddsu d a b p y => Sys2Proof.Machine.execVaddsu d a b p y s
  | .vsubs d a b p y => Sys2Proof.Machine.execVsubs d a b p y s
  | .vsubsu d a b p y => Sys2Proof.Machine.execVsubsu d a b p y s
  | .vnegs d a p y => Sys2Proof.Machine.execVnegs d a p y s
  | .vand d a b p y => Sys2Proof.Machine.execVand d a b p y s
  | .vor d a b p y => Sys2Proof.Machine.execVor d a b p y s
  | .vxor d a b p y => Sys2Proof.Machine.execVxor d a b p y s
  | .vandn d a b p y => Sys2Proof.Machine.execVandn d a b p y s
  | .vsll d a b p y => Sys2Proof.Machine.execVsll d a b p y s
  | .vsrl d a b p y => Sys2Proof.Machine.execVsrl d a b p y s
  | .vsra d a b p y => Sys2Proof.Machine.execVsra d a b p y s
  | .vcmpeq d a b p y => Sys2Proof.Machine.execVcmpeq d a b p y s
  | .vcmpne d a b p y => Sys2Proof.Machine.execVcmpne d a b p y s
  | .vcmplt d a b p y => Sys2Proof.Machine.execVcmplt d a b p y s
  | .vcmple d a b p y => Sys2Proof.Machine.execVcmple d a b p y s
  | .vcmpltu d a b p y => Sys2Proof.Machine.execVcmpltu d a b p y s
  | .vcmpleu d a b p y => Sys2Proof.Machine.execVcmpleu d a b p y s
  | .vmv d a p y => Sys2Proof.Machine.execVmv d a p y s
  | .vbcast d a p y => Sys2Proof.Machine.execVbcast d a p y s
  | .vins d a b y => Sys2Proof.Machine.execVins d a b y s
  | .vext d a b y => Sys2Proof.Machine.execVext d a b y s
  | .vextu d a b y => Sys2Proof.Machine.execVextu d a b y s
  | .vrsum d a p y => Sys2Proof.Machine.execVrsum d a p y s
  | .vrsumu d a p y => Sys2Proof.Machine.execVrsumu d a p y s
  | .vrmin d a p y => Sys2Proof.Machine.execVrmin d a p y s
  | .vrmax d a p y => Sys2Proof.Machine.execVrmax d a p y s
  | .vrminu d a p y => Sys2Proof.Machine.execVrminu d a p y s
  | .vrmaxu d a p y => Sys2Proof.Machine.execVrmaxu d a p y s
  | .vabs d a p y => Sys2Proof.Machine.execVabs d a p y s
  | .vneg d a p y => Sys2Proof.Machine.execVneg d a p y s
  | .vclz d a p y => Sys2Proof.Machine.execVclz d a p y s
  | .vpopc d a p y => Sys2Proof.Machine.execVpopc d a p y s
  | .vcvt d a b w x m => Sys2Proof.Machine.execVcvt d a b w x m s
  | .vrcp d a p y => Sys2Proof.Machine.execVrcp d a p y s
  | .vrsqrt d a p y => Sys2Proof.Machine.execVrsqrt d a p y s
  | .vsqrt d a p y => Sys2Proof.Machine.execVsqrt d a p y s
  | .vexp2 d a p y => Sys2Proof.Machine.execVexp2 d a p y s
  | .vlog2 d a p y => Sys2Proof.Machine.execVlog2 d a p y s
  | .vdiv d a b p y => Sys2Proof.Machine.execVdiv d a b p y s
  | .vtie d a b p y => Sys2Proof.Machine.execVtie d a b p y s
  | .vtload d a b => Sys2Proof.Machine.execVtload d a b s
  | .vshuf d a b p y => Sys2Proof.Machine.execVshuf d a b p y s
  | .vsplat d a b p y => Sys2Proof.Machine.execVsplat d a b p y s
  | .vslidedn d a b p y => Sys2Proof.Machine.execVslidedn d a b p y s
  | .vslideup d a b p y => Sys2Proof.Machine.execVslideup d a b p y s
  | .plen d a y => Sys2Proof.Machine.execPlen d a y s
  | .pand d a b p => Sys2Proof.Machine.execPand d a b p s
  | .por d a b p => Sys2Proof.Machine.execPor d a b p s
  | .pxor d a b p => Sys2Proof.Machine.execPxor d a b p s
  | .pandn d a b p => Sys2Proof.Machine.execPandn d a b p s
  | .pget d a => Sys2Proof.Machine.execPget d a s
  | .pset d a => Sys2Proof.Machine.execPset d a s
  | .pcnt d a y => Sys2Proof.Machine.execPcnt d a y s
  | .trap a => Sys2Proof.Machine.execTrap a s
  | .codew a b => Sys2Proof.Machine.execCodew a b s
  | .rtset a b => Sys2Proof.Machine.execRtset a b s
  | .inbhead d a => Sys2Proof.Machine.execInbhead d a s
  | .inbrd d a b => Sys2Proof.Machine.execInbrd d a b s
  | .inbfree a b => Sys2Proof.Machine.execInbfree a b s
  | .fbstat d a => Sys2Proof.Machine.execFbstat d a s
  | .fbread d a b => Sys2Proof.Machine.execFbread d a b s
  | .fbclr a b => Sys2Proof.Machine.execFbclr a b s
  | .replayall a => Sys2Proof.Machine.execReplayall a s
  | .tlbinv a b => Sys2Proof.Machine.execTlbinv a b s
  | .sgload a b => Sys2Proof.Machine.execSgload a b s
  | .keyw a b => Sys2Proof.Machine.execKeyw a b s
  | .preempt a b => Sys2Proof.Machine.execPreempt a b s
  | .ctxrest d a => Sys2Proof.Machine.execCtxrest d a s
  | .bncset d a b => Sys2Proof.Machine.execBncset d a b s
  | .bncclr a => Sys2Proof.Machine.execBncclr a s
  | .dbgrd d a b => Sys2Proof.Machine.execDbgrd d a b s
  | .dbgwr a b => Sys2Proof.Machine.execDbgwr a b s
  | .dbgstep a => Sys2Proof.Machine.execDbgstep a s
  | .opset d a b => Sys2Proof.Machine.execOpset d a b s
  | .rowq d a b => Sys2Proof.Machine.execRowq d a b s
  | .cMv d a => Sys2Proof.Machine.execCMv d a s
  | .cAdd d a => Sys2Proof.Machine.execCAdd d a s
  | .cSub d a => Sys2Proof.Machine.execCSub d a s
  | .cAnd d a => Sys2Proof.Machine.execCAnd d a s
  | .cOr d a => Sys2Proof.Machine.execCOr d a s
  | .cXor d a => Sys2Proof.Machine.execCXor d a s
  | .cAddi d imm => Sys2Proof.Machine.execCAddi d imm s
  | .cLi d imm => Sys2Proof.Machine.execCLi d imm s
  | .cSlli d imm => Sys2Proof.Machine.execCSlli d imm s
  | .cSrli d imm => Sys2Proof.Machine.execCSrli d imm s
  | .cSrai d imm => Sys2Proof.Machine.execCSrai d imm s
  | .cLdl d a => Sys2Proof.Machine.execCLdl d a s
  | .cStl d a => Sys2Proof.Machine.execCStl d a s
  | .cBnez d imm => Sys2Proof.Machine.execCBnez d imm s
  | .cJreg a => Sys2Proof.Machine.execCJreg a s
  | .lexit => Sys2Proof.Machine.execLexit s
  | .unfollow => Sys2Proof.Machine.execUnfollow s
  | .eret => Sys2Proof.Machine.execEret s
  | .bkpt => Sys2Proof.Machine.execBkpt s
  | .halt => Sys2Proof.Machine.execHalt s
  | .resume => Sys2Proof.Machine.execResume s
  | .cEndtask => Sys2Proof.Machine.execCEndtask s
  | .messageAdmission => Sys2Proof.Machine.execMessageAdmission s
  | .overflowRoutineStart => Sys2Proof.Machine.execOverflowRoutineStart s
  | .dispatch => Sys2Proof.Machine.execDispatch s
  | .unboundTrap => Sys2Proof.Machine.execUnboundTrap s
  | .rload => Sys2Proof.Machine.execRload s
  | .rstore => Sys2Proof.Machine.execRstore s
  | .ramo => Sys2Proof.Machine.execRamo s
  | .lreply => Sys2Proof.Machine.execLreply s
  | .nack => Sys2Proof.Machine.execNack s
  | .marker => Sys2Proof.Machine.execMarker s
  | .slotret => Sys2Proof.Machine.execSlotret s
  | .drain => Sys2Proof.Machine.execDrain s
  | .half => Sys2Proof.Machine.execHalf s
  | .trailer => Sys2Proof.Machine.execTrailer s
  | .ack => Sys2Proof.Machine.execAck s
  | .mxcmd => Sys2Proof.Machine.execMxcmd s
  | .stageMessage => Sys2Proof.Machine.execStageMessage s
  | .reservedClassDiscard => Sys2Proof.Machine.execReservedClassDiscard s
  | .liveUpdate => Sys2Proof.Machine.execLiveUpdate s
  | .joinChildUpdate => Sys2Proof.Machine.execJoinChildUpdate s
  | .joinCloseUpdate => Sys2Proof.Machine.execJoinCloseUpdate s
  | .cancelPropagate => Sys2Proof.Machine.execCancelPropagate s
  | .dlineExpiry => Sys2Proof.Machine.execDlineExpiry s
  | .forcedSave => Sys2Proof.Machine.execForcedSave s
  | .nearPlacement => Sys2Proof.Machine.execNearPlacement s
  | .nearQueueTake => Sys2Proof.Machine.execNearQueueTake s
  | .stealRequest => Sys2Proof.Machine.execStealRequest s
  | .stealVictimReply => Sys2Proof.Machine.execStealVictimReply s
  | .stealBackoffExpiry => Sys2Proof.Machine.execStealBackoffExpiry s
  | .followEngage => Sys2Proof.Machine.execFollowEngage s
  | .resultReturn => Sys2Proof.Machine.execResultReturn s
  | .homeAccess => Sys2Proof.Machine.execHomeAccess s
  | .phaseUpdateAtHome => Sys2Proof.Machine.execPhaseUpdateAtHome s
  | .phwaitResolve => Sys2Proof.Machine.execPhwaitResolve s
  | .sliceWalk => Sys2Proof.Machine.execSliceWalk s
  | .missPortEntry => Sys2Proof.Machine.execMissPortEntry s
  | .xferStart => Sys2Proof.Machine.execXferStart s
  | .xferRowCopy => Sys2Proof.Machine.execXferRowCopy s
  | .xferCompletion => Sys2Proof.Machine.execXferCompletion s
  | .xferRestart => Sys2Proof.Machine.execXferRestart s
  | .checkRefetch => Sys2Proof.Machine.execCheckRefetch s
  | .hardwareFaultKill => Sys2Proof.Machine.execHardwareFaultKill s
  | .trapEntry => Sys2Proof.Machine.execTrapEntry s
  | .bounceReceive => Sys2Proof.Machine.execBounceReceive s
  | .matrixRequest => Sys2Proof.Machine.execMatrixRequest s
  | .aliasTableBuild => Sys2Proof.Machine.execAliasTableBuild s
  | .matrixRestart => Sys2Proof.Machine.execMatrixRestart s
  | .matrixCompletion => Sys2Proof.Machine.execMatrixCompletion s
  | .tileOwnershipTake => Sys2Proof.Machine.execTileOwnershipTake s
  | .messageArrival => Sys2Proof.Machine.execMessageArrival s
  | .slotReturnResend => Sys2Proof.Machine.execSlotReturnResend s
  | .retransmitTimeout => Sys2Proof.Machine.execRetransmitTimeout s
  | .nackResend => Sys2Proof.Machine.execNackResend s
  | .flowRecordRelease => Sys2Proof.Machine.execFlowRecordRelease s
  | .seraiSlotRelease => Sys2Proof.Machine.execSeraiSlotRelease s
  | .roundTick => Sys2Proof.Machine.execRoundTick s
  | .markerResend => Sys2Proof.Machine.execMarkerResend s
  | .portRelock => Sys2Proof.Machine.execPortRelock s
  | .reachWrite => Sys2Proof.Machine.execReachWrite s
  | .rndsetWrite => Sys2Proof.Machine.execRndsetWrite s
  | .wavelengthPark => Sys2Proof.Machine.execWavelengthPark s
  | .wavelengthWake => Sys2Proof.Machine.execWavelengthWake s
  | .wakeDone => Sys2Proof.Machine.execWakeDone s
  | .mixOperationApply => Sys2Proof.Machine.execMixOperationApply s
  | .waybillDeadline => Sys2Proof.Machine.execWaybillDeadline s
  | .engineNackResend => Sys2Proof.Machine.execEngineNackResend s
  | .gqPushArrival => Sys2Proof.Machine.execGqPushArrival s
  | .gqPopServe => Sys2Proof.Machine.execGqPopServe s
  | .stageRoundStart => Sys2Proof.Machine.execStageRoundStart s
  | .stageFreeEvaluate => Sys2Proof.Machine.execStageFreeEvaluate s
  | .stageBubbleTimer => Sys2Proof.Machine.execStageBubbleTimer s
  | .opStep => Sys2Proof.Machine.execOpStep s
  | .rowCompaction => Sys2Proof.Machine.execRowCompaction s
  | .thermalMigration => Sys2Proof.Machine.execThermalMigration s
  | .thermalTrip => Sys2Proof.Machine.execThermalTrip s
  | .currentGovernor => Sys2Proof.Machine.execCurrentGovernor s
  | .ballastDraw => Sys2Proof.Machine.execBallastDraw s
  | .doorbell => Sys2Proof.Machine.execDoorbell s
  | .doorbellPost => Sys2Proof.Machine.execDoorbellPost s
  | .hostRegisterWrite => Sys2Proof.Machine.execHostRegisterWrite s
  | .bar2InboundWrite => Sys2Proof.Machine.execBar2InboundWrite s
  | .jobStart => Sys2Proof.Machine.execJobStart s
  | .nodeStart => Sys2Proof.Machine.execNodeStart s
  | .mappingValidDelivery => Sys2Proof.Machine.execMappingValidDelivery s
  | .ckdesc => Sys2Proof.Machine.execCkdesc s
  | .protectedWriteCopy => Sys2Proof.Machine.execProtectedWriteCopy s
  | .checkpointCompletion => Sys2Proof.Machine.execCheckpointCompletion s
  | .reset => Sys2Proof.Machine.execReset s
  | .getMeasurements => Sys2Proof.Machine.execGetMeasurements s
  | .challenge => Sys2Proof.Machine.execChallenge s
  | .keyExchange => Sys2Proof.Machine.execKeyExchange s
  | .readingFallsBelowLimit => Sys2Proof.Machine.execReadingFallsBelowLimit s
  | .partitionTableAccept => Sys2Proof.Machine.execPartitionTableAccept s

end Sys2Proof.Machine
end

