-- ==== Sys2Proof/Machine/Step.lean ====
section
/-! DEFINITION. One step of the machine, and the host's placement of an instruction. -/
namespace Sys2Proof.Machine

/-- One step: an event, or an instruction of one context, executed whole (95). -/
def step (s : State) : Host.Outcome State Fault Refusal :=
  match s.nextAction with
  | .run i s' => exec i s'
  | .illegal val s' => .next (s'.takeTrap s'.now.cell s'.now.ctx causeIllegal val)
  | .idle s' => .next s'
  | .held => .fault .heldUntilReset

/-- The host's placement of an instruction: `placeWord` of Fetch.lean. -/
def State.withFetchWord (s : State) (nbits w : Nat) : State := s.placeWord nbits w

end Sys2Proof.Machine
end

