-- ==== Sys2Proof/Safety.lean ====
section
/-! DEFINITION. The terms the statements use: when an instruction executes, what its retirement leaves, canonical memory. -/
namespace Sys2Proof.Machine

/-- The memories keep their canonical form: strictly rising addresses, no byte equal to an unlisted one's. -/
def State.MemoryOk (s : State) : Prop := Memory.wf s.hbm = true ∧ Memory.wf s.pad = true

/-- A step that goes on: it answers a next state. -/
def Goes (s : State) : Prop := ∃ t, step s = .next t

/-- The executing context issues `i` (R82): it does not decode ILLEGAL, the mode may run it, nothing holds it back
(R217), and no single step is armed (R245). -/
structure Executes (i : Instr) (s : State) : Prop where
  decodes : s.decodeIllegal i = false
  mode : privileged i = true → s.isSys = true
  free : s.heldBack i = false
  unstepped : s.cur.stepping = false

/-- A context but for what its leader's stream changes in it (R43, R44). -/
def Ctx.apart (x : Ctx) : Ctx := { x with stream := [], following := false, wait := .none, pc := 0, ahead := [] }

/-- `t` is `x` once the executing context has retired an instruction, with control at `next` (R66, R105).  Nothing of the machine
but the executing context changes; the same context of a leader's followers may take the instruction into its stream. -/
structure Retires (x : State) (next : CodeAddr) (transfer : Bool) (t : State) : Prop where
  machine : t = { x with cells := t.cells }
  cells : ∀ n, { t.cell n with ctxs := (x.cell n).ctxs } = x.cell n
  others : ∀ n k, ¬ (n = x.now.cell ∧ k % 4 = x.now.ctx % 4) →
    t.ctx n k = x.ctx n k ∨
    (isLeader x.now.cell = true ∧ n / 16 = x.now.cell / 16 ∧ n ≠ x.now.cell ∧ k % 4 = x.now.ctx % 4 ∧
      (t.ctx n k).apart = (x.ctx n k).apart)
  context : t.cur =
    { x.cur with
      pc := t.cur.pc, lc := t.cur.lc, retired := x.cur.retired + 1, answers := [], stage := 0
      parked := x.cur.parked || x.now.sw, debugStep := false
      stream := if x.now.streamed then { x.cur with pc := t.cur.pc }.streamed.stream else x.cur.stream
      following := if x.now.streamed then { x.cur with pc := t.cur.pc }.streamed.following else x.cur.following
      ahead := t.cur.ahead }
  window : ∀ e ∈ t.cur.ahead, e ∈ x.cur.ahead
  flow : if transfer = true ∨ x.cur.inTrap ≠ 0 then t.cur.pc = next ∧ t.cur.lc = x.cur.lc
    else t.cur.pc = (x.cur.backEdge next).pc ∧ t.cur.lc = (x.cur.backEdge next).lc

/-- `exec i s` answers a next state, which is `x` with `i` retired in sequence. -/
def Runs (i : Instr) (s x : State) : Prop :=
  ∃ t, exec i s = .next t ∧ Retires x (seqAddr i s.cur.pc) false t

/-- `exec i s` answers a next state, which is `x` with `i` retired and control transferred to `next`. -/
def Jumps (i : Instr) (s x : State) (next : CodeAddr) : Prop :=
  ∃ t, exec i s = .next t ∧ Retires x next true t

/-- `exec i s` answers the state in which the executing context has taken a trap (R243). -/
def Traps (i : Instr) (s : State) (cause : BitVec 8) (val : Word) : Prop :=
  exec i s = .next (s.takeTrap s.now.cell s.now.ctx cause val)

/-- The state in which the cell whose turn it is looks for a context: its clock has moved on (log 13). -/
def State.ticked (s : State) : State :=
  let s1 := { s with turns := s.turns.tail }.tick (s.turns.headD s.now.cell) (s.delays.headD 1)
  { s1 with delays := s1.delays.tail }

/-- No deadline, forced save or follower's start of the cell comes before its next instruction. -/
def State.unhurried (s : State) (n : Nat) : Bool :=
  [0, 1, 2, 3].all fun k => !s.overdue n k && !s.saveReady n k && !s.engaged n k

/-- A context whose old code halfwords are those of units less than 8 halfwords ahead of issue (R84): `Ctx.sequel`. -/
def Ctx.windowed (x : Ctx) : Ctx := x.sequel

/-- The halfword at `a` as context (n, k) fetches it (R84). -/
def State.fetched (s : State) (n k a : Nat) : Nat := (s.cell n).fetchHalf (s.ctx n k).windowed a

/-- The state in which an instruction of context (n, k) from its own code store executes. -/
def State.issuing (s : State) (n k : Nat) (sw : Bool) : State :=
  let s1 := s.modCell n fun c => { c with last := k % 4 }
  { s1.modCtx n k (fun x => { x.windowed with parked := false }) with now := { cell := n, ctx := k, sw := sw } }

/-! ### Memory the executing task names -/

/-- The key in `State.pad` of local byte `a` of the executing task (R172, R386-R388). -/
def State.localKey (s : State) (a : Nat) : Nat := padKey s.now.cell (s.localAddr s.now.cell s.cur a)

/-- `n` bytes of a memory from `key` on have changed to the low bytes of `x`, and no other byte has. -/
def Stored (m m' : List Host.Cell) (key n x : Nat) : Prop :=
  (∀ j, j < n → Memory.get m' (key + j) = BitVec.ofNat 8 (x / 256 ^ j)) ∧
  ∀ b, b < key ∨ key + n ≤ b → Memory.get m' b = Memory.get m b

/-- `n` local bytes at `a` can be read: in the private rows and backed now (R172, R387), no access of the cell to this
scratchpad on its way (R209), no bad check value (R203), and the cell's operating point not being stepped (R392). -/
structure State.LocalReady (s : State) (a n : Nat) : Prop where
  inRows : s.localOk s.now.cell s.cur a n = true
  quiet : s.homeBusy (.pad s.now.cell (s.localAddr s.now.cell s.cur a)) = false
  good : s.placeBad (.pad s.now.cell (s.localAddr s.now.cell s.cur a)) = false
  running : s.here.evac = none

/-- A global address is mapped to a home of this module (its HBM or a host window) under a key index, and nothing holds
the access back (R178, R195, R223). -/
structure State.Mapped (s : State) (va : Nat) (write : Bool) (place : Place) (key : Nat) (chk : Bool) : Prop where
  low : va < 2 ^ 60
  free : s.granuleHeld va = false
  room : write = true → s.storesOut < 32
  home : s.translate va write = .at ⟨place, key, chk⟩
  near : ∀ dev pa, place ≠ .remote dev pa

/-- The access of the executing context that instruction `i` puts in flight to a home (R223). -/
def State.issuedTo (s : State) (i : Instr) (va : Nat) (place : Place) (key : Nat) (chk : Bool) (op : AccOp) (dest : Dest)
    (data : Nat) : Access :=
  { id := s.nextId, cell := s.now.cell, ctx := s.now.ctx, act := s.cur.acts.toNat, va := va, place := place, key := key
    chk := chk, op := op, dest := dest, sys := s.isSys, trap := s.cur.inTrap, launch := s.cur.launch.map BitVec.toNat
    word := value i s.now.sw, data := data, lcell := s.cur.lcell.toNat }

/-- One more access in flight. -/
def State.launched (s : State) (a : Access) : State := { s with inflight := s.inflight ++ [a], nextId := s.nextId + 1 }

/-- A load of size field `z` gives `n` bytes read as `x`: sign-extended for an even `z`, else zero-extended (R72). -/
def loaded (z : BitVec 3) (x : Nat) : Word :=
  if z.toNat % 2 = 0 then (BitVec.ofNat (8 * 2 ^ (z.toNat / 2)) x).signExtend 64 else (BitVec.ofNat (8 * 2 ^ (z.toNat / 2)) x).setWidth 64

/-- The address of an F-M access: s[A] plus the offset in units of the size, modulo 2^64 (R224). -/
def State.address (s : State) (a : Reg) (z : BitVec 3) (o : BitVec 11) : Nat :=
  (s.s a + BitVec.ofInt 64 (o.toInt * (2 ^ (z.toNat / 2) : Nat))).toNat

/-- `n` local bytes at an aligned `a` are an operand block: in the rows, on good lines, and reached by every earlier store
of the cell (R112, R209, R347). -/
structure State.BlockOk (s : State) (a n align : Nat) : Prop where
  aligned : a % align = 0
  inRows : s.localOk s.now.cell s.cur a n = true
  good : s.badLocal a n = none
  quiet : s.rowsBusy a n = false

/-- The executing instruction is at its first step, and takes an operand block that it reads now as a whole (R207; `late`, log 13). -/
structure State.AtOnce (s : State) : Prop where
  first : s.cur.stage = 0
  fresh : s.cur.answers = []
  whole : s.late.headD false = false

/-- One more entry of `late` is used up. -/
def State.timed (s : State) : State := { s with late := s.late.tail }

/-- It has taken one operand block. -/
def State.tookBlock (s : State) : State := s.timed

/-- It takes the first piece of its block and goes on in its next step, with the operands `ops` that it has read from its registers
and that piece kept (log 13). -/
def State.tookPiece (s : State) (ops : Nat) (piece : List Byte) : State :=
  s.tookBlock.modCur fun x => { x with stage := 1025, answers := [.word 512 ops, .word 1024 (ofBytes piece)] }

/-- The access of the executing context whose result another unit returns (R40). -/
def State.owing (s : State) (op : AccOp) (dest : Dest) : Access :=
  { id := s.nextId, cell := s.now.cell, ctx := s.now.ctx, act := s.cur.acts.toNat, va := 0, place := noHome, op := op
    dest := dest, sys := s.isSys, trap := s.cur.inTrap, launch := s.cur.launch.map BitVec.toNat, lcell := s.cur.lcell.toNat }

/-- The interlocked access of the executing context to a local or window place that goes on its way to its home (R217, R223, log 16). -/
def State.lockedTo (s : State) (va : Nat) (place : Place) (op : AccOp) (d : Reg) (seen : Option Nat) : Access :=
  { s.owing op (.s d) with va := va, place := place, locked := true, seen := seen }

/-- A result that is known at issue and has still to return (R40). -/
def State.answered (s : State) (d : Reg) (v : Word) : Access :=
  { s.owing (.answer v.toNat) (.s d) with place := .pad s.now.cell 0, phase := .done v.toNat 0 }

/-! ### Rounding (R125, R131, R132) -/

/-- The value of a finite datum; 0 for another. -/
def Fp.value : Fp → ℚ
  | .fin neg m e => (if neg then -1 else 1) * m * 2 ^ e
  | _ => 0

/-- The magnitude whose encoding, the sign apart, is `b`: in rising order of `b`, and the exponent unbounded above (R125, R131). -/
def Fmt.mag (t : Fmt) (b : Nat) : ℚ :=
  if b / 2 ^ t.fb = 0 then b * 2 ^ t.minExp else ((2 ^ t.fb + b % 2 ^ t.fb : Nat) : ℚ) * 2 ^ (t.minExp + (b / 2 ^ t.fb : Nat) - 1)

/-- `out` is the encoding and the flags of Round of a non-zero value with sign `neg`, whose magnitude is given by how every
number compares with it (R131, R132): it lies from `mag b` to below `mag (b + 1)`; `up` is the choice of the larger of the two. -/
def Fmt.Rounds (t : Fmt) (r : Rnd) (neg : Bool) (v : ℚ → Ordering) (out : Nat × BitVec 5) : Prop :=
  ∃ b : Nat,
    let lo := t.mag b; let hi := t.mag (b + 1)
    let part : ℚ := (r.draw + 1) / 65536 * (hi - lo)
    let up := match r.mode with
      | 0 => v ((lo + hi) / 2) = .lt ∨ (v ((lo + hi) / 2) = .eq ∧ b % 2 = 1)
      | 1 => False
      | 2 => neg = false
      | 3 => neg = true
      | _ => if neg then v (hi - part) = .lt else v (lo + part) ≠ .gt
    let top := (2 ^ t.eb - 1) * 2 ^ t.fb
    v lo ≠ .gt ∧ v hi = .gt ∧ ∃ c, (v lo = .eq ∨ ¬ up → c = b) ∧ (v lo ≠ .eq → up → c = b + 1) ∧
      (top ≤ c → out = (if r.mode = 1 ∨ (r.mode = 2 ∧ neg = true) ∨ (r.mode = 3 ∧ neg = false) then t.maxBits neg else t.infBits neg,
        flagOF ||| flagNX)) ∧
      (c < top → out = (t.zero neg + c,
        (if v lo = .eq then 0 else flagNX) ||| (if v lo ≠ .eq ∧ c < 2 ^ t.fb then flagUF else 0)))

/-! ### Vector results -/

/-- `w` is v[D] after a lane-wise form of type `y` whose element `i` computes `f i`: the active elements are replaced and
every other one keeps its bits (R148). -/
def State.Lanewise (s : State) (y : BitVec 3) (p : Fin 8) (d : Reg) (f : Nat → Nat) (w : Vec) : Prop :=
  ∀ i, i < lanes y → elem y w i = if active (s.p p) y i then f i % 2 ^ elemW y else s.el y d i

/-- The flags that the active elements raise (R148). -/
def State.laneFlags (s : State) (y : BitVec 3) (p : Fin 8) (f : Nat → BitVec 5) : BitVec 5 :=
  (List.range (lanes y)).foldl (fun fl i => if active (s.p p) y i then fl ||| f i else fl) 0

/-- The state after v[D] has taken `w` in the active elements of type `y`. -/
def State.putLanes (s : State) (y : BitVec 3) (p : Fin 8) (d : Reg) (w : Vec) : State :=
  s.setVLanes d w (byteLanes y (active (s.p p) y))

end Sys2Proof.Machine
end

