-- ==== Sys2Proof/WellFormed.lean ====
section
/-! DEFINITION. Well-formed instructions: the terms some word of the part's encoding may hold (R80). -/
namespace Sys2Proof

/-- The operand values an encoding may hold.  An event has none and is always well formed; its arguments
are data of the step (log 3). -/
def WellFormed (i : Instr) : Bool := legal i

/-- A well-formed instruction that a kind of cell may execute (R64, R80). -/
def WellFormedOn (c : CellKind) (i : Instr) : Bool := legal i && allowedOn c i

end Sys2Proof
end

