-- ==== Sys2Proof/Certificates/Slice0/Obligations.lean ====
section
/-! DEFINITION. The statements for the provers.  `Executes`, `Runs`, `Jumps`, `Retires` and `Traps` stand in Safety.lean. -/
open Sys2Proof Sys2Proof.Machine

/-! ### Reset, decoding and the step -/

/-- After reset: every compute cell is at OP 4 and no context runs (R406), FFLAGS holds its entry value 0 (one register of R64), DLDEF is
100,000 and CODELIM admits the whole code store (two registers of R247), the eight fabric registers of R319 hold the values it gives, with
the round set and the reach mask not yet written, THERMLIM is 105 (R398), and the module is neither held nor halted.  That the PC is 0 and the inboxes are empty is the model's choice (log 1), and so is that memory lists nothing (log 4). -/
def Obligations.ResetState : Prop :=
  (∀ n, (State.reset.cell n).opcur = 4 ∧ (State.reset.cell n).dldef = 100000 ∧ (State.reset.cell n).codelim = 0x4000 ∧
    (State.reset.cell n).slots = [] ∧ (State.reset.cell n).halted = false) ∧
  (∀ n k, (State.reset.ctx n k).busy = false ∧ (State.reset.ctx n k).pc = 0 ∧ (State.reset.ctx n k).fflags = 0) ∧
  State.reset.rndlen = 65536 ∧ State.reset.rounds.send = 0 ∧ State.reset.rounds.recv = 0 ∧ State.reset.rndset = 0 ∧
  State.reset.reachva = 0 ∧ State.reset.rto = 16384 ∧ State.reset.parkctl = 0 ∧ State.reset.faberr = 0 ∧
  State.reset.rounds.set = none ∧ State.reset.reach = none ∧ State.reset.thermlim = 105 ∧
  State.reset.hbm = [] ∧ State.reset.pad = [] ∧ State.reset.held = false ∧ State.reset.stopped = false

/-- The memories of the reset state are canonical. -/
def Obligations.ResetMemoryOk : Prop := State.reset.MemoryOk

/-- Every step keeps the memories canonical, whatever runs. -/
def Obligations.StepKeepsMemoryOk : Prop := ∀ s t, s.MemoryOk → step s = .next t → t.MemoryOk

/-- Decoding the bytes of an instruction gives it back with its switch marker, and leaves what follows (R66-R79). -/
def Obligations.DecodeOfEncode : Prop :=
  ∀ i, WellFormed i = true → width i ≠ 0 → ∀ (sw : Bool) (rest : List Byte), decode (encode i sw ++ rest) = .ok (i, sw, rest)

/-- The other direction: bytes that decode are the encoding of what they decode to, so no bit of a word is dropped. -/
def Obligations.EncodeOfDecode : Prop :=
  ∀ (l rest : List Byte) i sw, decode l = .ok (i, sw, rest) → l = encode i sw ++ rest

/-- Words that the spec writes out (R94, R101) and words assembled by hand from the encoding tables. -/
def Obligations.DecodeWords : Prop :=
  decodeTableWord 32 0x00020C21 = some (.li 12 0x10) ∧
  decodeTableWord 32 0x40020C25 = some (.lih 12 0x10 2) ∧
  decodeTableWord 32 0x00000005 = some (.addi 0 0 0) ∧
  decodeTableWord 32 0x00B94E51 = some (.ldl 14 10 6 5) ∧
  decodeTableWord 32 0x10A96969 = some (.amoadd 9 11 10 1 0) ∧
  decodeTableWord 32 0x60882391 = some (.vadd 3 1 2 1 3) ∧
  decodeTableWord 32 0x103D6045 = some (.spawnPath 0 11 15 0) ∧
  decodeTableWord 32 0x00812085 = some (.mma 9) ∧
  decodeTableWord 32 0x008120C1 = some (.trap 9) ∧
  decodeTableWord 16 0x003C = some .cEndtask ∧
  decodeTableWord 16 0x0000 = none ∧
  decodeTableWord 32 0xFFFFFFFF = none

/-- When the cell whose turn it is has a ready context (R28) and the halfwords at its PC, as the context fetches them (R84),
decode to `i`, the step is `exec` of `i` on that context, after the cell's clock has moved on; the step adds nothing else.  A
context that follows issues the instruction its leader has fed it for the address it stands at (R43, R44).
An event that stands first in the agenda is the next step. -/
def Obligations.StepRuns : Prop :=
  (∀ (s : State) (k : Nat) (i : Instr), let n := s.turns.headD s.now.cell
    s.agenda = [] → s.held = false → s.boot.failed = false →
    s.ticked.unhurried n = true → s.ticked.nextCtx n = some k → (s.ticked.ctx n k).pendingTrap = none →
    (s.ticked.ctx n k).stream = [] →
    let h := s.fetched n k (s.ctx n k).pc.toNat
    decodePair h (if (s.ctx n k).pc = 0x3FFF then 0 else s.fetched n k ((s.ctx n k).pc.toNat + 1)) = .ok i →
    step s = exec i (s.ticked.issuing n k (swAt h))) ∧
  (∀ (s : State) (k : Nat) (i : Instr) (sw : Bool) (pc next : CodeAddr) (r : List (Instr × Bool × CodeAddr × CodeAddr)),
    let n := s.turns.headD s.now.cell; let issuing := s.ticked.issuing n k sw
    s.agenda = [] → s.held = false → s.boot.failed = false →
    s.ticked.unhurried n = true → s.ticked.nextCtx n = some k → (s.ticked.ctx n k).pendingTrap = none →
    (s.ticked.ctx n k).stream = (i, sw, pc, next) :: r → pc = (s.ticked.ctx n k).pc →
    step s = exec i { issuing with now := { issuing.now with streamed := true } }) ∧
  (∀ (s : State) (i : Instr) (arg : EventArg) (rest : List (Instr × EventArg)),
    s.agenda = (i, arg) :: rest → width i = 0 → s.boot.failed = false → (s.held = false ∨ i = .reset) →
    step s = exec i { s with agenda := rest, now := { s.now with arg := arg } })

/-- A step stops in one way only: a thermal trip holds the module and the step is not a RESET (R398).  No instruction
faults and none is refused. -/
def Obligations.StepStopsOnlyWhenHeld : Prop :=
  (∀ s r, step s ≠ .refused r) ∧
  (∀ s f, step s = .fault f ↔ f = .heldUntilReset ∧ s.held = true ∧ ∀ arg rest, s.agenda ≠ (.reset, arg) :: rest) ∧
  ∀ i s, ∃ t, exec i s = .next t

/-! ### Registers -/

/-- s[R], p[P] and v[R] after a write (R29, R70): s0 reads zero and discards writes, p0 reads all ones and discards writes, every
other register takes the value, and no other register of any file and no other context changes. -/
def Obligations.RegisterWrites : Prop :=
  (∀ (s : State) (d r : Reg) (w : Word), (s.setS d w).s r = (if r = 0 then 0 else if r = d then w else s.s r)) ∧
  (∀ (s : State) (d : Reg) (w : Word), (∀ r, (s.setS d w).v r = s.v r) ∧ (∀ r, (s.setS d w).p r = s.p r)) ∧
  (∀ (s : State) (d r : Fin 8) (w : Pred),
    (s.setP d w).p r = (if r = 0 then 0xFFFF else if r = d then w else s.p r)) ∧
  (∀ (s : State) (d r : Reg) (w : Vec), (s.setV d w).v r = (if r = d then w else s.v r)) ∧
  (∀ (s : State) (d : Fin 8) (w : Pred), (∀ r, (s.setP d w).s r = s.s r) ∧ (∀ r, (s.setP d w).v r = s.v r)) ∧
  (∀ (s : State) (d : Reg) (w : Vec), (∀ r, (s.setV d w).s r = s.s r) ∧ (∀ r, (s.setV d w).p r = s.p r)) ∧
  (∀ (s : State) (n k : Nat), ¬ (n = s.now.cell ∧ k % 4 = s.now.ctx % 4) →
    (∀ (d : Reg) (w : Word), (s.setS d w).ctx n k = s.ctx n k) ∧ (∀ (d : Fin 8) (w : Pred), (s.setP d w).ctx n k = s.ctx n k) ∧
    (∀ (d : Reg) (w : Vec), (s.setV d w).ctx n k = s.ctx n k))

/-! ### Scalar arithmetic (R90-R97) -/

/-- ALU (R90): each of the seventeen operations completes with s[D] the table's result of s[A] and s[B] modulo 2^64, shifts by
b[5:0], and changes nothing else but what every completed instruction changes. -/
def Obligations.AluResults : Prop := ∀ (d a b : Reg) (s : State), let x := s.s a; let y := s.s b
  ∀ p ∈ [(Instr.add d a b, x + y), (.sub d a b, x - y), (.and d a b, x &&& y), (.or d a b, x ||| y), (.xor d a b, x ^^^ y),
    (.andn d a b, x &&& ~~~y), (.orn d a b, x ||| ~~~y), (.sll d a b, x <<< (y.toNat % 64)),
    (.srl d a b, x >>> (y.toNat % 64)), (.sra d a b, x.sshiftRight (y.toNat % 64)),
    (.slt d a b, if x.toInt < y.toInt then 1 else 0), (.sltu d a b, if x.toNat < y.toNat then 1 else 0),
    (.min d a b, if x.toInt ≤ y.toInt then x else y), (.max d a b, if x.toInt ≤ y.toInt then y else x),
    (.minu d a b, if x.toNat ≤ y.toNat then x else y), (.maxu d a b, if x.toNat ≤ y.toNat then y else x),
    (.seq d a b, if x = y then 1 else 0)],
  Executes p.1 s → Runs p.1 s (s.setS d p.2)

/-- Immediates and constants (R91-R94): the immediate is sign-extended; LIH replaces one quarter of s[D] and keeps the rest. -/
def Obligations.ImmediateResults : Prop :=
  (∀ (d a : Reg) (imm : BitVec 14) (s : State), let x := s.s a; let y := imm.signExtend 64
    ∀ p ∈ [(Instr.addi d a imm, x + y), (.andi d a imm, x &&& y), (.ori d a imm, x ||| y), (.xori d a imm, x ^^^ y),
      (.slti d a imm, if x.toInt < y.toInt then 1 else 0), (.sltiu d a imm, if x.toNat < y.toNat then 1 else 0)],
    Executes p.1 s → Runs p.1 s (s.setS d p.2)) ∧
  (∀ (d a : Reg) (h : BitVec 6) (s : State), let x := s.s a
    ∀ p ∈ [(Instr.slli d a h, x <<< h.toNat), (.srli d a h, x >>> h.toNat), (.srai d a h, x.sshiftRight h.toNat)],
    Executes p.1 s → Runs p.1 s (s.setS d p.2)) ∧
  (∀ (d : Reg) (h : BitVec 16) (q : BitVec 2) (s : State), Executes (.lih d h q) s →
    ∃ w : Word, Runs (.lih d h q) s (s.setS d w) ∧
      ∀ j : Nat, j < 4 → w.extractLsb' (16 * j) 16 = (if j = q.toNat then h else (s.s d).extractLsb' (16 * j) 16))

/-- LI (R93): s[D] takes the 19-bit immediate, sign-extended. -/
def Obligations.LiResult : Prop := ∀ (d : Reg) (imm : BitVec 19) (s : State), Executes (.li d imm) s →
  Runs (.li d imm) s (s.setS d (BitVec.ofInt 64 imm.toInt))

/-- MULDIV (R95).
BITS and RAND (R96, R97), each result by what its bits are. -/
def Obligations.MulDivBitResults : Prop :=
  (∀ (d a b : Reg) (s : State), let x := s.s a; let y := s.s b
    ∀ p ∈ [(Instr.mul d a b, BitVec.ofInt 64 (x.toInt * y.toInt)),
      (.mulh d a b, BitVec.ofInt 64 (x.toInt * y.toInt / 2 ^ 64)),
      (.mulhsu d a b, BitVec.ofInt 64 (x.toInt * (y.toNat : Int) / 2 ^ 64)),
      (.mulhu d a b, BitVec.ofNat 64 (x.toNat * y.toNat / 2 ^ 64)),
      (.div d a b, if y = 0 then BitVec.allOnes 64 else BitVec.ofInt 64 (x.toInt.tdiv y.toInt)),
      (.divu d a b, if y = 0 then BitVec.allOnes 64 else BitVec.ofNat 64 (x.toNat / y.toNat)),
      (.rem d a b, if y = 0 then x else BitVec.ofInt 64 (x.toInt - y.toInt * x.toInt.tdiv y.toInt)),
      (.remu d a b, if y = 0 then x else BitVec.ofNat 64 (x.toNat % y.toNat))],
    Executes p.1 s → Runs p.1 s (s.setS d p.2)) ∧
  (∀ (d a b : Reg) (s : State), let x := s.s a
    (Executes (.clz d a) s → ∃ n, n ≤ 64 ∧ Runs (.clz d a) s (s.setS d (BitVec.ofNat 64 n)) ∧
      (∀ j, j < n → x.getLsbD (63 - j) = false) ∧ (n < 64 → x.getLsbD (63 - n) = true)) ∧
    (Executes (.ctz d a) s → ∃ n, n ≤ 64 ∧ Runs (.ctz d a) s (s.setS d (BitVec.ofNat 64 n)) ∧
      (∀ j, j < n → x.getLsbD j = false) ∧ (n < 64 → x.getLsbD n = true)) ∧
    (Executes (.popc d a) s → Runs (.popc d a) s (s.setS d (BitVec.ofNat 64 ((List.range 64).filter (x.getLsbD ·)).length))) ∧
    (Executes (.bswap d a) s → ∃ w : Word, Runs (.bswap d a) s (s.setS d w) ∧
      ∀ k : Nat, k < 8 → w.extractLsb' (8 * k) 8 = x.extractLsb' (8 * (7 - k)) 8) ∧
    (Executes (.brev d a) s → ∃ w : Word, Runs (.brev d a) s (s.setS d w) ∧ ∀ k : Nat, k < 64 → w.getLsbD k = x.getLsbD (63 - k)) ∧
    (Executes (.rol d a b) s → Runs (.rol d a b) s (s.setS d (x.rotateLeft ((s.s b).toNat % 64)))) ∧
    (Executes (.ror d a b) s → Runs (.ror d a b) s (s.setS d (x.rotateRight ((s.s b).toNat % 64)))) ∧
    (Executes (.rand d) s → ∃ u, Runs (.rand d) s u ∧
      u.s d = (if d = 0 then 0 else mix (s.cur.jseed ^^^ s.cur.lcell.zeroExtend 64 * 0x5851F42D4C957F2D) s.cur.srctr) ∧
      u = (s.setS d (u.s d)).modCur fun x => { x with srctr := s.cur.srctr + 1 }))

/-! ### Control flow (R98-R107) -/

/-- BR (R98): a taken branch transfers to PC plus the signed offset modulo 2^14; another falls through.
JMP, CALL and JREG (R99, R100): the target of JREG is computed before the link is written. -/
def Obligations.BranchesAndJumps : Prop :=
  (∀ (a b : Reg) (o : BitVec 11) (s : State), let x := s.s a; let y := s.s b
    ∀ p ∈ [(Instr.beq a b o, decide (x = y)), (.bne a b o, decide (x ≠ y)), (.blt a b o, decide (x.toInt < y.toInt)),
      (.bge a b o, decide (y.toInt ≤ x.toInt)), (.bltu a b o, decide (x.toNat < y.toNat)), (.bgeu a b o, decide (y.toNat ≤ x.toNat))],
    Executes p.1 s → if p.2 = true then Jumps p.1 s s (BitVec.ofInt 14 (s.cur.pc.toNat + o.toInt)) else Runs p.1 s s) ∧
  (∀ (d a : Reg) (o : BitVec 24) (imm : BitVec 14) (s : State),
    let link : Word := (s.cur.pc + 2).zeroExtend 64
    (Executes (.jmp o) s → Jumps (.jmp o) s s (BitVec.ofInt 14 (s.cur.pc.toNat + o.toInt))) ∧
    (Executes (.call o) s → Jumps (.call o) s (s.setS 1 link) (BitVec.ofInt 14 (s.cur.pc.toNat + o.toInt))) ∧
    (Executes (.jreg d a imm) s → Jumps (.jreg d a imm) s (s.setS d link) ((s.s a + imm.signExtend 64).setWidth 14)))

/-- LOOP (R104): with three active loops it traps LOOPNEST with the count; else it opens loop k, and a count of 0 goes to
the loop's end.
LEXIT (R106): the count of the innermost active loop becomes 0; with no active loop it changes nothing. -/
def Obligations.LoopForms : Prop :=
  (∀ (a : Reg) (imm : BitVec 14) (s : State), Executes (.loop a imm) s →
    let x := s.cur; let n := s.s a; let le := BitVec.ofInt 14 (x.pc.toNat + imm.toInt)
    if x.depth = 3 then Traps (.loop a imm) s causeLoopnest n
    else ∃ t, exec (.loop a imm) s = .next t ∧ ∃ y : Ctx,
      Retires (s.modCur fun _ => y) (if n = 0 then le else x.pc + 2) false t ∧
      y = { x with ls := y.ls, le := y.le, lc := y.lc } ∧
      ∀ j : Fin 3, y.ls[j] = (if j.val = x.depth then x.pc + 2 else x.ls[j]) ∧
        y.le[j] = (if j.val = x.depth then le else x.le[j]) ∧ y.lc[j] = (if j.val = x.depth then n else x.lc[j])) ∧
  (∀ (s : State), Executes .lexit s → ∃ y : Ctx,
    Runs .lexit s (s.modCur fun _ => y) ∧ y = { s.cur with lc := y.lc } ∧
    ∀ j : Fin 3, y.lc[j] = (if j.val + 1 = s.cur.depth then 0 else s.cur.lc[j]))

/-- The loop depth (R103).
The back-edge (R105): when sequential flow reaches LE of the innermost active loop its count goes down by 1, and control
goes to LS unless the count is now 0; any other next address changes nothing but the PC. -/
def Obligations.LoopBackEdge : Prop :=
  (∀ x : Ctx,
    (x.lc[0] = 0 → x.depth = 0) ∧ (x.lc[0] ≠ 0 → x.lc[1] = 0 → x.depth = 1) ∧
    (x.lc[0] ≠ 0 → x.lc[1] ≠ 0 → x.lc[2] = 0 → x.depth = 2) ∧
    (x.lc[0] ≠ 0 → x.lc[1] ≠ 0 → x.lc[2] ≠ 0 → x.depth = 3)) ∧
  (∀ (x : Ctx) (next : CodeAddr),
    (x.depth = 0 → x.backEdge next = { x with pc := next }) ∧
    ∀ j : Fin 3, x.depth = j.val + 1 →
      (next ≠ x.le[j] → x.backEdge next = { x with pc := next }) ∧
      (next = x.le[j] → x.backEdge next =
        { x with lc := x.lc.set j.val (x.lc[j] - 1), pc := if x.lc[j] = 1 then next else x.ls[j] }))

/-- Thirteen compact forms (R78): each has the effect of its 32-bit equivalent, over its own length.  The other three stand in NearLoads
(c.ldl), NearStoresAndTraps (c.stl) and EndtaskEnds (c.endtask). -/
def Obligations.CompactForms : Prop :=
  (∀ (d a : Reg) (s : State), let x := s.s d; let y := s.s a
    ∀ p ∈ [(Instr.cMv d a, y), (.cAdd d a, x + y), (.cSub d a, x - y), (.cAnd d a, x &&& y), (.cOr d a, x ||| y), (.cXor d a, x ^^^ y)],
    Executes p.1 s → Runs p.1 s (s.setS d p.2)) ∧
  (∀ (d : Reg) (imm : BitVec 5) (s : State), let x := s.s d; let y := imm.signExtend 64
    ∀ p ∈ [(Instr.cAddi d imm, x + y), (.cLi d imm, y), (.cSlli d imm, x <<< imm.toNat), (.cSrli d imm, x >>> imm.toNat),
      (.cSrai d imm, x.sshiftRight imm.toNat)],
    Executes p.1 s → Runs p.1 s (s.setS d p.2)) ∧
  (∀ (d : Reg) (imm : BitVec 5) (s : State), Executes (.cBnez d imm) s →
    if s.s d ≠ 0 then Jumps (.cBnez d imm) s s (BitVec.ofInt 14 (s.cur.pc.toNat + imm.toInt)) else Runs (.cBnez d imm) s s) ∧
  (∀ (a : Reg) (s : State), Executes (.cJreg a) s → Jumps (.cJreg a) s s ((s.s a).setWidth 14))

/-! ### Control and status registers (R64, R121, R122) -/

/-- CSRRW, CSRRS and CSRRC (R121): s[D] takes the old value; the set and clear forms with s0 write nothing.
A register read after it is written holds the value cut to its width (R64, R121, R247, R319, R398); FRM keeps its value
when 5 to 7 is written, TRAPSTATE changes in its two low bits alone, XROOT is a multiple of 32 KiB, CODELIM is at most
0x4000. -/
def Obligations.CsrRegisters : Prop :=
  (∀ (d a : Reg) (k : BitVec 10) (s : State),
    let old := s.csrRead s.now.cell s.now.ctx k.toNat
    (Executes (.csrrw d a k) s → Runs (.csrrw d a k) s ((s.setS d old).csrWrite s.now.cell s.now.ctx k.toNat (s.s a))) ∧
    (Executes (.csrrs d a k) s → Runs (.csrrs d a k) s
      (if a = 0 then s.setS d old else (s.setS d old).csrWrite s.now.cell s.now.ctx k.toNat (old ||| s.s a))) ∧
    (Executes (.csrrc d a k) s → Runs (.csrrc d a k) s
      (if a = 0 then s.setS d old else (s.setS d old).csrWrite s.now.cell s.now.ctx k.toNat (old &&& ~~~(s.s a))))) ∧
  (∀ (s : State) (n k : Nat) (w : Word),
    (∀ p ∈ [(0x010, 5), (0x012, 64), (0x013, 64), (0x018, 14), (0x019, 14), (0x01A, 64), (0x01B, 14), (0x01C, 14), (0x01D, 64),
        (0x01E, 14), (0x01F, 14), (0x020, 64), (0x100, 8), (0x101, 14), (0x102, 64), (0x200, 14), (0x201, 14), (0x204, 64),
        (0x205, 64), (0x206, 64), (0x207, 64), (0x208, 32), (0x2C0, 32), (0x2C5, 32), (0x2C6, 64), (0x2E0, 8)],
      (s.csrWrite n k p.1 w).csrRead n k p.1 = BitVec.ofNat 64 (w.toNat % 2 ^ p.2)) ∧
    (∀ j, j < 48 → (s.csrWrite n k (0x240 + j) w).csrRead n k (0x240 + j) = BitVec.ofNat 64 (w.toNat % 2 ^ 11)) ∧
    (s.csrWrite n k 0x011 w).csrRead n k 0x011 =
      (if w.toNat % 8 < 5 then BitVec.ofNat 64 (w.toNat % 8) else s.csrRead n k 0x011) ∧
    (s.csrWrite n k 0x103 w).csrRead n k 0x103 =
      BitVec.ofNat 64 ((s.csrRead n k 0x103).toNat / 4 * 4 + w.toNat % 4) ∧
    (s.csrWrite n k 0x210 w).csrRead n k 0x210 = BitVec.ofNat 64 (w.toNat % 2 ^ 52 / 2 ^ 15 * 2 ^ 15) ∧
    (s.csrWrite n k 0x209 w).csrRead n k 0x209 = BitVec.ofNat 64 (min 0x4000 (w.toNat % 2 ^ 15)))

/-! ### Tasks (R39-R58, R108-R120) -/

/-- ENDTASK and its compact form (R42, R109): while results are owed the context only waits; else the close of its armed
join, its join result and its LIVE update are sent, in this order, and the context is free with RETIRED one higher. -/
def Obligations.EndtaskEnds : Prop := ∀ (a : Reg) (s : State),
  ∀ p ∈ [(Instr.endtask a, s.s a), (.cEndtask, 0)], Executes p.1 s →
  if s.owed s.now.cell s.now.ctx = true then exec p.1 s = .next (s.modCur fun x => { x with ending := true })
  else ∃ t, exec p.1 s = .next t ∧ t.cur.busy = false ∧ t.cur.join = none ∧ t.cur.retired = s.cur.retired + 1 ∧
    t.cur.s = s.cur.s ∧ t.posts = s.posts ∧ t.pad = s.pad ∧ t.hbm = s.hbm ∧
    t.records = s.records ++ (match s.cur.join with | some (va, n) => [RecOp.joinClose va.toNat n s.nextId] | none => [])
      ++ (if s.cur.jrec = 0 then [] else [RecOp.joinChild s.cur.jrec.toNat s.cur.jslot.toNat p.2.toNat false s.nextId])
      ++ (if s.cur.launch = none then [] else [RecOp.liveSub s.cur.level.toNat])

/-- SPAWN (R111-R114): with its block in order, a path of depth below 9, room in the armed join and in the cell's queue, the
child's path is written to s[D], the join counts one more child, and one child message leaves, with the class, the four
arguments of the block and the join record and slot of its parent: to the logical cell that the hash of its path names, on a
NEAR walk from the cell's cluster with the block's radius and heading (a depot cell's cluster is the model's choice, log 12),
or onto the deque.
An operand block is read as a whole or in pieces of `g` bytes, one a step (R207, R347; the model's choice, log 13): how a SPAWN begins,
and what every form with a block has read when it goes on.
JOIN (R115): an armed join is closed, the record is written open at its home, and the join is armed with no child. -/
def Obligations.SpawnAndJoin : Prop :=
  (∀ (d a : Reg) (c : BitVec 6) (r : BitVec 1) (s : State),
    let base := (s.s a).toNat
    let child : Word := s.cur.path + 1 + BitVec.ofNat 64 (c.toNat * 2 ^ (6 * (s.cur.path.toNat % 16 + 1) - 2))
    ∀ p ∈ [(Instr.spawnPath d a c r, 0), (.spawnNear d a c r, 1), (.spawnSteal d a c r, 2)], Executes p.1 s →
    s.BlockOk base 48 16 → s.outFull = false →
    (s.cur.stage = 0 → s.cur.answers = [] → s.late.headD false = true → exec p.1 s = .next (s.tookPiece base (s.localBytes base 1))) ∧
    (s.AtOnce → 16 ≤ s.localRead (base + 32) 1 → s.cur.launch ≠ none → s.cur.path.toNat % 16 < 9 → pathValid s.cur.path = true →
    s.cur.joinFull = false → s.here.deque.length < 32 →
    ∃ u q, Runs p.1 s u ∧ u.s d = (if d = 0 then 0 else child) ∧
      u.cur.join = s.cur.join.map (fun j => (j.1, j.2 + 1)) ∧ u.here.sent = s.here.sent + 1 ∧
      q.msg.path = child ∧ q.msg.cls = BitVec.ofNat 8 (s.localRead (base + 32) 1) ∧ some q.msg.launch = s.cur.launch ∧
      q.msg.jrec = ((s.cur.join.map (·.1)).getD 0) ∧
      q.msg.jslot = (match s.cur.join with | some (_, n) => BitVec.ofNat 12 n | none => 0) ∧
      (∀ j : Fin 4, q.msg.args[j] = BitVec.ofNat 64 (s.localRead (base + 8 * j.val) 8)) ∧
      q.msg.rel = (r == 1) ∧ q.msg.place = BitVec.ofNat 2 p.2 ∧ q.msg.srcpcell = BitVec.ofNat 17 s.now.cell ∧
      q.after = (if r = 1 then s.openAccesses else []) ∧ q.gate = .pending s.nextId ∧
      u.records = s.records ++ [RecOp.liveAdd (s.levelVa q.msg.launch.toNat) s.nextId] ∧
      (if p.2 = 2 then u.posts = s.posts ∧ u.here.deque = q :: s.here.deque
        else u.posts = s.posts ++ [q] ∧ u.here.deque = s.here.deque) ∧
      (p.2 = 0 → q.target = .logical (BitVec.ofNat 16
        (pathCell (look {} s.launches q.msg.launch.toNat) child)).toNat) ∧
      (p.2 = 1 → q.target = .near (s.clusterXY s.now.cell).1 (s.clusterXY s.now.cell).2 (s.localRead (base + 34) 1 % 64)
        (s.localRead (base + 35) 1 % 32) (s.localRead (base + 33) 1 % 64)) ∧
      (p.2 = 2 → q.target = .physical s.now.cell))) ∧
  (∀ (s : State) (ops g skip a n : Nat), 0 < g → 0 < n → let pieces := (n + g - 1) / g; let k := s.cur.stage - 1024
    (k = 0 → skip = 0 → s.late.headD false = false → s.gather ops g skip a n = .ok (s.tookBlock, s.tookBlock)) ∧
    (s.cur.stage = 0 → s.cur.answers = [] → skip = 0 → s.late.headD false = true →
      s.gather ops g skip a n = .error (.wait (s.tookPiece ops (s.localBytes a g)))) ∧
    (k = 0 → skip ≠ 0 → s.gather ops g skip a n = .ok (s, s)) ∧
    (0 < k → k < skip + pieces → s.gather ops g skip a n = .error (.wait (s.modCur fun x => { x with
      stage := 1025 + k, answers := x.answers ++ [.word (1024 + k) (ofBytes (s.localBytes (a + g * (k - skip)) g))] }))) ∧
    (0 < k → skip + pieces ≤ k → s.MemoryOk → ∃ rd, s.gather ops g skip a n = .ok (s, rd) ∧ rd.cur = s.cur ∧
      ∀ j, j < n → rd.localRead (a + j) 1 = (s.word? (1024 + skip + j / g)).getD 0 / 256 ^ (j % g) % 256)) ∧
  (∀ (d a : Reg) (k : BitVec 8) (s : State) (pa pa' : Place) (key key' : Nat) (chk chk' : Bool),
    let va := (s.s a).toNat
    Executes (.join d a k) s → va % 8 = 0 → 16 ≤ k.toNat → s.cur.launch ≠ none →
    s.Mapped va true pa key chk → s.Mapped (va + 8) true pa' key' chk' →
    ∃ u, Runs (.join d a k) s u ∧ u.cur.join = some (s.s a, 0) ∧
      u.records = s.records ++ (match s.cur.join with | some (v, n) => [RecOp.joinClose v.toNat n s.nextId] | none => [])
        ++ [RecOp.liveAdd s.cur.level.toNat 0] ∧
      u.inflight = s.inflight ++
        [s.issuedTo (.join d a k) va pa key chk (.record 8 (k.toNat * 2 ^ 32 + 0xFFFF)) .none (k.toNat * 2 ^ 32 + 0xFFFF),
         { s.issuedTo (.join d a k) (va + 8) pa' key' chk' (.record 8 (s.s d).toNat) .none (s.s d).toNat with id := s.nextId + 1 }])

/-- YIELDCHK reads the pre-emption request (R117); FOLLOW waits for its leader's instructions, and does nothing on member 0;
UNFOLLOW ends following (R43, R118); CANCEL sends one update that sets CANCEL of an aligned level record (R119); RTQUIET answers at once
for the own cell and sends a query for another (R120). -/
def Obligations.TaskForms : Prop := ∀ (d a : Reg) (k : BitVec 10) (c : BitVec 8) (s : State),
  (Executes (.yieldchk d) s → Runs (.yieldchk d) s (s.setS d (s.cur.prq.zeroExtend 64))) ∧
  (Executes (.follow a k) s → if s.now.cell % 16 = 0 then Runs (.follow a k) s s
    else Runs (.follow a k) s (s.modCur fun x => { x with
      wait := .follow ((s.s a + k.zeroExtend 64).setWidth 14), following := false, stream := x.stream.take 1 })) ∧
  (Executes .unfollow s → Runs .unfollow s (s.modCur fun x => { x with following := false, stream := x.stream.take 1 })) ∧
  (∀ (pa : Place) (key : Nat) (chk : Bool), Executes (.cancel a) s → (s.s a).toNat % 64 = 0 →
    s.Mapped ((s.s a).toNat + 20) true pa key chk →
    Runs (.cancel a) s (s.launched (s.issuedTo (.cancel a) ((s.s a).toNat + 20) pa key chk (.orBits 4 1) .none 1))) ∧
  (Executes (.rtquiet d a c) s → s.s a = BitVec.allOnes 64 →
    Runs (.rtquiet d a c) s (s.setS d (BitVec.ofNat 64 (s.quiet s.now.cell c.toNat)))) ∧
  (∀ cell, Executes (.rtquiet d a c) s → s.s a ≠ BitVec.allOnes 64 → look? s.l2p ((s.s a).toNat % 65536) = some cell →
    ∃ u, Runs (.rtquiet d a c) s u ∧ ∃ acc, u = s.launched acc ∧ acc.op = .query 0 cell c.toNat ∧ acc.dest = .s d)

/-! ### Loads and stores (R222-R227) -/

/-- LDL, its compact form and LDC (R224): an aligned load from the private rows or the cluster window, with its line good,
no access to its home on the way and its cell not between operating points, writes s[D] at once, or goes on its way to its home,
interlocked, and no register changes yet (R217, R223; which of the two is `late`, the model's choice, logs 13 and 16). -/
def Obligations.NearLoads : Prop := ∀ (d a : Reg) (z : BitVec 3) (o : BitVec 11) (s : State),
  let ea := s.address a z o; let n := 2 ^ (z.toNat / 2)
  let loads := fun (i : Instr) (z : BitVec 3) (ea : Nat) (place : Place) (v : Word) =>
    (s.late.headD false = false → Runs i s (s.timed.setS d v)) ∧
    (s.late.headD false = true → Runs i s (s.timed.launched (s.lockedTo ea place (.load z) d (some v.toNat))))
  (Executes (.ldl d a z o) s → ea % n = 0 → s.LocalReady ea n →
    loads (.ldl d a z o) z ea (.pad s.now.cell (s.localAddr s.now.cell s.cur ea)) (loaded z (s.localRead ea n))) ∧
  (Executes (.cLdl d a) s → (s.s a).toNat % 8 = 0 → s.LocalReady (s.s a).toNat 8 →
    loads (.cLdl d a) 6 (s.s a).toNat (.pad s.now.cell (s.localAddr s.now.cell s.cur (s.s a).toNat))
      (BitVec.ofNat 64 (s.localRead (s.s a).toNat 8))) ∧
  (∀ cell addr, Executes (.ldc d a z o) s → ea % n = 0 → s.windowPlace ea = some (.pad cell addr) →
    s.homeBusy (.pad cell addr) = false → s.rowsHeld (.pad cell addr) = false → s.placeBad (.pad cell addr) = false →
    loads (.ldc d a z o) z ea (.pad cell addr) (loaded z (s.padRead cell addr n)))

/-- What the near loads and stores trap on (R222-R225), in order: a misaligned address, then one outside the rows, then, for a
load, a bad line; a compact form reports its 16-bit instruction (R78; DEDUCED where R222 has the address, log 17).
STL, its compact form and STC (R223, R225): in the executing cell's own rows the low bytes of s[D] are stored at once,
every other byte of the scratchpads and all of the HBM stay; a store to another cell's rows, behind an access on its way, to a
phase word whose home has an update to apply (log 9), or one that performs after its issue (log 13) leaves the cell as an access. -/
def Obligations.NearStoresAndTraps : Prop :=
  (∀ (d a : Reg) (z : BitVec 3) (o : BitVec 11) (s : State),
    let ea := s.address a z o; let n := 2 ^ (z.toNat / 2)
    ∀ i ∈ [Instr.ldl d a z o, .stl d a z o, .ldc d a z o, .stc d a z o], Executes i s →
    let place := if i = .ldl d a z o ∨ i = .stl d a z o then s.localPlace ea else s.windowPlace ea
    (ea % n ≠ 0 → Traps i s causeMisalign (BitVec.ofNat 64 ea)) ∧
    (ea % n = 0 → place = none → Traps i s causeLocalrange (BitVec.ofNat 64 ea)) ∧
    (∀ c x, ea % n = 0 → place = some (.pad c x) → s.homeBusy (.pad c x) = false → s.rowsHeld (.pad c x) = false →
      s.placeBad (.pad c x) = true → i = .ldl d a z o ∨ i = .ldc d a z o → Traps i s causeCheck (BitVec.ofNat 64 ea))) ∧
  (∀ (d a : Reg) (s : State), let ea := (s.s a).toNat
    ∀ i ∈ [Instr.cLdl d a, .cStl d a], Executes i s →
    (ea % 8 ≠ 0 → Traps i s causeMisalign (s.instrValue i)) ∧
    (ea % 8 = 0 → s.localPlace ea = none → Traps i s causeLocalrange (s.instrValue i))) ∧
  (∀ (d a : Reg) (z : BitVec 3) (o : BitVec 11) (s : State),
    let ea := s.address a z o; let n := 2 ^ (z.toNat / 2)
    ∀ p ∈ [(Instr.stl d a z o, ea, n, s.localPlace ea), (.stc d a z o, ea, n, s.windowPlace ea),
      (.cStl d a, (s.s a).toNat, 8, s.localPlace (s.s a).toNat)], Executes p.1 s → p.2.1 % p.2.2.1 = 0 →
    ∀ c x, p.2.2.2 = some (.pad c x) →
    (s.MemoryOk → c = s.now.cell → s.homeBusy (.pad c x) = false → s.late.headD false = false →
      s.wordTaken (.pad c x) p.2.2.1 = false → ∃ u, Runs p.1 s u ∧ u = { s with pad := u.pad, badPad := u.badPad, late := s.late.tail } ∧
        Stored s.pad u.pad (padKey c x) p.2.2.1 (s.s d).toNat) ∧
    (c ≠ s.now.cell ∨ s.homeBusy (.pad c x) = true ∨ s.late.headD false = true ∨ s.wordTaken (.pad c x) p.2.2.1 = true →
      s.storesOut < 32 →
      ∃ acc, Runs p.1 s { s.launched acc with late := s.late.tail } ∧ acc.place = .pad c x ∧
        acc.op = .store p.2.2.1 ((s.s d).toNat % 2 ^ (8 * p.2.2.1))))

/-- LD and ST (R178, R195, R224, R225): an aligned access to an address of this module's memory leaves the cell, and no
register and no byte changes yet; one to another module leaves as a message of the task's flow; one whose walk faults waits in
its slice's replay queue.
What LD and ST trap on (R195, R222, R224, R225): a misaligned address; an address of 2^60 or above, or one whose page
denies the access, traps PERM; an L1 miss makes the context wait for a walk of the page, and is not ready while 64 accesses of
the context await translation (R250). -/
def Obligations.GlobalLoadsAndStores : Prop :=
  (∀ (d a : Reg) (z : BitVec 3) (o : BitVec 11) (s : State),
    let ea := s.address a z o; let n := 2 ^ (z.toNat / 2); let x := (s.s d).toNat % 2 ^ (8 * n)
    ∀ p ∈ [(Instr.ld d a z o, false, AccOp.load z, Dest.s d, 0), (.st d a z o, true, .store n x, .none, x)],
    Executes p.1 s → ea % n = 0 →
    (∀ pl key chk, s.Mapped ea p.2.1 pl key chk →
      Runs p.1 s (s.launched (s.issuedTo p.1 ea pl key chk p.2.2.1 p.2.2.2.1 p.2.2.2.2))) ∧
    (ea < 2 ^ 60 → s.granuleHeld ea = false → s.storesOut < 32 →
      (∀ dev pa key chk, s.translate ea p.2.1 = .at ⟨.remote dev pa, key, chk⟩ → s.reaches dev = true → s.dark dev = false →
        s.flowRoom s.cur.lcell.toNat dev = true →
        ∃ u acc, Runs p.1 s u ∧ u.inflight = s.inflight ++ [acc] ∧ acc.place = .remote dev pa ∧ acc.op = p.2.2.1 ∧
          acc.dest = p.2.2.2.1 ∧ acc.phase = .sent dev (((s.findFlow s.cur.lcell.toNat dev).map (·.next)).getD 0) ∧
          u.hbm = s.hbm ∧ u.pad = s.pad ∧ u.cur = s.cur) ∧
      (s.translate ea p.2.1 = .park → s.awaiting < 64 → s.parkRoom ea 1 = true →
        let queue := fun s' : State => (look {} s'.slices (sliceOf ea)).replay
        ∃ u acc, Runs p.1 s u ∧ u.inflight = s.inflight ++ [acc] ∧ acc.phase = .parked ∧ acc.op = p.2.2.1 ∧
          ((queue s).any (s.isMiss (ea / 4096)) = false → queue u = queue s ++ [.access s.nextId]) ∧
          ((queue s).any (s.isMiss (ea / 4096)) = true → .access s.nextId ∈ queue u ∧ (queue u).length = (queue s).length) ∧
          u.hbm = s.hbm ∧ u.pad = s.pad ∧ u.cur = s.cur))) ∧
  (∀ (d a : Reg) (z : BitVec 3) (o : BitVec 11) (s : State),
    let ea := s.address a z o; let n := 2 ^ (z.toNat / 2)
    ∀ p ∈ [(Instr.ld d a z o, false), (.st d a z o, true)], Executes p.1 s →
    (ea % n ≠ 0 → Traps p.1 s causeMisalign (BitVec.ofNat 64 ea)) ∧
    (ea % n = 0 → 2 ^ 60 ≤ ea → Traps p.1 s causePerm (BitVec.ofNat 64 ea)) ∧
    (ea % n = 0 → ea < 2 ^ 60 → s.granuleHeld ea = false → s.storesOut < 32 →
      (s.translate ea p.2 = .perm → Traps p.1 s causePerm (BitVec.ofNat 64 ea)) ∧
      (s.translate ea p.2 = .miss → s.awaiting < 64 → ∃ t, exec p.1 s = .next t ∧ t.cur = { s.cur with wait := .walk (ea / 4096) } ∧
        t.ports.length = s.ports.length + 1 ∧ t.inflight = s.inflight) ∧
      (s.translate ea p.2 = .miss → 64 ≤ s.awaiting → exec p.1 s = .next s)))

/-- LDV and STV in the private rows and the cluster window (R226): the active bytes move at once, and no other byte changes;
a store within the executing cell.  A load may go on its way to its homes instead, interlocked, as one access of 16 bytes where it is
aligned and else as one for each active element (R207, R217, R223, R227): whether it does, `late`, is the model's choice (logs 13
and 16), and so is when a store of the cell reaches its rows.
LDV and STV in the global space (R223, R226, R227): with no active byte no access is made; an aligned access leaves the cell as
one access of 16 bytes, an unaligned one as one access for each active element, a store only while its accesses and those
outstanding are 32 at most; the destination and memory do not change yet. -/
def Obligations.VectorAccesses : Prop :=
  (∀ (d a b : Reg) (p : Fin 8) (n y : BitVec 3) (s : State) (addr : Nat → Nat) (cell : Nat → Nat),
    let ea := (s.s a + BitVec.ofInt 64 ((if 16 ≤ b.val then (b.val : Int) - 32 else b.val) * 16)).toNat
    let mask := activeBytes (s.p p) y; let eb := elemBytes y
    let els := (List.range (lanes y)).filter fun e => active (s.p p) y e
    let parts := if ea % 16 = 0 then (if mask = 0 then [] else [(0, 16)]) else els.map fun e => (e * eb, eb)
    let place := fun j => if n = 2 then s.windowPlace (ea + j) else s.localPlace (ea + j)
    let loadedByte := fun j => BitVec.ofNat 8 (s.padRead (cell j) (addr j) 1)
    n = 1 ∨ n = 2 → ea % elemBytes y = 0 →
    (∀ j, j < 16 → bit mask j = true → place j = some (.pad (cell j) (addr j))) →
    (Executes (.ldv d a b p n y) s →
      (∀ j, j < 16 → bit mask j = true → s.homeBusy (.pad (cell j) (addr j)) = false ∧
        s.rowsHeld (.pad (cell j) (addr j)) = false ∧ s.placeBad (.pad (cell j) (addr j)) = false) →
      (s.late.headD false = false → ∃ w, Runs (.ldv d a b p n y) s (s.timed.setVLanes d w mask) ∧
        ∀ j : Nat, j < 16 → w.extractLsb' (8 * j) 8 =
          (if bit mask j = true then loadedByte j else (s.v d).extractLsb' (8 * j) 8)) ∧
      (s.late.headD false = true → ∃ u accs, Runs (.ldv d a b p n y) s u ∧
        u = { s.timed with inflight := s.inflight ++ accs, nextId := s.nextId + accs.length } ∧
        accs.map (fun c => (c.va, some c.place, c.op, c.dest, c.locked)) = parts.map fun q =>
          (ea + q.1, vecPartPlace s (n == 2) ea mask q, AccOp.vload q.1 q.2 (mask / 2 ^ q.1 % 2 ^ q.2), Dest.v d, true))) ∧
    (s.MemoryOk → Executes (.stv d a b p n y) s → (∀ l ∈ s.late.take 16, l = false) → (∀ b ∈ s.inflight, b.accepted = false) →
      (∀ j, j < 16 → bit mask j = true → cell j = s.now.cell ∧ s.homeBusy (.pad (cell j) (addr j)) = false) →
      ∃ u, Runs (.stv d a b p n y) s u ∧ u = { s with pad := u.pad, badPad := u.badPad, late := u.late } ∧
        (∀ j : Nat, j < 16 → bit mask j = true → Memory.get u.pad (padKey (cell j) (addr j)) = (s.v d).extractLsb' (8 * j) 8) ∧
        ∀ k, (∀ j, j < 16 → bit mask j = true → k ≠ padKey (cell j) (addr j)) → Memory.get u.pad k = Memory.get s.pad k)) ∧
  (∀ (d a b : Reg) (p : Fin 8) (y : BitVec 3) (s : State) (place : Nat → Place)
      (key : Nat → Nat) (chk : Nat → Bool),
    let ea := (s.s a + BitVec.ofInt 64 ((if 16 ≤ b.val then (b.val : Int) - 32 else b.val) * 16)).toNat
    let eb := elemBytes y; let x := (s.v d).toNat; let mask := activeBytes (s.p p) y
    let els := (List.range (lanes y)).filter fun e => active (s.p p) y e
    ea % eb = 0 →
    (∀ i ∈ [Instr.ldv d a b p 0 y, .stv d a b p 0 y], Executes i s → els = [] → s.storesOut ≤ 32 → Runs i s s) ∧
    (Executes (.ldv d a b p 0 y) s → ea % 16 ≠ 0 →
      (∀ e ∈ els, s.Mapped (ea + e * eb) false (place e) (key e) (chk e)) →
      ∃ u accs, Runs (.ldv d a b p 0 y) s u ∧ u = { s with inflight := s.inflight ++ accs, nextId := s.nextId + els.length } ∧
        accs.map (fun c => (c.va, c.place, c.op, c.dest)) =
          els.map fun e => (ea + e * eb, place e, AccOp.vload (e * eb) eb (2 ^ eb - 1), Dest.v d)) ∧
    (Executes (.stv d a b p 0 y) s → ea % 16 ≠ 0 → s.storesOut + els.length ≤ 32 →
      (∀ e ∈ els, s.Mapped (ea + e * eb) true (place e) (key e) (chk e)) →
      ∃ u accs, Runs (.stv d a b p 0 y) s u ∧ u = { s with inflight := s.inflight ++ accs, nextId := s.nextId + els.length } ∧
        accs.map (fun c => (c.va, c.place, c.op, c.dest)) =
          els.map fun e => (ea + e * eb, place e, AccOp.vstore (e * eb) eb mask x, Dest.none)) ∧
    (Executes (.stv d a b p 0 y) s → ea % 16 ≠ 0 → 32 < s.storesOut + els.length → exec (.stv d a b p 0 y) s = .next s) ∧
    (∀ f pl k c, ea % 16 = 0 → f < 16 → bit mask f = true → (∀ j, j < f → bit mask j = false) →
      (∃ x, pl = .hbm x) ∨ (∃ q x, pl = .host q x) →
      (Executes (.ldv d a b p 0 y) s → s.Mapped (ea + f) false (pl.plus f) k c →
        Runs (.ldv d a b p 0 y) s (s.launched { s.issuedTo (.ldv d a b p 0 y) ea pl k c
          (.vload 0 16 mask) (.v d) 0 with pred := (s.p p).toNat, grain := eb })) ∧
      (Executes (.stv d a b p 0 y) s → s.Mapped (ea + f) true (pl.plus f) k c →
        Runs (.stv d a b p 0 y) s (s.launched { s.issuedTo (.stv d a b p 0 y) ea pl k c
          (.vstore 0 16 mask x) .none x with pred := (s.p p).toNat }))))

/-! ### Vectors (R148-R169) -/

/-- The lane-wise integer forms (R157-R161), TY 0 to 2: the active elements of v[D] take the result modulo 2^(element bits),
the others keep their bits, and no flag is raised. -/
def Obligations.VectorInteger : Prop := ∀ (d a b : Reg) (p : Fin 8) (y : BitVec 3) (s : State), y.toNat < 3 →
  let w := elemW y; let x := fun i => s.el y a i; let z := fun i => s.el y b i
  let xs := fun i => s.elS y a i; let zs := fun i => s.elS y b i; let c := fun i => s.el y d i
  let top : Int := 2 ^ (w - 1); let n : Int := 2 ^ w
  ∀ q ∈ [(Instr.vadd d a b p y, fun i => (x i + z i : Int)), (.vsub d a b p y, fun i => (x i - z i : Int)),
    (.vmul d a b p y, fun i => (x i * z i : Int)),
    (.vmin d a b p y, fun i => if xs i ≤ zs i then xs i else zs i), (.vmax d a b p y, fun i => if xs i ≤ zs i then zs i else xs i),
    (.vminu d a b p y, fun i => if x i ≤ z i then x i else z i), (.vmaxu d a b p y, fun i => if x i ≤ z i then z i else x i),
    (.vfma d a b p y, fun i => (x i * z i + c i : Int)), (.vfms d a b p y, fun i => (x i * z i - c i : Int)),
    (.vfnma d a b p y, fun i => (-(x i * z i) + c i : Int)), (.vfnms d a b p y, fun i => (-(x i * z i) - c i : Int)),
    (.vadds d a b p y, fun i => max (-top) (min (top - 1) (xs i + zs i))), (.vaddsu d a b p y, fun i => min (n - 1) (x i + z i)),
    (.vsubs d a b p y, fun i => max (-top) (min (top - 1) (xs i - zs i))), (.vsubsu d a b p y, fun i => max 0 ((x i : Int) - z i)),
    (.vnegs d a p y, fun i => if xs i = -top then top - 1 else -xs i),
    (.vand d a b p y, fun i => ((x i &&& z i : Nat) : Int)), (.vor d a b p y, fun i => ((x i ||| z i : Nat) : Int)),
    (.vxor d a b p y, fun i => ((x i ^^^ z i : Nat) : Int)), (.vandn d a b p y, fun i => ((x i &&& (2 ^ w - 1 - z i) : Nat) : Int)),
    (.vsll d a b p y, fun i => (x i : Int) * 2 ^ (z i % w)), (.vsrl d a b p y, fun i => (x i : Int) / 2 ^ (z i % w)),
    (.vsra d a b p y, fun i => xs i / 2 ^ (z i % w)),
    (.vabs d a p y, fun i => |xs i|), (.vneg d a p y, fun i => -(x i : Int)),
    (.vclz d a p y, fun i => (((List.range w).takeWhile fun j => !bit (x i) (w - 1 - j)).length : Int)),
    (.vpopc d a p y, fun i => (((List.range w).filter fun j => bit (x i) j).length : Int))],
  Executes q.1 s → ∃ u, Runs q.1 s (s.putLanes y p d u) ∧ s.Lanewise y p d (fun i => (q.2 i % n).toNat) u

/-- The lane-wise floating-point forms (R149, R157, R158, R161; VDIV and the special functions are R166's, the minimum and the
maximum R140's), TY 3 to 5: each active element is rounded once under FRM, the flags of the active elements are ORed into FFLAGS
and the inactive ones keep their bits (R148), and under RSR the counter advances by a draw for four elements (R135).
The special functions (R166): their special cases; elsewhere the reciprocal, the square root and its reciprocal are the exact value
rounded once, and so are 2^x at an integer and log2 at a power of two; at other values 2^x and log2 are pinned at eight points. -/
def Obligations.VectorFloat : Prop := (∀ (d a b : Reg) (p : Fin 8) (y : BitVec 3) (s : State), isFloatTy y = true →
  let t := fmtOf y; let x := fun i => s.el y a i; let z := fun i => s.el y b i; let c := fun i => s.el y d i; let r := s.rnd
  (∀ q ∈ [(Instr.vadd d a b p y, fun i => t.add (r i) (x i) (z i)), (.vsub d a b p y, fun i => t.sub (r i) (x i) (z i)),
      (.vmul d a b p y, fun i => t.mul (r i) (x i) (z i)),
      (.vfma d a b p y, fun i => t.fma (r i) false false (x i) (z i) (c i)),
      (.vfms d a b p y, fun i => t.fma (r i) false true (x i) (z i) (c i)),
      (.vfnma d a b p y, fun i => t.fma (r i) true false (x i) (z i) (c i)),
      (.vfnms d a b p y, fun i => t.fma (r i) true true (x i) (z i) (c i)),
      (.vdiv d a b p y, fun i => t.div (r i) (x i) (z i)), (.vrcp d a p y, fun i => t.sfu .rcp (r i) (x i)),
      (.vrsqrt d a p y, fun i => t.sfu .rsqrt (r i) (x i)), (.vsqrt d a p y, fun i => t.sfu .sqrt (r i) (x i)),
      (.vexp2 d a p y, fun i => t.sfu .exp2 (r i) (x i)), (.vlog2 d a p y, fun i => t.sfu .log2 (r i) (x i)),
      (.vtie d a b p y, fun i => tieElem (s.table b.val) t (r i) (x i))],
    Executes q.1 s → ∃ u, s.Lanewise y p d (fun i => (q.2 i).1) u ∧
      Runs q.1 s (((s.putLanes y p d u).raise (s.laneFlags y p fun i => (q.2 i).2)).modCur fun k =>
        { k with srctr := if s.cur.frm = 4 then k.srctr + BitVec.ofNat 64 ((lanes y + 3) / 4) else k.srctr })) ∧
  (∀ q ∈ [(Instr.vmin d a b p y, fun i => t.minmax false (x i) (z i)), (.vmax d a b p y, fun i => t.minmax true (x i) (z i)),
      (.vabs d a p y, fun i => if (t.decode (x i)).isNan then (t.nan, if (t.decode (x i)).isSnan then flagNV else 0)
        else (x i % 2 ^ (t.width - 1), 0)),
      (.vneg d a p y, fun i => if (t.decode (x i)).isNan then (t.nan, if (t.decode (x i)).isSnan then flagNV else 0)
        else ((x i + 2 ^ (t.width - 1)) % 2 ^ t.width, 0))],
    Executes q.1 s → ∃ u, s.Lanewise y p d (fun i => (q.2 i).1) u ∧
      Runs q.1 s ((s.putLanes y p d u).raise (s.laneFlags y p fun i => (q.2 i).2)))) ∧
  (∀ (t : Fmt) (r : Rnd) (a : Nat), t ∈ [bf16, f16, f32] → let x := t.decode a; let out := fun f => t.sfu f r a
    (∀ q, x = .nan q → ∀ f, out f = (t.nan, if q then flagNV else 0)) ∧
    (∀ n, x = .inf n → out .rcp = (t.zero n, 0) ∧ out .exp2 = (if n then t.zero false else t.infBits false, 0) ∧
      (∀ f ∈ [Sfu.rsqrt, .sqrt, .log2], n = true → out f = (t.nan, flagNV)) ∧
      (n = false → out .rsqrt = (t.zero false, 0) ∧ out .sqrt = (t.infBits false, 0) ∧ out .log2 = (t.infBits false, 0))) ∧
    (∀ n e, x = .fin n 0 e → out .rcp = (t.infBits n, flagDZ) ∧ out .rsqrt = (t.infBits n, flagDZ) ∧ out .sqrt = (t.zero n, 0) ∧
      out .exp2 = (t.bias * 2 ^ t.fb, 0) ∧ out .log2 = (t.infBits true, flagDZ)) ∧
    (∀ n m e, x = .fin n m e → m ≠ 0 → let v := |x.value|
      t.Rounds r n (compare · (1 / v)) (out .rcp) ∧
      (n = true → ∀ f ∈ [Sfu.rsqrt, .sqrt, .log2], out f = (t.nan, flagNV)) ∧
      (n = false → t.Rounds r false (fun q => compare (q * q) v) (out .sqrt) ∧ t.Rounds r false (fun q => compare (q * q * v) 1) (out .rsqrt)) ∧
      (∀ k : Int, x.value = k → t.Rounds r false (compare · (2 ^ k)) (out .exp2)) ∧
      (∀ k : Int, n = false → v = 2 ^ k →
        if k = 0 then out .log2 = (t.zero false, 0) else t.Rounds r (decide (k < 0)) (compare · |(k : ℚ)|) (out .log2)))) ∧
  (∀ q ∈ [(0x3F000000, 0x3FB504F3), (0xBF000000, 0x3F3504F3), (0x40490FDB, 0x410D331D), (0xC2FD0000, 0x005A827A)],
    (f32.sfu .exp2 .rne q.1).1 = q.2) ∧
  ∀ q ∈ [(0x40400000, 0x3FCAE00D), (0x3F7FFFFF, 0xB3B8AA3C), (0x41200000, 0x40549A78), (0x00000003, 0xC3136A40)],
    (f32.sfu .log2 .rne q.1).1 = q.2

/-- Rounding leaves a number of the format as it is, in every mode and with no flag, and makes a NaN canonical (R126, R127,
R131, R139).  Every other value is rounded under the five modes, with NX, OF and UF, as R131 and R132 say: `Rounds`.
What the operations compute (R128, R149, R166): a sum of terms is a NaN, an infinity, a zero of the sign R128 gives or the exact
sum rounded once; a product is exact; add, subtract and the four forms of multiply-add are such sums, and a division is the
exact quotient rounded once. -/
def Obligations.RoundingKeepsNumbers : Prop := ∀ (t : Fmt) (r : Rnd), t ∈ [bf16, f16, f32] →
  (∀ x, x < 2 ^ t.width → t.ofFp r (t.decode x) =
    if (t.decode x).isNan then (t.nan, if (t.decode x).isSnan then flagNV else 0) else (x, 0)) ∧
  (∀ n (m : Nat) (e : Int), m ≠ 0 → t.Rounds r n (compare · ((m : ℚ) * 2 ^ e)) (t.ofFp r (.fin n m e))) ∧
  (∀ n (e : Int), t.ofFp r (.fin n 0 e) = (t.zero n, 0) ∧ t.ofFp r (.inf n) = (t.infBits n, 0)) ∧
  (∀ (snan : Bool) (terms : List (Option Fp)), let out := t.sum r snan terms
    let ts := terms.filterMap id; let v := (ts.map Fp.value).sum
    let bad := terms.any fun x => x.isNone
    (bad = true ∨ ts.any Fp.isNan = true → out = (t.nan, if snan = true ∨ bad = true then flagNV else 0)) ∧
    (bad = false → ts.any Fp.isNan = false →
      (∀ n, .inf n ∈ ts → out = if .inf (!n) ∈ ts then (t.nan, flagNV) else (t.infBits n, 0)) ∧
      (ts.any Fp.isInf = false →
        (v = 0 → out = (t.zero (ts.all Fp.isNeg || (r.mode == 3 && ts.any fun x => !x.isZero || x.isNeg)), 0)) ∧
        (v ≠ 0 → t.Rounds r (decide (v < 0)) (compare · |v|) out)))) ∧
  (∀ x y : Fp, (x.isNan = true ∨ y.isNan = true → x.mul y = some (.nan false)) ∧
    (x.isNan = false → y.isNan = false → x.isInf = true ∨ y.isInf = true →
      x.mul y = if x.isZero ∨ y.isZero then none else some (.inf (x.isNeg != y.isNeg))) ∧
    ∀ n m e n' m' e', x = .fin n m e → y = .fin n' m' e' → x.mul y = some (.fin (n != n') (m * m') (e + e'))) ∧
  (∀ a b c : Nat, let x := t.decode a; let y := t.decode b; let z := t.decode c
    let s2 := x.isSnan || y.isSnan
    t.add r a b = t.sum r s2 [some x, some y] ∧ t.sub r a b = t.sum r s2 [some x, some y.neg] ∧ t.mul r a b = t.sum r s2 [x.mul y] ∧
    (∀ np na, t.fma r np na a b c = t.sum r (s2 || z.isSnan)
      [(if np then x.neg else x).mul y, some (if na then z.neg else z)]) ∧
    (let out := t.div r a b; let neg := x.isNeg != y.isNeg
      (x.isNan = true ∨ y.isNan = true → out = (t.nan, if s2 then flagNV else 0)) ∧
      (x.isNan = false → y.isNan = false →
        ((x.isInf = true ∧ y.isInf = true) ∨ (x.isZero = true ∧ y.isZero = true) → out = (t.nan, flagNV)) ∧
        (x.isInf = true → y.isInf = false → out = (t.infBits neg, 0)) ∧
        (x.isInf = false → y.isInf = true → out = (t.zero neg, 0)) ∧
        (x.isInf = false → y.isInf = false →
          (x.isZero = false → y.isZero = true → out = (t.infBits neg, flagDZ)) ∧
          (x.isZero = true → y.isZero = false → out = (t.zero neg, 0)) ∧
          (x.isZero = false → y.isZero = false → t.Rounds r neg (compare · |x.value / y.value|) out)))))

/-- VDOT and VDOTU (R158): element j of type i32 or f32 takes the old element plus the sum of m products. -/
def Obligations.VectorDot : Prop := ∀ (d a b : Reg) (p : Fin 8) (y : BitVec 3) (s : State),
  let m := 4 / elemBytes y
  (y.toNat < 2 → ∀ q ∈ [(Instr.vdot d a b p y, fun (r : Reg) i => s.elS y r i), (.vdotu d a b p y, fun r i => (s.el y r i : Int))],
    Executes q.1 s → ∃ u, Runs q.1 s (s.putLanes 2 p d u) ∧ s.Lanewise 2 p d (fun j =>
      (((s.el 2 d j : Int) + ((List.range m).map fun k => q.2 a (m * j + k) * q.2 b (m * j + k)).sum) % 2 ^ 32).toNat) u) ∧
  (y.toNat = 3 ∨ y.toNat = 4 → Executes (.vdot d a b p y) s →
    let x := fun (r : Reg) i => (fmtOf y).decode (s.el y r i)
    let one := fun j => f32.sum (s.rnd j)
      ((f32.decode (s.el 2 d j)).isSnan || (x a (2 * j)).isSnan || (x b (2 * j)).isSnan || (x a (2 * j + 1)).isSnan || (x b (2 * j + 1)).isSnan)
      [some (f32.decode (s.el 2 d j)), (x a (2 * j)).mul (x b (2 * j)), (x a (2 * j + 1)).mul (x b (2 * j + 1))]
    ∃ u, s.Lanewise 2 p d (fun j => (one j).1) u ∧
      Runs (.vdot d a b p y) s (((s.putLanes 2 p d u).raise (s.laneFlags 2 p fun j => (one j).2)).modCur fun k =>
        { k with srctr := if s.cur.frm = 4 then k.srctr + 1 else k.srctr }))

/-- VEC4 (R162): every predicate bit of an active element takes the outcome, the bits of an inactive one keep their values, and
NV is raised for a signalling NaN, or for any NaN under LT and LE. -/
def Obligations.VectorCompares : Prop := ∀ (d a b : Reg) (p : Fin 8) (y : BitVec 3) (s : State),
  let x := fun i => s.el y a i; let z := fun i => s.el y b i; let xs := fun i => s.elS y a i; let zs := fun i => s.elS y b i
  let fx := fun i => (fmtOf y).decode (x i); let fz := fun i => (fmtOf y).decode (z i)
  let nan := fun i => (fx i).isNan || (fz i).isNan; let snan := fun i => (fx i).isSnan || (fz i).isSnan
  let writes := fun (i : Instr) (f : Nat → Bool) (nv : Nat → Bool) => Executes i s → ∃ u : Pred,
    Runs i s ((s.setP (predOf d) u).raise (s.laneFlags y p fun i => if nv i then flagNV else 0)) ∧
    ∀ k : Nat, k < 16 → u.getLsbD k =
      (if active (s.p p) y (k / elemBytes y) then f (k / elemBytes y) else (s.p (predOf d)).getLsbD k)
  (y.toNat < 3 → ∀ q ∈ [(Instr.vcmpeq d a b p y, fun i => decide (x i = z i)), (.vcmpne d a b p y, fun i => decide (x i ≠ z i)),
      (.vcmplt d a b p y, fun i => decide (xs i < zs i)), (.vcmple d a b p y, fun i => decide (xs i ≤ zs i)),
      (.vcmpltu d a b p y, fun i => decide (x i < z i)), (.vcmpleu d a b p y, fun i => decide (x i ≤ z i))],
    writes q.1 q.2 fun _ => false) ∧
  (isFloatTy y = true → ∀ q ∈ [
      (Instr.vcmpeq d a b p y, (fun i => !nan i && (fx i).cmp (fz i) == .eq), snan),
      (.vcmpne d a b p y, (fun i => nan i || (fx i).cmp (fz i) != .eq), snan),
      (.vcmplt d a b p y, (fun i => !nan i && (fx i).cmp (fz i) == .lt), nan),
      (.vcmple d a b p y, (fun i => !nan i && (fx i).cmp (fz i) != .gt), nan)],
    writes q.1 q.2.1 q.2.2)

/-- VEC5 and VXL (R163, R164): moves, and one source element for each destination element, kept where either is inactive.
VEC6 (R165): s[D] takes the sum, the least or the greatest of the active elements; the value of no element at all is given
by the type; a floating-point sum follows the pairwise tree of R141 over ascending lanes, an absent operand passing the other
on, with f32 nodes and one rounding at its root, and the flags are those of the adds; a least or greatest folds R140 along the
same tree. -/
def Obligations.VectorMovesAndReductions : Prop :=
  (∀ (d a b : Reg) (p : Fin 8) (y : BitVec 3) (s : State), y.toNat < 6 →
    let n := lanes y; let x := fun i => s.el y a i; let act := active (s.p p) y
    (Executes (.vmv d a p y) s → ∃ u, Runs (.vmv d a p y) s (s.putLanes y p d u) ∧ s.Lanewise y p d x u) ∧
    (Executes (.vbcast d a p y) s → ∃ u, Runs (.vbcast d a p y) s (s.putLanes y p d u) ∧ s.Lanewise y p d (fun _ => (s.s a).toNat) u) ∧
    (Executes (.vins d a b y) s → ∃ u, Runs (.vins d a b y) s (s.setVLanes d u (byteLanes y (· == b.val))) ∧
      ∀ i, i < n → elem y u i = if i = b.val then (s.s a).toNat % 2 ^ elemW y else s.el y d i) ∧
    (Executes (.vext d a b y) s → Runs (.vext d a b y) s (s.setS d (BitVec.ofInt 64 (s.elS y a b.val)))) ∧
    (Executes (.vextu d a b y) s → Runs (.vextu d a b y) s (s.setS d (BitVec.ofNat 64 (x b.val)))) ∧
    ∀ q ∈ [(Instr.vshuf d a b p y, fun i => some (s.el y b i % n)), (.vsplat d a b p y, fun _ => some b.val),
      (.vslidedn d a b p y, fun i => if i + b.val < n then some (i + b.val) else none),
      (.vslideup d a b p y, fun i => if b.val ≤ i then some (i - b.val) else none)],
    Executes q.1 s → ∃ u l, Runs q.1 s (s.setVLanes d u l) ∧ ∀ i, i < n → elem y u i =
      (match q.2 i with | some j => if act i && act j then x j else s.el y d i | none => s.el y d i)) ∧
  (∀ (d a : Reg) (p : Fin 8) (y : BitVec 3) (s : State),
    let on := (List.range (lanes y)).filter fun i => active (s.p p) y i
    let w := elemW y; let x := fun i => s.el y a i; let t := fmtOf y
    let snan := on.any fun i => (t.decode (x i)).isSnan
    (y.toNat < 3 →
      (Executes (.vrsum d a p y) s → Runs (.vrsum d a p y) s (s.setS d (BitVec.ofInt 64 (on.map fun i => s.elS y a i).sum))) ∧
      (Executes (.vrsumu d a p y) s → Runs (.vrsumu d a p y) s (s.setS d (BitVec.ofNat 64 (on.map x).sum))) ∧
      ∀ q ∈ [(Instr.vrmin d a p y, (fun i => s.elS y a i), (2 ^ (w - 1) - 1 : Int), true),
          (.vrmax d a p y, (fun i => s.elS y a i), (-2 ^ (w - 1) : Int), false),
          (.vrminu d a p y, (fun i => (x i : Int)), (2 ^ w - 1 : Int), true), (.vrmaxu d a p y, (fun i => (x i : Int)), (0 : Int), false)],
        Executes q.1 s → ∃ v : Int, Runs q.1 s (s.setS d (BitVec.ofInt 64 v)) ∧
          (on = [] → v = q.2.2.1) ∧ (on ≠ [] → ∃ i ∈ on, v = q.2.1 i) ∧
          ∀ i ∈ on, if q.2.2.2 = true then v ≤ q.2.1 i else q.2.1 i ≤ v) ∧
    (isFloatTy y = true →
      let act := active (s.p p) y
      (∀ q ∈ [(Instr.vrmin d a p y, false), (.vrmax d a p y, true)], Executes q.1 s → ∃ (v : Nat) (g : Nat → Nat → Option Nat),
        Runs q.1 s ((s.setS d (BitVec.ofNat 64 v)).raise (if snan then flagNV else 0)) ∧
        (∀ i, i < 16 → g 0 i = if i < lanes y ∧ act i = true then some (x i) else none) ∧
        (∀ k i, k < 4 → i < 8 / 2 ^ k → g (k + 1) i = (match g k (2 * i), g k (2 * i + 1) with
          | some u, some w => some (t.minmax q.2 u w).1 | some u, none => some u | none, w => w)) ∧
        v = (match g 4 0 with | none => t.infBits q.2 | some u => if (t.decode u).isNan then t.nan else u)) ∧
      (Executes (.vrsum d a p y) s → ∃ (v : Nat) (fl : BitVec 5) (g : Nat → Nat → Option (Nat × BitVec 5)),
        Runs (.vrsum d a p y) s (((s.setS d (BitVec.ofNat 64 v)).raise (fl ||| if snan then flagNV else 0)).modCur fun k =>
          { k with srctr := if s.cur.frm = 4 then k.srctr + 1 else k.srctr }) ∧
        (∀ i, i < 16 → g 0 i = if i < lanes y ∧ act i = true then some ((f32.ofFp .rne (t.decode (x i))).1, 0) else none) ∧
        (∀ k i, k < 4 → i < 8 / 2 ^ k → g (k + 1) i = (match g k (2 * i), g k (2 * i + 1) with
          | some u, some w => some ((f32.add .rne u.1 w.1).1, u.2 ||| w.2 ||| (f32.add .rne u.1 w.1).2)
          | some u, none => some u | none, w => w)) ∧
        match g 4 0 with
        | none => v = 0 ∧ fl = 0
        | some u => v = (t.ofFp (s.rnd 0) (f32.decode u.1)).1 ∧ fl = u.2 ||| (t.ofFp (s.rnd 0) (f32.decode u.1)).2)))

/-- VCVT (R167-R169) between integers and floats: element i of the destination group, the flags of all elements, and the
draws of RSR unless the destination holds every source value (R135).
VCVT between floats and blocks (R137, R169): into a block, s[B] takes E0 + E1 × 2^8; out of one, the exponents are the two
low bytes of s[B], and a bf16 or f32 destination is exact. -/
def Obligations.Conversions : Prop :=
  (∀ (d a b : Reg) (w x m : BitVec 3) (s : State), x.toNat < 6 → w.toNat < 6 →
    Executes (.vcvt d a b w x m) s →
    let n := cvtCount x w; let sw := elemBits x; let dw := elemBits w
    let el := fun i => bits (s.regGroup a (cvtGroup n x)) (i * sw) sw
    let mode := if m = 7 then s.cur.frm.toNat else m.toNat; let r := s.rndMode mode
    let int := fun i => if b.val % 2 = 1 then (el i : Int) else sext (el i) sw
    let out := fun i =>
      if x.toNat < 3 then (if w.toNat < 3 then (toBits (sat (int i) dw (bit b.val 1)) dw, 0) else (fmtOf w).ofInt (r i) (int i))
      else if w.toNat < 3 then fpToInt (r i) ((fmtOf x).decode (el i)) dw (bit b.val 1)
      else (fmtOf w).ofFp (r i) ((fmtOf x).decode (el i))
    ∃ u, (∀ i, i < n → bits u (i * dw) dw = (out i).1 % 2 ^ dw) ∧
      Runs (.vcvt d a b w x m) s (((s.setRegGroup d (cvtGroup n w) u).raise
        ((List.range n).foldl (fun fl i => fl ||| (out i).2) 0)).modCur fun k => { k with
          srctr := (if mode = 4 ∧ cvtExact x w = false then k.srctr + BitVec.ofNat 64 ((n + 3) / 4) else k.srctr) })) ∧
  (∀ (d a b : Reg) (w x m : BitVec 3) (s : State),
    Executes (.vcvt d a b w x m) s →
    let sw := elemBits x; let dw := elemBits w
    let el := fun i => bits (s.regGroup a (cvtGroup 32 x)) (i * sw) sw
    let mode := if m = 7 then s.cur.frm.toNat else m.toNat; let r := s.rndMode mode
    (6 ≤ w.toNat →
      let blk := toBlock (w == 7) mode (fun i => (r i).draw) ((List.range 32).map fun i => (fmtOf x).decode (el i))
      ∃ u, (∀ i, i < 32 → bits u (i * dw) dw = blk.1.getD i 0 % 2 ^ dw) ∧
        Runs (.vcvt d a b w x m) s ((((s.setRegGroup d (cvtGroup 32 w) u).setS b (BitVec.ofNat 64 (blk.2.1 + 256 * blk.2.2.1))).raise
          blk.2.2.2).modCur fun k => { k with srctr := if mode = 4 then k.srctr + 8 else k.srctr })) ∧
    (6 ≤ x.toNat →
      let out := fun i => (fmtOf w).ofFp (r i) (blockElem (x == 7) (el i) ((s.s b).toNat % 256) ((s.s b).toNat / 256 % 256))
      ∃ u, (∀ i, i < 32 → bits u (i * dw) dw = (out i).1 % 2 ^ dw) ∧
        Runs (.vcvt d a b w x m) s (((s.setRegGroup d (cvtGroup 32 w) u).raise
          ((List.range 32).foldl (fun fl i => fl ||| (out i).2) 0)).modCur fun k => { k with
            srctr := (if mode = 4 ∧ w = 4 then k.srctr + 8 else k.srctr) })))

/-- VTLOAD (R153): an aligned image within the private rows, its lines good and every earlier store of the cell there, fills the
slot when it is valid and empties it when not; outside the rows it traps.  Its 16-byte units may be read one in each step (R207;
`late`, the model's choice, log 13). -/
def Obligations.TableLoads : Prop := ∀ (d : BitVec 1) (a b : Reg) (s : State), Executes (.vtload d a b) s → s.cur.stage = 0 →
  s.word? 512 = none →
  let ea := (s.s a + BitVec.ofInt 64 ((if 16 ≤ b.val then (b.val : Int) - 32 else b.val) * 16)).toNat
  let img := fun n => s.localBytes ea n
  let len := match tableHeader (img 16) with | some (t, seg) => 16 + (seg + 1) * (t.width / 8) | none => 16
  (ea % 16 ≠ 0 → Traps (.vtload d a b) s causeMisalign (BitVec.ofNat 64 ea)) ∧
  (ea % 16 = 0 → s.localOk s.now.cell s.cur ea 16 = false ∨ s.rowsBusy ea 16 = false ∧ s.localOk s.now.cell s.cur ea len = false →
    Traps (.vtload d a b) s causeLocalrange (BitVec.ofNat 64 ea)) ∧
  (ea % 16 = 0 → s.localOk s.now.cell s.cur ea 16 = true → s.localOk s.now.cell s.cur ea len = true → s.badLocal ea len = none →
    s.rowsBusy ea len = false →
    let s1 : State := { s with late := s.late.tail }
    (s.late.headD false = false ∨ len ≤ 16 → ∃ y : Ctx, Runs (.vtload d a b) s (s1.modCur fun _ => y) ∧
      y = { s.cur with tables := y.tables } ∧
      ∀ j : Fin 2, y.tables[j] = (if j.val = d.toNat then (if (parseTable (img len)).isSome then some (img len) else none)
        else s.cur.tables[j])) ∧
    (s.late.headD false = true → 16 < len → exec (.vtload d a b) s = .next (s1.modCur fun x =>
      { x with stage := 1025, answers := x.answers ++ [.word 512 ea, .word 0 (ofBytes (img 16))] })))

/-- VPRED (R155, R156): PLEN sets the predicate bits of the elements below the signed count s[A]; the logic forms write the bits
that p[P] selects and keep the others; PGET and PSET move all 16 bits; PCNT counts the active elements of a type. -/
def Obligations.PredicateForms : Prop := ∀ (d a b : Reg) (p : Fin 8) (y : BitVec 3) (s : State),
  let x := s.p (predOf a); let z := s.p (predOf b); let q := s.p p; let old := s.p (predOf d)
  (Executes (.plen d a y) s → ∃ u : Pred, Runs (.plen d a y) s (s.setP (predOf d) u) ∧
    ∀ k : Nat, k < 16 → u.getLsbD k = decide (((k / elemBytes y : Nat) : Int) < (s.s a).toInt)) ∧
  (∀ f ∈ [(Instr.pand d a b p, x &&& z), (.por d a b p, x ||| z), (.pxor d a b p, x ^^^ z), (.pandn d a b p, x &&& ~~~z)],
    Executes f.1 s → ∃ u : Pred, Runs f.1 s (s.setP (predOf d) u) ∧
      ∀ k : Nat, k < 16 → u.getLsbD k = if q.getLsbD k then f.2.getLsbD k else old.getLsbD k) ∧
  (Executes (.pget d a) s → Runs (.pget d a) s (s.setS d (x.setWidth 64))) ∧
  (Executes (.pset d a) s → Runs (.pset d a) s (s.setP (predOf d) ((s.s a).setWidth 16))) ∧
  (Executes (.pcnt d a y) s → Runs (.pcnt d a y) s
    (s.setS d (BitVec.ofNat 64 ((List.range (lanes y)).filter fun i => x.getLsbD (i * elemBytes y)).length)))

/-! ### Atomic operations, ordering and phase words (R186-R188, R206-R210, R228-R236) -/

/-- The AMOs in the private rows and the window (R228, R229): the old value, sign-extended at 32 bits and zero-extended for
AMOFADD, goes to s[D], the new value to its place, in one event; a compare that fails writes nothing; one on another member's
rows is not ready while 32 stores, AMOs and phase updates of its context are outstanding (R223), and none while its word's home
has an update to apply (log 9).  An AMO may go on its way to its home instead, interlocked (R217, R223; logs 13 and 16).
The AMOs of the global space and AMOBFPADD (R229, R230): an aligned one leaves the cell for its home, and no register and
no byte changes yet; AMOBFPADD carries its 48-byte block, and its two homes share a stack of one module, which a remote PA of this module names too
(R178).  Elsewhere it traps PERM; that
TRAPVAL is then s[A] is the model's choice (log 10), and so is that the block may come in pieces (R207, log 13). -/
def Obligations.Atomics : Prop :=
  (∀ (d a b : Reg) (z : BitVec 1) (u : BitVec 2) (s : State) (c x : Nat), s.MemoryOk →
    let ea := (s.s a).toNat; let n := if z = 0 then 4 else 8; let w := 8 * n
    let old := s.padRead c x n; let y := (s.s b).toNat % 2 ^ w
    let old4 := s.padRead c x 4; let sum := f32.add .rne old4 ((s.s b).toNat % 2 ^ 32)
    let done := fun (i : Instr) (fn n : Nat) (new : Option Nat) (fl : BitVec 5) (res : Word) => Executes i s → u = 1 ∨ u = 2 → ea % n = 0 →
      (if u = 2 then s.windowPlace ea else s.localPlace ea) = some (.pad c x) →
      s.homeBusy (.pad c x) = false → s.rowsHeld (.pad c x) = false → s.placeBad (.pad c x) = false →
      (c ≠ s.now.cell ∧ 32 ≤ s.storesOut ∨ s.wordTaken (.pad c x) n = true → exec i s = .next s) ∧
      (c = s.now.cell ∨ s.storesOut < 32 → s.wordTaken (.pad c x) n = false →
        (s.late.headD false = false → ∃ pad' bad',
          Runs i s ((State.setS { s.timed with pad := pad', badPad := bad' } d res).raise fl) ∧
          (match new with | some v => Stored s.pad pad' (padKey c x) n v | none => pad' = s.pad)) ∧
        (s.late.headD false = true →
          Runs i s (s.timed.launched (s.lockedTo ea (.pad c x) (.amo fn n (s.s b).toNat (s.s d).toNat) d none))))
    (∀ q ∈ [(Instr.amoswap d a b z u, 0, some y), (.amoadd d a b z u, 1, some ((old + y) % 2 ^ w)),
        (.amoand d a b z u, 2, some (old &&& y)), (.amoor d a b z u, 3, some (old ||| y)), (.amoxor d a b z u, 4, some (old ^^^ y)),
        (.amomin d a b z u, 5, some (if sext old w ≤ sext y w then old else y)),
        (.amomax d a b z u, 6, some (if sext old w ≤ sext y w then y else old)),
        (.amominu d a b z u, 7, some (if old ≤ y then old else y)), (.amomaxu d a b z u, 8, some (if old ≤ y then y else old)),
        (.amocas d a b z u, 9, if old = (s.s d).toNat % 2 ^ w then some y else none)],
      done q.1 q.2.1 n q.2.2 0 (if z = 0 then BitVec.ofInt 64 (sext old 32) else BitVec.ofNat 64 old)) ∧
    done (.amofadd d a b u) 10 4 (some sum.1) sum.2 (BitVec.ofNat 64 old4)) ∧
  (∀ (d a b : Reg) (z : BitVec 1) (s : State) (pl : Place) (key : Nat) (chk : Bool),
    let ea := (s.s a).toNat; let n := if z = 0 then 4 else 8; let data := (s.s b).toNat + 2 ^ 64 * (s.s d).toNat
    (s.Mapped ea true pl key chk →
      (∀ q ∈ [(Instr.amoswap d a b z 0, 0), (.amoadd d a b z 0, 1), (.amoand d a b z 0, 2), (.amoor d a b z 0, 3),
          (.amoxor d a b z 0, 4), (.amomin d a b z 0, 5), (.amomax d a b z 0, 6), (.amominu d a b z 0, 7), (.amomaxu d a b z 0, 8),
          (.amocas d a b z 0, 9)], Executes q.1 s → ea % n = 0 →
        Runs q.1 s (s.launched (s.issuedTo q.1 ea pl key chk (.amo q.2 n (s.s b).toNat (s.s d).toNat) (.s d) data))) ∧
      (Executes (.amofadd d a b 0) s → ea % 4 = 0 →
        Runs (.amofadd d a b 0) s (s.launched
          (s.issuedTo (.amofadd d a b 0) ea pl key chk (.amo 10 4 (s.s b).toNat (s.s d).toNat) (.s d) data)))) ∧
    ∀ pl' key' chk', let blk := (s.s b).toNat; let pair := s.localRead (blk + 40) 8
      Executes (.amobfpadd d a b) s → s.AtOnce → s.BlockOk blk 48 16 → ea % 32 = 0 → pair % 2 = 0 →
      s.Mapped ea true pl key chk → s.Mapped pair true pl' key' chk' →
      if sameStack pl pl' = true then
        Runs (.amobfpadd d a b) s (s.tookBlock.launched
          { s.issuedTo (.amobfpadd d a b) ea pl key chk (.bfpadd (s.localBytes blk 48) pl' key' chk') (.s d) data with
            second := some pair })
      else Traps (.amobfpadd d a b) s causePerm (BitVec.ofNat 64 ea)) ∧
  (∀ (s : State) (dev x y : Nat), let own := dev = s.devidx.toNat ∧ (bankOf x).1 = (bankOf y).1
    let here := if own then some (Place.hbm x, Place.hbm y) else none
    s.bfpHomes (.hbm x) (.remote dev y) = here ∧ s.bfpHomes (.remote dev x) (.hbm y) = here)

/-- FENCE (R215, R232): with S the context waits while an access its scope covers is not acknowledged or its result has not
returned; without S those accesses, and what an earlier FENCE still waits for, hold back what follows, each as long as its
FENCE's scope covers it.
What each scope covers is the table of R215: the rows under every scope, this module's homes under .dev and .dom, another module's
under .dom; the OR of a CANCEL under .dev too, wherever its record is (R119). -/
def Obligations.FenceForms : Prop :=
  (∀ (dev t : Nat) (a : Access), t < 3 →
    let access := match a.op with | .answer _ | .reply | .query .. => False | _ => True
    let cancel := match a.op with | .orBits .. => True | _ => False
    (covers dev t a = true ↔ access ∧ (match a.place with
      | .pad .. | .away .. => True
      | .hbm _ | .host .. => t = 1 ∨ t = 2
      | .remote d _ => t = 2 ∨ t = 1 ∧ (d = dev ∨ cancel)))) ∧
  (∀ (i : Instr) (s : State), holdable i = true → s.interlocked i = false → s.cur.mixreads = [] →
    s.waitsPhase s.now.cell s.now.ctx = false →
    (s.heldBack i = true ↔ ∃ f ∈ s.cur.fence, ∃ a ∈ s.inflight, a.id = f.2 ∧ covers s.devidx.toNat f.1 a = true)) ∧
  ∀ (t : BitVec 4) (s : State), Executes (.fence t) s →
  let waits := fun (a : Access) => s.owns s.now.cell s.now.ctx a = true ∧ covers s.devidx.toNat t.toNat a = true
  (s.now.sw = true → (∀ a ∈ s.inflight, ¬ waits a) → Runs (.fence t) s s) ∧
  (s.now.sw = true → (∃ a ∈ s.inflight, waits a) → exec (.fence t) s = .next s) ∧
  (s.now.sw = false → ∃ ids, Runs (.fence t) s (s.modCur fun x => { x with fence := ids }) ∧
    ∀ scope id, (scope, id) ∈ ids ↔ ∃ a ∈ s.inflight, a.id = id ∧ (waits a ∧ scope = t.toNat ∨ (scope, id) ∈ s.cur.fence))

/-- An update of a phase word (R187, R188): refused when a count would pass its target; when both counts then meet their targets
both go to 0 and GEN advances; targets and ERR stay.
The phase forms in the rows and the window (R233-R236); PHREAD may go on its way to its home, interlocked (R217, R223; logs 13
and 16).
The phase forms in the global space (R186, R233-R236): PHINIT, PHWAIT and PHREAD leave the cell; PHARR and PHADD leave it
and the context waits, then retires on an accepted update and traps PHOVER on a rejected one, with the address and the count that were
read from its registers when it was sent; a host window traps PERM. -/
def Obligations.PhaseForms : Prop :=
  (∀ (w : PhaseWord) (arr bytes : Nat),
    (w.arrTgt < w.arrCnt + arr ∨ w.byteTgt < w.byteCnt + bytes → w.update arr bytes = none) ∧
    (w.arrCnt + arr ≤ w.arrTgt → w.byteCnt + bytes ≤ w.byteTgt →
      w.update arr bytes = some (if w.arrCnt + arr = w.arrTgt ∧ w.byteCnt + bytes = w.byteTgt
        then { w with arrCnt := 0, byteCnt := 0, gen := (w.gen + 1) % 2 ^ 15 }
        else { w with arrCnt := w.arrCnt + arr, byteCnt := w.byteCnt + bytes })) ∧
    (w.arrTgt < 2 ^ 16 → w.arrCnt < 2 ^ 16 → w.byteTgt < 2 ^ 40 → w.byteCnt < 2 ^ 40 → w.gen < 2 ^ 15 →
      PhaseWord.ofNat w.toNat = w)) ∧
  (∀ (d a b : Reg) (t : BitVec 4) (s : State) (c x : Nat), s.MemoryOk →
    let ea := (s.s a).toNat; let y := (s.s b).toNat; let w := PhaseWord.ofNat (s.padRead c x 16)
    t = 1 ∨ t = 2 → ea % 16 = 0 → phasePlace s t.toNat ea = some (.pad c x) →
    (Executes (.phinit a b t) s → c = s.now.cell → s.homeBusy (.pad c x) = false → s.late.headD false = false →
      s.wordTaken (.pad c x) 16 = false →
      ∃ u, Runs (.phinit a b t) s u ∧ u = { s with pad := u.pad, badPad := u.badPad, late := s.late.tail } ∧ Stored s.pad u.pad (padKey c x) 16 (y % 2 ^ 16 + 2 ^ 32 * (y / 2 ^ 16 % 2 ^ 40))) ∧
    (∀ q ∈ [(Instr.pharr a t, w.update 1 0), (.phadd a b t, w.update 0 y)], Executes q.1 s → s.reply? = none → s.word? 512 = none →
      s.homeBusy (.pad c x) = false → s.rowsHeld (.pad c x) = false → s.placeBad (.pad c x) = false →
      s.wordTaken (.pad c x) 16 = false → (c = s.now.cell ∨ s.storesOut < 32) →
      (∀ a ∈ s.inflight, s.owns s.now.cell s.now.ctx a = true → a.phase.open = false) →
      match q.2 with
      | some w' => ∃ u, Runs q.1 s u ∧ u = { s with pad := u.pad, badPad := u.badPad } ∧ Stored s.pad u.pad (padKey c x) 16 w'.toNat
      | none => Traps q.1 s causePhover (BitVec.ofNat 64 ea)) ∧
    (Executes (.phwait d a b t) s →
      (s.inflight.filter fun x => s.owns s.now.cell s.now.ctx x && match x.op with | .phwait _ => true | _ => false).length < 4 →
      Runs (.phwait d a b t) s (s.launched
        (s.issuedTo (.phwait d a b t) ea (.pad c x) 0 false (.phwait (y % 2 ^ 15)) (.s d) y))) ∧
    (Executes (.phread d a b t) s → s.homeBusy (.pad c x) = false → s.rowsHeld (.pad c x) = false →
      s.placeBad (.pad c x) = false → let v := BitVec.ofNat 64 (s.padRead c x 16 / 2 ^ (64 * b.val) % 2 ^ 64)
      (s.late.headD false = false → Runs (.phread d a b t) s (s.timed.setS d v)) ∧
      (s.late.headD false = true →
        Runs (.phread d a b t) s (s.timed.launched (s.lockedTo ea (.pad c x) (.phread b.val) d (some v.toNat)))))) ∧
  (∀ (d a b : Reg) (s : State) (pl : Place) (pa key : Nat) (chk : Bool),
    let ea := (s.s a).toNat; let y := (s.s b).toNat
    (∀ q ∈ [(Instr.pharr a 0, s.kept ea, fun _ => AccOp.pharr), (.phadd a b 0, s.kept (ea + 2 ^ 64 * y), .phadd)], Executes q.1 s →
      let ops := q.2.1; let ek := ops % 2 ^ 64; ek % 16 = 0 →
      (s.reply?.isNone = true → s.Mapped ek true (.hbm pa) key chk → ∃ t, exec q.1 s = .next t ∧
        t.cur = { s.cur with wait := .home s.nextId, answers := [.word 512 ops] } ∧ t.hbm = s.hbm ∧ t.pad = s.pad ∧
        t.inflight = s.inflight ++ [s.issuedTo q.1 ek (.hbm pa) key chk (q.2.2 (ops / 2 ^ 64)) .none 0]) ∧
      (∀ v, s.reply? = some (v, true) → Runs q.1 s s) ∧
      (∀ v, s.reply? = some (v, false) → Traps q.1 s causePhover (BitVec.ofNat 64 ek))) ∧
    (ea % 16 = 0 →
    (∀ q ∈ [(Instr.phinit a b 0, true, AccOp.phinit y, Dest.none, y), (.phwait d a b 0, false, .phwait (y % 2 ^ 15), .s d, y),
        (.phread d a b 0, false, .phread b.val, .s d, 0)],
      Executes q.1 s → s.Mapped ea q.2.1 pl key chk →
      (match pl with
      | .host .. => Traps q.1 s causePerm (BitVec.ofNat 64 ea)
      | _ => (q.1 = .phwait d a b 0 →
          (s.inflight.filter fun x => s.owns s.now.cell s.now.ctx x && match x.op with | .phwait _ => true | _ => false).length < 4) →
        Runs q.1 s (s.launched (s.issuedTo q.1 ea pl key chk q.2.2.1 q.2.2.2.1 q.2.2.2.2))))))

/-! ### Tags and the copy engine (R174-R185, R237-R240) -/

/-- The tag forms (R175, R237, R238): TAGLK finds the lowest valid slot of a line, else −1, or −2, which returns later, when an
evicted slot held it; TAGSET writes a whole entry and no other; TAGINV clears three bits of one. -/
def Obligations.TagForms : Prop := ∀ (d a b : Reg) (s : State),
  let tk := tagKey s.now.cell s.cur; let line := (s.s a).toNat / 2 ^ 7 % 2 ^ 53
  let hit := fun k => (s.tagEntry tk k).hasLine line = true ∧ (s.tagEntry tk k).valid = true
  let slot := (s.s a).toNat % 256; let img := (s.s b).toNat; let len := img / 2 ^ 12 % 2 ^ 13; let swz := img / 2 ^ 29 % 2 ^ 4
  (Executes (.taglk d a) s →
    (∀ k, k < 256 → hit k → (∀ j, j < k → ¬ hit j) → Runs (.taglk d a) s (s.setS d (BitVec.ofNat 64 k))) ∧
    ((∀ k, k < 256 → ¬ hit k) → (∀ k, k < 256 → (s.tagEntry tk k).hasLine line = true → (s.tagEntry tk k).evicted = false) →
      Runs (.taglk d a) s (s.setS d (BitVec.allOnes 64))) ∧
    ((∀ k, k < 256 → ¬ hit k) → (∃ k, k < 256 ∧ (s.tagEntry tk k).hasLine line = true ∧ (s.tagEntry tk k).evicted = true) →
      Runs (.taglk d a) s (s.launched (s.answered d (BitVec.ofInt 64 (-2)))))) ∧
  (Executes (.tagset d a b) s → Runs (.tagset d a b) s (s.setTag tk ((s.s d).toNat % 256)
    { tag := BitVec.ofNat 53 line, row := BitVec.ofNat 12 img, len := BitVec.ofNat 13 len
      valid := bit img 25 && len != 0 && decide (len ≤ 4096) && decide (swz < 4), dirty := bit img 26, pin := bit img 27
      evicted := false, swz := BitVec.ofNat 4 swz })) ∧
  (Executes (.taginv a) s → Runs (.taginv a) s
    (s.setTag tk slot { s.tagEntry tk slot with valid := false, dirty := false, evicted := false })) ∧
  (Executes (.tagstat d a b) s → Runs (.tagstat d a b) s
    (s.setS d (BitVec.ofNat 64 ((s.tagEntry tk slot).toNat / 2 ^ (64 * b.val) % 2 ^ 64))))

/-- XFER and XFERN (R239, R240): the block is read at issue and the engine holds one more transfer, which has not started;
nothing is copied yet.  While the engine holds 64, XFER waits.  That the block may be read byte by byte (R207) is the model's choice
(log 13). -/
def Obligations.CopyForms : Prop := ∀ (d a : Reg) (s : State), let base := (s.s a).toNat
  let held := (s.transfers.filter fun t => l1Key t.cell == l1Key s.now.cell).length
  (Executes (.xfer a) s → s.word? 512 = none → held < 64 →
    (base % 64 ≠ 0 → Traps (.xfer a) s causeMisalign (BitVec.ofNat 64 base)) ∧
    (base % 64 = 0 → s.localOk s.now.cell s.cur base 64 = false → Traps (.xfer a) s causeLocalrange (BitVec.ofNat 64 base)) ∧
    (s.BlockOk base 64 64 → s.cur.stage = 0 → s.cur.answers = [] → s.late.headD false = true →
      exec (.xfer a) s = .next (s.tookPiece base (s.localBytes base 1))) ∧
    (s.BlockOk base 64 64 → s.AtOnce → ∃ t : Transfer,
      Runs (.xfer a) s { s.tookBlock with nextId := s.nextId + 1, transfers := s.transfers ++ [t] } ∧
      t.id = s.nextId ∧ t.cell = s.now.cell ∧ t.lcell = s.cur.lcell.toNat ∧ t.token = s.cur.token ∧ t.base = base ∧
      t.block = s.localRead base 64 ∧ t.started = false ∧ t.k = 0 ∧ t.status = none)) ∧
  (Executes (.xfer a) s → s.cur.stage = 0 → s.cur.answers = [] → 64 ≤ held → exec (.xfer a) s = .next s) ∧
  (Executes (.xfern d) s → Runs (.xfern d) s
    (s.setS d (BitVec.ofNat 64 (s.transfers.filter fun t => t.token == s.cur.token).length)))

/-! ### Messages, queues, mixing (R324-R366, R347-R365) -/

/-- SEND, SEND.REL, REPLY and REPLY.REL (R347-R351): with the block and the payload in order, one message leaves, with the block's
class, path and arguments (argument 3 the return address when FLAGS asks), the payload copied; REL names every open access; a
module out of reach gets none; all wait while the cell's outbound queue is full.  That block and payload may be read 16 bytes a step
(R207) is the model's choice (log 13).  A message within the module joins the delivery path behind a LIVE addition (R46), one to another
module its flow with the next SEQ, from where it is sent when nothing holds it (R305, R309, R351).
SENDLB (R352): the image in four vector registers enters the own inbox while a slot is free; else it waits; one of a built-in
class is served without a context (R34) and leaves nothing (DESIGN CHOICE, log 12). -/
def Obligations.MessageForms : Prop :=
  (∀ (a b : Reg) (s : State), let x := (s.s a).toNat
    let rd := s.localRead; let cls := rd (x + 36) 1; let n := rd (x + 38) 2; let src := rd (x + 40) 4 % 2 ^ 19; let dst := rd (x + 44) 4 % 2 ^ 19
    ∀ q ∈ [(Instr.send a, false, s.blockDst x), (.sendRel a, true, s.blockDst x), (.reply a b, false, addressDst (s.s b)),
      (.replyRel a b, true, addressDst (s.s b))], Executes q.1 s → s.cur.stage = 0 → s.cur.answers = [] →
    (s.outFull = true → exec q.1 s = .next s) ∧ (s.outFull = false → s.BlockOk x 64 64 →
    let ops := x + 2 ^ 64 * (if q.1 = .reply a b ∨ q.1 = .replyRel a b then (s.s b).toNat else 0)
    (s.late.headD false = true → exec q.1 s = .next (s.tookPiece ops (s.localBytes x 16))) ∧ (s.late.headD false = false →
    (cls < 16 → Traps q.1 s causePerm (BitVec.ofNat 64 cls)) ∧
    (16 ≤ cls → 4096 < n → Traps q.1 s causePerm (BitVec.ofNat 64 n)) ∧
    (16 ≤ cls → n ≤ 4096 → (n = 0 ∨ s.BlockOk src n 16 ∧ dst % 16 = 0) →
      let dv := q.2.2; let own := s.devidx.toNat
      let after := if q.2.1 = true then s.openAccesses else []
      (320 ≤ dv.dev ∨ s.reaches dv.dev = false → dv.dev ≠ own →
        Runs q.1 s (s.tookBlock.recordError (s.cur.launch.map BitVec.toNat) 0x0B s.cur.lcell.toNat)) ∧
      ((dv.dev = own ∨
          dv.dev < 320 ∧ s.reaches dv.dev = true ∧ s.dark dv.dev = false ∧ s.flowRoom s.cur.lcell.toNat dv.dev = true) →
        ∃ m : Msg, m.cls = BitVec.ofNat 8 cls ∧ m.rel = q.2.1 ∧ m.dest = BitVec.ofNat 16 dv.cell ∧ m.launch = BitVec.ofNat 12 dv.launch ∧
          m.path = BitVec.ofNat 64 (rd (x + 48) 8) ∧ m.args[0] = BitVec.ofNat 64 (rd x 8) ∧ m.args[1] = BitVec.ofNat 64 (rd (x + 8) 8) ∧
          m.args[2] = BitVec.ofNat 64 (rd (x + 16) 8) ∧
          m.args[3] = BitVec.ofNat 64 (if rd (x + 37) 1 % 2 = 1 then s.returnAddress else rd (x + 24) 8) ∧
          m.paylen = BitVec.ofNat 13 n ∧ m.payaddr = BitVec.ofNat 19 dst ∧ m.srcdev = s.devidx ∧
          Runs q.1 s (if dv.dev = own then (s.tookBlock.sendHere m (s.localBytes src n) after).countSent
            else (s.tookBlock.sendAway m dv.dev (s.localBytes src n) dst after).countSent)))))) ∧
  (∀ (s : State) (m : Msg) (payload : List Byte) (after : List Nat), let u := s.sendHere m payload after
    let sys : Bool := match look? s.l2p m.dest.toNat with | some c => kindOf c == some .system | none => false
    ∃ q : Post, u = { s with
        posts := s.posts ++ [q], nextId := if sys then s.nextId else s.nextId + 1
        records := s.records ++ if sys then [] else [RecOp.liveAdd (s.levelVa m.launch.toNat) s.nextId] } ∧
      q.msg = m ∧ q.target = .logical m.dest.toNat ∧ q.payload = payload ∧ q.after = after ∧ q.out = true ∧
      q.flow = some (s.flowName, m.dest.toNat) ∧ q.placed = payload.isEmpty ∧ q.held = (look? s.l2p m.dest.toNat).isNone ∧
      q.gate = (if sys then .clear else .pending s.nextId)) ∧
  (∀ (s : State) (m : Msg) (dev dst : Nat) (payload : List Byte) (after : List Nat), let u := s.sendAway m dev payload dst after
    let l := s.cur.lcell.toNat; s.flowRoom l dev = true → let f := (s.findFlow l dev).getD { scell := l, ddev := dev }
    ∃ g e, u.findFlow l dev = some g ∧ g.next = (f.next + 1) % 65536 ∧ g.buf.length = f.buf.length + 1 ∧ g.buf.getLast? = some e ∧
      e.access = none ∧ e.after = after ∧ e.owner = some (s.cur.launch.map BitVec.toNat, l) ∧ e.pkt.ddev = dev ∧
      e.pkt.dcell = m.dest.toNat ∧ e.pkt.scell = l ∧ e.pkt.cls = m.cls.toNat ∧ e.pkt.rel = m.rel ∧ e.pkt.launch = m.launch.toNat ∧
      e.pkt.args = [m.args[0].toNat, m.args[1].toNat, m.args[2].toNat, m.args[3].toNat] ∧ e.pkt.path = m.path.toNat ∧
      e.pkt.paddr = dst ∧ e.pkt.payload = payload.map BitVec.toNat ∧ e.pkt.paylen = payload.length ∧ e.pkt.seq = f.next % 65536 ∧
      e.pkt.first = (s.findFlow l dev).isNone ∧ u.posts = s.posts ∧ u.inflight = s.inflight ∧ u.records = s.records ∧
      (after.any s.pendingAccess = true → e.sent = false) ∧
      (s.dark dev = false → (∀ q ∈ f.buf, q.sent = true) → after.any s.pendingAccess = false →
        e.sent = true ∧ u.out = s.out ++ [e.pkt])) ∧
  (∀ (a : Reg) (s : State), Executes (.sendlb a) s →
    let img := (s.v a).toNat + 2 ^ 128 * (s.v (a + 1)).toNat + 2 ^ 256 * (s.v (a + 2)).toNat + 2 ^ 384 * (s.v (a + 3)).toNat
    (s.here.freeSlots = 0 → exec (.sendlb a) s = .next s) ∧
    (s.here.freeSlots ≠ 0 → img % 256 < 16 → Runs (.sendlb a) s s) ∧
    (s.here.freeSlots ≠ 0 → 16 ≤ img % 256 → Runs (.sendlb a) s (s.modHere fun c => c.enqueue { Msg.ofNat img with lb := true })))

/-- The gradient-queue forms (R353-R357): GQCREATE configures a queue of the own group; GQPUSH sends a packet whose grant returns
later; a pop waits at its queue, then writes its packet to the rows and its sideband to s[D]; a group of 48 or above traps.
The mixing forms (R359-R365): each is accepted by the engine of the cell's group in its order, with its operand read at
issue; those with a result return it later; a block of 4,096 or above traps.  A form that is accepted is the last in its engine's order,
and its block becomes the context's current one (R323, R344).  The number of elements that MIXADD and MIXREAD take at
issue (`issueLen`) is the model's reading (log 24), and so is a block read or a packet written in pieces (`late`, log 13). -/
def Obligations.QueueAndMixForms : Prop :=
  (∀ (d a b : Reg) (s : State), let x := (s.s a).toNat; let w := (s.s b).toNat
    let g := (s.now.cell - Config.depotBase) / 4; let k := x % 256; let n := w / 2 ^ 16 % 2 ^ 7; let ty := w / 2 % 8
    (Executes (.gqcreate a b) s → (s.gqueue g k).waiting = [] → Runs (.gqcreate a b) s (s.setQueue g k
      { valid := bit w 0 && decide (3 ≤ ty) && decide (ty ≤ 5) && n != 0 && decide (n ≤ 64), ty := BitVec.ofNat 3 ty
        block := BitVec.ofNat 12 (w / 2 ^ 4 % 2 ^ 12), nslot := BitVec.ofNat 7 n, waiting := [], pops := (s.gqueue g k).pops })) ∧
    (x / 2 ^ 8 % 2 ^ 6 < 48 →
      (Executes (.gqpush d a b) s → s.localOk s.now.cell s.cur w 144 = true → w % 16 = 0 → s.badLocal w 136 = none →
        s.rowsBusy w 144 = false → s.AtOnce →
        ∃ p : Push, Runs (.gqpush d a b) s { s.tookBlock.launched (s.owing .reply (.s d)) with pushes := s.pushes ++ [p] } ∧
          p.group = x / 2 ^ 8 % 2 ^ 6 ∧ p.queue = k ∧ p.data = s.localBytes w 128 ∧
          p.sideband = BitVec.ofNat 64 (s.localRead (w + 128) 8) ∧ p.id = s.nextId) ∧
      (Executes (.gqstat d a b) s → Runs (.gqstat d a b) s
        (s.launched (s.owing (.query 3 (x / 2 ^ 8 % 2 ^ 6 * 256 + k) (w % 4)) (.s d))))) ∧
    (48 ≤ x / 2 ^ 8 % 2 ^ 6 → s.word? 512 = none → ∀ i ∈ [Instr.gqpush d a b, .gqstat d a b], Executes i s →
      Traps i s causePerm (s.s a)) ∧
    ∀ q ∈ [(Instr.gqpop d a b, false), (.gqpopDrop d a b, true)], Executes q.1 s →
      let ops := s.kept (w + 2 ^ 64 * x); let wk := ops % 2 ^ 64; let j := s.cur.stage - 1024; wk % 16 = 0 → s.localOk s.now.cell s.cur wk 144 = true → s.rowsBusy wk 144 = false →
      (∀ sb l, s.cur.answers = [.word 512 ops, .packet sb l] → l.length = 128 → s.MemoryOk →
        (j = 0 → s.late.headD false = false → ∃ pad' bad',
          Runs q.1 s (State.setS { s with pad := pad', badPad := bad', late := s.late.tail } d sb) ∧
          Stored s.pad pad' (s.localKey wk) 136 (ofBytes l + 2 ^ 1024 * sb.toNat)) ∧
        (j < 136 → j ≠ 0 ∨ s.late.headD false = true → ∃ u : State,
          u = { s with pad := u.pad, badPad := u.badPad, late := if j = 0 then s.late.tail else s.late } ∧
          Stored s.pad u.pad (s.localKey (wk + j)) 1 ((ofBytes l + 2 ^ 1024 * sb.toNat) / 256 ^ j) ∧
          if j = 135 then Runs q.1 s (u.setS d sb)
          else exec q.1 s = .next (u.modCur fun x => { x with stage := 1025 + j }))) ∧
      (∀ v ok, s.cur.answers = [.word 512 ops, .value v ok] → Traps q.1 s causeGqtype (BitVec.ofNat 64 v)) ∧
      (s.cur.answers = [] → (s.gqueue g k).pops.length < 4 → ∃ t, exec q.1 s = .next t ∧
        t.cur = { s.cur with wait := .queue s.nextId, answers := [.word 512 ops] } ∧ (t.gqueue g k).packets = (s.gqueue g k).packets ∧
        (t.gqueue g k).pops = (s.gqueue g k).pops ++ [{ id := s.nextId, cell := s.now.cell, ctx := s.now.ctx, drop := q.2 }])) ∧
  (∀ (d a b : Reg) (s : State), let blk := (s.s a).toNat % 2 ^ 16; let w := (s.s b).toNat
    let len := s.issueLen blk; let p := s.localRead w 2; let n := min p 62
    let allowed := if w % 256 = 0 ∧ 256 ≤ w ∧ w ≤ 16384 then w else 0
    (4096 ≤ blk → s.word? 512 = none → ∀ i ∈ [Instr.mixcfg a b, .mixjoin a b, .mixpeer a b, .mixadd d a b, .mixtick a, .mixread d a b, .mixstat d a b,
      .mixleave a, .mixhold a b], Executes i s → Traps i s causePerm (s.s a)) ∧
    (blk < 4096 →
      (∀ q ∈ [(Instr.mixcfg a b, MixKind.cfg allowed), (.mixjoin a b, .join allowed), (.mixtick a, .tick), (.mixleave a, .leave),
          (.mixhold a b, .hold (bit w 0))], Executes q.1 s → Runs q.1 s (s.mixAccept blk q.2 none)) ∧
      (Executes (.mixpeer a b) s → s.localOk s.now.cell s.cur w 4 = true → s.BlockOk w (4 + 2 * n) 16 → s.AtOnce →
        Runs (.mixpeer a b) s (s.tookBlock.mixAccept blk (.peer p (s.localRead (w + 2) 1) (s.localRead (w + 3) 1)
          ((List.range n).map fun q => s.localRead (w + 4 + 2 * q) 2)) none)) ∧
      (Executes (.mixstat d a b) s → Runs (.mixstat d a b) s (s.mixResult d blk (.stat (w % 32)))) ∧
      (Executes (.mixadd d a b) s → s.BlockOk w (4 * len) 16 → s.AtOnce → Runs (.mixadd d a b) s
        (s.tookBlock.mixResult d blk (.add len ((List.range len).map fun i => s.localRead (w + 4 * i) 4)))) ∧
      (Executes (.mixread d a b) s → w % 16 = 0 → s.localOk s.now.cell s.cur w (4 * len) = true → Runs (.mixread d a b) s
        ((s.mixResult d blk (.read len s.now.cell (s.localAddr s.now.cell s.cur w))).modCur fun x =>
          { x with mixreads := x.mixreads ++ [s.nextId] })))) ∧
  (∀ (s : State) (blk : Nat) (kind : MixKind) (id : Option Nat) (d : Reg), let g := (s.now.cell - Config.depotBase) / 4
    let joins := fun (u : State) (id : Option Nat) =>
      (u.group g).ops = (s.group g).ops ++ [{ cell := s.now.cell, ctx := s.now.ctx, block := blk, kind := kind, id := id }] ∧
      (u.group g).blocks = (s.group g).blocks ∧ (∀ h, h ≠ g → u.group h = s.group h) ∧
      u.cur = { s.cur with block := BitVec.ofNat 12 blk } ∧ u.hbm = s.hbm ∧ u.pad = s.pad
    joins (s.mixAccept blk kind id) id ∧ (s.mixAccept blk kind id).inflight = s.inflight ∧
    joins (s.mixResult d blk kind) (some s.nextId) ∧ (s.mixResult d blk kind).inflight = s.inflight ++ [s.owing .reply (.s d)])

/-! ### The matrix unit's forms (R284-R300) -/

/-- The commands (R286-R292): with a place free in the queue and the descriptor in order, a command with the descriptor's bytes
joins the queue of the cell's format context; with four there the form waits; MSREC's record must be aligned.  Queued, it is the last
command, takes its tile when that is free and no command waits for it, and a record of it waits for MWAIT (R272, R286, R293).
MWAIT, MAR, MAW, MSTAT and MXSRD (R293-R297): MWAIT covers the task's records of its tile and its untiled ones; when all have
completed, as when there is none, it returns the first status whose code is not 0, else 0, and releases the tile; else it waits
for them.  MAR and MAW name an aligned group of a tile, of no promised value before the MWAIT; MSTAT reads the queue, the tiles
and the norm buffer; MXSRD waits while another task owns the tile, and before the owner's MWAIT reads the earlier record.
MREM, MKEY and MCAP (R298-R300): MREM sends its 128-byte block on the task's flow in one message and remembers the command, or
ends it with UNREACH; MKEY sets the key of a leased context, at once when nothing is queued there; MCAP's capability returns
later.  The words of MREM's packet are the model's reading (log 30), and so are which accesses have no promised value (`loose`) and
what MKEY and MCAP do where the cluster does not exist (log 40), and that a descriptor or a block may be read in pieces (log 13). -/
def Obligations.MatrixForms : Prop :=
  (∀ (a b : Reg) (s : State), let x := (s.s a).toNat
    let queued := fun (t : State) (c : MxCmd) => State.mxEnqueue { t with nextId := s.nextId + 1 } (l1Key s.now.cell) c
    let mine := fun (c : MxCmd) (k : MxKind) => c.id = s.nextId ∧ c.kind = k ∧ c.fc = s.now.cell % 16 ∧ c.token = s.cur.token ∧
      c.ret = none ∧ c.started = false ∧ c.k = 0 ∧ c.code = none
    (s.mxFull = true → s.cur.stage = 0 → s.cur.answers = [] → ∀ i ∈ [Instr.mma a, .mmas a, .mnorm a, .mxs a b, .mtout a, .mfmt a b, .msrec a], Executes i s →
      exec i s = .next s) ∧
    (s.mxFull = false →
      (∀ q ∈ [(Instr.mma a, MxKind.mma, 32), (.mmas a, .mmas, 32), (.mnorm a, .mnorm, 32), (.mxs a b, .mxs, 64), (.mtout a, .mtout, 32)],
        Executes q.1 s → s.BlockOk x q.2.2 32 → s.AtOnce →
        let c0 := { s.mxCommand q.2.1 with desc := s.localRead x q.2.2 }
        (q.2.1 = .mtout ∨ s.slotCheck c0.ava c0.swz = .ok () ∧ s.slotCheck c0.bva c0.swz = .ok ()) →
        ∃ c, mine c q.2.1 ∧ c.desc = s.localRead x q.2.2 ∧ (q.2.1 = .mxs → c.x = s.s b) ∧
          c.rowA = s.slotRow c0.ava ∧ c.rowB = s.slotRow c0.bva ∧ Runs q.1 s (queued s.tookBlock c)) ∧
      (Executes (.mfmt a b) s → ∃ c, mine c .mfmt ∧ c.x = s.s a ∧ c.y = s.s b ∧ Runs (.mfmt a b) s (queued s c)) ∧
      (Executes (.msrec a) s → (x % 64 ≠ 0 → Traps (.msrec a) s causeMisalign (s.s a)) ∧
        (x % 64 = 0 → ∃ c, mine c .msrec ∧ c.x = s.s a ∧ Runs (.msrec a) s (queued s c))))) ∧
  (∀ (s : State) (cl : Nat) (c : MxCmd), let u := s.mxEnqueue cl c
    let takes := c.kind.tiled = true ∧ s.tileOwner cl c.tile = none ∧ ∀ e ∈ (s.mx cl).cmds, e.names c.tile = false
    (u.mx cl).cmds = (s.mx cl).cmds ++ [c] ∧ (takes → s.tileOwner cl c.tile = none ∧ u.tileOwner cl c.tile = some c.token) ∧
    (¬ takes → (u.mx cl).owners = (s.mx cl).owners) ∧
    (u.mx cl).recs = (s.mx cl).recs ++ (if c.ret ≠ none ∨ c.kind = .mkey then [] else
      [{ id := c.id, token := c.token, tile := if c.kind.tiled = true then some c.tile else none, out := c.kind == .mtout }]) ∧
    ∀ d, d ≠ cl → u.mx d = s.mx d) ∧
  (∀ (d a : Reg) (s : State), let x := (s.s a).toNat; let u := s.mx (l1Key s.now.cell)
    let f := u.fmt (s.now.cell % 16)
    let mine := fun (r : MxRec) => r.token == s.cur.token && (r.tile == some (x % 8) || r.tile == none)
    let covers := u.recs.filter mine
    (Executes (.mwait d a) s → ∃ t w, Runs (.mwait d a) s t ∧ t.inflight = s.inflight ++ [w] ∧ w.id = s.nextId ∧ w.dest = .s d ∧
      w.op = .reply ∧ w.cell = s.now.cell ∧ w.ctx = s.now.ctx ∧ t.hbm = s.hbm ∧ t.pad = s.pad ∧ t.cur.s = s.cur.s ∧
      t.cur.mixreads = s.cur.mixreads ++ (if covers.any (·.out) = true then [s.nextId] else []) ∧
      (t.mx (l1Key s.now.cell)).recs = (u.recs.filter fun r => !mine r) ∧
      ((∀ r ∈ covers, r.status ≠ none) →
        w.phase = .done (((covers.filterMap (·.status)).find? fun v => v % 256 != 0).getD 0) (covers.foldl (fun fl r => fl ||| r.flags) 0) ∧
        (t.mx (l1Key s.now.cell)).waits = u.waits ∧
        ((∀ c ∈ u.cmds, c.token = s.cur.token → c.names (x % 8) = false) →
          (∀ m ∈ u.waits, m.token = s.cur.token → m.tile ≠ x % 8) →
          (t.mx (l1Key s.now.cell)).owners = u.owners.filter fun e => !(e.1 == x % 8 && e.2 == s.cur.token))) ∧
      ((∃ r ∈ covers, r.status = none) → w.phase = .issued ∧
        (t.mx (l1Key s.now.cell)).waits = u.waits ++ [{ id := s.nextId, token := s.cur.token, tile := x % 8, covers := covers }])) ∧
    (Executes (.mar d a) s → let n : Nat := if f.oty = 3 ∨ f.oty = 4 then 8 else 4
      (x / 2 ^ 16 % 2 ^ 7 % n ≠ 0 → Traps (.mar d a) s causeMisalign (s.s a)) ∧
      (x / 2 ^ 16 % 2 ^ 7 % n = 0 → ∃ g, Runs (.mar d a) s
          ((s.launched { s.owing .reply (.v d) with grain := 16 / n }).addAcc (l1Key s.now.cell) g) ∧
        g.id = some s.nextId ∧ g.tile = x % 8 ∧ g.row = x / 2 ^ 8 % 2 ^ 7 ∧ g.col = x / 2 ^ 16 % 2 ^ 7 ∧ g.oty = f.oty ∧
        g.token = s.cur.token ∧ g.loose = s.unwaited (x % 8))) ∧
    (Executes (.maw d a) s →
      (x / 2 ^ 16 % 2 ^ 7 % 4 ≠ 0 → Traps (.maw d a) s causeMisalign (s.s a)) ∧
      (x / 2 ^ 16 % 2 ^ 7 % 4 = 0 → ∃ g, Runs (.maw d a) s (s.addAcc (l1Key s.now.cell) g) ∧
        g.id = none ∧ g.tile = x % 8 ∧ g.row = x / 2 ^ 8 % 2 ^ 7 ∧ g.col = x / 2 ^ 16 % 2 ^ 7 ∧
        g.token = s.cur.token ∧ g.loose = s.unwaited (x % 8) ∧
        g.data = (List.range 4).map fun e => (s.v d).toNat / 2 ^ (32 * e) % 2 ^ 32)) ∧
    (Executes (.mstat d) s → ∃ v, Runs (.mstat d) s (s.setS d (BitVec.ofNat 64 v)) ∧ (u.queued (s.now.cell % 16) ≤ 4 →
      v % 2 ^ 8 = u.queued (s.now.cell % 16) ∧ v / 2 ^ 25 % 2 ^ 7 = 0 ∧ v / 2 ^ 45 = 0 ∧
      (∀ t, t < 8 → (bit v (8 + t) = true ↔ s.tileOwner (l1Key s.now.cell) t = some s.cur.token) ∧
        (bit v (16 + t) = true ↔ (s.tileOwner (l1Key s.now.cell) t).isSome = true)) ∧
      (bit v 24 = true ↔ ∃ k, s.normOwner (l1Key s.now.cell) = some (s.now.cell % 16, k)) ∧
      v / 2 ^ 32 % 2 ^ 13 =
        (match (u.queue (s.now.cell % 16)).head? with | some c => if c.started = true then c.k % 2 ^ 13 else 0 | none => 0))) ∧
    (Executes (.mxsrd d a) s →
      let now := (look (0, 0, 0) u.samples (x % 8)).2
      let e := match look? u.earlier (x % 8) with | some (k, old) => if k = s.cur.token then old.2 else now | none => now
      (s.tileTaken (l1Key s.now.cell) (x % 8) s.cur.token = true → exec (.mxsrd d a) s = .next s) ∧
      (s.tileTaken (l1Key s.now.cell) (x % 8) s.cur.token = false →
        Runs (.mxsrd d a) s (s.setS d (BitVec.ofNat 64 (e.1 % 2 ^ 32 + 2 ^ 32 * (e.2 % 2 ^ 32))))))) ∧
  (∀ (d a b : Reg) (t : BitVec 4) (s : State), let x := (s.s a).toNat; let rd := s.localRead
    let dev := rd (x + 64) 8 % 2 ^ 9
    (Executes (.mrem a t) s → s.BlockOk x 128 64 → s.AtOnce → s.outFull = false →
      (rd (x + 80) 1 < 16 → Traps (.mrem a t) s causePerm (BitVec.ofNat 64 (rd (x + 80) 1))) ∧
      (16 ≤ rd (x + 80) 1 → dev < 320 → s.reaches dev = true → s.dark dev = false →
        s.flowRoom s.cur.lcell.toNat dev = true →
        ∃ u m f fm, Runs (.mrem a t) s u ∧ u.mrems = s.mrems ++ [m] ∧ m.dev = dev ∧ m.kind = t.toNat ∧ m.cls = rd (x + 80) 1 ∧
          m.harg.toNat = rd (x + 88) 8 % 2 ^ 64 ∧ m.frm = s.cur.frm.toNat ∧ m.task = s.cur.token ∧
          u.here.sent = s.here.sent + 1 ∧ u.cur = s.cur ∧ u.hbm = s.hbm ∧ u.pad = s.pad ∧
          u.findFlow s.cur.lcell.toNat dev = some f ∧ f.buf.getLast? = some fm ∧
          fm.pkt.cls = 11 ∧ fm.pkt.ddev = dev ∧ fm.pkt.dcell = rd (x + 64) 8 / 2 ^ 16 % 2 ^ 11 ∧ fm.pkt.sdev = s.devidx.toNat ∧
          fm.pkt.scell = s.cur.lcell.toNat ∧ fm.pkt.spcell = s.now.cell ∧ fm.pkt.launch = ((s.cur.launch.map BitVec.toNat).getD 0) ∧
          fm.pkt.path = s.cur.path.toNat ∧ fm.pkt.args = [s.cur.jseed.toNat, s.cur.lcell.toNat + t.toNat * 2 ^ 16, s.cur.frm.toNat, 0] ∧
          fm.pkt.paylen = 128 ∧ fm.pkt.payload = (s.localBytes x 128).map BitVec.toNat ∧
          ((∀ g, s.findFlow s.cur.lcell.toNat dev = some g → ∀ e ∈ g.buf, e.sent = true) →
            fm.sent = true ∧ u.out = s.out ++ [fm.pkt])) ∧
      (16 ≤ rd (x + 80) 1 → 320 ≤ dev ∨ s.reaches dev = false → ∃ m : Mrem, m.cls = rd (x + 80) 1 ∧ m.lcell = s.cur.lcell.toNat ∧
        m.kind = t.toNat ∧ Runs (.mrem a t) s (s.tookBlock.mremFinish m 5 0).countSent)) ∧
    (Executes (.mkey a b) s →
      (s.leased (s.s a) = none → Runs (.mkey a b) s s) ∧
      ∀ cl fc, s.leased (s.s a) = some (cl, fc) → (s.mx cl).queue fc = [] →
        ∃ u, Runs (.mkey a b) s u ∧ (u.mx cl).fmt fc = { lkey := s.s b } ∧ ∀ c, c ≠ cl → u.mx c = s.mx c) ∧
    (Executes (.mcap d a) s →
      let cap := x % 2 ^ 42
      let key := match s.leased (s.s a) with | some (cl, fc) => ((s.mx cl).fmt fc).lkey | none => 0
      Runs (.mcap d a) s (s.launched (s.answered d
        (BitVec.ofNat 64 (cap + (mix key (BitVec.ofNat 64 cap)).toNat / 2 ^ 42 % 2 ^ 22 * 2 ^ 42))))))

/-! ### The stage table's forms (R371, R381, R382) -/

/-- STGCFG, STGDONE, STGTMPL, STGSREC and STGSTAT: MODE 0 turns the table off; else the table is written as a whole, with the
operands as they were read at the first step.  That the entries are read before, as one load each, one a step and several in flight,
is the model's reading (log 28, DEDUCED).  STGDONE needs a running entry. -/
def Obligations.StageForms : Prop := ∀ (d a b : Reg) (s : State), let va := (s.s a).toNat; let cfg := (s.s b).toNat
  (Executes (.stgcfg a b) s → let ops := s.kept (va + 2 ^ 64 * cfg); let at' := ops % 2 ^ 64; let c : Word := BitVec.ofNat 64 (ops / 2 ^ 64)
    let n := if c.toNat % 256 = 0 then 256 else c.toNat % 256
    at' % 16 = 0 →
    (cfgMode c.toNat = 0 → Runs (.stgcfg a b) s s.stageOff) ∧
    (cfgMode c.toNat ≠ 0 → s.cur.stage < n → ∀ pl key chk, s.Mapped ((at' + 16 * s.cur.stage) % 2 ^ 64) false pl key chk →
      ∃ t, exec (.stgcfg a b) s = .next t ∧ t.stage = s.stage ∧ t.cur = { s.cur with
          stage := s.cur.stage + 1, answers := s.cur.answers ++ if s.cur.stage = 0 then [.word 512 ops] else [] } ∧
        t.inflight = s.inflight ++ [s.issuedTo (.stgcfg a b) ((at' + 16 * s.cur.stage) % 2 ^ 64) pl key chk
          (.vload 0 16 0xFFFF) .none s.cur.stage]) ∧
    (cfgMode c.toNat ≠ 0 → n ≤ s.cur.stage → ∀ es, (List.range n).mapM s.word? = some es →
      Runs (.stgcfg a b) s (s.stageConfigure c es))) ∧
  (Executes (.stgdone a) s →
    (s.stage.running = false → Traps (.stgdone a) s causePerm 0) ∧
    (s.stage.running = true → ((s.stage.outputs (s.s a)).all fun m => s.stageRoom m.1 (s.stage.outputs (s.s a)).length) = true →
      let s1 := (s.stage.outputs (s.s a)).foldl (fun s' m => s'.stageSend m s.openAccesses) { s with stage := s.stage.complete }
      Runs (.stgdone a) s (if s1.stage.mode = 1 then s1.stageAsk else s1))) ∧
  (Executes (.stgtmpl a b) s → Runs (.stgtmpl a b) s { s with stage := { s.stage with templates :=
    (put s.stage.templates (va % 16) { launch := cfg % 2 ^ 12, lcell := cfg / 2 ^ 16 % 2 ^ 16, valid := bit cfg 32 }) } }) ∧
  (Executes (.stgsrec a) s → (va % 64 ≠ 0 → Traps (.stgsrec a) s causeMisalign (s.s a)) ∧
    (va % 64 = 0 → Runs (.stgsrec a) s { s with stage := { s.stage with srbase := s.s a } })) ∧
  (Executes (.stgstat d a) s → Runs (.stgstat d a) s (s.launched (s.owing (.query 4 0 (va % 4)) (.s d))))

/-! ### Traps and system forms (R242-R259) -/

/-- Taking a trap (R243, R246): TRAPCAUSE, TRAPPC, TRAPVAL and TRAPSTATE are written, the mode becomes system and control goes to
TRAPVEC; no general, vector or predicate register of any context and no memory changes (what else changes in other contexts is
that a leader's followers leave it, R44).  While results are owed the trap
waits, and TRAP_ENTRY takes it once they have returned.  The depth of nested traps is the model's reading (log 18). -/
def Obligations.TrapEntry : Prop := ∀ (s : State) (n k : Nat) (cause : BitVec 8) (val : Word), let x := s.ctx n k
  let entered := fun (t : State) => (t.ctx n k) = { x with
      trapcause := cause, trappc := x.pc, trapval := val, trapstate := (t.ctx n k).trapstate, sys := true, inTrap := x.inTrap + 1
      pc := (s.cell n).trapvec, pendingTrap := none, parked := false, wait := .none, answers := [], stage := 0, stepping := false
      debugStep := false, saving := false, following := false, stream := [] } ∧
    (t.ctx n k).trapstate.toNat % 2 = (s.sysMode n k).toNat ∧
    (t.ctx n k).trapstate.toNat / 4 % 2 = (if (s.cell n).fetchHalf x x.pc.toNat % 2 = 1 then 1 else 0) ∧
    (∀ m j, ¬ (m = n ∧ j % 4 = k % 4) → (t.ctx m j).s = (s.ctx m j).s ∧ (t.ctx m j).v = (s.ctx m j).v ∧ (t.ctx m j).p = (s.ctx m j).p) ∧
    t.hbm = s.hbm ∧ t.pad = s.pad ∧ t.inflight = s.inflight
  x.stepping = false →
  (s.owedAtTrap n k = false → entered (s.takeTrap n k cause val)) ∧
  (s.owedAtTrap n k = true → (s.takeTrap n k cause val).ctx n k =
    { x with pendingTrap := some (cause, val), stream := [], following := false }) ∧
  (s.now.arg.a = n → s.now.arg.b = k → x.pendingTrap = some (cause, val) → s.owedAtTrap n k = false →
    ∃ t, exec .trapEntry s = .next t ∧ entered t)

/-- What every instruction that occupies a word traps on before its own checks (R82): ILLEGAL, then PRIV, each with the word in
TRAPVAL; then a context that is not ready (R217) waits and nothing changes, as one does whose interlocked load, AMO or PHREAD has not
come back, for every instruction that touches its register (R40, R223). -/
def Obligations.IllegalThenPriv : Prop := ∀ (i : Instr) (s : State), width i ≠ 0 →
  (s.decodeIllegal i = true → Traps i s causeIllegal (s.instrValue i)) ∧
  (s.decodeIllegal i = false → privileged i = true → s.isSys = false → Traps i s causePriv (s.instrValue i)) ∧
  (s.decodeIllegal i = false → (privileged i = true → s.isSys = true) → s.heldBack i = true → exec i s = .next s) ∧
  (∀ a ∈ s.inflight, s.decodeIllegal i = false → (privileged i = true → s.isSys = true) → a.locked = true →
    s.owns s.now.cell s.now.ctx a = true → touches i a.dest = true → exec i s = .next s)

/-- TRAP, BKPT and ERET (R245, R259): ERET returns to TRAPPC in the mode TRAPSTATE gives, with STEP arming the next
instruction; from an UNBOUND trap it ends context 3's activation, and the message goes back to the head of its channel. -/
def Obligations.TrapForms : Prop := ∀ (a : Reg) (s : State), let st := s.cur.trapstate.toNat
  (Executes (.trap a) s → Traps (.trap a) s causeTrap (s.s a)) ∧
  (Executes .bkpt s → Traps .bkpt s causeBkpt 0) ∧
  (Executes .eret s → bit st 3 = false → ∃ t, exec .eret s = .next t ∧ t.cur.pc = s.cur.trappc ∧ t.cur.sys = bit st 0 ∧
    t.cur.stepping = bit st 1 ∧ t.cur.retired = s.cur.retired + 1 ∧ t.cur.s = s.cur.s ∧ t.cur.v = s.cur.v ∧ t.cur.p = s.cur.p ∧
    t.cur.lc = s.cur.lc ∧ t.hbm = s.hbm ∧ t.pad = s.pad) ∧
  (Executes .eret s → bit st 3 = true →
    (s.owed s.now.cell s.now.ctx = true → exec .eret s = .next (s.modCur fun x => { x with ending := true })) ∧
    (s.owed s.now.cell s.now.ctx = false → ∃ t, exec .eret s = .next t ∧ t.cur.busy = false ∧ t.here.unbound = none ∧
      t.records = s.records ∧
      ∀ m, look? s.here.slots (st / 2 ^ 16 % 2 ^ 6) = some m → s.here.unbound = some (st / 2 ^ 16 % 2 ^ 6) →
        (look [] t.here.queue m.chan.toNat).head? = some (st / 2 ^ 16 % 2 ^ 6)))

/-- The forms on a cell's code store, routine table and inbox (R34, R36, R84, R259): a missing target changes nothing; a context
keeps the old bits of written halfwords that lie less than 8 halfwords ahead of its issue with their whole aligned unit, at most; GEN counts the changes of
ENTRY. -/
def Obligations.CellForms : Prop := ∀ (d a b : Reg) (s : State), let x := (s.s a).toNat; let w := (s.s b).toNat
  (Executes (.codew a b) s → let at' := x % 2 ^ 14
    (at' % 2 = 1 → Traps (.codew a b) s causeMisalign (BitVec.ofNat 64 at')) ∧
    (at' % 2 = 0 → (s.targetCell (s.s a) = none → Runs (.codew a b) s s) ∧
      ∀ n, s.targetCell (s.s a) = some n → ∃ c : Cell,
        Runs (.codew a b) s (State.modCell { s with free := s.free + 1 } n fun _ => c) ∧
        c = { s.cell n with code := c.code, ctxs := c.ctxs } ∧
        (∀ k, c.ctx k = { s.ctx n k with ahead := (c.ctx k).ahead } ∧ ∀ e ∈ (c.ctx k).ahead, e ∈ (s.ctx n k).ahead ∨
          (e.1 = at' ∨ e.1 = at' + 1) ∧ e.2.toNat = (s.cell n).half e.1 ∧ inWindow (s.ctx n k).pc e.1 = true) ∧
        ∀ h, h < 0x4000 → c.half h = (if h = at' then w % 2 ^ 16 else if h = at' + 1 then w / 2 ^ 16 % 2 ^ 16 else (s.cell n).half h))) ∧
  (Executes (.rtset a b) s → (s.targetCell (s.s a) = none ∨ x % 256 < 16 → Runs (.rtset a b) s s) ∧
    ∀ n, s.targetCell (s.s a) = some n → 16 ≤ x % 256 →
      let r := look {} (s.cell n).routines (x % 256)
      Runs (.rtset a b) s (s.modCell n fun c => { c with routines := (put c.routines (x % 256)
        { entry := BitVec.ofNat 14 w, chan := BitVec.ofNat 3 (w / 2 ^ 14), bound := bit w 17, strict := bit w 18
          gen := r.gen + if BitVec.ofNat 14 w = r.entry then 0 else 1 }) })) ∧
  (Executes (.inbhead d a) s → Runs (.inbhead d a) s (s.setS d
    (match (look [] s.here.queue (x % 8)).head? with | some i => BitVec.ofNat 64 i | none => BitVec.allOnes 64))) ∧
  (Executes (.inbrd d a b) s → Runs (.inbrd d a b) s (s.setS d
    (match look? s.here.slots (x % 64) with | some m => BitVec.ofNat 64 (m.toNat / 2 ^ (64 * (w % 8)) % 2 ^ 64) | none => 0))) ∧
  (Executes (.inbfree a b) s → (look? s.here.slots (x % 64) = none → Runs (.inbfree a b) s s) ∧
    ∀ m, look? s.here.slots (x % 64) = some m →
      let s1 := { s.modHere (fun c => c.freeInbox (x % 64)) with unstarted := del s.unstarted (s.now.cell * 64 + x % 64) };
      (w % 2 = 0 → Runs (.inbfree a b) s s1) ∧ (w % 2 = 1 → Runs (.inbfree a b) s (s1.lostTask s.now.cell m)))

/-- The forms of translation, keys, pre-emption and the bounce table (R183, R197, R199, R201, R248, R254, R255, R259).  The model's
choices: the steps of a CTXREST whose record lies in another module's memory (`away`: word by word, then the exchange of COMMIT; log
14), those of a BNCCLR whose ring does (log 20), and a key read in pieces (log 13). -/
def Obligations.ModuleForms : Prop := ∀ (d a b : Reg) (s : State), let x := (s.s a).toNat; let w := (s.s b).toNat
  let inv := fun (e : TlbEntry) => !(w % 8 == 7 || (some e.size == invSize (w % 8) && e.covers (x / 4096)))
  (Executes (.fbstat d a) s → Runs (.fbstat d a) s (s.launched (s.owing (.query 1 (x % 256) 0) (.s d)))) ∧
  (Executes (.fbread d a b) s → Runs (.fbread d a b) s (s.launched (s.owing (.query 2 (x % 256) (w % 8)) (.s d)))) ∧
  (Executes (.fbclr a b) s → (48 ≤ x % 256 → Runs (.fbclr a b) s s) ∧ (x % 256 < 48 → Runs (.fbclr a b) s
    (s.setSlice (x % 256) { s.slice (x % 256) with faults := del (s.slice (x % 256)).faults (w % 8) }))) ∧
  (Executes (.replayall a) s → Runs (.replayall a) s ((if x % 256 = 255 then List.range 48
    else if x % 256 < 48 then [x % 256] else []).foldl State.replaySlice s)) ∧
  (Executes (.tlbinv a b) s → Runs (.tlbinv a b) s { s with
    l1 := s.l1.map fun e => (e.1, e.2.filter inv), slices := s.slices.map fun e => (e.1, { e.2 with tlb := e.2.tlb.filter inv }) }) ∧
  (Executes (.sgload a b) s → ∃ ps, Runs (.sgload a b) s { s with patterns := ps } ∧
    ∀ st, st < 48 → look 0 ps (st * 16 + x % 16) = (if bit x 63 = true ∨ st = x / 2 ^ 8 % 2 ^ 6
      then BitVec.ofNat 64 (w % 8 + w / 2 ^ 32 * 2 ^ 32) else look 0 s.patterns (st * 16 + x % 16))) ∧
  (Executes (.keyw a b) s → s.BlockOk w 64 64 → s.AtOnce → Runs (.keyw a b) s
    (if x % 2 ^ 13 = 0 then s.tookBlock else { s.tookBlock with keys := put s.keys (x % 2 ^ 13) (BitVec.ofNat 512 (s.localRead w 64)) })) ∧
  (Executes (.preempt a b) s → (x % 64 ≠ 0 → Traps (.preempt a b) s causeMisalign (s.s a)) ∧
    (x % 64 = 0 → ∃ u, Runs (.preempt a b) s u ∧ u = s.launches.foldl (fun s e => if e.2.recva.toNat = x then
      s.requestAll e.1 1 (if w % 2 ^ 32 = 0 then none else some (BitVec.ofNat 32 w)) else s) s)) ∧
  (Executes (.ctxrest d a) s → s.word? 513 = none → s.kept x = x →
    (x % 4096 ≠ 0 → Traps (.ctxrest d a) s causeMisalign (s.s a)) ∧
    (x % 4096 = 0 → s.away x = false → let r := s.takeRecord x
      Runs (.ctxrest d a) s (r.2.launched (r.2.answered d (BitVec.ofNat 64 r.1)))) ∧
    (x % 4096 = 0 → s.away x = true → exec (.ctxrest d a) s = .next (State.modCur { s with nextId := s.nextId + 1 } fun y =>
      { y with answers := y.answers ++ [.word 512 x, .word 513 s.nextId] }))) ∧
  (∀ id, Executes (.ctxrest d a) s → s.word? 513 = some id → let va := s.kept x; let k := s.cur.stage
    let j : Job' := ⟨id, l1Key s.now.cell, s.now.cell, s.cur.lcell.toNat, none⟩
    va % 4096 = 0 →
    (∀ v t, k < 512 → s.unitRead j (va + 8 * k) 8 = .got v t → k ≠ 0 ∨ bit v 0 = true → exec (.ctxrest d a) s =
      .next ((t.unitClear id).modCur fun y => { y with answers := y.answers ++ [.word k v], stage := k + 1 })) ∧
    (∀ old t, 512 ≤ k → s.unitUpdate j va (.amo 0 8 0 0) = .got old t → bit old 0 = true →
      let img := (List.range 512).foldl (fun n i => n + (s.word? i).getD 0 * 2 ^ (64 * i)) 0
      let r := t.recordTaken va img; let u := r.2.unitClear id
      Runs (.ctxrest d a) s (u.launched (u.answered d (BitVec.ofNat 64 r.1))))) ∧
  (Executes (.bncset d a b) s → let l := x % 2 ^ 16
    (look? s.bounce l = none → 256 ≤ s.bounce.length → Runs (.bncset d a b) s (s.setS d 1)) ∧
    (look? s.bounce l ≠ none ∨ s.bounce.length < 256 → Runs (.bncset d a b) s (State.setS { s with bounce := put s.bounce l w } d 0))) ∧
  (Executes (.bncclr a) s → let l := s.kept (x % 2 ^ 16)
    (look? s.bounce l = none → Runs (.bncclr a) s s) ∧
    (∀ va, look? s.bounce l = some va → s.ringAway va = false → Runs (.bncclr a) s (s.bounceApply l)) ∧
    ∀ va, look? s.bounce l = some va → s.ringAway va = true →
      (∀ t, s.applyAway l va = .got () t → Runs (.bncclr a) s t) ∧
      (∀ t, s.applyAway l va = .wait (some t) → s.word? 512 = none → exec (.bncclr a) s = .next (t.modCur fun y => y.keep l)))

/-- HALT, RESUME, the debug forms and the operating-point forms (R256, R257, R389, R393): a form that names no cell writes the
value for a missing target; OPSET and ROWQ join a controller's sequence, and their result returns later.  A cell in the middle of a
forced save, or of an instruction that takes its operands in several steps, is to halt after that. -/
def Obligations.ControlForms : Prop := ∀ (d a b : Reg) (s : State), let x := (s.s a).toNat; let w := (s.s b).toNat
  (Executes .halt s → ∃ u, Runs .halt s u ∧ u.stopped = true ∧
    ∀ n, kindOf n ≠ some .system → (s.cell n).halted = false →
      ((s.cell n).mid = false → (u.cell n).halted = true ∧ (u.cell n).haltcyc = (s.cell n).cycle) ∧
      ((s.cell n).mid = true → u.cell n = { s.cell n with halting := true })) ∧
  (Executes .resume s → ∃ u, Runs .resume s u ∧ u.stopped = false ∧ ∀ n, (u.cell n).halted = false ∧ (u.cell n).halting = false) ∧
  (Executes (.dbgrd d a b) s → Runs (.dbgrd d a b) s (s.launched (s.answered d
    (match s.debugItem x w with | some (n, k, i) => s.debugRead n k i | none => 0)))) ∧
  (Executes (.dbgwr a b) s → Runs (.dbgwr a b) s
    (match s.debugItem x w with | some (n, k, i) => s.debugWrite n k s.cur.sscr[0] i | none => s)) ∧
  (Executes (.dbgstep a) s → Runs (.dbgstep a) s (if kindOf (x % 2 ^ 17) ≠ none ∧ (s.cell (x % 2 ^ 17)).halted = true
    then s.modCtx (x % 2 ^ 17) (x / 2 ^ 17 % 4) fun c => { c with debugStep := true } else s)) ∧
  (s.opTarget (s.s a) = none →
    (Executes (.opset d a b) s → Runs (.opset d a b) s (s.launched (s.answered d 3))) ∧
    (Executes (.rowq d a b) s → Runs (.rowq d a b) s (s.launched (s.answered d 0)))) ∧
  ∀ n, s.opTarget (s.s a) = some n → let s1 := s.launched (s.owing .reply (.s d))
    let r := fun q op => ({ id := s.nextId, query := q, op := op } : OpRequest)
    (Executes (.opset d a b) s → Runs (.opset d a b) s (if bit x 62 = true
      then { s1 with unitOpq := put s.unitOpq (n / 16) (look [] s.unitOpq (n / 16) ++ [r none (w % 8)]) }
      else s1.modCell n fun c => { c with opq := c.opq ++ [r none (w % 8)] })) ∧
    (Executes (.rowq d a b) s → Runs (.rowq d a b) s (s1.modCell n fun c => { c with opq := c.opq ++ [r (some w) 0] }))

/-! ### Events (R28-R57, R195-R210, R243-R255; log 3 for when the model lets one happen)

An event finds its arguments in `now.arg`; each clause gives a case in which it takes effect. -/

/-- Channel selection (R37, R38, R351): a channel is eligible when its head's class is bound, the head is not to be discarded and no
earlier message that orders its start waits; the lowest eligible channel that 4,096 dispatches have passed over goes first, else the
highest eligible one; the deque's bottom is the head of its class's channel.
MESSAGE_ADMISSION, MAPPING_VALID_DELIVERY and BOUNCE_RECEIVE (R31, R58, R255): a message whose own path is clear, whose
LIVE addition is made and whose payload is placed takes the lowest free slot (the model's choice, log 12) while 5 slots are free (1
for a SENDLB), at the tail of its class's channel; a held payload is placed, in as many events as the event's data say (R207; log
13), once its table entry is valid; a plain write to absent rows enters the ring in its turn, or goes to a ring in another
module's memory step by step (the model's reading, log 20).
DISPATCH (R29, R37-R39, R250, R254): a restored context with entries left to issue again goes on first (log 27), then a record is
restored, its bounce entries applied before; else the lowest free context takes the head of the selected
channel, and its registers have the values R29 gives.
Context 3's own starts (R31, R35, R246): the overflow routine starts at OVFVEC while 8 slots or fewer are free; a strict
unbound head leaves its channel, keeps its slot, and context 3 traps UNBOUND at TRAPVEC; a strict deque's bottom does so from a free
slot (the model's choice, log 32).  That the overflow start keeps context 3's s and v registers is the model's choice (log 17). -/
def Obligations.TaskDeliveryEvents : Prop :=
  (∀ (s : State) (n ch : Nat), let c := s.cell n
    let aged := fun j => 4096 ≤ (c.passed[j % 8]'(Nat.mod_lt _ (by decide))).toNat;
    (s.pick n = some ch ↔ ch < 8 ∧ s.eligible n ch = true ∧
      ((aged ch ∧ ∀ j, j < ch → s.eligible n j = true → ¬ aged j) ∨
        ((∀ j, j < 8 → s.eligible n j = true → ¬ aged j) ∧ ∀ j, ch < j → j < 8 → s.eligible n j = false))) ∧
    (s.eligible n ch = true ↔ ∃ slot m, Cell.head s c ch = some (slot, m) ∧ (c.routine m.cls.toNat).bound = true ∧
      s.doomed n m = false ∧ ∀ i, slot = some i → ∀ pre keys post, s.unstarted = pre ++ (n * 64 + i, keys) :: post →
        (∀ e ∈ pre, e.1 ≠ n * 64 + i) → ∀ e ∈ pre, ∀ k ∈ e.2, k ∉ keys) ∧
    (∀ p r, c.deque = p :: r → p.gate = .clear → p.after.any s.pendingAccess = false →
      (c.routine p.msg.cls.toNat).chan.toNat = ch → Cell.head s c ch = some (none, p.msg)) ∧
    (c.deque = [] → (look [] c.queue ch = [] → Cell.head s c ch = none) ∧
      ∀ i r, look [] c.queue ch = i :: r → Cell.head s c ch = (look? c.slots i).map fun m => (some i, m))) ∧
  (∀ (s : State) (p : Post), let n := s.now.arg.a; let k := s.now.arg.b
    let freed := fun (u : State) => match p.serai with | some (d, c, q) => u.seraiFree d c q | none => u;
    (∀ i, s.posts[k]? = some p → s.pathClear k p = true → p.gate = .clear → s.destCell p.target = some n →
      p.placed = true ∨ p.payload = [] → s.detReady k p = true →
      (s.cell n).slots.length + (if p.msg.lb then 1 else 5) ≤ 64 →
      i < 64 → look? (s.cell n).slots i = none → (∀ j, j < i → look? (s.cell n).slots j ≠ none) →
      let chan := if p.msg.cls.toNat < 16 then 7 else (look {} (s.cell n).routines p.msg.cls.toNat).chan
      let keys := s.startKeys n p
      exec .messageAdmission s = .next (freed { s.modCell n (fun c => { c with
        slots := put c.slots i { p.msg with chan := chan }
        queue := put c.queue chan.toNat (look [] c.queue chan.toNat ++ [i]), received := c.received + 1 }) with
          posts := removeAt s.posts k, unstarted := s.unstarted ++ (if keys = [] then [] else [(n * 64 + i, keys)]) })) ∧
    (s.posts[n]? = some p → p.held = true → s.destCell p.target ≠ none → s.pathClear n p = true →
      (p.placed = true ∨ p.payload = [] →
        exec .mappingValidDelivery s = .next { s with posts := replaceAt s.posts n { p with held := false, placed := true } }) ∧
      (∀ l c, p.placed = false → p.payload ≠ [] → p.target = .logical l → look? s.l2p l = some c → (s.cell c).evac = none →
        s.payloadOk l p.msg.payaddr.toNat p.payload.length = true → look? s.bounce l = none →
        let left := p.payload.drop p.count
        let part := if s.now.arg.c = 0 then left else left.take s.now.arg.c
        exec .mappingValidDelivery s = .next (State.rowBytes
          { s with posts := replaceAt s.posts n { p with
            placed := left.length == part.length, count := p.count + part.length, held := false } } l false (p.msg.payaddr.toNat + p.count) part))) ∧
    (∀ x l w addr m data u, s.access n = some x → x.place = .away l w addr → x.phase = .issued → x.op = .store m data →
      s.homeTurn x = true →
      ((look? s.bounce l).any s.ringAway = false → s.bounceWrite l w addr (toBytes m data) = some u →
        exec .bounceReceive s = .next (State.pumpAll { u with inflight := u.inflight.filter (·.id != n) })) ∧
      ((look? s.bounce l).any s.ringAway = true → ∀ j, s.bounceAway l w addr (toBytes m data) = some (u, j) →
        exec .bounceReceive s = .next (if j = 0 then u else State.pumpAll { u with inflight := u.inflight.filter (·.id != n) })))) ∧
  (∀ (s : State) (k : Nat), let n := s.now.arg.a;
    (∀ j t, (s.cell n).still = false → j < 3 → s.goOnRestoring n j = some t → (∀ i, i < j → s.goOnRestoring n i = none) →
      exec .dispatch s = .next t) ∧
    ((s.cell n).still = false → k < 3 → (s.ctx n k).busy = false → (∀ j, j < k → (s.ctx n j).busy = true) →
    (∀ j, j < 3 → s.goOnRestoring n j = none) →
    (∀ r t, s.nextRestore n = some r →
      (s.bounceStep (bits r.image (8 * 0x008) 16) = .got () t → exec .dispatch s = .next (t.restoreOn n k r)) ∧
      (s.bounceStep (bits r.image (8 * 0x008) 16) = .wait (some t) → exec .dispatch s = .next t)) ∧
    (∀ ch i m, s.nextRestore n = none → (s.cell n).deque = [] → (∀ c x, Cell.head s (s.cell n) c = some x → s.doomed n x.2 = false) →
      s.pick n = some ch → Cell.head s (s.cell n) ch = some (some i, m) →
      ∃ t, exec .dispatch s = .next t ∧ let x := t.ctx n k
        x.busy = true ∧ x.pc = ((s.cell n).routine m.cls.toNat).entry ∧ x.sys = false ∧ x.fflags = 0 ∧ x.path = m.path ∧
        x.acts = (s.ctx n k).acts + 1 ∧ x.jrec = m.jrec ∧ x.launch = (if launchless n then none else some m.launch) ∧
        x.getS 0 = 0 ∧ x.getS 1 = 0 ∧ x.getS 4 = m.args[0] ∧ x.getS 5 = m.args[1] ∧ x.getS 6 = m.args[2] ∧ x.getS 7 = m.args[3] ∧
        x.lc[0] = 0 ∧ x.lc[1] = 0 ∧ x.lc[2] = 0 ∧ look? (t.cell n).slots i = none ∧ t.hbm = s.hbm ∧ t.pad = s.pad))) ∧
  (∀ (s : State), let n := s.now.arg.a; let x := s.ctx n 3;
    (s.cell n).still = false → x.busy = false →
    (56 ≤ (s.cell n).slots.length → ∃ t, exec .overflowRoutineStart s = .next t ∧ (t.ctx n 3).busy = true ∧
      (t.ctx n 3).pc = (s.cell n).ovfvec ∧ (t.ctx n 3).launch = none ∧ (t.ctx n 3).v = x.v ∧ (t.ctx n 3).s = x.s ∧
      (∀ k, k < 3 → t.ctx n k = s.ctx n k) ∧ t.hbm = s.hbm ∧ t.pad = s.pad) ∧
    (∀ ch i m, s.strictHead n = some (ch, i, m) → ∃ t, exec .unboundTrap s = .next t ∧ (t.ctx n 3).busy = true ∧
      (t.ctx n 3).pc = (s.cell n).trapvec ∧ (t.ctx n 3).sys = true ∧ (t.ctx n 3).trapcause = causeUnbound ∧
      (t.ctx n 3).trapval = m.cls.zeroExtend 64 ∧ (t.ctx n 3).trappc = x.pc ∧ bit (t.ctx n 3).trapstate.toNat 3 = true ∧
      (t.ctx n 3).trapstate.toNat / 2 ^ 16 % 2 ^ 6 = i % 2 ^ 6 ∧ (t.cell n).unbound = some i ∧ (t.cell n).slots = (s.cell n).slots ∧
      look [] (t.cell n).queue ch = (look [] (s.cell n).queue ch).filter (· != i)) ∧
    (∀ i m, s.strictHead n = none → s.strictBottom n = some (i, m) → ∃ t, exec .unboundTrap s = .next t ∧ (t.ctx n 3).busy = true ∧
      (t.ctx n 3).pc = (s.cell n).trapvec ∧ (t.ctx n 3).sys = true ∧ (t.ctx n 3).trapcause = causeUnbound ∧
      (t.ctx n 3).trapval = m.cls.zeroExtend 64 ∧ (t.cell n).unbound = some i ∧ look? (t.cell n).slots i = some m ∧
      (t.cell n).deque = (s.cell n).deque.tail ∧ (t.cell n).queue = (s.cell n).queue))

/-- The updates of level and join records at their home (R46, R57, R116): LIVE up or down by 1, a message void where LIVE was
0 and PHASE has flipped, PHASE's arrival at 0; a child's end writes its result, counts in NDONE and sets ERR, a close writes NCHILD, and the join
fires when both counts agree.
CANCEL_PROPAGATE, DLINE_EXPIRY, FORCED_SAVE and HARDWARE_FAULT_KILL (R49, R50, R204, R248-R253): a deadline ends a
cancelled task with an error and marks another for its save; a save frees its context, which is LOST when no record could be
written, and whose record goes to another module's memory one access after another; a killed task is dispatched again from its retained message or ends with an error.
The model's choices: where the retained message is posted (log 35), what is kept beside a record (`savedTasks`, log 27), and the steps
of a save in another module's memory (log 14). -/
def Obligations.EndingAndRecordEvents : Prop :=
  (∀ (s : State) (va : Nat), let k := s.now.arg.a
    let s0 : State := { s with records := removeAt s.records k }
    s.recordTurn k va = true →
    (∀ t n ph u, s.records[k]? = some (.liveAdd va t) → s0.vaRead (va + 16) 4 = some n → s0.vaRead va 16 = some ph →
      let flipped := (PhaseWord.ofNat ph).gen ≠ 0;
      (n = 0 → flipped → t ≠ 0 → exec .liveUpdate s = .next (s0.gate t .void)) ∧
      (n ≠ 0 ∨ ¬ flipped ∨ t = 0 → s0.vaWrite (va + 16) 4 ((n + 1) % 2 ^ 32) = some u → exec .liveUpdate s = .next (u.gate t .clear))) ∧
    (∀ n u, s.records[k]? = some (.liveSub va) → s0.vaRead (va + 16) 4 = some n →
      s0.vaWrite (va + 16) 4 ((n + 2 ^ 32 - 1) % 2 ^ 32) = some u →
      (n ≠ 1 → exec .liveUpdate s = .next u) ∧
      (∀ ph w v parent, n = 1 → u.vaRead va 16 = some ph → (PhaseWord.ofNat ph).update 1 0 = some w →
        u.vaWrite va 16 w.toNat = some v → v.vaRead (va + 40) 8 = some parent →
        exec .liveUpdate s = .next (State.jobDone
          (if parent = 0 then v else { v with records := v.records ++ [RecOp.liveSub parent] }) va))) ∧
    (∀ slot x err st j u v, s.records[k]? = some (.joinChild va slot x err st) → s0.vaRead va 8 = some j →
      s0.vaWrite (va + 16 + 8 * slot) 8 x = some u →
      let done := j / 2 ^ 16 % 2 ^ 16
      let j' := j - done * 2 ^ 16 + (done + 1) % 2 ^ 16 * 2 ^ 16
      u.vaWrite va 8 (if err then j' ||| 2 ^ 40 else j') = some v →
      exec .joinChildUpdate s = .next (State.joinFire (match v.joins.find? (·.va == va) with
        | some h => if err then { v with joins := replaceAt v.joins (v.joins.idxOf h) { h with errs := h.errs + 1 } } else v
        | none => v) va)) ∧
    (∀ count st j u, s.records[k]? = some (.joinClose va count st) → s0.vaRead va 8 = some j →
      s0.vaWrite va 8 (j - j % 2 ^ 16 + count % 2 ^ 16) = some u →
      exec .joinCloseUpdate s = .next (u.joinFire va))) ∧
  (∀ (s : State), let n := s.now.arg.a; let k := s.now.arg.b; let x := s.ctx n k;
    (∀ va rest, s.cancels = va :: rest → exec .cancelPropagate s = .next (s.launches.foldl (fun u e =>
      if e.2.recva.toNat = va then u.requestAll e.1 2 none
      else if u.beneath va 4 e.2.recva.toNat && u.liveLaunch e.2.recva.toNat && !u.cancelled e.2.recva.toNat then u.cancelRecord e.2.recva.toNat
      else u) { s with cancels := rest })) ∧
    (x.busy = true → x.prq ≠ 0 → x.dline = 0 → x.ending = false → x.saving = false → (s.cell n).still = false →
      s.sysMode n k = false →
      (bit x.prq.toNat 1 = true → exec .dlineExpiry s = .next ((s.endUpdates n k 0 true).freeCtx n k)) ∧
      (bit x.prq.toNat 1 = false → ∃ t, exec .dlineExpiry s = .next t ∧ (t.ctx n k).saving = true ∧ (t.ctx n k).busy = true ∧
        (t.ctx n k).s = x.s ∧ (t.ctx n k).pc = x.pc ∧ t.records = s.records ∧ t.hbm = s.hbm ∧ t.pad = s.pad)) ∧
    (x.busy = true → s.saveReady n k = true → let e := s.pendEntries n k
      (s.areaAway x.level.toNat = none →
        ∃ t, exec .forcedSave s = .next t ∧ (t.ctx n k).busy = false ∧ (t.ctx n k).saving = false ∧
          (s.writeRecord n k e.1 e.2 = none → (t.ctx n k).lost = true) ∧
          ∀ va u, s.writeRecord n k e.1 e.2 = some (va, u) → (look? t.savedTasks va).isSome = true ∧ t.hbm = u.hbm ∧ t.records = s.records) ∧
      (∀ area, s.areaAway x.level.toNat = some area → ∃ t, exec .forcedSave s = .next t ∧ (t.ctx n k).busy = true ∧
        (t.ctx n k).storing = some { id := s.nextId, area := area, body := x.record k e.2.toNat e.1, task := s.savedTask n k } ∧
        t.hbm = s.hbm ∧ t.pad = s.pad)) ∧
    (∀ st, x.busy = true → x.storing = some st →
      (s.unitFailed st.id ≠ none → ∃ t, exec .forcedSave s = .next t ∧ (t.ctx n k).busy = false ∧ (t.ctx n k).lost = true) ∧
      (s.unitFailed st.id = none → s.unitOpen st.id = true → 2 ≤ st.pos → exec .forcedSave s = .next s) ∧
      (s.unitFailed st.id = none → s.unitOpen st.id = false → 515 ≤ st.pos → ∃ t, exec .forcedSave s = .next t ∧
        (t.ctx n k).busy = false ∧ look? t.savedTasks (st.area + 4096 * (st.num + 1)) = some st.task ∧ t.hbm = s.hbm)) ∧
    (x.busy = true →
      let halt := fun (u : State) => if (s.cell n).halting then u.modCell n Cell.haltIfDue else u;
      (∀ m, x.retained = some m → exec .hardwareFaultKill s = .next (halt ((s.freeCtx n k).post
        { msg := m, target := if x.launch = none then .physical n else .logical x.lcell.toNat } false))) ∧
      (x.retained = none → exec .hardwareFaultKill s = .next (halt ((s.endUpdates n k 0 true).freeCtx n k)))))

/-- NEAR and STEAL (R54, R56) and the start of a follower (R43): a NEAR task takes the lowest cell of its cluster that
qualifies within the radius, queues at its hint, or walks one hop, x first; a thief asks the victim its attempt names and takes
the victim's oldest entry of the launch, or waits, twice as long each time up to 4,096 cycles.  The model's choices: the attempt
number is not set back and a stolen task goes to the thief's logical cell (log 32), a depot cell's cluster (log 12), and the window
that a NEAR task under DET joins (log 22). -/
def Obligations.PlacementEvents : Prop := ∀ (s : State) (p : Post), let n := s.now.arg.a; let c := s.cell n; let st := c.steal;
  let placed := fun (l : Nat) => { p with target := .logical l, msg := { p.msg with dest := BitVec.ofNat 16 l }
                                          det := p.det.map fun w => (w.1, w.2.1, w.2.2.1, max w.2.2.2 s.rounds.next) }
  (∀ x y hx hy r, s.posts[n]? = some p → p.target = .near x y hx hy r → p.gate = .clear → s.pathClear n p = true →
    let near := (max x hx - min x hx) + (max y hy - min y hy) ≤ r;
    (∀ cell l, near → s.nearCell x y p.msg.launch.toNat = some (cell, l) →
      exec .nearPlacement s = .next { s with posts := (replaceAt s.posts n (placed l)) }) ∧
    ((¬ near ∨ s.nearCell x y p.msg.launch.toNat = none) →
      (x = hx → y = hy → (look [] s.near (64 * y + x)).length < 32 → exec .nearPlacement s = .next
        { s with posts := removeAt s.posts n, near := put s.near (64 * y + x) (look [] s.near (64 * y + x) ++ [p]) }) ∧
      (x ≠ hx ∨ y ≠ hy → exec .nearPlacement s = .next { s with posts := (replaceAt s.posts n { p with target :=
        (.near (if x < hx then x + 1 else if hx < x then x - 1 else x)
          (if x ≠ hx then y else if y < hy then y + 1 else y - 1) hx hy r) }) }))) ∧
  (∀ j l, let key := 64 * (s.clusterXY n).2 + (s.clusterXY n).1; let q := look [] s.near key
    q[j]? = some p → s.nearFit n p.msg.launch.toNat = some l →
    (∀ i e, i < j → q[i]? = some e → s.nearFit n e.msg.launch.toNat = none) →
    exec .nearQueueTake s = .next { s with near := put s.near key (removeAt q j), posts := s.posts ++ [placed l] }) ∧
  (∀ h, c.hosted[s.now.arg.b]? = some h → c.still = false → st.asked = none → st.waiting = false →
    (∃ k, k < 3 ∧ (s.ctx n k).busy = false) → s.noneEligible n = true →
    exec .stealRequest s = .next (s.setCell n { c with steal := { st with
      asked := some (victim (look {} s.launches h.launch) n st.attempt), launch := h.launch, attempt := st.attempt + 1 } })) ∧
  (∀ v, st.asked = some v →
    ((∀ cell, look? s.l2p v = some cell → (s.cell cell).deque = []) → exec .stealVictimReply s =
      .next (s.setCell n { c with steal := { st with asked := none, waiting := true } })) ∧
    (∀ cell h, look? s.l2p v = some cell → cell ≠ n → (s.cell cell).deque.getLast? = some p → c.hosted.find? (·.launch == st.launch) = some h →
      p.msg.launch.toNat = st.launch → p.gate = .clear → p.after = [] → s.doomed cell p.msg = false →
      ∃ t, exec .stealVictimReply s = .next t ∧ (t.cell cell).deque = (s.cell cell).deque.dropLast ∧
        (t.cell n).steal = { st with asked := none, backoff := 64 } ∧
        t.posts = s.posts ++ [placed h.lcell])) ∧
  (st.waiting = true → exec .stealBackoffExpiry s =
    .next (s.setCell n { c with steal := { st with waiting := false, backoff := min 4096 (2 * st.backoff) } })) ∧
  (∀ addr, let k := s.now.arg.b;
    (s.ctx n k).wait = .follow addr → (s.ctx n k).following = true →
    exec .followEngage s = .next (s.modCtx n k fun x => { x with wait := .none }))

/-- Accesses at their home and on their way back (R41, R42, R187, R188, R203, R206, R234, R235): an access whose turn it is at its
home is performed whole; a PHWAIT only once GEN differs; a result lands in its register, answers its waiting context, or is dropped
when its task has ended.  That a vector's elements may land at different times, each whole (R170), and that over a later write the
event's argument decides, element by element, which of the two stays (R41 promises neither), is the model's reading (log 9), and so is that a home
may take a PHARR or PHADD in, reply, and apply it by a later event, before any other write of its word (R171).
What a load, a store, a vector access and an AMO do in HBM (R5, R201, R206, R224-R229): under any key index the bytes written
read back, and every other byte reads as before.
Misses (R193-R200): a miss enters its slice in arrival order while the replay queue has room; a copy engine's or matrix unit's
waits at its port while there is none; the slice answers its oldest
miss from its TLB or by a walk, and both TLBs take a leaf; a fault takes the access's place in the replay queue at once, and is
recorded then or by an event of its own (R171; log 9). -/
def Obligations.AccessAndMissEvents : Prop :=
  (∀ (s : State) (a : Access), s.access s.now.arg.a = some a →
    let dropped : State := { s with inflight := s.inflight.filter (·.id != a.id) }
    let home := fun (ev : Instr) (kind : Nat) => a.phase = .issued → (∀ l w x, a.place ≠ .away l w x) → (∀ dev x, a.place ≠ .remote dev x) → s.homeTurn a = true →
      s.rowsHeld a.place = false → s.joinHolds a = false → s.homeBad a = false → a.op.event = kind →
      ∀ u v fl ok, s.perform a.place a.key a.op = some (u, v, fl, ok) →
      (∀ n x, a.op = .record n x → (u.joins.filter fun (h : JoinHome) => h.va == a.va).length ≤ 1) →
      (kind = 1 → s.now.arg.b ≠ 1) →
      (s.writeWaits a = true → exec ev s = .next s) ∧ (s.writeWaits a = false →
      let u' := match a.op with | .orBits .. => u.spreadCancel (a.va - 20) | _ => u;
      (s.cutHolds a = false → exec ev s = .next (u'.finish a v fl ok)) ∧
      (∀ pa, a.place = .hbm pa → s.cutHolds a = true → exec ev s = .next s))
    home .homeAccess 0 ∧ home .phaseUpdateAtHome 1 ∧ home .phwaitResolve 2 ∧
    (∀ u v fl, a.phase = .issued → a.op.replies = true → a.accepted = false → (∀ l w x, a.place ≠ .away l w x) → s.mayApply a = true →
      s.homeBad a = false → s.perform a.place a.key a.op = some (u, v, fl, true) → s.now.arg.b = 1 →
      let taken : State := { s with inflight := s.inflight.map fun b => if b.id = a.id then { a with accepted := true } else b }
      exec .phaseUpdateAtHome s = .next (if s.owns a.cell a.ctx a = true ∧ (s.ctx a.cell a.ctx).busy = true ∧
        (s.ctx a.cell a.ctx).wait = .home a.id then taken.modCtx a.cell a.ctx fun x =>
          { x with wait := .none, answers := x.answers ++ [.value 0 true] } else taken)) ∧
    (∀ c x, a.place = .pad c x → (∀ g, a.op = .phwait g → s.perform a.place a.key a.op =
      let w := PhaseWord.ofNat (s.padRead c x 16)
      if w.gen = g % 2 ^ 15 then none else some (s, w.gen + 2 ^ 15 * w.err.toNat, 0, true))) ∧
    (a.phase = .issued → s.homeTurn a = true → s.cutHolds a = true →
      let frames := (s.homesOf a).filterMap fun p => match p with | .hbm pa => some (pa / 128 / 32) | _ => none;
      ∀ t, (frames.foldl State.copyFrame s).applyAccess a = some t → exec .protectedWriteCopy s = .next t) ∧
    (∀ v fl, a.phase = .done v fl → a.unit = none →
      (s.owns a.cell a.ctx a = false ∨ (s.ctx a.cell a.ctx).busy = false → exec .resultReturn s = .next dropped) ∧
      (s.owns a.cell a.ctx a = true → (s.ctx a.cell a.ctx).busy = true →
        (a.op.replies = true → exec .resultReturn s = .next (if (s.ctx a.cell a.ctx).wait = .home a.id then
          dropped.modCtx a.cell a.ctx fun x => { x with wait := .none, answers := x.answers ++ [.value 0 (v == 1)] } else dropped)) ∧
        (∀ r, a.op.replies = false → a.dest = .s r → a.landed = 0 → exec .resultReturn s = .next (State.modCtx
          { dropped with inflight := dropped.inflight.map fun b => if b.cell = a.cell ∧ b.ctx = a.ctx ∧ b.dest = a.dest
            then { b with clobber := b.clobber ||| 0xFFFF } else b } a.cell a.ctx fun x =>
          let y : Ctx := { x with fflags := x.fflags ||| fl }
          if a.clobber ≠ 0 ∧ bit s.now.arg.b 0 = true then y else y.setS r (BitVec.ofNat 64 v))) ∧
        (∀ r, a.op.replies = false → a.dest = .v r → ∃ (w : Vec) (l : List Access),
          exec .resultReturn s = .next (State.modCtx { s with inflight := l } a.cell a.ctx
            fun x => { x with fflags := x.fflags ||| fl }.setV r w) ∧
          let e := fun j => j - j % a.grain
          let now := fun j => bit a.op.lanes j && !bit a.landed j && !bit s.now.arg.c (e j);
          (∀ j : Nat, j < 16 → w.extractLsb' (8 * j) 8 =
            if now j && !(bit a.clobber j && bit s.now.arg.b (e j)) then BitVec.ofNat 8 (v / 256 ^ j)
            else ((s.ctx a.cell a.ctx).getV r).extractLsb' (8 * j) 8) ∧
          ((∃ b ∈ l, b.id = a.id) ↔ ∃ j, j < 16 ∧ bit a.op.lanes j = true ∧ bit a.landed j = false ∧ bit s.now.arg.c (e j) = true)))) ∧
    (∀ v fl, a.phase = .done v fl → a.locked = true → exec .checkRefetch s = .next s) ∧
    (∀ v fl, a.phase = .done v fl → a.locked = false → a.tries < 3 → a.op.returns = true ∨ a.op.replies = true →
      let tried := fun n => { s with inflight := s.inflight.map fun b => if b.id = a.id then { a with tries := n } else b };
      (s.now.arg.flag = true ∨ a.tries < 2 → exec .checkRefetch s = .next (tried (a.tries + 1))) ∧
      (s.now.arg.flag = false → a.tries = 2 → exec .checkRefetch s = .next ((tried 3).badLine { a with tries := 3 })))) ∧
  (∀ (s : State) (key pa : Nat), s.MemoryOk →
    let changed := fun (u : State) (n : Nat) (sel : Nat → Bool) (x : Nat) =>
      (∀ j, j < n → u.hbmByte key (pa + j) = if sel j = true then BitVec.ofNat 8 (x / 256 ^ j) else s.hbmByte key (pa + j)) ∧
      (∀ b, b < pa ∨ pa + n ≤ b → u.hbmByte key b = s.hbmByte key b) ∧
      (∀ b, b / 128 < pa / 128 ∨ (pa + n - 1) / 128 < b / 128 → Memory.get u.hbm b = Memory.get s.hbm b) ∧
      u.pad = s.pad ∧ u.inflight = s.inflight ∧ u.cells = s.cells;
    (∀ n j, j < n → s.hbmRead key pa n / 256 ^ j % 256 = (s.hbmByte key (pa + j)).toNat) ∧
    (key = 0 → s.hbmByte key pa = Memory.get s.hbm pa) ∧
    (∀ z, s.perform (.hbm pa) key (.load z) = some (s, (loaded z (s.hbmRead key pa (2 ^ (z.toNat / 2)))).toNat, 0, true)) ∧
    (∀ n d, ∃ u, s.perform (.hbm pa) key (.store n d) = some (u, 0, 0, true) ∧ changed u n (fun _ => true) d) ∧
    (∀ off n mask, s.perform (.hbm pa) key (.vload off n mask) = some (s, s.hbmRead key pa n * 256 ^ off, 0, true)) ∧
    (∀ off n mask d, ∃ u, s.perform (.hbm pa) key (.vstore off n mask d) = some (u, 0, 0, true) ∧
      changed u n (fun j => bit mask (off + j)) (d / 256 ^ off)) ∧
    ∀ fn size b cmp, let new := amoNew fn size (s.hbmRead key pa size) b cmp
      ∃ u, s.perform (.hbm pa) key (.amo fn size b cmp) = some (u, amoOld fn size (s.hbmRead key pa size), new.2, true) ∧
        match new.1 with | some x => changed u size (fun _ => true) x | none => u = s) ∧
  (∀ (s : State),
    (∀ m, let k := s.now.arg.b; let sl := sliceOf (m.vpn * 4096)
      s.ports[k]? = some (s.now.arg.a, m) → (∀ j e, j < k → s.ports[j]? = some e → e.1 = s.now.arg.a → sliceOf (e.2.vpn * 4096) ≠ sl) →
      (s.slice sl).replay.length + (s.slice sl).misses.length < 4096 → m.unit = none → exec .missPortEntry s = .next { s with
        ports := removeAt s.ports k, slices := put s.slices sl { s.slice sl with misses := (s.slice sl).misses ++ [m] } }) ∧
    (∀ key who va w, let sl := s.slice (sliceOf va); va < 2 ^ 60 → tlbFind (look [] s.l1 key) (va / 4096) = none →
      4096 ≤ sl.replay.length + sl.misses.length → s.unitTranslate key who va w = (some .miss, s.waitAtPort key who va w)) ∧
    (∀ m rest, let sl := s.now.arg.a;
      (s.slice sl).misses = m :: rest → tlbFind (s.slice sl).tlb m.vpn = none →
      (s.ctx m.cell m.ctx).wait = .walk m.vpn → (s.ctx m.cell m.ctx).busy = true →
      let s1 := s.setSlice sl { s.slice sl with misses := rest };
      (∀ mal, s1.walk (m.vpn * 4096) = .fault mal → s.now.arg.c < 2 →
        let t := if s.now.arg.c = 0 then s1.recordFault sl m.vpn m.write mal false
          else s1.setSlice sl { s1.slice sl with unrecorded := (s1.slice sl).unrecorded ++
            [{ vpn := m.vpn, write := m.write, mal := mal, eng := false }] }
        exec .sliceWalk s = .next ((t.setSlice sl { t.slice sl with replay := (t.slice sl).replay ++ [.miss m] }).answer m
          (.parkIn m.vpn))) ∧
      (∀ size pte, s1.walk (m.vpn * 4096) = .leaf size pte → s.now.arg.c < 2 → ∃ t, exec .sliceWalk s = .next t ∧
        tlbFind (t.slice sl).tlb m.vpn = some { vpn := m.vpn, size := size, pte := pte } ∧
        tlbFind (look [] t.l1 (l1Key m.cell)) m.vpn = some { vpn := m.vpn, size := size, pte := pte } ∧
        (t.ctx m.cell m.ctx).wait = .none ∧ (t.ctx m.cell m.ctx).answers = (s.ctx m.cell m.ctx).answers ++
          [if s1.denied pte size (m.vpn * 4096) m.write m.sys = true then .perm m.vpn else .page m.vpn size pte])) ∧
    (∀ k e, let sl := s.now.arg.a; s.now.arg.c = k + 2 → (s.slice sl).unrecorded[k]? = some e → exec .sliceWalk s = .next
      ((s.setSlice sl { s.slice sl with unrecorded := removeAt (s.slice sl).unrecorded k }).recordFault sl e.vpn e.write e.mal e.eng)))

/-! ### Events of the engines (R180-R188, R269-R278, R298) -/

/-- The copy engine (R180-R185): a transfer starts with its checks; an element of the rows is copied from its source to its
destination; a transfer that REPLAYALL has released reads its block again, and ends with CHECK where that line is bad; a completed one leaves the engine, with its message
when POST asks for one.
The matrix unit (R269-R278, R282, R288, R298): the next ready command runs in turn, MFMT and MSREC at the head of their queue; a
free tile goes to the command that waits longest for it; the MXS that has waited longest for the alias unit builds its table; a
released command goes on; a completed one leaves, and its task goes on reading the earlier sampling record (R297); a k-step changes the corner alone, by one fused sum each element; a message
with a good capability is queued on its leased context (R270).  The model's choices: the words of that packet (log 30), the order of
the alias unit, which an MXS joins as its first request is arbitrated (log 40), and the CHECK of a block that is read again from a
bad line (log 41). -/
def Obligations.CopyAndMatrixEvents : Prop :=
  (∀ (s : State) (t : Transfer), s.xferAt s.now.arg.a s.now.arg.b = some t → s.stopped = false →
    let p := t.params; let e := p.e;
    (t.started = false → exec .xferStart s = .next { s with transfers := (s.transfers.map fun u => if u.id = t.id
      then { t with started := true, status := (if s.paramBad t then some 4 else none) } else u) }) ∧
    (∀ c x c' x', t.started = true → t.parked = false → t.status = none → s.unitFailed t.id = none → s.unitClear t.id = s →
      p.mode = 0 → p.bx = 1 → t.k < p.by' → p.ssp = 1 → p.dsp = 1 → p.swz = 0 →
      s.xferRange t 1 (p.srcAddr 0 t.k 0) e = true → s.xferPlace t 1 (p.srcAddr 0 t.k 0) = some (.pad c x) →
      s.placeBad (.pad c x) = false → s.rowsHeld (.pad c x) = false →
      s.xferRange t 1 (p.dstAddr 0 t.k) e = true → s.xferPlace t 1 (p.dstAddr 0 t.k) = some (.pad c' x') →
      s.rowsHeld (.pad c' x') = false → s.MemoryOk →
      ∃ u, exec .xferRowCopy s = .next u ∧ Stored s.pad u.pad (padKey c' x') e (s.padRead c x e) ∧ u.hbm = s.hbm ∧
        u.transfers = s.transfers.map fun w => if w.id = t.id then { t with
          k := t.k + 1, wrote := t.wrote + e, status := if p.by' ≤ t.k + 1 then some 0 else none } else w) ∧
    (t.parked = true → (∀ q ∈ s.slices, ¬ q.2.replay.contains (.transfer (l1Key t.cell) t.id) = true) → ∃ t',
      exec .xferRestart s = .next (s.setXfer t') ∧ t' = { s.reread t with parked := false, status := t'.status } ∧
      ((s.reread t).status ≠ none → t'.status = (s.reread t).status) ∧
      ∀ c x, s.xferPlace t 1 t.base = some (.pad c x) → s.reread t = if s.placeBad (.pad c x) = true
        then { t with status := some ((t.status.filter (· != 0)).getD 1) } else { t with block := s.padRead c x 64 }) ∧
    (t.parked = false → t.status = some 0 → t.step = 0 → s.unitOpen t.id = false → s.unitFailed t.id = none → p.phadd = false →
      p.clipped = false → p.stamp = false →
      ∃ u, exec .xferCompletion s = .next u ∧ u.transfers = s.transfers.filter (·.id != t.id) ∧ u.hbm = s.hbm ∧ u.pad = s.pad ∧
        (p.post = false → u.posts = s.posts) ∧
        (p.post = true → 16 ≤ p.cls → ∃ q : Post, u.posts = s.posts ++ [q] ∧ q.msg.cls = BitVec.ofNat 8 p.cls ∧ q.payload = [] ∧
          q.msg.args[0] = BitVec.ofNat 64 p.xid ∧ q.msg.args[1] = BitVec.ofNat 64 p.harg ∧
          q.msg.args[2] = BitVec.ofNat 64 t.wrote ∧ q.msg.args[3] = 0))) ∧
  (∀ (s : State), let cl := s.now.arg.a; let u := s.mx cl
    s.stopped = false →
    (∀ c, u.accs = [] → s.governor.holds.contains (0x20000 + cl) = false → s.mxNext cl = some c →
      (c.kind = .mfmt ∨ c.kind = .msrec ∨ c.kind = .mkey → exec .matrixRequest s =
        .next (s.setMx cl (({ u with last := c.fc }.config c).setCmd { c with code := some 0 }))) ∧
      (c.kind ≠ .mfmt → c.kind ≠ .msrec → c.kind ≠ .mkey → ∀ v d,
        (s.setMx cl { u with last := c.fc }).mxRequest cl c (if s.now.arg.b = 0 then 32 else min s.now.arg.b 32) = (v, d) →
        let w := (v.mx cl).setCmd d
        exec .matrixRequest s = .next (v.setMx cl (
          if c.kind = .mnorm ∧ d.started = true then { w with norm := some (c.fc, c.task) }
          else if c.kind = .mxs ∧ d.started = true ∧ c.started = false then { w with aliasQueue := w.aliasQueue ++ [c.id] }
          else w)))) ∧
    (∀ (c : MxCmd) (as' bs : List Fp) (i j : Nat), i < 128 → j < 128 → c.kind = .mma ∨ c.kind = .mmas →
      (u.product c as' bs).accAt c.tile i j = (if i < c.m ∧ j < c.n then
        (f32.sum .rne false [some (f32.decode (u.accAt c.tile i j)),
          (if c.kind = .mmas then (fpAt as' i).neg else fpAt as' i).mul (fpAt bs j)]).1 else u.accAt c.tile i j)) ∧
    (∀ c, (u.queue s.now.arg.b).head? = some c →
      (c.kind = .mxs → c.started = true → c.built = false → c.code = none → u.aliasCmd = none → u.aliasQueue.head? = some c.id →
        let r := { u with aliasQueue := u.aliasQueue.tail }.build c (match s.normOwner cl with | some o => o.1 == c.fc | none => false)
        exec .aliasTableBuild s = .next (s.setMx cl (r.1.setCmd r.2))) ∧
      (c.parked = true → (∀ q ∈ s.slices, ¬ q.2.replay.contains (.command cl c.id) = true) →
        exec .matrixRestart s = .next (s.setMx cl (u.setCmd { c with parked := false }))) ∧
      (c.code = some 0 → s.unitOpen c.id = false → s.unitFailed c.id = none → c.ret = none → u.waits = [] →
        ∃ t, exec .matrixCompletion s = .next t ∧ (t.mx cl).cmds = u.cmds.filter (·.id != c.id) ∧ (t.mx cl).acc = u.acc ∧
          (∀ r, c.result = some r → look? (t.mx cl).samples c.tile = some (c.fc, r)) ∧
          (∀ r, c.result = some r → (t.mx cl).sampleOf c.token c.tile = u.sampleOf c.token c.tile) ∧ t.hbm = s.hbm ∧ t.pad = s.pad)) ∧
    (∀ c, u.accs = [] → u.cmds.find? (·.names s.now.arg.b) = some c → s.tileOwner cl s.now.arg.b = none →
      exec .tileOwnershipTake s = .next (s.setMx cl { u with owners := put u.owners s.now.arg.b c.token })) ∧
    (∀ p n, s.flowHead 11 = some p → let r := s.mxRemote p; let cap := r.1.desc / 2 ^ 192 % 2 ^ 64
      s.siteOf (p.dcell % 64) (p.dcell / 64) = some n →
      (s.capOk p.dcell (p.args.getD 1 0 / 2 ^ 16 % 2 ^ 4) cap ((s.mx n).fmt r.1.fc).lkey = true → (s.mx n).queued r.1.fc < 4 →
        exec .mxcmd s = .next ((r.2.mxEnqueue n r.1).builtinDone p)) ∧
      (s.capOk p.dcell (p.args.getD 1 0 / 2 ^ 16 % 2 ^ 4) cap ((s.mx n).fmt r.1.fc).lkey = false →
        exec .mxcmd s = .next ((s.nack p 6).builtinDone p))))

/-! ### Events of the fabric (R303-R319) -/

/-- Arrivals (R305-R307, R310, R311): a message acts as its header and payload carry it; a damaged one of any class is discarded
and counted in FABERR; the expected one joins its flow's queue, a load, store or AMO being issued to its home, which counts it for
its round (R315); one ahead of it is held; FIRST opens a slot; classes 13 to 15 are discarded.
Remote requests at their home (R307, R308, R311): RLOAD and RAMO are answered by LREPLY with their value and status 0, by
status 2 where the module has no memory there or an AMOBFPADD's pair is not in the same stack, by status 1 on a bad line; RSTORE writes; the message is then freed.
Replies and returns at the sender (R307-R313): an LREPLY completes its access, an error status writes 0 and is recorded, also of a
store that is acknowledged, for the launch of the task that sent it, and a reply given again changes nothing; a NACK makes its flow wait, 64 router cycles at first and twice as long at each further one, or is
recorded; a slot return acknowledges; a timeout sends again with RETX what is unacknowledged or still unanswered, a due NACK all that
is unacknowledged, with FIRST on the flow's oldest, while the flow has a route, and nothing is resent without one (R318);
an idle flow or slot may be released.
The model's choices (log 23): the second word of an LREPLY (flags, and 32 for a failed compare), the 32 answered SEQs a flow keeps,
and that a request which is acknowledged and still unanswered is sent again, without FIRST. -/
def Obligations.FabricPacketEvents : Prop :=
  (∀ (s : State), let p := s.now.arg.p; let q := p.onLink
    let counted : State := { s with faberr := (if s.faberr = BitVec.allOnes 64 then s.faberr else s.faberr + 1) }
    p.ddev = s.devidx.toNat → p.sdev ≠ p.ddev →
    (13 ≤ p.cls → p.cls ≤ 15 → exec .reservedClassDiscard s = .next counted) ∧
    (s.now.arg.flag = false → (p.cls = 3 → exec .lreply s = .next counted) ∧ (p.cls = 4 → exec .nack s = .next counted) ∧
      (p.cls = 5 → exec .marker s = .next counted) ∧ (p.cls = 6 → exec .slotret s = .next counted) ∧
      (p.cls = 7 → p.args.getD 1 0 < 16 → exec .drain s = .next counted)) ∧
    (sequenced p.cls = true → s.ackRoom p = true →
      (s.now.arg.flag = false → exec .messageArrival s = .next counted) ∧
      (s.now.arg.flag = true → s.findSerai q.sdev q.scell = none → q.first = true → s.serai.length < 4096 → 8 ≤ q.cls → q.cls < 16 →
        exec .messageArrival s = .next (s.setSerai
          { sdev := q.sdev, scell := q.scell, expected := (q.seq + 1) % 2 ^ 16, queue := [(q, 0)] })) ∧
      (∀ f, s.now.arg.flag = true → s.findSerai q.sdev q.scell = some f → f.expected < 2 ^ 16 → f.held = [] → f.queue = [] →
        (q.seq = f.expected → 8 ≤ q.cls → q.cls < 16 → exec .messageArrival s = .next (s.setSerai
          { f with queue := [(q, 0)], expected := (f.expected + 1) % 2 ^ 16 })) ∧
        (q.seq = f.expected → q.cls ≤ 2 → exec .messageArrival s = .next ((s.setSerai
          { f with queue := [(q, 4)], expected := (f.expected + 1) % 2 ^ 16 }).delivered q.sdev q.rnd)) ∧
        (∀ d, 0 < d → d < 32 → q.seq = (f.expected + d) % 2 ^ 16 → s.reorderUsed < 16384 →
          exec .messageArrival s = .next (s.setSerai { f with held := [q] })) ∧
        (∀ d, 32 ≤ d → d < 2 ^ 15 → q.seq = (f.expected + d) % 2 ^ 16 → q.first = false → exec .messageArrival s = .next counted)))) ∧
  (∀ (s : State) (p : Packet), let pa := p.args.getD 0 0; let a1 := p.args.getD 1 0;
    (s.flowHead 0 = some p → let z := a1 % 2 ^ 8; let key := a1 / 2 ^ 8 % 2 ^ 13;
      (Config.hbmBytes ≤ pa → exec .rload s = .next ((s.lreply p 0 0 2 true).builtinDone p)) ∧
      (pa < Config.hbmBytes → s.badHbm.contains (pa / 128) = true → exec .rload s = .next ((s.lreply p 0 0 1 true).builtinDone p)) ∧
      (pa < Config.hbmBytes → s.badHbm.contains (pa / 128) = false →
        (z < 8 → exec .rload s = .next ((s.lreply p
          (loaded (BitVec.ofNat 3 z) (s.hbmRead key pa (2 ^ (z / 2)))).toNat 0 0 true).builtinDone p)) ∧
        (z = 16 → ∃ v1, exec .rload s = .next ((s.lreply p (s.hbmRead key pa 16) v1 0 true).builtinDone p) ∧
          v1 = s.hbmRead key pa 16 / 2 ^ 64))) ∧
    (s.flowHead 1 = some p → let z := a1 % 2 ^ 8; let key := a1 / 2 ^ 8 % 2 ^ 13;
      (Config.hbmBytes ≤ pa → exec .rstore s = .next ((s.lreply p 0 0 2 false).builtinDone p)) ∧
      (pa < Config.hbmBytes → s.wordTaken (.hbm pa) 16 = true → exec .rstore s = .next s) ∧
      (pa < Config.hbmBytes → s.wordTaken (.hbm pa) 16 = false → z < 8 → exec .rstore s = .next ((s.hbmWrite key pa (2 ^ (z / 2))
        (p.args.getD 2 0 + 2 ^ 64 * p.args.getD 3 0)).builtinDone p)) ∧
      (pa < Config.hbmBytes → s.wordTaken (.hbm pa) 16 = false → z = 16 → ∀ u, s.placeWrite (.hbm pa) key 16 (a1 / 2 ^ 21 % 2 ^ 16)
        (p.args.getD 2 0 + 2 ^ 64 * p.args.getD 3 0) = some u → exec .rstore s = .next (u.builtinDone p))) ∧
    (s.flowHead 2 = some p → let key := a1 / 2 ^ 9 % 2 ^ 13;
      let waits := (ramoOp p).writes = true ∧ s.wordTaken (.hbm pa) 32 = true
      let pairOk := ∀ blk b k c, ramoOp p = .bfpadd blk (.hbm b) k c → b < Config.hbmBytes ∧ (bankOf pa).1 = (bankOf b).1
      (Config.hbmBytes ≤ pa ∨ ¬ pairOk → exec .ramo s = .next ((s.lreply p 0 0 2 true).builtinDone p)) ∧
      (pa < Config.hbmBytes → pairOk → waits → exec .ramo s = .next s) ∧
      (pa < Config.hbmBytes → pairOk → ¬ waits → s.ramoBad (.hbm pa) (ramoOp p) = true →
        exec .ramo s = .next ((s.lreply p 0 0 1 true).builtinDone p)) ∧
      (pa < Config.hbmBytes → pairOk → ¬ waits → s.ramoBad (.hbm pa) (ramoOp p) = false → ∀ u v fl ok,
        s.perform (.hbm pa) key (ramoOp p) = some (u, v, fl, ok) →
        exec .ramo s = .next (((u.ramoCancel pa (ramoOp p)).lreply p v (fl.toNat + 32 * (!ok).toNat) 0 true).builtinDone p)))) ∧
  (∀ (s : State), let p := s.now.arg.p.onLink; let cls := s.now.arg.p.cls; let a := s.now.arg.a; let b := s.now.arg.b;
    (s.now.arg.p.ddev = s.devidx.toNat → s.now.arg.p.sdev ≠ s.devidx.toNat → s.now.arg.flag = true →
      (∀ f m x, cls = 3 → let seq := p.args.getD 3 0 % 2 ^ 16; let scell := p.args.getD 3 0 / 2 ^ 16 % 2 ^ 16; let st := p.args.getD 2 0 % 2 ^ 8
        s.findFlow scell p.sdev = some f → s.sentAccess scell p.sdev seq = some (m, x) →
        let u := s.setFlow { f with
          buf := (f.buf.map fun (g : FlowMsg) => if g.pkt.seq = seq then { g with replied := true } else g)
          answered := f.answered.drop (f.answered.length - 31) ++ [seq] };
        (st = 0 → let r := replyValue x.op (p.args.getD 0 0) (p.args.getD 1 0)
          exec .lreply s = .next ((u.finish x r.1 r.2.1 r.2.2).trimFlow scell p.sdev)) ∧
        (st ≠ 0 → exec .lreply s = .next ((u.failAccess x (if st = 1 then 0x05 else if st = 2 then 0x04 else 0x0B)).trimFlow scell p.sdev))) ∧
      (∀ f, cls = 3 → let seq := p.args.getD 3 0 % 2 ^ 16; let scell := p.args.getD 3 0 / 2 ^ 16 % 2 ^ 16;
        s.sentAccess scell p.sdev seq = none → s.findFlow scell p.sdev = some f → f.answered.contains seq = true →
        exec .lreply s = .next s) ∧
      (∀ f, cls = 3 → let seq := p.args.getD 3 0 % 2 ^ 16; let scell := p.args.getD 3 0 / 2 ^ 16 % 2 ^ 16; let st := p.args.getD 2 0 % 2 ^ 8
        s.sentAccess scell p.sdev seq = none → s.findFlow scell p.sdev = some f → f.answered.contains seq = false → st ≠ 0 →
        exec .lreply s = .next (s.recordError (s.launchSent scell p.sdev seq)
          (if st = 1 then 0x05 else if st = 2 then 0x04 else 0x0B) scell)) ∧
      (cls = 4 → let scell := p.args.getD 0 0 / 2 ^ 16 % 2 ^ 16; let cause := p.args.getD 1 0 % 2 ^ 8;
        (cause = 2 → exec .nack s = .next
          (s.recordError (s.launchSent scell p.sdev (p.args.getD 0 0 % 2 ^ 16)) 0x0F scell)) ∧
        (∀ f, cause = 1 → scell < 0xFF00 → s.findFlow scell p.sdev = some f → exec .nack s = .next (s.setFlow
          { f with nackDue := true, nackWait := (if f.nackWait = 0 then 64 else min 4096 (2 * f.nackWait)) }))) ∧
      (∀ f m, cls = 6 → let scell := p.args.getD 0 0 % 2 ^ 16
        s.findFlow scell p.sdev = some f → f.buf = [m] → m.sent = true → m.acked = false → m.replied = true → m.access = none →
        m.pkt.seq < 2 ^ 16 → p.args.getD 1 0 % 2 ^ 16 = (m.pkt.seq + 1) % 2 ^ 16 →
        ∃ t, exec .slotret s = .next t ∧ t.findFlow scell p.sdev = some { f with buf := [], nackWait := 0 })) ∧
    (∀ f, s.findFlow a b = some f → let m := f.buf.find? (·.pkt.seq == s.now.arg.c)
      (∀ l, m.bind FlowMsg.owner = some l → s.launchSent a b s.now.arg.c = l.1) ∧
      (m.bind FlowMsg.owner = none → s.launchSent a b s.now.arg.c =
        if f.bare.contains s.now.arg.c = true then none else s.launchOf a)) ∧
    (∀ f m, s.findFlow a b = some f → f.buf.find? (·.pkt.seq == s.now.arg.c) = some m → m.sent = true → m.acked = false ∨ m.replied = false →
      m.engine = false → s.dark f.ddev = false → ∃ t, exec .retransmitTimeout s = .next t ∧
        t.out = s.out ++ [{ m.pkt with retx := true, first := m.pkt.first && !m.acked }] ∧
        t = { s with out := t.out, flows := t.flows }) ∧
    (∀ f, s.findFlow a b = some f → s.dark f.ddev = true → exec .retransmitTimeout s = .next s ∧ exec .nackResend s = .next s) ∧
    (∀ f, s.findFlow a b = some f → f.nackDue = true → s.dark f.ddev = false → ∃ t, exec .nackResend s = .next t ∧
      t.findFlow a b = some { f with nackDue := false } ∧
      let unacked := f.buf.filter fun m => m.sent && !m.acked
      t.out = s.out ++ (unacked.filter fun m => !m.engine).map fun m =>
        { m.pkt with retx := true, first := m.pkt.first || some m.pkt.seq == unacked.head?.map (·.pkt.seq) }) ∧
    (∀ f, s.findFlow a b = some f → f.buf = [] → exec .flowRecordRelease s =
      .next { s with flows := s.flows.filter fun g => !(g.scell == f.scell && g.ddev == f.ddev) }) ∧
    (∀ f, s.findSerai a b = some f →
      exec .slotReturnResend s = .next (s.portSend a 6 [b, f.free]) ∧
      (f.held = [] → f.queue = [] → exec .seraiSlotRelease s =
        .next { s with serai := s.serai.filter fun g => !(g.sdev == f.sdev && g.scell == f.scell) })))

/-- Rounds, ports and the reach mask (R313-R319): a tick ends the send round once the receive round before it has ended, and is
kept till then; a MARKER is held; the masks are read at the write; a port drains, telling its peer, relocks with the new plan number,
parks and wakes.  The model's choices: a mask that cannot be read leaves the set as it was (log 37), and the plan number and the groups
without a route that come with a drain and a relock (log 19). -/
def Obligations.RoundEvents : Prop := ∀ (s : State), let p := s.now.arg.p; let a := s.now.arg.a; let va := a / 64 * 64;
  (s.stage.mode ≠ 1 →
    (s.rounds.send = 0 ∨ s.rounds.send ≤ s.rounds.next → ∃ t, exec .roundTick s = .next t ∧ t.rounds.send = s.rounds.send + 1 ∧
      t.rounds.stamped = [] ∧ t.rounds.tick = false ∧ t.hbm = s.hbm ∧ t.pad = s.pad) ∧
    (s.rounds.next < s.rounds.send → s.rounds.send ≠ 0 → exec .roundTick s = .next { s with rounds := { s.rounds with tick := true } })) ∧
  (p.cls = 5 → p.ddev = s.devidx.toNat → p.sdev ≠ p.ddev → s.now.arg.flag = true → let m := p.onLink; let r := m.args.getD 0 0;
    (r < s.rounds.next → exec .marker s = .next s) ∧
    (s.rounds.next ≤ r → exec .marker s = .next (State.endRecv
      { s with rounds := { s.rounds with got := put s.rounds.got (r * 512 + m.sdev) (m.args.getD 1 0) } }))) ∧
  exec .markerResend s = .next (s.roundSet.foldl (fun u d => match look? u.rounds.markers d with
    | some (r, n) => u.portSend d 5 [r, n]
    | none => u) s) ∧
  (let u : State := { s with rndset := BitVec.ofNat 64 va };
    (u.readMask va = none → exec .rndsetWrite s = .next u) ∧
    ∀ l, u.readMask va = some l → exec .rndsetWrite s = .next (State.endRecv
      { u with rounds := { u.rounds with set := some (l.filter u.reaches) } })) ∧
  (let u : State := { s with reachva := BitVec.ofNat 64 va };
    (u.readMask va = none → exec .reachWrite s = .next u) ∧
    ∀ l, u.readMask va = some l → let w : State := { u with reach := some l }; let gone := fun d => !w.reaches d
      let w1 : State := { w with rounds := { w.rounds with set := w.rounds.set.map fun (r : List Nat) => r.filter fun d => !gone d } }
      let w2 := (w1.flows.filter fun f => gone f.ddev).foldl State.unreachFlow w1
      let w3 := (w2.mrems.filter fun r => gone r.dev).foldl (fun x r => x.mremFinish r 5 0) w2
      exec .reachWrite s = .next (w3.unreachEngines gone).endRecv) ∧
  (p.cls = 7 → let q := p.args.getD 1 0
    let port := fun (y : FabPort) => put s.fabports q y;
    q < 16 → (p.sdev = s.devidx.toNat → exec .drain s = .next { s with
        unrouted := s.now.arg.data, fabports := port { look {} s.fabports q with draining := true, next := p.args.getD 0 0 }
        out := s.out ++ [{ p with rnd := s.rounds.send % 4096 }] }) ∧
      (p.sdev ≠ s.devidx.toNat → p.ddev = s.devidx.toNat → s.now.arg.flag = true → exec .drain s =
        .next { s with fabports := port { look {} s.fabports q with drained := true } })) ∧
  (let x := look {} s.fabports a; let port := fun (y : FabPort) => ({ s with fabports := put s.fabports a y } : State);
    (x.draining = true → x.drained = true → exec .portRelock s = .next (State.pumpAll { port { x with draining := false, drained := false } with
      plan := x.next, unrouted := s.now.arg.data })) ∧
    (a < 16 → s.now.arg.b ≤ s.parkMax → x.waking = false → exec .wavelengthPark s = .next (port { x with live := 8 - s.now.arg.b })) ∧
    (a < 16 → x.live ≠ 8 → exec .wavelengthWake s = .next (port { x with waking := true })) ∧
    (x.waking = true → exec .wakeDone s = .next (port { x with waking := false, live := 8 })))

/-! ### Events of the depot groups and the stage table (R326, R327, R335-R344, R372-R379) -/

/-- The Caravan engine (R335-R344): a half is staged and merged by its trailer, which answers 0 for merged, 1 for a duplicate, 2
for refused; an ACK frees its waybill or takes mass and values back; a deadline sends its half again while the flow has a route,
and may doubt; a NACK sends again the messages of every waybill to that module, oldest first, with their SEQs and RETX, FIRST on the
first; a half is its chunks of 4,096 bytes and its trailer (R335); accepted operations are applied in order, and a configured block
has the mass 2^40 over zeros.
Gradient queues (R326, R327): a push is accepted at the tail of a queue with room, its grant is NSLOT less the packets then
held, and it waits otherwise; the oldest pop takes the head packet, which kills its task when it comes with a bad check value (R356),
or is told that it is mistyped.
That a half sent again keeps the round stamp of its first transmission is the model's reading (log 24). -/
def Obligations.CaravanAndQueueEvents : Prop :=
  (∀ (s : State) (p : Packet), s.stopped = false →
    let a0 := p.args.getD 0 0; let blk := a0 % 2 ^ 12; let g := a0 / 2 ^ 12 % 2 ^ 6; let b := s.block' g blk
    let n := s.now.arg.a;
    (∀ x, s.flowHead 8 = some p → s.reaches p.sdev = true → g < 48 →
      (s.group g).stage p.sdev blk (p.args.getD 1 0 % 2 ^ 32) (a0 / 2 ^ 32 % 2 ^ 32) (p.args.getD 2 0)
        (payloadF32 (p.payload.length / 4) p.payload) = some x → exec .half s = .next ((s.setGroup g x).builtinDone p)) ∧
    (s.flowHead 10 = some p → s.reaches p.sdev = true → g < 48 → s.flowRoom (0xFF00 + g) p.sdev = true →
      let seq := p.args.getD 2 0 % 2 ^ 32; let here := fun (h : Staged) => h.sdev == p.sdev && h.block == blk && h.seq == seq
      let half := stagedHalf ((s.group g).staged.find? here) (p.args.getD 3 0) b.len.toNat
      let u := s.setGroup g { s.group g with staged := (s.group g).staged.filter fun h => !here h }
      let answer := fun (v : State) st => exec .trailer s = .next ((v.sendAck g blk p.sdev seq st).builtinDone p);
      (((look? b.merged p.sdev).getD []).contains seq = true → answer u 1) ∧
      (((look? b.merged p.sdev).getD []).contains seq = false → b.left = true ∨ half = none → answer u 2) ∧
      (∀ ss, ((look? b.merged p.sdev).getD []).contains seq = false → b.left = false → half = some ss →
        answer (u.setBlock g blk ((b.merge ss (BitVec.ofNat 64 (p.args.getD 1 0))).record p.sdev seq)) 0)) ∧
    (∀ pos w, s.flowHead 9 = some p → g < 48 →
      b.waybills.find? (fun e => e.2.seq.toNat == p.args.getD 1 0 % 2 ^ 32 && e.2.peer.toNat == p.sdev) = some (pos, w) →
      exec .ack s = .next ((s.setBlock g blk (if p.args.getD 2 0 % 2 ^ 8 = 2 then { b.reclaim pos w with refd := true }
        else b.settle pos w)).builtinDone p)) ∧
    (∀ w, let k := s.now.arg.b; let c := s.block' n k
      look? c.waybills s.now.arg.c = some w → s.dark w.peer.toNat = false → let doubts := !w.doubt && decide (c.retry.toNat ≤ w.tries.toNat)
      exec .waybillDeadline s = .next ((s.setBlock n k { c with
        waybills := (put c.waybills s.now.arg.c { w with
          doubt := w.doubt || doubts, tries := (if w.tries = 255 then 255 else w.tries + 1) })
        doubt := (if doubts then c.doubt + w.ws else c.doubt) }).resendHalf n k w w.first)) ∧
    (let again := fun (e : Nat × Waybill) (first : Bool) => (halfMessages n e.1 e.2).zipIdx.map fun m =>
        (e.2.peer.toNat, 0xFF00 + n, m.1.1, (e.2.fseq.toNat + m.2) % 2 ^ 16, e.2.rnd % 2 ^ 12, first && m.2 == 0, true, m.1.2.1, m.1.2.2);
      (s.group n).nacks.contains s.now.arg.b = true → s.dark s.now.arg.b = false → ∃ t sent, exec .engineNackResend s = .next t ∧
      (t.group n).nacks = (s.group n).nacks.filter (· != s.now.arg.b) ∧ (t.group n).blocks = (s.group n).blocks ∧
      t.out = s.out ++ sent ∧
      sent.map (fun q => (q.ddev, q.scell, q.cls, q.seq, q.rnd, q.first, q.retx, q.args, q.payload)) =
        ((s.waybillsTo n s.now.arg.b).zipIdx.map fun e => again e.1 (e.2 == 0 || e.1.2.first)).flatten) ∧
    (∀ o rest, (s.group n).ops = o :: rest → let u := s.setGroup n { s.group n with ops := rest }; let c := u.block' n o.block
      let set := fun x => u.setBlock n o.block x;
      (∀ l, o.kind = .cfg l → exec .mixOperationApply s = .next (set
        { w := 2 ^ 40, len := BitVec.ofNat 15 l, x := List.replicate l 0, stride := c.stride, offset := c.offset, peers := c.peers })) ∧
      (∀ l, o.kind = .join l → exec .mixOperationApply s = .next (set
        { w := 0, len := BitVec.ofNat 15 l, x := List.replicate l 0, stride := c.stride, offset := c.offset, peers := c.peers })) ∧
      (∀ on, o.kind = .hold on → exec .mixOperationApply s = .next (set { c with hold := on })) ∧
      (∀ t, u.applyMix n o = some t → exec .mixOperationApply s = .next t))) ∧
  (∀ (g blk : Nat) (w : Waybill), let n := (w.s.length + 1023) / 1024; let a0 := blk + 2 ^ 12 * g
    (halfMessages g blk w).length = n + 1 ∧
    (halfMessages g blk w)[n]? = some (10, [a0, w.ws.toNat, w.seq.toNat + 2 ^ 32 * w.leave.toNat, n], []) ∧
    ∀ c, c < n → ∃ l, (halfMessages g blk w)[c]? = some (8, [a0 + 2 ^ 32 * c, w.seq.toNat, w.s.length, 0], l) ∧ l.length = 4096 ∧
      ∀ i x, i < 1024 → w.s[1024 * c + i]? = some x → x < 2 ^ 32 → (payloadF32 1024 l)[i]? = some x) ∧
  (∀ (s : State),
    (∀ p, let k := s.now.arg.a; s.pushes[k]? = some p →
      (∀ j q, j < k → s.pushes[j]? = some q → ¬ (q.cell = p.cell ∧ q.ctx = p.ctx ∧ q.group = p.group)) →
      let u : State := { s with pushes := removeAt s.pushes k }; let q := s.gqueue p.group p.queue;
      (q.waiting = [] → q.valid = true → q.packets.length < q.nslot.toNat → exec .gqPushArrival s = .next
        ((u.setQueue p.group p.queue { q with
          packets := q.packets ++ [(p.sideband, p.data)], pushed := q.pushed + 1
          tail := BitVec.ofNat 6 ((q.tail.toNat + 1) % q.nslot.toNat) }).deliver p.id (q.nslot.toNat - (q.packets.length + 1)))) ∧
      (q.waiting ≠ [] ∨ q.valid = false ∨ q.nslot.toNat ≤ q.packets.length →
        ((s.group p.group).queues.map fun e => e.2.waiting.length).foldl (· + ·) 0 < 1024 →
        exec .gqPushArrival s = .next (u.setQueue p.group p.queue { q with waiting := q.waiting ++ [p] }))) ∧
    (∀ w rest sb data more, let g := s.now.arg.a; let k := s.now.arg.b; let q := s.gqueue g k
      q.pops = w :: rest → q.packets = (sb, data) :: more → q.valid = true → (s.ctx w.cell w.ctx).wait = .queue w.id →
      let typed := sb.toNat % 2 ^ 3 = q.ty.toNat ∧ sb.toNat / 2 ^ 8 % 2 ^ 12 = q.block.toNat;
      let u := s.setQueue g k { q with
        pops := rest, packets := more, popped := q.popped + 1, head := BitVec.ofNat 6 ((q.head.toNat + 1) % q.nslot.toNat) };
      (w.drop = true ∨ typed → q.waiting = [] → s.now.arg.flag = true → exec .gqPopServe s = .next (u.modCtx
        w.cell w.ctx fun x => { x with wait := .none, answers := x.answers ++ [.packet sb data] })) ∧
      (w.drop = true ∨ typed → q.waiting = [] → s.now.arg.flag = false → exec .gqPopServe s = .next
        ((u.recordError ((u.ctx w.cell w.ctx).launch.map BitVec.toNat) 0x05 (u.ctx w.cell w.ctx).lcell.toNat).kill w.cell w.ctx)) ∧
      (w.drop = false → ¬ typed → exec .gqPopServe s = .next ((s.setQueue g k { q with pops := rest }).modCtx w.cell w.ctx fun x =>
        { x with wait := .none, answers := x.answers ++ [.value sb.toNat false] }))))

/-- The stage table (R372-R379): a message is applied in free mode at its delivery and in round mode waits for its round; the
entry at STGPTR starts when its input, its room and its stash are there (R373), and otherwise one bubble counts the first that it
lacked (R379); one that is starting goes on in every mode (R381), and its task is posted once the write of its record, which its start settles, is acknowledged, and an invalid template
completes it with no task.  That a record's write whose translation faults parks once, waits for REPLAYALL (R198, R199) and is then
made again, and that the table translates by a walk with no TLB, is the model's reading (log 28). -/
def Obligations.StageEvents : Prop := ∀ (s : State), let t := s.stage;
  (let e := t.entry; let k := entryKind e; let mb := entryMb e; let c := t.cfg.toNat
    let holds := look? t.slots (entrySlot e) = some (mb, true)
    let input := (k = 0 → cfgFirst c = true ∨ look? t.acts mb ≠ none) ∧ (k = 1 → cfgLast c = true ∨ look? t.grads mb ≠ none)
    let room := k = 0 → cfgLast c = true ∨ 0 < t.dnslots.toNat
    let stash := (k = 0 → look? t.slots (entrySlot e) = none) ∧ (k = 1 ∨ k = 2 → holds) ∧ (k = 3 → t.free = cfgStash c)
    let up := fun (x : BitVec 32) => if x = 0xFFFFFFFF then x else x + 1;
    (¬ input → t.why = some 0) ∧ (input → ¬ room → t.why = some 1) ∧ (input → room → ¬ stash → t.why = some 2) ∧
    (input → room → stash → t.why = none) ∧ t.free = cfgStash c - t.slots.length ∧
    t.bubble 0 = { t with bubup := up t.bubup } ∧ t.bubble 1 = { t with bubdn := up t.bubdn } ∧
    t.bubble 2 = { t with bubstash := up t.bubstash } ∧
    (t.srbase = 0 ∨ k = 1 ∨ k = 3 → t.recordWrite e = none) ∧
    (t.srbase ≠ 0 → (k = 0 → t.recordWrite e = some (t.srbase.toNat + 64 * entrySlot e, 2, 0)) ∧
      (k = 2 → t.recordWrite e = some (t.srbase.toNat + 64 * entrySlot e + 1, 1, 0)))) ∧
  (∀ p, s.flowHead 12 = some p →
    let m : StageMsg := { round := (if s.roundSet.contains p.sdev then s.rounds.unwrap p.rnd else s.rounds.next)
                          kind := p.args.getD 0 0 % 4, mb := p.args.getD 1 0 % 2 ^ 16, v := BitVec.ofNat 64 (p.args.getD 2 0)
                          sdev := p.sdev, scell := p.scell, seq := p.seq }
    let u := s.markSerai p.sdev p.scell p.seq 3
    exec .stageMessage s = .next (((if t.mode = 1 then { u with stage := { u.stage with arrivals := u.stage.arrivals ++ [m] } }
      else u.stageApply m).delivered p.sdev p.rnd).seraiRun p.sdev p.scell 64)) ∧
  (∀ m : StageMsg, (∀ q ∈ t.pending, ¬ (q.sdev = m.sdev ∧ q.scell = m.scell)) →
    (m.kind = 2 → s.stageApply m = State.stageFree { s with stage := { t with dnslots := t.dnslots + 1 } } m) ∧
    (m.kind = 0 → look? t.acts m.mb = none → t.acts.length < 256 →
      s.stageApply m = State.stageFree { s with stage := { t with acts := put t.acts m.mb m.v } } m) ∧
    (m.kind = 1 → look? t.grads m.mb = none → t.grads.length < 256 →
      s.stageApply m = State.stageFree { s with stage := { t with grads := put t.grads m.mb m.v } } m)) ∧
  (∀ st, t.starting = some st →
    (t.mode = 1 → exec .stageRoundStart s = .next s.stageGoOn) ∧ (t.mode ≠ 1 → exec .stageFreeEvaluate s = .next s.stageGoOn) ∧
    (∀ id, st.write = .parked id → (∃ q ∈ s.slices, q.2.replay.contains (.stage id) = true) → s.stageGoOn = s) ∧
    (∀ id va n x u, st.write = .parked id → (∀ q ∈ s.slices, q.2.replay.contains (.stage id) = false) → st.record = some (va, n, x) →
      s.stageWrite st.template va n x = .got () u → s.stageGoOn = u.stageLaunch st none) ∧
    (∀ id, st.write = .sent id → s.unitOpen id = true → s.stageGoOn = s) ∧
    (∀ id, st.write = .sent id → s.unitOpen id = false → ∃ u, s.stageGoOn = u ∧ u.stage.running = true ∧ u.stage.starting = none ∧
      u.posts.length = s.posts.length + 1)) ∧
  (t.mode = 1 → t.starting = none → t.round ≤ s.rounds.next → t.arrivals = [] → t.pending = [] →
    let u : State := { s with stage := { t with round := t.round + 1 } };
    (t.running = true → exec .stageRoundStart s = .next u) ∧
    (t.running = false → t.nent ≤ t.ptr → exec .stageRoundStart s = .next u.stageAsk) ∧
    (∀ c, t.idle = true → t.why = some c → exec .stageRoundStart s = .next (State.stageAsk { u with stage := u.stage.bubble c })) ∧
    (t.idle = true → t.why = none → exec .stageRoundStart s =
      .next (if u.stageStart.2 = true then u.stageStart.1 else u.stageStart.1.stageAsk))) ∧
  (t.mode = 2 → t.idle = true → t.why = none → exec .stageFreeEvaluate s = .next s.stageStart.1) ∧
  (∀ tm, look? t.templates (entryTmpl t.entry) = some tm → t.pending = [] →
    (tm.valid = true → t.srbase = 0 ∨ entryKind t.entry = 1 ∨ entryKind t.entry = 3 → s.stageStart.2 = true ∧
      s.stageStart.1.stage.running = true ∧ s.stageStart.1.posts.length = s.posts.length + 1) ∧
    (tm.valid = false → s.stageStart.2 = false ∧ s.stageStart.1.posts = s.posts ∧ s.stageStart.1.stage.ptr = t.ptr + 1)) ∧
  (∀ c, t.mode = 2 → t.idle = true → t.why = some c → exec .stageBubbleTimer s = .next { s with stage := t.bubble c })

/-! ### Events of power, the planner, the host and boot (R45-R60, R385-R406) -/

/-- Operating points and limits (R389-R398): a step to the OP in force answers 0, above 5 answers 2, a step down below the
pinned rows 1, a step up in heat 4, otherwise the new rows read zero; a step down evacuates first, and a step begins only between
instructions and once the cell's own accesses have reached its rows (`stepReady`); a thermal trip holds the module; the governor lets the current rise and fall by 1,500 A a microsecond, up to 30,000 A, above 16,000 A for at most 10 of any 100
microseconds, counts those excursions, and what it holds is not ready; ballast draws what is asked for and releases 1,500 A a
microsecond (R397).  The readings are the events' (the model's choice, log 29).
Jobs, nodes and release (R45, R60, R388, R401-R403): a job that passes its checks gets its job, phase and graph records and
is in progress; a node starts once its predecessors have ended well, and never when one has not; a logical cell whose launch
is over leaves its cell.  The VAs of the records and the planner's other choices are the event's data (the model's choice, log 26). -/
def Obligations.PowerAndPlannerEvents : Prop :=
  (∀ (s : State), let n := s.now.arg.a; let c := s.cell n; let heat := s.now.arg.c;
    (∀ r rest, let g := n / 16; let u : State := { s with unitOpq := put s.unitOpq g rest }
      s.now.arg.b = 1 → look [] s.unitOpq g = r :: rest → exec .opStep s = .next (if 5 < r.op then u.deliver r.id 2
        else State.deliver { u with unitOps := put u.unitOps g (BitVec.ofNat 3 r.op) } r.id 0)) ∧
    (∀ r rest, s.now.arg.b ≠ 1 → c.opq = r :: rest →
      let answer := fun (u : State) v => exec .opStep s = .next ((u.modCell n fun c => { c with opq := rest, evac := none }).deliver r.id v);
      (∀ x, r.query = some x → answer s (s.rowq n (x / 2 ^ 62 % 4) x)) ∧
      (r.query = none → c.evac = none → let k := c.opcur.toNat;
        (5 < r.op → answer s 2) ∧ (r.op = k → r.op ≤ 5 → answer s 0) ∧
        (r.op < k → r.op ≤ 5 → c.rowsAt r.op < s.rowPin n → answer s 1) ∧
        (r.op < k → r.op ≤ 5 → s.rowPin n ≤ c.rowsAt r.op → exec .opStep s =
          .next (if s.stepReady n = true then s.modCell n fun c => { c with evac := some (0, 0) } else s)) ∧
        (k < r.op → r.op ≤ 5 → s.thermalLimit < heat → answer s 4) ∧
        (k < r.op → r.op ≤ 5 → heat ≤ s.thermalLimit → s.stepReady n = false → exec .opStep s = .next s) ∧
        (k < r.op → r.op ≤ 5 → heat ≤ s.thermalLimit → s.stepReady n = true → answer ((s.padWrite n (c.rowsAt k * 128)
          ((c.rowsAt r.op - c.rowsAt k) * 128) 0).modCell n fun c => { c with opcur := BitVec.ofNat 3 r.op }) 0))) ∧
    (∀ h, c.hosted[s.now.arg.b]? = some h → kindOf n = some .compute → s.thermalLimit < s.now.arg.data.getD (n % 16) 0 →
      s.lcellIdle n h.lcell = true → s.rowsQuiet n = true →
      let takes := fun j => s.takesMoved (n / 16 * 16 + j) n h (s.now.arg.data.getD j 0);
      (heat < 16 → takes heat = true → (c.messagesOf h.lcell).length ≤ (s.cell (n / 16 * 16 + heat)).freeSlots →
        exec .thermalMigration s = .next (s.migrate n (n / 16 * 16 + heat) s.now.arg.b h)) ∧
      ((∀ j, j < 16 → takes j = false) → exec .thermalMigration s = .next (s.modCell n fun c => { c with stretched := true }))) ∧
    (s.now.arg.b < s.thermalLimit → c.stretched = true →
      exec .readingFallsBelowLimit s = .next (s.modCell n fun c => { c with stretched := false })) ∧
    (125 ≤ n → ∃ t, exec .thermalTrip s = .next t ∧ t.held = true ∧ t.stopped = true ∧ t.hbm = s.hbm ∧ t.pad = s.pad) ∧
    (let g := s.governor; let l := g.elapse s.now.arg.b
      n ≤ g.current.toNat + 1500 * s.now.arg.b → g.current.toNat ≤ n + 1500 * s.now.arg.b → n ≤ 30000 → (l.filter id).length ≤ 10 → n ≤ 16000 ∨ ((l.drop (l.length - 99)).filter id).length < 10 →
      exec .currentGovernor s = .next { s with governor := { g with
        current := BitVec.ofNat 32 n, recent := l, holds := s.now.arg.data, holding := !s.now.arg.data.isEmpty
        excursions := (if 16000 < n ∧ g.current.toNat ≤ 16000 then (if g.excursions = 0xFFFF then 0xFFFF else g.excursions + 1)
          else g.excursions) } }) ∧
    (∀ m k, s.governor.holds.contains m = true → s.ready m k = false) ∧
    exec .ballastDraw s = .next { s with governor := { s.governor with ballast := s.governor.ballast + n - 1500 * s.now.arg.b } }) ∧
  (∀ (s : State), let va := s.now.arg.a; let d := fun i => s.now.arg.data.getD i 0;
    (∀ job, s.vaNum va 64 = some job → let jrec := job / 2 ^ 64 % 2 ^ 64; let save := job / 2 ^ 192 % 2 ^ 64;
      (∀ j ∈ s.jobs, j.jrec ≠ jrec) → d 0 % 64 = 0 → d 1 % 64 = 0 → s.jobChecks va job = some true →
      ∀ head u v w, s.vaNum (job % 2 ^ 64) 16 = some head →
      s.vaWrite jrec 64 (levelRecord freshPhase.toNat 1 3 0 save 0 (d 2)) = some u →
      u.vaWrite (d 0) 64 (levelRecord freshPhase.toNat 1 2 0 save jrec (d 3)) = some v →
      v.vaWrite (d 1) 64 (levelRecord freshPhase.toNat (head % 2 ^ 16) 1 0 save (d 0) (d 4)) = some w →
      exec .jobStart s = .next { w with jobs := w.jobs ++ [{ va := va, jrec := jrec, graphRec := d 1, port := s.now.arg.b % 4 }] }) ∧
    (∀ j job head preds, let node := s.now.arg.b
      s.jobs.find? (·.va == va) = some j → s.vaNum j.va 64 = some job → s.vaNum (job % 2 ^ 64) 16 = some head → node < head % 2 ^ 16 →
      s.predecessors job (head % 2 ^ 16) node = some preds → look? j.nodes node = none →
      ((∃ m ∈ preds, s.nodeEnd j m = some false) → ∃ t, exec .nodeStart s = .next t ∧ t.hbm = s.hbm ∧ t.launches = s.launches ∧
        t.records = s.records ++ [RecOp.liveSub j.graphRec]) ∧
      (∀ t, (∀ m ∈ preds, s.nodeEnd j m = some true) → s.startNode j job node s.now.arg.data = some t → exec .nodeStart s = .next t)) ∧
    (∀ h e err, (s.cell va).hosted[s.now.arg.b]? = some h → look? s.launches h.launch = some e → s.flipped e.recva.toNat = some (true, err) →
      s.rowsQuiet va = true → ∃ t, exec .rowCompaction s = .next t ∧ look? t.l2p h.lcell = none ∧
        (t.cell va).hosted = removeAt (s.cell va).hosted s.now.arg.b ∧ t.hbm = s.hbm))

/-- The host's ports, checkpoints, boot and attestation (R178, R399-R406): a doorbell is queued or counted as lost; firmware's
class takes the oldest; APBASE and the windows are written; inbound bytes reach HBM; a checkpoint is armed, and its end clears
BUSY; RESET runs a verified image alone; answers are signed.  The model's choices: that RESET keeps the bytes of HBM and scratchpads
(log 21), and the signatures and digests, which no one can evaluate (log 7). -/
def Obligations.HostEvents : Prop := ∀ (s : State), let a := s.now.arg.a; let b := s.now.arg.b; let v := s.now.arg.c; let h := s.hostPort a;
  (a < 4 →
    (h.doorbells.length < 64 → exec .doorbell s = .next (s.setHostPort a { h with doorbells := h.doorbells ++ [b % 2 ^ 64] })) ∧
    (64 ≤ h.doorbells.length → exec .doorbell s = .next (s.setHostPort a { h with lost := h.lost + 1 })) ∧
    (b = 0x018 → exec .hostRegisterWrite s =
      .next (s.setHostPort a { h with apbase := BitVec.ofNat 52 (v / 2 ^ 36 % 2 ^ 16 * 2 ^ 36) })) ∧
    (∀ k, k < 16 → b = 0x100 + 16 * k → exec .hostRegisterWrite s = .next (s.setHostPort a { h with windows := (put h.windows k
      (BitVec.ofNat 128 (v / 2 ^ 12 % 2 ^ 52 * 2 ^ 12 + v / 2 ^ 64 % 2 ^ 6 * 2 ^ 64 + v / 2 ^ 70 % 2 ^ 2 * 2 ^ 70))) })) ∧
    (let l := s.now.arg.data; let pa := h.apbase.toNat + b
      b + l.length ≤ 2 ^ 36 → pa + l.length ≤ Config.hbmBytes →
      exec .bar2InboundWrite s = .next (s.hbmWrite 0 pa l.length (packElems 8 l)))) ∧
  (∀ va rest, h.doorbells = va :: rest → 16 ≤ h.cls → ∃ t q, exec .doorbellPost s = .next t ∧ t.hostPort a = { h with doorbells := rest } ∧
    t.posts = s.posts ++ [q] ∧ q.target = .physical (Config.systemBase + h.core) ∧ q.msg.cls = BitVec.ofNat 8 h.cls ∧
    q.msg.args[0] = BitVec.ofNat 64 va ∧ q.msg.args[1] = BitVec.ofNat 64 a) ∧
  (s.cut.busy = false → ∀ d, s.vaRead (a / 64 * 64) 64 = some d → ∃ t, exec .ckdesc s = .next t ∧ t.cut.busy = true ∧
    t.cut.err = false ∧ t.cut.due = some (max (d % 2 ^ 64) s.rounds.send) ∧ t.cut.full = bit d 64 ∧ t = { s with cut := t.cut }) ∧
  (s.cut.active = true → s.cut.full = false → s.cut.shares = [] → ∃ t q, exec .checkpointCompletion s = .next t ∧ t.cut.busy = false ∧
    t.cut.active = false ∧ t.cut.last = BitVec.ofNat 32 s.cut.round ∧ t.posts = s.posts ++ [q] ∧
    q.msg.cls = BitVec.ofNat 8 s.cut.cls ∧ t.hbm = s.hbm ∧ t.hostOut = s.hostOut) ∧
  (∃ t, exec .reset s = .next t ∧ t.hbm = s.hbm ∧ t.pad = s.pad ∧ t.boot.firmware = a ∧ t.boot.failed = !s.now.arg.flag ∧
    t.launches = [] ∧ t.held = false ∧ t.inflight = [] ∧ t.rndlen = 65536 ∧
    (s.now.arg.flag = false → t.cells = [] ∧ (t.hostPort 0).status = b)) ∧
  (∃ t, exec .getMeasurements s = .next t ∧ t.boot.answers = s.boot.answers ++ s.measurements.map (0, ·) ∧ t = { s with boot := t.boot }) ∧
  (∃ t, exec .challenge s = .next t ∧ t = { s with boot := t.boot } ∧
    t.boot.answers = s.boot.answers ++ [(1, Config.sign 0 (Config.digest (a :: s.measurements)))]) ∧
  (∃ t, exec .keyExchange s = .next t ∧ t = { s with boot := t.boot } ∧ t.boot.session = some a ∧
    t.boot.answers = s.boot.answers ++ [(2, Config.sign 1 a)]) ∧
  (s.now.arg.flag = true → s.boot.failed = false → exec .partitionTableAccept s =
    .next { s with partition := some (s.now.arg.data.filter (· < 320)) })
end

