-- ==== Sys2Proof/Laws/Dispatch.lean ====
section
/-! SUPPORT. The meaning each instruction and event is dispatched to: one equation per constructor. -/
namespace Sys2Proof.Machine

theorem exec_add (d : Reg) (a : Reg) (b : Reg) (s : State) : exec (.add d a b) s = execAdd d a b s := rfl
theorem exec_sub (d : Reg) (a : Reg) (b : Reg) (s : State) : exec (.sub d a b) s = execSub d a b s := rfl
theorem exec_and (d : Reg) (a : Reg) (b : Reg) (s : State) : exec (.and d a b) s = execAnd d a b s := rfl
theorem exec_or (d : Reg) (a : Reg) (b : Reg) (s : State) : exec (.or d a b) s = execOr d a b s := rfl
theorem exec_xor (d : Reg) (a : Reg) (b : Reg) (s : State) : exec (.xor d a b) s = execXor d a b s := rfl
theorem exec_andn (d : Reg) (a : Reg) (b : Reg) (s : State) : exec (.andn d a b) s = execAndn d a b s := rfl
theorem exec_orn (d : Reg) (a : Reg) (b : Reg) (s : State) : exec (.orn d a b) s = execOrn d a b s := rfl
theorem exec_sll (d : Reg) (a : Reg) (b : Reg) (s : State) : exec (.sll d a b) s = execSll d a b s := rfl
theorem exec_srl (d : Reg) (a : Reg) (b : Reg) (s : State) : exec (.srl d a b) s = execSrl d a b s := rfl
theorem exec_sra (d : Reg) (a : Reg) (b : Reg) (s : State) : exec (.sra d a b) s = execSra d a b s := rfl
theorem exec_slt (d : Reg) (a : Reg) (b : Reg) (s : State) : exec (.slt d a b) s = execSlt d a b s := rfl
theorem exec_sltu (d : Reg) (a : Reg) (b : Reg) (s : State) : exec (.sltu d a b) s = execSltu d a b s := rfl
theorem exec_min (d : Reg) (a : Reg) (b : Reg) (s : State) : exec (.min d a b) s = execMin d a b s := rfl
theorem exec_max (d : Reg) (a : Reg) (b : Reg) (s : State) : exec (.max d a b) s = execMax d a b s := rfl
theorem exec_minu (d : Reg) (a : Reg) (b : Reg) (s : State) : exec (.minu d a b) s = execMinu d a b s := rfl
theorem exec_maxu (d : Reg) (a : Reg) (b : Reg) (s : State) : exec (.maxu d a b) s = execMaxu d a b s := rfl
theorem exec_seq (d : Reg) (a : Reg) (b : Reg) (s : State) : exec (.seq d a b) s = execSeq d a b s := rfl
theorem exec_addi (d : Reg) (a : Reg) (imm : BitVec 14) (s : State) : exec (.addi d a imm) s = execAddi d a imm s := rfl
theorem exec_andi (d : Reg) (a : Reg) (imm : BitVec 14) (s : State) : exec (.andi d a imm) s = execAndi d a imm s := rfl
theorem exec_ori (d : Reg) (a : Reg) (imm : BitVec 14) (s : State) : exec (.ori d a imm) s = execOri d a imm s := rfl
theorem exec_xori (d : Reg) (a : Reg) (imm : BitVec 14) (s : State) : exec (.xori d a imm) s = execXori d a imm s := rfl
theorem exec_slti (d : Reg) (a : Reg) (imm : BitVec 14) (s : State) : exec (.slti d a imm) s = execSlti d a imm s := rfl
theorem exec_sltiu (d : Reg) (a : Reg) (imm : BitVec 14) (s : State) : exec (.sltiu d a imm) s = execSltiu d a imm s := rfl
theorem exec_slli (d : Reg) (a : Reg) (h : BitVec 6) (s : State) : exec (.slli d a h) s = execSlli d a h s := rfl
theorem exec_srli (d : Reg) (a : Reg) (h : BitVec 6) (s : State) : exec (.srli d a h) s = execSrli d a h s := rfl
theorem exec_srai (d : Reg) (a : Reg) (h : BitVec 6) (s : State) : exec (.srai d a h) s = execSrai d a h s := rfl
theorem exec_li (d : Reg) (imm : BitVec 19) (s : State) : exec (.li d imm) s = execLi d imm s := rfl
theorem exec_lih (d : Reg) (h : BitVec 16) (q : BitVec 2) (s : State) : exec (.lih d h q) s = execLih d h q s := rfl
theorem exec_mul (d : Reg) (a : Reg) (b : Reg) (s : State) : exec (.mul d a b) s = execMul d a b s := rfl
theorem exec_mulh (d : Reg) (a : Reg) (b : Reg) (s : State) : exec (.mulh d a b) s = execMulh d a b s := rfl
theorem exec_mulhsu (d : Reg) (a : Reg) (b : Reg) (s : State) : exec (.mulhsu d a b) s = execMulhsu d a b s := rfl
theorem exec_mulhu (d : Reg) (a : Reg) (b : Reg) (s : State) : exec (.mulhu d a b) s = execMulhu d a b s := rfl
theorem exec_div (d : Reg) (a : Reg) (b : Reg) (s : State) : exec (.div d a b) s = execDiv d a b s := rfl
theorem exec_divu (d : Reg) (a : Reg) (b : Reg) (s : State) : exec (.divu d a b) s = execDivu d a b s := rfl
theorem exec_rem (d : Reg) (a : Reg) (b : Reg) (s : State) : exec (.rem d a b) s = execRem d a b s := rfl
theorem exec_remu (d : Reg) (a : Reg) (b : Reg) (s : State) : exec (.remu d a b) s = execRemu d a b s := rfl
theorem exec_clz (d : Reg) (a : Reg) (s : State) : exec (.clz d a) s = execClz d a s := rfl
theorem exec_ctz (d : Reg) (a : Reg) (s : State) : exec (.ctz d a) s = execCtz d a s := rfl
theorem exec_popc (d : Reg) (a : Reg) (s : State) : exec (.popc d a) s = execPopc d a s := rfl
theorem exec_bswap (d : Reg) (a : Reg) (s : State) : exec (.bswap d a) s = execBswap d a s := rfl
theorem exec_brev (d : Reg) (a : Reg) (s : State) : exec (.brev d a) s = execBrev d a s := rfl
theorem exec_rol (d : Reg) (a : Reg) (b : Reg) (s : State) : exec (.rol d a b) s = execRol d a b s := rfl
theorem exec_ror (d : Reg) (a : Reg) (b : Reg) (s : State) : exec (.ror d a b) s = execRor d a b s := rfl
theorem exec_rand (d : Reg) (s : State) : exec (.rand d) s = execRand d s := rfl
theorem exec_beq (a : Reg) (b : Reg) (o : BitVec 11) (s : State) : exec (.beq a b o) s = execBeq a b o s := rfl
theorem exec_bne (a : Reg) (b : Reg) (o : BitVec 11) (s : State) : exec (.bne a b o) s = execBne a b o s := rfl
theorem exec_blt (a : Reg) (b : Reg) (o : BitVec 11) (s : State) : exec (.blt a b o) s = execBlt a b o s := rfl
theorem exec_bge (a : Reg) (b : Reg) (o : BitVec 11) (s : State) : exec (.bge a b o) s = execBge a b o s := rfl
theorem exec_bltu (a : Reg) (b : Reg) (o : BitVec 11) (s : State) : exec (.bltu a b o) s = execBltu a b o s := rfl
theorem exec_bgeu (a : Reg) (b : Reg) (o : BitVec 11) (s : State) : exec (.bgeu a b o) s = execBgeu a b o s := rfl
theorem exec_jmp (o : BitVec 24) (s : State) : exec (.jmp o) s = execJmp o s := rfl
theorem exec_call (o : BitVec 24) (s : State) : exec (.call o) s = execCall o s := rfl
theorem exec_jreg (d : Reg) (a : Reg) (imm : BitVec 14) (s : State) : exec (.jreg d a imm) s = execJreg d a imm s := rfl
theorem exec_loop (a : Reg) (imm : BitVec 14) (s : State) : exec (.loop a imm) s = execLoop a imm s := rfl
theorem exec_endtask (a : Reg) (s : State) : exec (.endtask a) s = execEndtask a s := rfl
theorem exec_spawnPath (d : Reg) (a : Reg) (c : BitVec 6) (r : BitVec 1) (s : State) : exec (.spawnPath d a c r) s = execSpawnPath d a c r s := rfl
theorem exec_spawnNear (d : Reg) (a : Reg) (c : BitVec 6) (r : BitVec 1) (s : State) : exec (.spawnNear d a c r) s = execSpawnNear d a c r s := rfl
theorem exec_spawnSteal (d : Reg) (a : Reg) (c : BitVec 6) (r : BitVec 1) (s : State) : exec (.spawnSteal d a c r) s = execSpawnSteal d a c r s := rfl
theorem exec_join (d : Reg) (a : Reg) (k : BitVec 8) (s : State) : exec (.join d a k) s = execJoin d a k s := rfl
theorem exec_yieldchk (d : Reg) (s : State) : exec (.yieldchk d) s = execYieldchk d s := rfl
theorem exec_follow (a : Reg) (k : BitVec 10) (s : State) : exec (.follow a k) s = execFollow a k s := rfl
theorem exec_cancel (a : Reg) (s : State) : exec (.cancel a) s = execCancel a s := rfl
theorem exec_rtquiet (d : Reg) (a : Reg) (k : BitVec 8) (s : State) : exec (.rtquiet d a k) s = execRtquiet d a k s := rfl
theorem exec_csrrw (d : Reg) (a : Reg) (k : BitVec 10) (s : State) : exec (.csrrw d a k) s = execCsrrw d a k s := rfl
theorem exec_csrrs (d : Reg) (a : Reg) (k : BitVec 10) (s : State) : exec (.csrrs d a k) s = execCsrrs d a k s := rfl
theorem exec_csrrc (d : Reg) (a : Reg) (k : BitVec 10) (s : State) : exec (.csrrc d a k) s = execCsrrc d a k s := rfl
theorem exec_ld (d : Reg) (a : Reg) (z : BitVec 3) (o : BitVec 11) (s : State) : exec (.ld d a z o) s = execLd d a z o s := rfl
theorem exec_st (d : Reg) (a : Reg) (z : BitVec 3) (o : BitVec 11) (s : State) : exec (.st d a z o) s = execSt d a z o s := rfl
theorem exec_ldl (d : Reg) (a : Reg) (z : BitVec 3) (o : BitVec 11) (s : State) : exec (.ldl d a z o) s = execLdl d a z o s := rfl
theorem exec_stl (d : Reg) (a : Reg) (z : BitVec 3) (o : BitVec 11) (s : State) : exec (.stl d a z o) s = execStl d a z o s := rfl
theorem exec_ldc (d : Reg) (a : Reg) (z : BitVec 3) (o : BitVec 11) (s : State) : exec (.ldc d a z o) s = execLdc d a z o s := rfl
theorem exec_stc (d : Reg) (a : Reg) (z : BitVec 3) (o : BitVec 11) (s : State) : exec (.stc d a z o) s = execStc d a z o s := rfl
theorem exec_ldv (d : Reg) (a : Reg) (b : Reg) (p : Fin 8) (n : BitVec 3) (y : BitVec 3) (s : State) : exec (.ldv d a b p n y) s = execLdv d a b p n y s := rfl
theorem exec_stv (d : Reg) (a : Reg) (b : Reg) (p : Fin 8) (n : BitVec 3) (y : BitVec 3) (s : State) : exec (.stv d a b p n y) s = execStv d a b p n y s := rfl
theorem exec_amoswap (d : Reg) (a : Reg) (b : Reg) (z : BitVec 1) (u : BitVec 2) (s : State) : exec (.amoswap d a b z u) s = execAmoswap d a b z u s := rfl
theorem exec_amoadd (d : Reg) (a : Reg) (b : Reg) (z : BitVec 1) (u : BitVec 2) (s : State) : exec (.amoadd d a b z u) s = execAmoadd d a b z u s := rfl
theorem exec_amoand (d : Reg) (a : Reg) (b : Reg) (z : BitVec 1) (u : BitVec 2) (s : State) : exec (.amoand d a b z u) s = execAmoand d a b z u s := rfl
theorem exec_amoor (d : Reg) (a : Reg) (b : Reg) (z : BitVec 1) (u : BitVec 2) (s : State) : exec (.amoor d a b z u) s = execAmoor d a b z u s := rfl
theorem exec_amoxor (d : Reg) (a : Reg) (b : Reg) (z : BitVec 1) (u : BitVec 2) (s : State) : exec (.amoxor d a b z u) s = execAmoxor d a b z u s := rfl
theorem exec_amomin (d : Reg) (a : Reg) (b : Reg) (z : BitVec 1) (u : BitVec 2) (s : State) : exec (.amomin d a b z u) s = execAmomin d a b z u s := rfl
theorem exec_amomax (d : Reg) (a : Reg) (b : Reg) (z : BitVec 1) (u : BitVec 2) (s : State) : exec (.amomax d a b z u) s = execAmomax d a b z u s := rfl
theorem exec_amominu (d : Reg) (a : Reg) (b : Reg) (z : BitVec 1) (u : BitVec 2) (s : State) : exec (.amominu d a b z u) s = execAmominu d a b z u s := rfl
theorem exec_amomaxu (d : Reg) (a : Reg) (b : Reg) (z : BitVec 1) (u : BitVec 2) (s : State) : exec (.amomaxu d a b z u) s = execAmomaxu d a b z u s := rfl
theorem exec_amocas (d : Reg) (a : Reg) (b : Reg) (z : BitVec 1) (u : BitVec 2) (s : State) : exec (.amocas d a b z u) s = execAmocas d a b z u s := rfl
theorem exec_amofadd (d : Reg) (a : Reg) (b : Reg) (u : BitVec 2) (s : State) : exec (.amofadd d a b u) s = execAmofadd d a b u s := rfl
theorem exec_amobfpadd (d : Reg) (a : Reg) (b : Reg) (s : State) : exec (.amobfpadd d a b) s = execAmobfpadd d a b s := rfl
theorem exec_fence (t : BitVec 4) (s : State) : exec (.fence t) s = execFence t s := rfl
theorem exec_phinit (a : Reg) (b : Reg) (t : BitVec 4) (s : State) : exec (.phinit a b t) s = execPhinit a b t s := rfl
theorem exec_pharr (a : Reg) (t : BitVec 4) (s : State) : exec (.pharr a t) s = execPharr a t s := rfl
theorem exec_phadd (a : Reg) (b : Reg) (t : BitVec 4) (s : State) : exec (.phadd a b t) s = execPhadd a b t s := rfl
theorem exec_phwait (d : Reg) (a : Reg) (b : Reg) (t : BitVec 4) (s : State) : exec (.phwait d a b t) s = execPhwait d a b t s := rfl
theorem exec_phread (d : Reg) (a : Reg) (b : Reg) (t : BitVec 4) (s : State) : exec (.phread d a b t) s = execPhread d a b t s := rfl
theorem exec_taglk (d : Reg) (a : Reg) (s : State) : exec (.taglk d a) s = execTaglk d a s := rfl
theorem exec_tagset (d : Reg) (a : Reg) (b : Reg) (s : State) : exec (.tagset d a b) s = execTagset d a b s := rfl
theorem exec_taginv (a : Reg) (s : State) : exec (.taginv a) s = execTaginv a s := rfl
theorem exec_tagstat (d : Reg) (a : Reg) (b : Reg) (s : State) : exec (.tagstat d a b) s = execTagstat d a b s := rfl
theorem exec_xfer (a : Reg) (s : State) : exec (.xfer a) s = execXfer a s := rfl
theorem exec_xfern (d : Reg) (s : State) : exec (.xfern d) s = execXfern d s := rfl
theorem exec_send (a : Reg) (s : State) : exec (.send a) s = execSend a s := rfl
theorem exec_sendRel (a : Reg) (s : State) : exec (.sendRel a) s = execSendRel a s := rfl
theorem exec_reply (a : Reg) (b : Reg) (s : State) : exec (.reply a b) s = execReply a b s := rfl
theorem exec_replyRel (a : Reg) (b : Reg) (s : State) : exec (.replyRel a b) s = execReplyRel a b s := rfl
theorem exec_sendlb (a : Reg) (s : State) : exec (.sendlb a) s = execSendlb a s := rfl
theorem exec_gqcreate (a : Reg) (b : Reg) (s : State) : exec (.gqcreate a b) s = execGqcreate a b s := rfl
theorem exec_gqpush (d : Reg) (a : Reg) (b : Reg) (s : State) : exec (.gqpush d a b) s = execGqpush d a b s := rfl
theorem exec_gqpop (d : Reg) (a : Reg) (b : Reg) (s : State) : exec (.gqpop d a b) s = execGqpop d a b s := rfl
theorem exec_gqpopDrop (d : Reg) (a : Reg) (b : Reg) (s : State) : exec (.gqpopDrop d a b) s = execGqpopDrop d a b s := rfl
theorem exec_gqstat (d : Reg) (a : Reg) (b : Reg) (s : State) : exec (.gqstat d a b) s = execGqstat d a b s := rfl
theorem exec_mixcfg (a : Reg) (b : Reg) (s : State) : exec (.mixcfg a b) s = execMixcfg a b s := rfl
theorem exec_mixjoin (a : Reg) (b : Reg) (s : State) : exec (.mixjoin a b) s = execMixjoin a b s := rfl
theorem exec_mixpeer (a : Reg) (b : Reg) (s : State) : exec (.mixpeer a b) s = execMixpeer a b s := rfl
theorem exec_mixadd (d : Reg) (a : Reg) (b : Reg) (s : State) : exec (.mixadd d a b) s = execMixadd d a b s := rfl
theorem exec_mixtick (a : Reg) (s : State) : exec (.mixtick a) s = execMixtick a s := rfl
theorem exec_mixread (d : Reg) (a : Reg) (b : Reg) (s : State) : exec (.mixread d a b) s = execMixread d a b s := rfl
theorem exec_mixstat (d : Reg) (a : Reg) (b : Reg) (s : State) : exec (.mixstat d a b) s = execMixstat d a b s := rfl
theorem exec_mixleave (a : Reg) (s : State) : exec (.mixleave a) s = execMixleave a s := rfl
theorem exec_mixhold (a : Reg) (b : Reg) (s : State) : exec (.mixhold a b) s = execMixhold a b s := rfl
theorem exec_mfmt (a : Reg) (b : Reg) (s : State) : exec (.mfmt a b) s = execMfmt a b s := rfl
theorem exec_mma (a : Reg) (s : State) : exec (.mma a) s = execMma a s := rfl
theorem exec_mmas (a : Reg) (s : State) : exec (.mmas a) s = execMmas a s := rfl
theorem exec_mwait (d : Reg) (a : Reg) (s : State) : exec (.mwait d a) s = execMwait d a s := rfl
theorem exec_mar (d : Reg) (a : Reg) (s : State) : exec (.mar d a) s = execMar d a s := rfl
theorem exec_maw (d : Reg) (a : Reg) (s : State) : exec (.maw d a) s = execMaw d a s := rfl
theorem exec_mstat (d : Reg) (s : State) : exec (.mstat d) s = execMstat d s := rfl
theorem exec_msrec (a : Reg) (s : State) : exec (.msrec a) s = execMsrec a s := rfl
theorem exec_mtout (a : Reg) (s : State) : exec (.mtout a) s = execMtout a s := rfl
theorem exec_mrem (a : Reg) (t : BitVec 4) (s : State) : exec (.mrem a t) s = execMrem a t s := rfl
theorem exec_mkey (a : Reg) (b : Reg) (s : State) : exec (.mkey a b) s = execMkey a b s := rfl
theorem exec_mcap (d : Reg) (a : Reg) (s : State) : exec (.mcap d a) s = execMcap d a s := rfl
theorem exec_mnorm (a : Reg) (s : State) : exec (.mnorm a) s = execMnorm a s := rfl
theorem exec_mxs (a : Reg) (b : Reg) (s : State) : exec (.mxs a b) s = execMxs a b s := rfl
theorem exec_mxsrd (d : Reg) (a : Reg) (s : State) : exec (.mxsrd d a) s = execMxsrd d a s := rfl
theorem exec_stgcfg (a : Reg) (b : Reg) (s : State) : exec (.stgcfg a b) s = execStgcfg a b s := rfl
theorem exec_stgdone (a : Reg) (s : State) : exec (.stgdone a) s = execStgdone a s := rfl
theorem exec_stgtmpl (a : Reg) (b : Reg) (s : State) : exec (.stgtmpl a b) s = execStgtmpl a b s := rfl
theorem exec_stgsrec (a : Reg) (s : State) : exec (.stgsrec a) s = execStgsrec a s := rfl
theorem exec_stgstat (d : Reg) (a : Reg) (s : State) : exec (.stgstat d a) s = execStgstat d a s := rfl
theorem exec_vadd (d : Reg) (a : Reg) (b : Reg) (p : Fin 8) (y : BitVec 3) (s : State) : exec (.vadd d a b p y) s = execVadd d a b p y s := rfl
theorem exec_vsub (d : Reg) (a : Reg) (b : Reg) (p : Fin 8) (y : BitVec 3) (s : State) : exec (.vsub d a b p y) s = execVsub d a b p y s := rfl
theorem exec_vmul (d : Reg) (a : Reg) (b : Reg) (p : Fin 8) (y : BitVec 3) (s : State) : exec (.vmul d a b p y) s = execVmul d a b p y s := rfl
theorem exec_vmin (d : Reg) (a : Reg) (b : Reg) (p : Fin 8) (y : BitVec 3) (s : State) : exec (.vmin d a b p y) s = execVmin d a b p y s := rfl
theorem exec_vmax (d : Reg) (a : Reg) (b : Reg) (p : Fin 8) (y : BitVec 3) (s : State) : exec (.vmax d a b p y) s = execVmax d a b p y s := rfl
theorem exec_vminu (d : Reg) (a : Reg) (b : Reg) (p : Fin 8) (y : BitVec 3) (s : State) : exec (.vminu d a b p y) s = execVminu d a b p y s := rfl
theorem exec_vmaxu (d : Reg) (a : Reg) (b : Reg) (p : Fin 8) (y : BitVec 3) (s : State) : exec (.vmaxu d a b p y) s = execVmaxu d a b p y s := rfl
theorem exec_vfma (d : Reg) (a : Reg) (b : Reg) (p : Fin 8) (y : BitVec 3) (s : State) : exec (.vfma d a b p y) s = execVfma d a b p y s := rfl
theorem exec_vfms (d : Reg) (a : Reg) (b : Reg) (p : Fin 8) (y : BitVec 3) (s : State) : exec (.vfms d a b p y) s = execVfms d a b p y s := rfl
theorem exec_vfnma (d : Reg) (a : Reg) (b : Reg) (p : Fin 8) (y : BitVec 3) (s : State) : exec (.vfnma d a b p y) s = execVfnma d a b p y s := rfl
theorem exec_vfnms (d : Reg) (a : Reg) (b : Reg) (p : Fin 8) (y : BitVec 3) (s : State) : exec (.vfnms d a b p y) s = execVfnms d a b p y s := rfl
theorem exec_vdot (d : Reg) (a : Reg) (b : Reg) (p : Fin 8) (y : BitVec 3) (s : State) : exec (.vdot d a b p y) s = execVdot d a b p y s := rfl
theorem exec_vdotu (d : Reg) (a : Reg) (b : Reg) (p : Fin 8) (y : BitVec 3) (s : State) : exec (.vdotu d a b p y) s = execVdotu d a b p y s := rfl
theorem exec_vadds (d : Reg) (a : Reg) (b : Reg) (p : Fin 8) (y : BitVec 3) (s : State) : exec (.vadds d a b p y) s = execVadds d a b p y s := rfl
theorem exec_vaddsu (d : Reg) (a : Reg) (b : Reg) (p : Fin 8) (y : BitVec 3) (s : State) : exec (.vaddsu d a b p y) s = execVaddsu d a b p y s := rfl
theorem exec_vsubs (d : Reg) (a : Reg) (b : Reg) (p : Fin 8) (y : BitVec 3) (s : State) : exec (.vsubs d a b p y) s = execVsubs d a b p y s := rfl
theorem exec_vsubsu (d : Reg) (a : Reg) (b : Reg) (p : Fin 8) (y : BitVec 3) (s : State) : exec (.vsubsu d a b p y) s = execVsubsu d a b p y s := rfl
theorem exec_vnegs (d : Reg) (a : Reg) (p : Fin 8) (y : BitVec 3) (s : State) : exec (.vnegs d a p y) s = execVnegs d a p y s := rfl
theorem exec_vand (d : Reg) (a : Reg) (b : Reg) (p : Fin 8) (y : BitVec 3) (s : State) : exec (.vand d a b p y) s = execVand d a b p y s := rfl
theorem exec_vor (d : Reg) (a : Reg) (b : Reg) (p : Fin 8) (y : BitVec 3) (s : State) : exec (.vor d a b p y) s = execVor d a b p y s := rfl
theorem exec_vxor (d : Reg) (a : Reg) (b : Reg) (p : Fin 8) (y : BitVec 3) (s : State) : exec (.vxor d a b p y) s = execVxor d a b p y s := rfl
theorem exec_vandn (d : Reg) (a : Reg) (b : Reg) (p : Fin 8) (y : BitVec 3) (s : State) : exec (.vandn d a b p y) s = execVandn d a b p y s := rfl
theorem exec_vsll (d : Reg) (a : Reg) (b : Reg) (p : Fin 8) (y : BitVec 3) (s : State) : exec (.vsll d a b p y) s = execVsll d a b p y s := rfl
theorem exec_vsrl (d : Reg) (a : Reg) (b : Reg) (p : Fin 8) (y : BitVec 3) (s : State) : exec (.vsrl d a b p y) s = execVsrl d a b p y s := rfl
theorem exec_vsra (d : Reg) (a : Reg) (b : Reg) (p : Fin 8) (y : BitVec 3) (s : State) : exec (.vsra d a b p y) s = execVsra d a b p y s := rfl
theorem exec_vcmpeq (d : Reg) (a : Reg) (b : Reg) (p : Fin 8) (y : BitVec 3) (s : State) : exec (.vcmpeq d a b p y) s = execVcmpeq d a b p y s := rfl
theorem exec_vcmpne (d : Reg) (a : Reg) (b : Reg) (p : Fin 8) (y : BitVec 3) (s : State) : exec (.vcmpne d a b p y) s = execVcmpne d a b p y s := rfl
theorem exec_vcmplt (d : Reg) (a : Reg) (b : Reg) (p : Fin 8) (y : BitVec 3) (s : State) : exec (.vcmplt d a b p y) s = execVcmplt d a b p y s := rfl
theorem exec_vcmple (d : Reg) (a : Reg) (b : Reg) (p : Fin 8) (y : BitVec 3) (s : State) : exec (.vcmple d a b p y) s = execVcmple d a b p y s := rfl
theorem exec_vcmpltu (d : Reg) (a : Reg) (b : Reg) (p : Fin 8) (y : BitVec 3) (s : State) : exec (.vcmpltu d a b p y) s = execVcmpltu d a b p y s := rfl
theorem exec_vcmpleu (d : Reg) (a : Reg) (b : Reg) (p : Fin 8) (y : BitVec 3) (s : State) : exec (.vcmpleu d a b p y) s = execVcmpleu d a b p y s := rfl
theorem exec_vmv (d : Reg) (a : Reg) (p : Fin 8) (y : BitVec 3) (s : State) : exec (.vmv d a p y) s = execVmv d a p y s := rfl
theorem exec_vbcast (d : Reg) (a : Reg) (p : Fin 8) (y : BitVec 3) (s : State) : exec (.vbcast d a p y) s = execVbcast d a p y s := rfl
theorem exec_vins (d : Reg) (a : Reg) (b : Reg) (y : BitVec 3) (s : State) : exec (.vins d a b y) s = execVins d a b y s := rfl
theorem exec_vext (d : Reg) (a : Reg) (b : Reg) (y : BitVec 3) (s : State) : exec (.vext d a b y) s = execVext d a b y s := rfl
theorem exec_vextu (d : Reg) (a : Reg) (b : Reg) (y : BitVec 3) (s : State) : exec (.vextu d a b y) s = execVextu d a b y s := rfl
theorem exec_vrsum (d : Reg) (a : Reg) (p : Fin 8) (y : BitVec 3) (s : State) : exec (.vrsum d a p y) s = execVrsum d a p y s := rfl
theorem exec_vrsumu (d : Reg) (a : Reg) (p : Fin 8) (y : BitVec 3) (s : State) : exec (.vrsumu d a p y) s = execVrsumu d a p y s := rfl
theorem exec_vrmin (d : Reg) (a : Reg) (p : Fin 8) (y : BitVec 3) (s : State) : exec (.vrmin d a p y) s = execVrmin d a p y s := rfl
theorem exec_vrmax (d : Reg) (a : Reg) (p : Fin 8) (y : BitVec 3) (s : State) : exec (.vrmax d a p y) s = execVrmax d a p y s := rfl
theorem exec_vrminu (d : Reg) (a : Reg) (p : Fin 8) (y : BitVec 3) (s : State) : exec (.vrminu d a p y) s = execVrminu d a p y s := rfl
theorem exec_vrmaxu (d : Reg) (a : Reg) (p : Fin 8) (y : BitVec 3) (s : State) : exec (.vrmaxu d a p y) s = execVrmaxu d a p y s := rfl
theorem exec_vabs (d : Reg) (a : Reg) (p : Fin 8) (y : BitVec 3) (s : State) : exec (.vabs d a p y) s = execVabs d a p y s := rfl
theorem exec_vneg (d : Reg) (a : Reg) (p : Fin 8) (y : BitVec 3) (s : State) : exec (.vneg d a p y) s = execVneg d a p y s := rfl
theorem exec_vclz (d : Reg) (a : Reg) (p : Fin 8) (y : BitVec 3) (s : State) : exec (.vclz d a p y) s = execVclz d a p y s := rfl
theorem exec_vpopc (d : Reg) (a : Reg) (p : Fin 8) (y : BitVec 3) (s : State) : exec (.vpopc d a p y) s = execVpopc d a p y s := rfl
theorem exec_vcvt (d : Reg) (a : Reg) (b : Reg) (w : BitVec 3) (x : BitVec 3) (m : BitVec 3) (s : State) : exec (.vcvt d a b w x m) s = execVcvt d a b w x m s := rfl
theorem exec_vrcp (d : Reg) (a : Reg) (p : Fin 8) (y : BitVec 3) (s : State) : exec (.vrcp d a p y) s = execVrcp d a p y s := rfl
theorem exec_vrsqrt (d : Reg) (a : Reg) (p : Fin 8) (y : BitVec 3) (s : State) : exec (.vrsqrt d a p y) s = execVrsqrt d a p y s := rfl
theorem exec_vsqrt (d : Reg) (a : Reg) (p : Fin 8) (y : BitVec 3) (s : State) : exec (.vsqrt d a p y) s = execVsqrt d a p y s := rfl
theorem exec_vexp2 (d : Reg) (a : Reg) (p : Fin 8) (y : BitVec 3) (s : State) : exec (.vexp2 d a p y) s = execVexp2 d a p y s := rfl
theorem exec_vlog2 (d : Reg) (a : Reg) (p : Fin 8) (y : BitVec 3) (s : State) : exec (.vlog2 d a p y) s = execVlog2 d a p y s := rfl
theorem exec_vdiv (d : Reg) (a : Reg) (b : Reg) (p : Fin 8) (y : BitVec 3) (s : State) : exec (.vdiv d a b p y) s = execVdiv d a b p y s := rfl
theorem exec_vtie (d : Reg) (a : Reg) (b : Reg) (p : Fin 8) (y : BitVec 3) (s : State) : exec (.vtie d a b p y) s = execVtie d a b p y s := rfl
theorem exec_vtload (d : BitVec 1) (a : Reg) (b : Reg) (s : State) : exec (.vtload d a b) s = execVtload d a b s := rfl
theorem exec_vshuf (d : Reg) (a : Reg) (b : Reg) (p : Fin 8) (y : BitVec 3) (s : State) : exec (.vshuf d a b p y) s = execVshuf d a b p y s := rfl
theorem exec_vsplat (d : Reg) (a : Reg) (b : Reg) (p : Fin 8) (y : BitVec 3) (s : State) : exec (.vsplat d a b p y) s = execVsplat d a b p y s := rfl
theorem exec_vslidedn (d : Reg) (a : Reg) (b : Reg) (p : Fin 8) (y : BitVec 3) (s : State) : exec (.vslidedn d a b p y) s = execVslidedn d a b p y s := rfl
theorem exec_vslideup (d : Reg) (a : Reg) (b : Reg) (p : Fin 8) (y : BitVec 3) (s : State) : exec (.vslideup d a b p y) s = execVslideup d a b p y s := rfl
theorem exec_plen (d : Reg) (a : Reg) (y : BitVec 3) (s : State) : exec (.plen d a y) s = execPlen d a y s := rfl
theorem exec_pand (d : Reg) (a : Reg) (b : Reg) (p : Fin 8) (s : State) : exec (.pand d a b p) s = execPand d a b p s := rfl
theorem exec_por (d : Reg) (a : Reg) (b : Reg) (p : Fin 8) (s : State) : exec (.por d a b p) s = execPor d a b p s := rfl
theorem exec_pxor (d : Reg) (a : Reg) (b : Reg) (p : Fin 8) (s : State) : exec (.pxor d a b p) s = execPxor d a b p s := rfl
theorem exec_pandn (d : Reg) (a : Reg) (b : Reg) (p : Fin 8) (s : State) : exec (.pandn d a b p) s = execPandn d a b p s := rfl
theorem exec_pget (d : Reg) (a : Reg) (s : State) : exec (.pget d a) s = execPget d a s := rfl
theorem exec_pset (d : Reg) (a : Reg) (s : State) : exec (.pset d a) s = execPset d a s := rfl
theorem exec_pcnt (d : Reg) (a : Reg) (y : BitVec 3) (s : State) : exec (.pcnt d a y) s = execPcnt d a y s := rfl
theorem exec_trap (a : Reg) (s : State) : exec (.trap a) s = execTrap a s := rfl
theorem exec_codew (a : Reg) (b : Reg) (s : State) : exec (.codew a b) s = execCodew a b s := rfl
theorem exec_rtset (a : Reg) (b : Reg) (s : State) : exec (.rtset a b) s = execRtset a b s := rfl
theorem exec_inbhead (d : Reg) (a : Reg) (s : State) : exec (.inbhead d a) s = execInbhead d a s := rfl
theorem exec_inbrd (d : Reg) (a : Reg) (b : Reg) (s : State) : exec (.inbrd d a b) s = execInbrd d a b s := rfl
theorem exec_inbfree (a : Reg) (b : Reg) (s : State) : exec (.inbfree a b) s = execInbfree a b s := rfl
theorem exec_fbstat (d : Reg) (a : Reg) (s : State) : exec (.fbstat d a) s = execFbstat d a s := rfl
theorem exec_fbread (d : Reg) (a : Reg) (b : Reg) (s : State) : exec (.fbread d a b) s = execFbread d a b s := rfl
theorem exec_fbclr (a : Reg) (b : Reg) (s : State) : exec (.fbclr a b) s = execFbclr a b s := rfl
theorem exec_replayall (a : Reg) (s : State) : exec (.replayall a) s = execReplayall a s := rfl
theorem exec_tlbinv (a : Reg) (b : Reg) (s : State) : exec (.tlbinv a b) s = execTlbinv a b s := rfl
theorem exec_sgload (a : Reg) (b : Reg) (s : State) : exec (.sgload a b) s = execSgload a b s := rfl
theorem exec_keyw (a : Reg) (b : Reg) (s : State) : exec (.keyw a b) s = execKeyw a b s := rfl
theorem exec_preempt (a : Reg) (b : Reg) (s : State) : exec (.preempt a b) s = execPreempt a b s := rfl
theorem exec_ctxrest (d : Reg) (a : Reg) (s : State) : exec (.ctxrest d a) s = execCtxrest d a s := rfl
theorem exec_bncset (d : Reg) (a : Reg) (b : Reg) (s : State) : exec (.bncset d a b) s = execBncset d a b s := rfl
theorem exec_bncclr (a : Reg) (s : State) : exec (.bncclr a) s = execBncclr a s := rfl
theorem exec_dbgrd (d : Reg) (a : Reg) (b : Reg) (s : State) : exec (.dbgrd d a b) s = execDbgrd d a b s := rfl
theorem exec_dbgwr (a : Reg) (b : Reg) (s : State) : exec (.dbgwr a b) s = execDbgwr a b s := rfl
theorem exec_dbgstep (a : Reg) (s : State) : exec (.dbgstep a) s = execDbgstep a s := rfl
theorem exec_opset (d : Reg) (a : Reg) (b : Reg) (s : State) : exec (.opset d a b) s = execOpset d a b s := rfl
theorem exec_rowq (d : Reg) (a : Reg) (b : Reg) (s : State) : exec (.rowq d a b) s = execRowq d a b s := rfl
theorem exec_cMv (d : Reg) (a : Reg) (s : State) : exec (.cMv d a) s = execCMv d a s := rfl
theorem exec_cAdd (d : Reg) (a : Reg) (s : State) : exec (.cAdd d a) s = execCAdd d a s := rfl
theorem exec_cSub (d : Reg) (a : Reg) (s : State) : exec (.cSub d a) s = execCSub d a s := rfl
theorem exec_cAnd (d : Reg) (a : Reg) (s : State) : exec (.cAnd d a) s = execCAnd d a s := rfl
theorem exec_cOr (d : Reg) (a : Reg) (s : State) : exec (.cOr d a) s = execCOr d a s := rfl
theorem exec_cXor (d : Reg) (a : Reg) (s : State) : exec (.cXor d a) s = execCXor d a s := rfl
theorem exec_cAddi (d : Reg) (imm : BitVec 5) (s : State) : exec (.cAddi d imm) s = execCAddi d imm s := rfl
theorem exec_cLi (d : Reg) (imm : BitVec 5) (s : State) : exec (.cLi d imm) s = execCLi d imm s := rfl
theorem exec_cSlli (d : Reg) (imm : BitVec 5) (s : State) : exec (.cSlli d imm) s = execCSlli d imm s := rfl
theorem exec_cSrli (d : Reg) (imm : BitVec 5) (s : State) : exec (.cSrli d imm) s = execCSrli d imm s := rfl
theorem exec_cSrai (d : Reg) (imm : BitVec 5) (s : State) : exec (.cSrai d imm) s = execCSrai d imm s := rfl
theorem exec_cLdl (d : Reg) (a : Reg) (s : State) : exec (.cLdl d a) s = execCLdl d a s := rfl
theorem exec_cStl (d : Reg) (a : Reg) (s : State) : exec (.cStl d a) s = execCStl d a s := rfl
theorem exec_cBnez (d : Reg) (imm : BitVec 5) (s : State) : exec (.cBnez d imm) s = execCBnez d imm s := rfl
theorem exec_cJreg (a : Reg) (s : State) : exec (.cJreg a) s = execCJreg a s := rfl
theorem exec_lexit (s : State) : exec .lexit s = execLexit s := rfl
theorem exec_unfollow (s : State) : exec .unfollow s = execUnfollow s := rfl
theorem exec_eret (s : State) : exec .eret s = execEret s := rfl
theorem exec_bkpt (s : State) : exec .bkpt s = execBkpt s := rfl
theorem exec_halt (s : State) : exec .halt s = execHalt s := rfl
theorem exec_resume (s : State) : exec .resume s = execResume s := rfl
theorem exec_cEndtask (s : State) : exec .cEndtask s = execCEndtask s := rfl
theorem exec_messageAdmission (s : State) : exec .messageAdmission s = execMessageAdmission s := rfl
theorem exec_overflowRoutineStart (s : State) : exec .overflowRoutineStart s = execOverflowRoutineStart s := rfl
theorem exec_dispatch (s : State) : exec .dispatch s = execDispatch s := rfl
theorem exec_unboundTrap (s : State) : exec .unboundTrap s = execUnboundTrap s := rfl
theorem exec_rload (s : State) : exec .rload s = execRload s := rfl
theorem exec_rstore (s : State) : exec .rstore s = execRstore s := rfl
theorem exec_ramo (s : State) : exec .ramo s = execRamo s := rfl
theorem exec_lreply (s : State) : exec .lreply s = execLreply s := rfl
theorem exec_nack (s : State) : exec .nack s = execNack s := rfl
theorem exec_marker (s : State) : exec .marker s = execMarker s := rfl
theorem exec_slotret (s : State) : exec .slotret s = execSlotret s := rfl
theorem exec_drain (s : State) : exec .drain s = execDrain s := rfl
theorem exec_half (s : State) : exec .half s = execHalf s := rfl
theorem exec_trailer (s : State) : exec .trailer s = execTrailer s := rfl
theorem exec_ack (s : State) : exec .ack s = execAck s := rfl
theorem exec_mxcmd (s : State) : exec .mxcmd s = execMxcmd s := rfl
theorem exec_stageMessage (s : State) : exec .stageMessage s = execStageMessage s := rfl
theorem exec_reservedClassDiscard (s : State) : exec .reservedClassDiscard s = execReservedClassDiscard s := rfl
theorem exec_liveUpdate (s : State) : exec .liveUpdate s = execLiveUpdate s := rfl
theorem exec_joinChildUpdate (s : State) : exec .joinChildUpdate s = execJoinChildUpdate s := rfl
theorem exec_joinCloseUpdate (s : State) : exec .joinCloseUpdate s = execJoinCloseUpdate s := rfl
theorem exec_cancelPropagate (s : State) : exec .cancelPropagate s = execCancelPropagate s := rfl
theorem exec_dlineExpiry (s : State) : exec .dlineExpiry s = execDlineExpiry s := rfl
theorem exec_forcedSave (s : State) : exec .forcedSave s = execForcedSave s := rfl
theorem exec_nearPlacement (s : State) : exec .nearPlacement s = execNearPlacement s := rfl
theorem exec_nearQueueTake (s : State) : exec .nearQueueTake s = execNearQueueTake s := rfl
theorem exec_stealRequest (s : State) : exec .stealRequest s = execStealRequest s := rfl
theorem exec_stealVictimReply (s : State) : exec .stealVictimReply s = execStealVictimReply s := rfl
theorem exec_stealBackoffExpiry (s : State) : exec .stealBackoffExpiry s = execStealBackoffExpiry s := rfl
theorem exec_followEngage (s : State) : exec .followEngage s = execFollowEngage s := rfl
theorem exec_resultReturn (s : State) : exec .resultReturn s = execResultReturn s := rfl
theorem exec_homeAccess (s : State) : exec .homeAccess s = execHomeAccess s := rfl
theorem exec_phaseUpdateAtHome (s : State) : exec .phaseUpdateAtHome s = execPhaseUpdateAtHome s := rfl
theorem exec_phwaitResolve (s : State) : exec .phwaitResolve s = execPhwaitResolve s := rfl
theorem exec_sliceWalk (s : State) : exec .sliceWalk s = execSliceWalk s := rfl
theorem exec_missPortEntry (s : State) : exec .missPortEntry s = execMissPortEntry s := rfl
theorem exec_xferStart (s : State) : exec .xferStart s = execXferStart s := rfl
theorem exec_xferRowCopy (s : State) : exec .xferRowCopy s = execXferRowCopy s := rfl
theorem exec_xferCompletion (s : State) : exec .xferCompletion s = execXferCompletion s := rfl
theorem exec_xferRestart (s : State) : exec .xferRestart s = execXferRestart s := rfl
theorem exec_checkRefetch (s : State) : exec .checkRefetch s = execCheckRefetch s := rfl
theorem exec_hardwareFaultKill (s : State) : exec .hardwareFaultKill s = execHardwareFaultKill s := rfl
theorem exec_trapEntry (s : State) : exec .trapEntry s = execTrapEntry s := rfl
theorem exec_bounceReceive (s : State) : exec .bounceReceive s = execBounceReceive s := rfl
theorem exec_matrixRequest (s : State) : exec .matrixRequest s = execMatrixRequest s := rfl
theorem exec_aliasTableBuild (s : State) : exec .aliasTableBuild s = execAliasTableBuild s := rfl
theorem exec_matrixRestart (s : State) : exec .matrixRestart s = execMatrixRestart s := rfl
theorem exec_matrixCompletion (s : State) : exec .matrixCompletion s = execMatrixCompletion s := rfl
theorem exec_tileOwnershipTake (s : State) : exec .tileOwnershipTake s = execTileOwnershipTake s := rfl
theorem exec_messageArrival (s : State) : exec .messageArrival s = execMessageArrival s := rfl
theorem exec_slotReturnResend (s : State) : exec .slotReturnResend s = execSlotReturnResend s := rfl
theorem exec_retransmitTimeout (s : State) : exec .retransmitTimeout s = execRetransmitTimeout s := rfl
theorem exec_nackResend (s : State) : exec .nackResend s = execNackResend s := rfl
theorem exec_flowRecordRelease (s : State) : exec .flowRecordRelease s = execFlowRecordRelease s := rfl
theorem exec_seraiSlotRelease (s : State) : exec .seraiSlotRelease s = execSeraiSlotRelease s := rfl
theorem exec_roundTick (s : State) : exec .roundTick s = execRoundTick s := rfl
theorem exec_markerResend (s : State) : exec .markerResend s = execMarkerResend s := rfl
theorem exec_portRelock (s : State) : exec .portRelock s = execPortRelock s := rfl
theorem exec_reachWrite (s : State) : exec .reachWrite s = execReachWrite s := rfl
theorem exec_rndsetWrite (s : State) : exec .rndsetWrite s = execRndsetWrite s := rfl
theorem exec_wavelengthPark (s : State) : exec .wavelengthPark s = execWavelengthPark s := rfl
theorem exec_wavelengthWake (s : State) : exec .wavelengthWake s = execWavelengthWake s := rfl
theorem exec_wakeDone (s : State) : exec .wakeDone s = execWakeDone s := rfl
theorem exec_mixOperationApply (s : State) : exec .mixOperationApply s = execMixOperationApply s := rfl
theorem exec_waybillDeadline (s : State) : exec .waybillDeadline s = execWaybillDeadline s := rfl
theorem exec_engineNackResend (s : State) : exec .engineNackResend s = execEngineNackResend s := rfl
theorem exec_gqPushArrival (s : State) : exec .gqPushArrival s = execGqPushArrival s := rfl
theorem exec_gqPopServe (s : State) : exec .gqPopServe s = execGqPopServe s := rfl
theorem exec_stageRoundStart (s : State) : exec .stageRoundStart s = execStageRoundStart s := rfl
theorem exec_stageFreeEvaluate (s : State) : exec .stageFreeEvaluate s = execStageFreeEvaluate s := rfl
theorem exec_stageBubbleTimer (s : State) : exec .stageBubbleTimer s = execStageBubbleTimer s := rfl
theorem exec_opStep (s : State) : exec .opStep s = execOpStep s := rfl
theorem exec_rowCompaction (s : State) : exec .rowCompaction s = execRowCompaction s := rfl
theorem exec_thermalMigration (s : State) : exec .thermalMigration s = execThermalMigration s := rfl
theorem exec_thermalTrip (s : State) : exec .thermalTrip s = execThermalTrip s := rfl
theorem exec_currentGovernor (s : State) : exec .currentGovernor s = execCurrentGovernor s := rfl
theorem exec_ballastDraw (s : State) : exec .ballastDraw s = execBallastDraw s := rfl
theorem exec_doorbell (s : State) : exec .doorbell s = execDoorbell s := rfl
theorem exec_doorbellPost (s : State) : exec .doorbellPost s = execDoorbellPost s := rfl
theorem exec_hostRegisterWrite (s : State) : exec .hostRegisterWrite s = execHostRegisterWrite s := rfl
theorem exec_bar2InboundWrite (s : State) : exec .bar2InboundWrite s = execBar2InboundWrite s := rfl
theorem exec_jobStart (s : State) : exec .jobStart s = execJobStart s := rfl
theorem exec_nodeStart (s : State) : exec .nodeStart s = execNodeStart s := rfl
theorem exec_mappingValidDelivery (s : State) : exec .mappingValidDelivery s = execMappingValidDelivery s := rfl
theorem exec_ckdesc (s : State) : exec .ckdesc s = execCkdesc s := rfl
theorem exec_protectedWriteCopy (s : State) : exec .protectedWriteCopy s = execProtectedWriteCopy s := rfl
theorem exec_checkpointCompletion (s : State) : exec .checkpointCompletion s = execCheckpointCompletion s := rfl
theorem exec_reset (s : State) : exec .reset s = execReset s := rfl
theorem exec_getMeasurements (s : State) : exec .getMeasurements s = execGetMeasurements s := rfl
theorem exec_challenge (s : State) : exec .challenge s = execChallenge s := rfl
theorem exec_keyExchange (s : State) : exec .keyExchange s = execKeyExchange s := rfl
theorem exec_readingFallsBelowLimit (s : State) : exec .readingFallsBelowLimit s = execReadingFallsBelowLimit s := rfl
theorem exec_partitionTableAccept (s : State) : exec .partitionTableAccept s = execPartitionTableAccept s := rfl

end Sys2Proof.Machine
end

