-- ==== Sys2Proof/Laws/Memory.lean ====
section
/-! SUPPORT. The laws of memory: a read after a write, bytes a write leaves alone, and that every write keeps the canonical
form. -/
namespace Sys2Proof.Machine

/-! ### Canonical form -/

theorem Memory.sortedFrom_le {lo hi : Nat} {m : List Host.Cell} (h : Memory.sortedFrom hi m = true) (hl : lo ≤ hi) :
    Memory.sortedFrom lo m = true := by
  cases m with
  | nil => rfl
  | cons e r => simp only [Memory.sortedFrom, Bool.and_eq_true, decide_eq_true_eq] at h ⊢; exact ⟨⟨by omega, h.1.2⟩, h.2⟩

/-- Below the first listed address every byte reads as an unlisted one. -/
theorem Memory.get_below {lo k : Nat} {m : List Host.Cell} (h : Memory.sortedFrom lo m = true) (hk : k < lo) :
    Memory.get m k = Memory.unlisted := by
  cases m with
  | nil => rfl
  | cons e r =>
    simp only [Memory.sortedFrom, Bool.and_eq_true, decide_eq_true_eq] at h
    simp only [Memory.get]; rw [if_neg (by omega), if_pos (by omega)]

theorem Memory.set_sorted {lo k : Nat} {m : List Host.Cell} (v : Byte) (h : Memory.sortedFrom lo m = true) (hk : lo ≤ k) :
    Memory.sortedFrom lo (Memory.set m k v) = true := by
  induction m generalizing lo with
  | nil => by_cases hv : v = Memory.unlisted <;> simp [Memory.set, hv, Memory.sortedFrom, hk]
  | cons e r ih =>
    obtain ⟨a, b⟩ := e
    have h' := h
    simp only [Memory.sortedFrom, Bool.and_eq_true, decide_eq_true_eq] at h
    obtain ⟨⟨h1, h2⟩, h3⟩ := h
    simp only [Memory.set]
    by_cases hka : k < a
    · rw [if_pos hka]
      by_cases hv : v = Memory.unlisted
      · rw [if_pos hv]; exact h'
      · rw [if_neg hv]; simp [Memory.sortedFrom, hk, hv, h3, h2]; omega
    · rw [if_neg hka]
      by_cases he : k = a
      · rw [if_pos he]; subst he
        by_cases hv : v = Memory.unlisted
        · rw [if_pos hv]; exact sortedFrom_le h3 (by omega)
        · rw [if_neg hv]; simp [Memory.sortedFrom, hk, hv, h3]
      · rw [if_neg he]
        have := ih h3 (by omega)
        simp [Memory.sortedFrom, h1, this, h2]

/-- Writing one byte keeps the canonical form. -/
theorem Memory.wf_set {m : List Host.Cell} (k : Nat) (v : Byte) (h : Memory.wf m = true) : Memory.wf (Memory.set m k v) = true :=
  set_sorted v h (Nat.zero_le _)

/-- Writing a number keeps the canonical form. -/
theorem Memory.wf_write {m : List Host.Cell} (k n x : Nat) (h : Memory.wf m = true) : Memory.wf (Memory.write m k n x) = true := by
  induction n generalizing m k x with
  | zero => exact h
  | succ n ih => exact ih _ _ (wf_set _ _ h)

/-- Writing the bytes under a mask keeps the canonical form. -/
theorem Memory.wf_writeMasked {m : List Host.Cell} (k mask n x : Nat) (h : Memory.wf m = true) :
    Memory.wf (Memory.writeMasked m k mask n x) = true := by
  induction n generalizing m k mask x with
  | zero => exact h
  | succ n ih =>
    simp only [Memory.writeMasked]
    split
    · exact ih _ _ _ (wf_set _ _ h)
    · exact ih _ _ _ h

/-! ### Reads after writes -/

theorem Memory.get_set_sorted {lo : Nat} {m : List Host.Cell} (k j : Nat) (v : Byte) (h : Memory.sortedFrom lo m = true) :
    Memory.get (Memory.set m k v) j = if j = k then v else Memory.get m j := by
  induction m generalizing lo with
  | nil =>
    by_cases hv : v = Memory.unlisted
    · subst hv; simp [Memory.set, Memory.get]
    · by_cases hj : j = k
      · subst hj; simp [Memory.set, hv, Memory.get]
      · simp [Memory.set, hv, Memory.get, hj, Ne.symm hj]
  | cons e r ih =>
    obtain ⟨a, b⟩ := e
    simp only [Memory.sortedFrom, Bool.and_eq_true, decide_eq_true_eq] at h
    obtain ⟨⟨h1, h2⟩, h3⟩ := h
    have low : ∀ i, i ≤ a → i ≠ a → Memory.get r i = Memory.unlisted := fun i hi _ => get_below h3 (by omega)
    simp only [Memory.set]
    by_cases hka : k < a
    · rw [if_pos hka]
      by_cases hv : v = Memory.unlisted
      · rw [if_pos hv]; subst hv
        by_cases hj : j = k
        · subst hj; simp [Memory.get, hka, Nat.ne_of_gt hka]
        · simp [hj]
      · rw [if_neg hv]
        by_cases hj : j = k
        · subst hj; simp [Memory.get]
        · by_cases hjk : j < k
          · simp [Memory.get, hj, Ne.symm hj, hjk, Nat.lt_trans hjk hka, show a ≠ j by omega]
          · simp [Memory.get, hj, Ne.symm hj, hjk]
    · rw [if_neg hka]
      by_cases he : k = a
      · rw [if_pos he]; subst he
        by_cases hv : v = Memory.unlisted
        · rw [if_pos hv]; subst hv
          by_cases hj : j = k
          · subst hj; simp [get_below h3]
          · by_cases hjk : j < k
            · simp [Memory.get, hj, Ne.symm hj, hjk, low j (by omega) hj]
            · simp [Memory.get, hj, Ne.symm hj, hjk]
        · rw [if_neg hv]
          by_cases hj : j = k
          · subst hj; simp [Memory.get]
          · simp [Memory.get, hj, Ne.symm hj]
      · rw [if_neg he]
        simp only [Memory.get]
        by_cases hja : a = j
        · subst hja; simp [Ne.symm he]
        · rw [if_neg hja, if_neg hja]
          by_cases hj : j < a
          · simp [hj, show j ≠ k by omega]
          · simp [hj, ih h3]

/-- The byte read after one byte is written. -/
theorem Memory.get_set {m : List Host.Cell} (k j : Nat) (v : Byte) (h : Memory.wf m = true) :
    Memory.get (Memory.set m k v) j = if j = k then v else Memory.get m j := get_set_sorted k j v h

/-- Under the mask the bytes of the number, and every other byte as it was. -/
theorem Memory.get_writeMasked {m : List Host.Cell} (k mask n x j : Nat) (h : Memory.wf m = true) :
    Memory.get (Memory.writeMasked m k mask n x) j =
      if k ≤ j ∧ j < k + n ∧ mask.testBit (j - k) = true then BitVec.ofNat 8 (x / 256 ^ (j - k)) else Memory.get m j := by
  induction n generalizing m k mask x with
  | zero => simp [Memory.writeMasked]; omega
  | succ n ih =>
    simp only [Memory.writeMasked]
    have hb : mask.testBit 0 = decide (mask % 2 = 1) := by simp [Nat.testBit_zero]
    have step : ∀ i, k + 1 ≤ j → i = j - (k + 1) → mask.testBit (j - k) = (mask / 2).testBit i ∧ x / 256 ^ (j - k) = x / 256 / 256 ^ i := by
      intro i h1 h2
      have e : j - k = i + 1 := by omega
      rw [e, Nat.testBit_succ, Nat.pow_succ, Nat.mul_comm, ← Nat.div_div_eq_div_mul]; exact ⟨rfl, rfl⟩
    have key : ∀ m', Memory.wf m' = true →
        (Memory.get m' j = if j = k ∧ mask % 2 = 1 then BitVec.ofNat 8 x else Memory.get m j) →
        Memory.get (Memory.writeMasked m' (k + 1) (mask / 2) n (x / 256)) j =
          if k ≤ j ∧ j < k + (n + 1) ∧ mask.testBit (j - k) = true then BitVec.ofNat 8 (x / 256 ^ (j - k)) else Memory.get m j := by
      intro m' hm hg
      rw [ih _ _ _ hm, hg]
      by_cases hj : k + 1 ≤ j
      · obtain ⟨s1, s2⟩ := step _ hj rfl
        rw [s1, s2]
        by_cases hc : k + 1 ≤ j ∧ j < k + 1 + n ∧ (mask / 2).testBit (j - (k + 1)) = true
        · rw [if_pos hc, if_pos ⟨by omega, by omega, hc.2.2⟩]
        · rw [if_neg hc, if_neg (show ¬ (j = k ∧ mask % 2 = 1) from fun e => by omega), if_neg]
          exact fun e => hc ⟨hj, by omega, e.2.2⟩
      · rw [if_neg (show ¬ (k + 1 ≤ j ∧ j < k + 1 + n ∧ (mask / 2).testBit (j - (k + 1)) = true) from fun e => hj e.1)]
        by_cases hk : j = k
        · subst hk
          by_cases hm1 : mask % 2 = 1
          · rw [if_pos ⟨rfl, hm1⟩, if_pos ⟨by omega, by omega, by simp [hb, hm1]⟩]; simp
          · rw [if_neg (show ¬ (j = j ∧ mask % 2 = 1) from fun e => hm1 e.2), if_neg (fun e => hm1 (by simpa [hb] using e.2.2))]
        · rw [if_neg (show ¬ (j = k ∧ mask % 2 = 1) from fun e => hk e.1), if_neg (fun e => hk (by omega))]
    split
    · rename_i hm1
      refine key _ (wf_set _ _ h) ?_
      rw [get_set _ _ _ h]; simp [hm1]
    · rename_i hm1
      exact key _ h (by simp [hm1])

/-- The bytes of the number, and every other byte as it was. -/
theorem Memory.get_write {m : List Host.Cell} (k n x j : Nat) (h : Memory.wf m = true) :
    Memory.get (Memory.write m k n x) j =
      if k ≤ j ∧ j < k + n then BitVec.ofNat 8 (x / 256 ^ (j - k)) else Memory.get m j := by
  induction n generalizing m k x with
  | zero => rw [if_neg (by omega)]; rfl
  | succ n ih =>
    simp only [Memory.write]
    rw [ih _ _ (wf_set _ _ h), get_set _ _ _ h]
    by_cases hj : k + 1 ≤ j
    · by_cases hc : j < k + (n + 1)
      · have e : j - k = (j - (k + 1)) + 1 := by omega
        rw [if_pos ⟨hj, by omega⟩, if_pos ⟨by omega, hc⟩, e, Nat.pow_succ, Nat.mul_comm, ← Nat.div_div_eq_div_mul]
      · rw [if_neg (by omega), if_neg (by omega), if_neg (by omega)]
    · by_cases hk : j = k
      · subst hk; rw [if_neg (by omega), if_pos rfl, if_pos ⟨by omega, by omega⟩]; simp
      · rw [if_neg (by omega), if_neg hk, if_neg (by omega)]

/-- A number written reads back, cut to its bytes. -/
theorem Memory.read_write {m : List Host.Cell} (k n x : Nat) (h : Memory.wf m = true) :
    Memory.read (Memory.write m k n x) k n = x % 256 ^ n := by
  have bytes : ∀ (m' : List Host.Cell) (n k x : Nat), (∀ j, j < n → Memory.get m' (k + j) = BitVec.ofNat 8 (x / 256 ^ j)) →
      Memory.read m' k n = x % 256 ^ n := by
    intro m' n
    induction n with
    | zero => intro k x _; simp [Memory.read, Nat.mod_one]
    | succ n ih =>
      intro k x hg
      have h0 := hg 0 (by omega)
      simp only [Nat.add_zero, Nat.pow_zero, Nat.div_one] at h0
      rw [Memory.read, h0, ih (k + 1) (x / 256) (fun j hj => by
        have := hg (j + 1) (by omega)
        rw [Nat.pow_succ, Nat.mul_comm (256 ^ j), ← Nat.div_div_eq_div_mul] at this
        rw [← this]; congr 1; omega)]
      rw [BitVec.toNat_ofNat, show 256 ^ (n + 1) = 256 * 256 ^ n from by rw [Nat.pow_succ, Nat.mul_comm], Nat.mod_mul]
  exact bytes _ n k x fun j hj => by rw [get_write _ _ _ _ h, if_pos ⟨by omega, by omega⟩]; congr 2; congr 1; omega

/-- A write of `n` bytes is what the statements call `Stored`. -/
theorem Memory.stored_write {m : List Host.Cell} (k n x : Nat) (h : Memory.wf m = true) : Stored m (Memory.write m k n x) k n x :=
  ⟨fun j hj => by rw [get_write _ _ _ _ h, if_pos ⟨by omega, by omega⟩]; congr 2; congr 1; omega,
   fun b hb => by rw [get_write _ _ _ _ h, if_neg (by omega)]⟩

/-- A write under a full mask is a write. -/
theorem Memory.stored_writeMasked {m : List Host.Cell} (k mask n x : Nat) (h : Memory.wf m = true)
    (hm : ∀ j, j < n → mask.testBit j = true) : Stored m (Memory.writeMasked m k mask n x) k n x :=
  ⟨fun j hj => by
    rw [get_writeMasked _ _ _ _ _ h, if_pos ⟨by omega, by omega, by rw [Nat.add_sub_cancel_left]; exact hm j hj⟩, Nat.add_sub_cancel_left],
   fun b hb => by rw [get_writeMasked _ _ _ _ _ h, if_neg (by omega)]⟩

/-! ### The memories of the machine -/

/-- A scratchpad write keeps both memories canonical. -/
theorem State.padWrite_ok {s : State} (c a n x : Nat) (h : s.MemoryOk) : (s.padWrite c a n x).MemoryOk :=
  ⟨h.1, Memory.wf_write _ _ _ h.2⟩

@[simp] theorem State.copyFrame_hbm (s : State) (f : Nat) : (s.copyFrame f).hbm = s.hbm := by
  simp only [State.copyFrame, State.hostPut]; repeat' split <;> try rfl
@[simp] theorem State.copyFrame_pad (s : State) (f : Nat) : (s.copyFrame f).pad = s.pad := by
  simp only [State.copyFrame, State.hostPut]; repeat' split <;> try rfl

@[simp] theorem State.touchLine_hbm (s : State) (l : Nat) : (s.touchLine l).hbm = s.hbm := by
  simp only [State.touchLine]; split <;> split <;> simp
@[simp] theorem State.touchLine_pad (s : State) (l : Nat) : (s.touchLine l).pad = s.pad := by
  simp only [State.touchLine]; split <;> split <;> simp

/-- What one byte of HBM written does to the memory: the byte under key 0, else the line's whole ciphertext. -/
theorem State.hbmSetByte_hbm (s : State) (key a : Nat) (v : Byte) :
    (s.hbmSetByte key a v).hbm = Memory.set s.hbm a v ∨ ∃ n raw, (s.hbmSetByte key a v).hbm = Memory.write s.hbm (a / 128 * 128) n raw := by
  simp only [State.hbmSetByte]
  split
  · exact .inl (by rw [State.touchLine_hbm])
  · exact .inr ⟨128, _, by simp only [State.touchLine_hbm]; rfl⟩

@[simp] theorem State.hbmSetByte_pad (s : State) (key a : Nat) (v : Byte) : (s.hbmSetByte key a v).pad = s.pad := by
  simp only [State.hbmSetByte]
  split <;> simp

/-- One byte of HBM written keeps both memories canonical, whatever the line's key. -/
theorem State.hbmSetByte_ok {s : State} (key a : Nat) (v : Byte) (h : s.MemoryOk) : (s.hbmSetByte key a v).MemoryOk := by
  refine ⟨?_, by rw [hbmSetByte_pad]; exact h.2⟩
  obtain e | ⟨n, raw, e⟩ := hbmSetByte_hbm s key a v
  · rw [e]; exact Memory.wf_set _ _ h.1
  · rw [e]; exact Memory.wf_write _ _ _ h.1

/-- Writes of HBM bytes under a mask keep both memories canonical. -/
theorem State.hbmWriteMasked_ok {s : State} (key a mask n x : Nat) (h : s.MemoryOk) : (s.hbmWriteMasked key a mask n x).MemoryOk := by
  induction n generalizing s a mask x with
  | zero => exact h
  | succ n ih =>
    unfold State.hbmWriteMasked
    split
    · exact ih _ _ _ (hbmSetByte_ok _ _ _ h)
    · exact ih _ _ _ h

/-- A write of the HBM keeps both memories canonical. -/
theorem State.hbmWrite_ok {s : State} (key a n x : Nat) (h : s.MemoryOk) : (s.hbmWrite key a n x).MemoryOk :=
  hbmWriteMasked_ok key a (2 ^ n - 1) n x h

end Sys2Proof.Machine
end

