-- ==== Sys2Proof/Laws/State.lean ====
section
/-! SUPPORT. What each update of State leaves alone: one lemma per field per update. -/
namespace Sys2Proof.Machine

/-! ### `State.setCell` -/

@[simp] theorem State.setCell_now (s : State) (n : Nat) (c : Cell) : (s.setCell n c).now = s.now := rfl
@[simp] theorem State.setCell_agenda (s : State) (n : Nat) (c : Cell) : (s.setCell n c).agenda = s.agenda := rfl
@[simp] theorem State.setCell_turns (s : State) (n : Nat) (c : Cell) : (s.setCell n c).turns = s.turns := rfl
@[simp] theorem State.setCell_delays (s : State) (n : Nat) (c : Cell) : (s.setCell n c).delays = s.delays := rfl
@[simp] theorem State.setCell_late (s : State) (n : Nat) (c : Cell) : (s.setCell n c).late = s.late := rfl
@[simp] theorem State.setCell_free (s : State) (n : Nat) (c : Cell) : (s.setCell n c).free = s.free := rfl
@[simp] theorem State.setCell_nextId (s : State) (n : Nat) (c : Cell) : (s.setCell n c).nextId = s.nextId := rfl
@[simp] theorem State.setCell_outCap (s : State) (n : Nat) (c : Cell) : (s.setCell n c).outCap = s.outCap := rfl
@[simp] theorem State.setCell_hbm (s : State) (n : Nat) (c : Cell) : (s.setCell n c).hbm = s.hbm := rfl
@[simp] theorem State.setCell_pad (s : State) (n : Nat) (c : Cell) : (s.setCell n c).pad = s.pad := rfl
@[simp] theorem State.setCell_badHbm (s : State) (n : Nat) (c : Cell) : (s.setCell n c).badHbm = s.badHbm := rfl
@[simp] theorem State.setCell_badPad (s : State) (n : Nat) (c : Cell) : (s.setCell n c).badPad = s.badPad := rfl
@[simp] theorem State.setCell_lineKeys (s : State) (n : Nat) (c : Cell) : (s.setCell n c).lineKeys = s.lineKeys := rfl
@[simp] theorem State.setCell_keys (s : State) (n : Nat) (c : Cell) : (s.setCell n c).keys = s.keys := rfl
@[simp] theorem State.setCell_tags (s : State) (n : Nat) (c : Cell) : (s.setCell n c).tags = s.tags := rfl
@[simp] theorem State.setCell_l2p (s : State) (n : Nat) (c : Cell) : (s.setCell n c).l2p = s.l2p := rfl
@[simp] theorem State.setCell_launches (s : State) (n : Nat) (c : Cell) : (s.setCell n c).launches = s.launches := rfl
@[simp] theorem State.setCell_sites (s : State) (n : Nat) (c : Cell) : (s.setCell n c).sites = s.sites := rfl
@[simp] theorem State.setCell_devidx (s : State) (n : Nat) (c : Cell) : (s.setCell n c).devidx = s.devidx := rfl
@[simp] theorem State.setCell_xroot (s : State) (n : Nat) (c : Cell) : (s.setCell n c).xroot = s.xroot := rfl
@[simp] theorem State.setCell_fnroute (s : State) (n : Nat) (c : Cell) : (s.setCell n c).fnroute = s.fnroute := rfl
@[simp] theorem State.setCell_patterns (s : State) (n : Nat) (c : Cell) : (s.setCell n c).patterns = s.patterns := rfl
@[simp] theorem State.setCell_inflight (s : State) (n : Nat) (c : Cell) : (s.setCell n c).inflight = s.inflight := rfl
@[simp] theorem State.setCell_records (s : State) (n : Nat) (c : Cell) : (s.setCell n c).records = s.records := rfl
@[simp] theorem State.setCell_joins (s : State) (n : Nat) (c : Cell) : (s.setCell n c).joins = s.joins := rfl
@[simp] theorem State.setCell_posts (s : State) (n : Nat) (c : Cell) : (s.setCell n c).posts = s.posts := rfl
@[simp] theorem State.setCell_cancels (s : State) (n : Nat) (c : Cell) : (s.setCell n c).cancels = s.cancels := rfl
@[simp] theorem State.setCell_unstarted (s : State) (n : Nat) (c : Cell) : (s.setCell n c).unstarted = s.unstarted := rfl
@[simp] theorem State.setCell_near (s : State) (n : Nat) (c : Cell) : (s.setCell n c).near = s.near := rfl
@[simp] theorem State.setCell_l1 (s : State) (n : Nat) (c : Cell) : (s.setCell n c).l1 = s.l1 := rfl
@[simp] theorem State.setCell_slices (s : State) (n : Nat) (c : Cell) : (s.setCell n c).slices = s.slices := rfl
@[simp] theorem State.setCell_ports (s : State) (n : Nat) (c : Cell) : (s.setCell n c).ports = s.ports := rfl
@[simp] theorem State.setCell_held (s : State) (n : Nat) (c : Cell) : (s.setCell n c).held = s.held := rfl
@[simp] theorem State.setCell_bounce (s : State) (n : Nat) (c : Cell) : (s.setCell n c).bounce = s.bounce := rfl
@[simp] theorem State.setCell_ringWork (s : State) (n : Nat) (c : Cell) : (s.setCell n c).ringWork = s.ringWork := rfl
@[simp] theorem State.setCell_hostOut (s : State) (n : Nat) (c : Cell) : (s.setCell n c).hostOut = s.hostOut := rfl
@[simp] theorem State.setCell_host (s : State) (n : Nat) (c : Cell) : (s.setCell n c).host = s.host := rfl
@[simp] theorem State.setCell_stopped (s : State) (n : Nat) (c : Cell) : (s.setCell n c).stopped = s.stopped := rfl
@[simp] theorem State.setCell_unitOps (s : State) (n : Nat) (c : Cell) : (s.setCell n c).unitOps = s.unitOps := rfl
@[simp] theorem State.setCell_unitOpq (s : State) (n : Nat) (c : Cell) : (s.setCell n c).unitOpq = s.unitOpq := rfl
@[simp] theorem State.setCell_thermlim (s : State) (n : Nat) (c : Cell) : (s.setCell n c).thermlim = s.thermlim := rfl
@[simp] theorem State.setCell_governor (s : State) (n : Nat) (c : Cell) : (s.setCell n c).governor = s.governor := rfl
@[simp] theorem State.setCell_boot (s : State) (n : Nat) (c : Cell) : (s.setCell n c).boot = s.boot := rfl
@[simp] theorem State.setCell_savedTasks (s : State) (n : Nat) (c : Cell) : (s.setCell n c).savedTasks = s.savedTasks := rfl
@[simp] theorem State.setCell_restores (s : State) (n : Nat) (c : Cell) : (s.setCell n c).restores = s.restores := rfl
@[simp] theorem State.setCell_transfers (s : State) (n : Nat) (c : Cell) : (s.setCell n c).transfers = s.transfers := rfl
@[simp] theorem State.setCell_units (s : State) (n : Nat) (c : Cell) : (s.setCell n c).units = s.units := rfl
@[simp] theorem State.setCell_mrems (s : State) (n : Nat) (c : Cell) : (s.setCell n c).mrems = s.mrems := rfl
@[simp] theorem State.setCell_jobs (s : State) (n : Nat) (c : Cell) : (s.setCell n c).jobs = s.jobs := rfl
@[simp] theorem State.setCell_dirty (s : State) (n : Nat) (c : Cell) : (s.setCell n c).dirty = s.dirty := rfl
@[simp] theorem State.setCell_cut (s : State) (n : Nat) (c : Cell) : (s.setCell n c).cut = s.cut := rfl
@[simp] theorem State.setCell_stage (s : State) (n : Nat) (c : Cell) : (s.setCell n c).stage = s.stage := rfl
@[simp] theorem State.setCell_groups (s : State) (n : Nat) (c : Cell) : (s.setCell n c).groups = s.groups := rfl
@[simp] theorem State.setCell_pushes (s : State) (n : Nat) (c : Cell) : (s.setCell n c).pushes = s.pushes := rfl
@[simp] theorem State.setCell_partition (s : State) (n : Nat) (c : Cell) : (s.setCell n c).partition = s.partition := rfl
@[simp] theorem State.setCell_reach (s : State) (n : Nat) (c : Cell) : (s.setCell n c).reach = s.reach := rfl
@[simp] theorem State.setCell_flows (s : State) (n : Nat) (c : Cell) : (s.setCell n c).flows = s.flows := rfl
@[simp] theorem State.setCell_serai (s : State) (n : Nat) (c : Cell) : (s.setCell n c).serai = s.serai := rfl
@[simp] theorem State.setCell_out (s : State) (n : Nat) (c : Cell) : (s.setCell n c).out = s.out := rfl
@[simp] theorem State.setCell_rounds (s : State) (n : Nat) (c : Cell) : (s.setCell n c).rounds = s.rounds := rfl
@[simp] theorem State.setCell_rndlen (s : State) (n : Nat) (c : Cell) : (s.setCell n c).rndlen = s.rndlen := rfl
@[simp] theorem State.setCell_rndset (s : State) (n : Nat) (c : Cell) : (s.setCell n c).rndset = s.rndset := rfl
@[simp] theorem State.setCell_reachva (s : State) (n : Nat) (c : Cell) : (s.setCell n c).reachva = s.reachva := rfl
@[simp] theorem State.setCell_rto (s : State) (n : Nat) (c : Cell) : (s.setCell n c).rto = s.rto := rfl
@[simp] theorem State.setCell_parkctl (s : State) (n : Nat) (c : Cell) : (s.setCell n c).parkctl = s.parkctl := rfl
@[simp] theorem State.setCell_faberr (s : State) (n : Nat) (c : Cell) : (s.setCell n c).faberr = s.faberr := rfl
@[simp] theorem State.setCell_fabports (s : State) (n : Nat) (c : Cell) : (s.setCell n c).fabports = s.fabports := rfl
@[simp] theorem State.setCell_plan (s : State) (n : Nat) (c : Cell) : (s.setCell n c).plan = s.plan := rfl
@[simp] theorem State.setCell_unrouted (s : State) (n : Nat) (c : Cell) : (s.setCell n c).unrouted = s.unrouted := rfl

/-! ### `State.modCell` -/

@[simp] theorem State.modCell_now (s : State) (n : Nat) (f : Cell → Cell) : (s.modCell n f).now = s.now := rfl
@[simp] theorem State.modCell_agenda (s : State) (n : Nat) (f : Cell → Cell) : (s.modCell n f).agenda = s.agenda := rfl
@[simp] theorem State.modCell_turns (s : State) (n : Nat) (f : Cell → Cell) : (s.modCell n f).turns = s.turns := rfl
@[simp] theorem State.modCell_delays (s : State) (n : Nat) (f : Cell → Cell) : (s.modCell n f).delays = s.delays := rfl
@[simp] theorem State.modCell_late (s : State) (n : Nat) (f : Cell → Cell) : (s.modCell n f).late = s.late := rfl
@[simp] theorem State.modCell_free (s : State) (n : Nat) (f : Cell → Cell) : (s.modCell n f).free = s.free := rfl
@[simp] theorem State.modCell_nextId (s : State) (n : Nat) (f : Cell → Cell) : (s.modCell n f).nextId = s.nextId := rfl
@[simp] theorem State.modCell_outCap (s : State) (n : Nat) (f : Cell → Cell) : (s.modCell n f).outCap = s.outCap := rfl
@[simp] theorem State.modCell_hbm (s : State) (n : Nat) (f : Cell → Cell) : (s.modCell n f).hbm = s.hbm := rfl
@[simp] theorem State.modCell_pad (s : State) (n : Nat) (f : Cell → Cell) : (s.modCell n f).pad = s.pad := rfl
@[simp] theorem State.modCell_badHbm (s : State) (n : Nat) (f : Cell → Cell) : (s.modCell n f).badHbm = s.badHbm := rfl
@[simp] theorem State.modCell_badPad (s : State) (n : Nat) (f : Cell → Cell) : (s.modCell n f).badPad = s.badPad := rfl
@[simp] theorem State.modCell_lineKeys (s : State) (n : Nat) (f : Cell → Cell) : (s.modCell n f).lineKeys = s.lineKeys := rfl
@[simp] theorem State.modCell_keys (s : State) (n : Nat) (f : Cell → Cell) : (s.modCell n f).keys = s.keys := rfl
@[simp] theorem State.modCell_tags (s : State) (n : Nat) (f : Cell → Cell) : (s.modCell n f).tags = s.tags := rfl
@[simp] theorem State.modCell_l2p (s : State) (n : Nat) (f : Cell → Cell) : (s.modCell n f).l2p = s.l2p := rfl
@[simp] theorem State.modCell_launches (s : State) (n : Nat) (f : Cell → Cell) : (s.modCell n f).launches = s.launches := rfl
@[simp] theorem State.modCell_sites (s : State) (n : Nat) (f : Cell → Cell) : (s.modCell n f).sites = s.sites := rfl
@[simp] theorem State.modCell_devidx (s : State) (n : Nat) (f : Cell → Cell) : (s.modCell n f).devidx = s.devidx := rfl
@[simp] theorem State.modCell_xroot (s : State) (n : Nat) (f : Cell → Cell) : (s.modCell n f).xroot = s.xroot := rfl
@[simp] theorem State.modCell_fnroute (s : State) (n : Nat) (f : Cell → Cell) : (s.modCell n f).fnroute = s.fnroute := rfl
@[simp] theorem State.modCell_patterns (s : State) (n : Nat) (f : Cell → Cell) : (s.modCell n f).patterns = s.patterns := rfl
@[simp] theorem State.modCell_inflight (s : State) (n : Nat) (f : Cell → Cell) : (s.modCell n f).inflight = s.inflight := rfl
@[simp] theorem State.modCell_records (s : State) (n : Nat) (f : Cell → Cell) : (s.modCell n f).records = s.records := rfl
@[simp] theorem State.modCell_joins (s : State) (n : Nat) (f : Cell → Cell) : (s.modCell n f).joins = s.joins := rfl
@[simp] theorem State.modCell_posts (s : State) (n : Nat) (f : Cell → Cell) : (s.modCell n f).posts = s.posts := rfl
@[simp] theorem State.modCell_cancels (s : State) (n : Nat) (f : Cell → Cell) : (s.modCell n f).cancels = s.cancels := rfl
@[simp] theorem State.modCell_unstarted (s : State) (n : Nat) (f : Cell → Cell) : (s.modCell n f).unstarted = s.unstarted := rfl
@[simp] theorem State.modCell_near (s : State) (n : Nat) (f : Cell → Cell) : (s.modCell n f).near = s.near := rfl
@[simp] theorem State.modCell_l1 (s : State) (n : Nat) (f : Cell → Cell) : (s.modCell n f).l1 = s.l1 := rfl
@[simp] theorem State.modCell_slices (s : State) (n : Nat) (f : Cell → Cell) : (s.modCell n f).slices = s.slices := rfl
@[simp] theorem State.modCell_ports (s : State) (n : Nat) (f : Cell → Cell) : (s.modCell n f).ports = s.ports := rfl
@[simp] theorem State.modCell_held (s : State) (n : Nat) (f : Cell → Cell) : (s.modCell n f).held = s.held := rfl
@[simp] theorem State.modCell_bounce (s : State) (n : Nat) (f : Cell → Cell) : (s.modCell n f).bounce = s.bounce := rfl
@[simp] theorem State.modCell_ringWork (s : State) (n : Nat) (f : Cell → Cell) : (s.modCell n f).ringWork = s.ringWork := rfl
@[simp] theorem State.modCell_hostOut (s : State) (n : Nat) (f : Cell → Cell) : (s.modCell n f).hostOut = s.hostOut := rfl
@[simp] theorem State.modCell_host (s : State) (n : Nat) (f : Cell → Cell) : (s.modCell n f).host = s.host := rfl
@[simp] theorem State.modCell_stopped (s : State) (n : Nat) (f : Cell → Cell) : (s.modCell n f).stopped = s.stopped := rfl
@[simp] theorem State.modCell_unitOps (s : State) (n : Nat) (f : Cell → Cell) : (s.modCell n f).unitOps = s.unitOps := rfl
@[simp] theorem State.modCell_unitOpq (s : State) (n : Nat) (f : Cell → Cell) : (s.modCell n f).unitOpq = s.unitOpq := rfl
@[simp] theorem State.modCell_thermlim (s : State) (n : Nat) (f : Cell → Cell) : (s.modCell n f).thermlim = s.thermlim := rfl
@[simp] theorem State.modCell_governor (s : State) (n : Nat) (f : Cell → Cell) : (s.modCell n f).governor = s.governor := rfl
@[simp] theorem State.modCell_boot (s : State) (n : Nat) (f : Cell → Cell) : (s.modCell n f).boot = s.boot := rfl
@[simp] theorem State.modCell_savedTasks (s : State) (n : Nat) (f : Cell → Cell) : (s.modCell n f).savedTasks = s.savedTasks := rfl
@[simp] theorem State.modCell_restores (s : State) (n : Nat) (f : Cell → Cell) : (s.modCell n f).restores = s.restores := rfl
@[simp] theorem State.modCell_transfers (s : State) (n : Nat) (f : Cell → Cell) : (s.modCell n f).transfers = s.transfers := rfl
@[simp] theorem State.modCell_units (s : State) (n : Nat) (f : Cell → Cell) : (s.modCell n f).units = s.units := rfl
@[simp] theorem State.modCell_mrems (s : State) (n : Nat) (f : Cell → Cell) : (s.modCell n f).mrems = s.mrems := rfl
@[simp] theorem State.modCell_jobs (s : State) (n : Nat) (f : Cell → Cell) : (s.modCell n f).jobs = s.jobs := rfl
@[simp] theorem State.modCell_dirty (s : State) (n : Nat) (f : Cell → Cell) : (s.modCell n f).dirty = s.dirty := rfl
@[simp] theorem State.modCell_cut (s : State) (n : Nat) (f : Cell → Cell) : (s.modCell n f).cut = s.cut := rfl
@[simp] theorem State.modCell_stage (s : State) (n : Nat) (f : Cell → Cell) : (s.modCell n f).stage = s.stage := rfl
@[simp] theorem State.modCell_groups (s : State) (n : Nat) (f : Cell → Cell) : (s.modCell n f).groups = s.groups := rfl
@[simp] theorem State.modCell_pushes (s : State) (n : Nat) (f : Cell → Cell) : (s.modCell n f).pushes = s.pushes := rfl
@[simp] theorem State.modCell_partition (s : State) (n : Nat) (f : Cell → Cell) : (s.modCell n f).partition = s.partition := rfl
@[simp] theorem State.modCell_reach (s : State) (n : Nat) (f : Cell → Cell) : (s.modCell n f).reach = s.reach := rfl
@[simp] theorem State.modCell_flows (s : State) (n : Nat) (f : Cell → Cell) : (s.modCell n f).flows = s.flows := rfl
@[simp] theorem State.modCell_serai (s : State) (n : Nat) (f : Cell → Cell) : (s.modCell n f).serai = s.serai := rfl
@[simp] theorem State.modCell_out (s : State) (n : Nat) (f : Cell → Cell) : (s.modCell n f).out = s.out := rfl
@[simp] theorem State.modCell_rounds (s : State) (n : Nat) (f : Cell → Cell) : (s.modCell n f).rounds = s.rounds := rfl
@[simp] theorem State.modCell_rndlen (s : State) (n : Nat) (f : Cell → Cell) : (s.modCell n f).rndlen = s.rndlen := rfl
@[simp] theorem State.modCell_rndset (s : State) (n : Nat) (f : Cell → Cell) : (s.modCell n f).rndset = s.rndset := rfl
@[simp] theorem State.modCell_reachva (s : State) (n : Nat) (f : Cell → Cell) : (s.modCell n f).reachva = s.reachva := rfl
@[simp] theorem State.modCell_rto (s : State) (n : Nat) (f : Cell → Cell) : (s.modCell n f).rto = s.rto := rfl
@[simp] theorem State.modCell_parkctl (s : State) (n : Nat) (f : Cell → Cell) : (s.modCell n f).parkctl = s.parkctl := rfl
@[simp] theorem State.modCell_faberr (s : State) (n : Nat) (f : Cell → Cell) : (s.modCell n f).faberr = s.faberr := rfl
@[simp] theorem State.modCell_fabports (s : State) (n : Nat) (f : Cell → Cell) : (s.modCell n f).fabports = s.fabports := rfl
@[simp] theorem State.modCell_plan (s : State) (n : Nat) (f : Cell → Cell) : (s.modCell n f).plan = s.plan := rfl
@[simp] theorem State.modCell_unrouted (s : State) (n : Nat) (f : Cell → Cell) : (s.modCell n f).unrouted = s.unrouted := rfl

/-! ### `State.setCtx` -/

@[simp] theorem State.setCtx_now (s : State) (n k : Nat) (x : Ctx) : (s.setCtx n k x).now = s.now := rfl
@[simp] theorem State.setCtx_agenda (s : State) (n k : Nat) (x : Ctx) : (s.setCtx n k x).agenda = s.agenda := rfl
@[simp] theorem State.setCtx_turns (s : State) (n k : Nat) (x : Ctx) : (s.setCtx n k x).turns = s.turns := rfl
@[simp] theorem State.setCtx_delays (s : State) (n k : Nat) (x : Ctx) : (s.setCtx n k x).delays = s.delays := rfl
@[simp] theorem State.setCtx_late (s : State) (n k : Nat) (x : Ctx) : (s.setCtx n k x).late = s.late := rfl
@[simp] theorem State.setCtx_free (s : State) (n k : Nat) (x : Ctx) : (s.setCtx n k x).free = s.free := rfl
@[simp] theorem State.setCtx_nextId (s : State) (n k : Nat) (x : Ctx) : (s.setCtx n k x).nextId = s.nextId := rfl
@[simp] theorem State.setCtx_outCap (s : State) (n k : Nat) (x : Ctx) : (s.setCtx n k x).outCap = s.outCap := rfl
@[simp] theorem State.setCtx_hbm (s : State) (n k : Nat) (x : Ctx) : (s.setCtx n k x).hbm = s.hbm := rfl
@[simp] theorem State.setCtx_pad (s : State) (n k : Nat) (x : Ctx) : (s.setCtx n k x).pad = s.pad := rfl
@[simp] theorem State.setCtx_badHbm (s : State) (n k : Nat) (x : Ctx) : (s.setCtx n k x).badHbm = s.badHbm := rfl
@[simp] theorem State.setCtx_badPad (s : State) (n k : Nat) (x : Ctx) : (s.setCtx n k x).badPad = s.badPad := rfl
@[simp] theorem State.setCtx_lineKeys (s : State) (n k : Nat) (x : Ctx) : (s.setCtx n k x).lineKeys = s.lineKeys := rfl
@[simp] theorem State.setCtx_keys (s : State) (n k : Nat) (x : Ctx) : (s.setCtx n k x).keys = s.keys := rfl
@[simp] theorem State.setCtx_tags (s : State) (n k : Nat) (x : Ctx) : (s.setCtx n k x).tags = s.tags := rfl
@[simp] theorem State.setCtx_l2p (s : State) (n k : Nat) (x : Ctx) : (s.setCtx n k x).l2p = s.l2p := rfl
@[simp] theorem State.setCtx_launches (s : State) (n k : Nat) (x : Ctx) : (s.setCtx n k x).launches = s.launches := rfl
@[simp] theorem State.setCtx_sites (s : State) (n k : Nat) (x : Ctx) : (s.setCtx n k x).sites = s.sites := rfl
@[simp] theorem State.setCtx_devidx (s : State) (n k : Nat) (x : Ctx) : (s.setCtx n k x).devidx = s.devidx := rfl
@[simp] theorem State.setCtx_xroot (s : State) (n k : Nat) (x : Ctx) : (s.setCtx n k x).xroot = s.xroot := rfl
@[simp] theorem State.setCtx_fnroute (s : State) (n k : Nat) (x : Ctx) : (s.setCtx n k x).fnroute = s.fnroute := rfl
@[simp] theorem State.setCtx_patterns (s : State) (n k : Nat) (x : Ctx) : (s.setCtx n k x).patterns = s.patterns := rfl
@[simp] theorem State.setCtx_inflight (s : State) (n k : Nat) (x : Ctx) : (s.setCtx n k x).inflight = s.inflight := rfl
@[simp] theorem State.setCtx_records (s : State) (n k : Nat) (x : Ctx) : (s.setCtx n k x).records = s.records := rfl
@[simp] theorem State.setCtx_joins (s : State) (n k : Nat) (x : Ctx) : (s.setCtx n k x).joins = s.joins := rfl
@[simp] theorem State.setCtx_posts (s : State) (n k : Nat) (x : Ctx) : (s.setCtx n k x).posts = s.posts := rfl
@[simp] theorem State.setCtx_cancels (s : State) (n k : Nat) (x : Ctx) : (s.setCtx n k x).cancels = s.cancels := rfl
@[simp] theorem State.setCtx_unstarted (s : State) (n k : Nat) (x : Ctx) : (s.setCtx n k x).unstarted = s.unstarted := rfl
@[simp] theorem State.setCtx_near (s : State) (n k : Nat) (x : Ctx) : (s.setCtx n k x).near = s.near := rfl
@[simp] theorem State.setCtx_l1 (s : State) (n k : Nat) (x : Ctx) : (s.setCtx n k x).l1 = s.l1 := rfl
@[simp] theorem State.setCtx_slices (s : State) (n k : Nat) (x : Ctx) : (s.setCtx n k x).slices = s.slices := rfl
@[simp] theorem State.setCtx_ports (s : State) (n k : Nat) (x : Ctx) : (s.setCtx n k x).ports = s.ports := rfl
@[simp] theorem State.setCtx_held (s : State) (n k : Nat) (x : Ctx) : (s.setCtx n k x).held = s.held := rfl
@[simp] theorem State.setCtx_bounce (s : State) (n k : Nat) (x : Ctx) : (s.setCtx n k x).bounce = s.bounce := rfl
@[simp] theorem State.setCtx_ringWork (s : State) (n k : Nat) (x : Ctx) : (s.setCtx n k x).ringWork = s.ringWork := rfl
@[simp] theorem State.setCtx_hostOut (s : State) (n k : Nat) (x : Ctx) : (s.setCtx n k x).hostOut = s.hostOut := rfl
@[simp] theorem State.setCtx_host (s : State) (n k : Nat) (x : Ctx) : (s.setCtx n k x).host = s.host := rfl
@[simp] theorem State.setCtx_stopped (s : State) (n k : Nat) (x : Ctx) : (s.setCtx n k x).stopped = s.stopped := rfl
@[simp] theorem State.setCtx_unitOps (s : State) (n k : Nat) (x : Ctx) : (s.setCtx n k x).unitOps = s.unitOps := rfl
@[simp] theorem State.setCtx_unitOpq (s : State) (n k : Nat) (x : Ctx) : (s.setCtx n k x).unitOpq = s.unitOpq := rfl
@[simp] theorem State.setCtx_thermlim (s : State) (n k : Nat) (x : Ctx) : (s.setCtx n k x).thermlim = s.thermlim := rfl
@[simp] theorem State.setCtx_governor (s : State) (n k : Nat) (x : Ctx) : (s.setCtx n k x).governor = s.governor := rfl
@[simp] theorem State.setCtx_boot (s : State) (n k : Nat) (x : Ctx) : (s.setCtx n k x).boot = s.boot := rfl
@[simp] theorem State.setCtx_savedTasks (s : State) (n k : Nat) (x : Ctx) : (s.setCtx n k x).savedTasks = s.savedTasks := rfl
@[simp] theorem State.setCtx_restores (s : State) (n k : Nat) (x : Ctx) : (s.setCtx n k x).restores = s.restores := rfl
@[simp] theorem State.setCtx_transfers (s : State) (n k : Nat) (x : Ctx) : (s.setCtx n k x).transfers = s.transfers := rfl
@[simp] theorem State.setCtx_units (s : State) (n k : Nat) (x : Ctx) : (s.setCtx n k x).units = s.units := rfl
@[simp] theorem State.setCtx_mrems (s : State) (n k : Nat) (x : Ctx) : (s.setCtx n k x).mrems = s.mrems := rfl
@[simp] theorem State.setCtx_jobs (s : State) (n k : Nat) (x : Ctx) : (s.setCtx n k x).jobs = s.jobs := rfl
@[simp] theorem State.setCtx_dirty (s : State) (n k : Nat) (x : Ctx) : (s.setCtx n k x).dirty = s.dirty := rfl
@[simp] theorem State.setCtx_cut (s : State) (n k : Nat) (x : Ctx) : (s.setCtx n k x).cut = s.cut := rfl
@[simp] theorem State.setCtx_stage (s : State) (n k : Nat) (x : Ctx) : (s.setCtx n k x).stage = s.stage := rfl
@[simp] theorem State.setCtx_groups (s : State) (n k : Nat) (x : Ctx) : (s.setCtx n k x).groups = s.groups := rfl
@[simp] theorem State.setCtx_pushes (s : State) (n k : Nat) (x : Ctx) : (s.setCtx n k x).pushes = s.pushes := rfl
@[simp] theorem State.setCtx_partition (s : State) (n k : Nat) (x : Ctx) : (s.setCtx n k x).partition = s.partition := rfl
@[simp] theorem State.setCtx_reach (s : State) (n k : Nat) (x : Ctx) : (s.setCtx n k x).reach = s.reach := rfl
@[simp] theorem State.setCtx_flows (s : State) (n k : Nat) (x : Ctx) : (s.setCtx n k x).flows = s.flows := rfl
@[simp] theorem State.setCtx_serai (s : State) (n k : Nat) (x : Ctx) : (s.setCtx n k x).serai = s.serai := rfl
@[simp] theorem State.setCtx_out (s : State) (n k : Nat) (x : Ctx) : (s.setCtx n k x).out = s.out := rfl
@[simp] theorem State.setCtx_rounds (s : State) (n k : Nat) (x : Ctx) : (s.setCtx n k x).rounds = s.rounds := rfl
@[simp] theorem State.setCtx_rndlen (s : State) (n k : Nat) (x : Ctx) : (s.setCtx n k x).rndlen = s.rndlen := rfl
@[simp] theorem State.setCtx_rndset (s : State) (n k : Nat) (x : Ctx) : (s.setCtx n k x).rndset = s.rndset := rfl
@[simp] theorem State.setCtx_reachva (s : State) (n k : Nat) (x : Ctx) : (s.setCtx n k x).reachva = s.reachva := rfl
@[simp] theorem State.setCtx_rto (s : State) (n k : Nat) (x : Ctx) : (s.setCtx n k x).rto = s.rto := rfl
@[simp] theorem State.setCtx_parkctl (s : State) (n k : Nat) (x : Ctx) : (s.setCtx n k x).parkctl = s.parkctl := rfl
@[simp] theorem State.setCtx_faberr (s : State) (n k : Nat) (x : Ctx) : (s.setCtx n k x).faberr = s.faberr := rfl
@[simp] theorem State.setCtx_fabports (s : State) (n k : Nat) (x : Ctx) : (s.setCtx n k x).fabports = s.fabports := rfl
@[simp] theorem State.setCtx_plan (s : State) (n k : Nat) (x : Ctx) : (s.setCtx n k x).plan = s.plan := rfl
@[simp] theorem State.setCtx_unrouted (s : State) (n k : Nat) (x : Ctx) : (s.setCtx n k x).unrouted = s.unrouted := rfl

/-! ### `State.modCtx` -/

@[simp] theorem State.modCtx_now (s : State) (n k : Nat) (f : Ctx → Ctx) : (s.modCtx n k f).now = s.now := rfl
@[simp] theorem State.modCtx_agenda (s : State) (n k : Nat) (f : Ctx → Ctx) : (s.modCtx n k f).agenda = s.agenda := rfl
@[simp] theorem State.modCtx_turns (s : State) (n k : Nat) (f : Ctx → Ctx) : (s.modCtx n k f).turns = s.turns := rfl
@[simp] theorem State.modCtx_delays (s : State) (n k : Nat) (f : Ctx → Ctx) : (s.modCtx n k f).delays = s.delays := rfl
@[simp] theorem State.modCtx_late (s : State) (n k : Nat) (f : Ctx → Ctx) : (s.modCtx n k f).late = s.late := rfl
@[simp] theorem State.modCtx_free (s : State) (n k : Nat) (f : Ctx → Ctx) : (s.modCtx n k f).free = s.free := rfl
@[simp] theorem State.modCtx_nextId (s : State) (n k : Nat) (f : Ctx → Ctx) : (s.modCtx n k f).nextId = s.nextId := rfl
@[simp] theorem State.modCtx_outCap (s : State) (n k : Nat) (f : Ctx → Ctx) : (s.modCtx n k f).outCap = s.outCap := rfl
@[simp] theorem State.modCtx_hbm (s : State) (n k : Nat) (f : Ctx → Ctx) : (s.modCtx n k f).hbm = s.hbm := rfl
@[simp] theorem State.modCtx_pad (s : State) (n k : Nat) (f : Ctx → Ctx) : (s.modCtx n k f).pad = s.pad := rfl
@[simp] theorem State.modCtx_badHbm (s : State) (n k : Nat) (f : Ctx → Ctx) : (s.modCtx n k f).badHbm = s.badHbm := rfl
@[simp] theorem State.modCtx_badPad (s : State) (n k : Nat) (f : Ctx → Ctx) : (s.modCtx n k f).badPad = s.badPad := rfl
@[simp] theorem State.modCtx_lineKeys (s : State) (n k : Nat) (f : Ctx → Ctx) : (s.modCtx n k f).lineKeys = s.lineKeys := rfl
@[simp] theorem State.modCtx_keys (s : State) (n k : Nat) (f : Ctx → Ctx) : (s.modCtx n k f).keys = s.keys := rfl
@[simp] theorem State.modCtx_tags (s : State) (n k : Nat) (f : Ctx → Ctx) : (s.modCtx n k f).tags = s.tags := rfl
@[simp] theorem State.modCtx_l2p (s : State) (n k : Nat) (f : Ctx → Ctx) : (s.modCtx n k f).l2p = s.l2p := rfl
@[simp] theorem State.modCtx_launches (s : State) (n k : Nat) (f : Ctx → Ctx) : (s.modCtx n k f).launches = s.launches := rfl
@[simp] theorem State.modCtx_sites (s : State) (n k : Nat) (f : Ctx → Ctx) : (s.modCtx n k f).sites = s.sites := rfl
@[simp] theorem State.modCtx_devidx (s : State) (n k : Nat) (f : Ctx → Ctx) : (s.modCtx n k f).devidx = s.devidx := rfl
@[simp] theorem State.modCtx_xroot (s : State) (n k : Nat) (f : Ctx → Ctx) : (s.modCtx n k f).xroot = s.xroot := rfl
@[simp] theorem State.modCtx_fnroute (s : State) (n k : Nat) (f : Ctx → Ctx) : (s.modCtx n k f).fnroute = s.fnroute := rfl
@[simp] theorem State.modCtx_patterns (s : State) (n k : Nat) (f : Ctx → Ctx) : (s.modCtx n k f).patterns = s.patterns := rfl
@[simp] theorem State.modCtx_inflight (s : State) (n k : Nat) (f : Ctx → Ctx) : (s.modCtx n k f).inflight = s.inflight := rfl
@[simp] theorem State.modCtx_records (s : State) (n k : Nat) (f : Ctx → Ctx) : (s.modCtx n k f).records = s.records := rfl
@[simp] theorem State.modCtx_joins (s : State) (n k : Nat) (f : Ctx → Ctx) : (s.modCtx n k f).joins = s.joins := rfl
@[simp] theorem State.modCtx_posts (s : State) (n k : Nat) (f : Ctx → Ctx) : (s.modCtx n k f).posts = s.posts := rfl
@[simp] theorem State.modCtx_cancels (s : State) (n k : Nat) (f : Ctx → Ctx) : (s.modCtx n k f).cancels = s.cancels := rfl
@[simp] theorem State.modCtx_unstarted (s : State) (n k : Nat) (f : Ctx → Ctx) : (s.modCtx n k f).unstarted = s.unstarted := rfl
@[simp] theorem State.modCtx_near (s : State) (n k : Nat) (f : Ctx → Ctx) : (s.modCtx n k f).near = s.near := rfl
@[simp] theorem State.modCtx_l1 (s : State) (n k : Nat) (f : Ctx → Ctx) : (s.modCtx n k f).l1 = s.l1 := rfl
@[simp] theorem State.modCtx_slices (s : State) (n k : Nat) (f : Ctx → Ctx) : (s.modCtx n k f).slices = s.slices := rfl
@[simp] theorem State.modCtx_ports (s : State) (n k : Nat) (f : Ctx → Ctx) : (s.modCtx n k f).ports = s.ports := rfl
@[simp] theorem State.modCtx_held (s : State) (n k : Nat) (f : Ctx → Ctx) : (s.modCtx n k f).held = s.held := rfl
@[simp] theorem State.modCtx_bounce (s : State) (n k : Nat) (f : Ctx → Ctx) : (s.modCtx n k f).bounce = s.bounce := rfl
@[simp] theorem State.modCtx_ringWork (s : State) (n k : Nat) (f : Ctx → Ctx) : (s.modCtx n k f).ringWork = s.ringWork := rfl
@[simp] theorem State.modCtx_hostOut (s : State) (n k : Nat) (f : Ctx → Ctx) : (s.modCtx n k f).hostOut = s.hostOut := rfl
@[simp] theorem State.modCtx_host (s : State) (n k : Nat) (f : Ctx → Ctx) : (s.modCtx n k f).host = s.host := rfl
@[simp] theorem State.modCtx_stopped (s : State) (n k : Nat) (f : Ctx → Ctx) : (s.modCtx n k f).stopped = s.stopped := rfl
@[simp] theorem State.modCtx_unitOps (s : State) (n k : Nat) (f : Ctx → Ctx) : (s.modCtx n k f).unitOps = s.unitOps := rfl
@[simp] theorem State.modCtx_unitOpq (s : State) (n k : Nat) (f : Ctx → Ctx) : (s.modCtx n k f).unitOpq = s.unitOpq := rfl
@[simp] theorem State.modCtx_thermlim (s : State) (n k : Nat) (f : Ctx → Ctx) : (s.modCtx n k f).thermlim = s.thermlim := rfl
@[simp] theorem State.modCtx_governor (s : State) (n k : Nat) (f : Ctx → Ctx) : (s.modCtx n k f).governor = s.governor := rfl
@[simp] theorem State.modCtx_boot (s : State) (n k : Nat) (f : Ctx → Ctx) : (s.modCtx n k f).boot = s.boot := rfl
@[simp] theorem State.modCtx_savedTasks (s : State) (n k : Nat) (f : Ctx → Ctx) : (s.modCtx n k f).savedTasks = s.savedTasks := rfl
@[simp] theorem State.modCtx_restores (s : State) (n k : Nat) (f : Ctx → Ctx) : (s.modCtx n k f).restores = s.restores := rfl
@[simp] theorem State.modCtx_transfers (s : State) (n k : Nat) (f : Ctx → Ctx) : (s.modCtx n k f).transfers = s.transfers := rfl
@[simp] theorem State.modCtx_units (s : State) (n k : Nat) (f : Ctx → Ctx) : (s.modCtx n k f).units = s.units := rfl
@[simp] theorem State.modCtx_mrems (s : State) (n k : Nat) (f : Ctx → Ctx) : (s.modCtx n k f).mrems = s.mrems := rfl
@[simp] theorem State.modCtx_jobs (s : State) (n k : Nat) (f : Ctx → Ctx) : (s.modCtx n k f).jobs = s.jobs := rfl
@[simp] theorem State.modCtx_dirty (s : State) (n k : Nat) (f : Ctx → Ctx) : (s.modCtx n k f).dirty = s.dirty := rfl
@[simp] theorem State.modCtx_cut (s : State) (n k : Nat) (f : Ctx → Ctx) : (s.modCtx n k f).cut = s.cut := rfl
@[simp] theorem State.modCtx_stage (s : State) (n k : Nat) (f : Ctx → Ctx) : (s.modCtx n k f).stage = s.stage := rfl
@[simp] theorem State.modCtx_groups (s : State) (n k : Nat) (f : Ctx → Ctx) : (s.modCtx n k f).groups = s.groups := rfl
@[simp] theorem State.modCtx_pushes (s : State) (n k : Nat) (f : Ctx → Ctx) : (s.modCtx n k f).pushes = s.pushes := rfl
@[simp] theorem State.modCtx_partition (s : State) (n k : Nat) (f : Ctx → Ctx) : (s.modCtx n k f).partition = s.partition := rfl
@[simp] theorem State.modCtx_reach (s : State) (n k : Nat) (f : Ctx → Ctx) : (s.modCtx n k f).reach = s.reach := rfl
@[simp] theorem State.modCtx_flows (s : State) (n k : Nat) (f : Ctx → Ctx) : (s.modCtx n k f).flows = s.flows := rfl
@[simp] theorem State.modCtx_serai (s : State) (n k : Nat) (f : Ctx → Ctx) : (s.modCtx n k f).serai = s.serai := rfl
@[simp] theorem State.modCtx_out (s : State) (n k : Nat) (f : Ctx → Ctx) : (s.modCtx n k f).out = s.out := rfl
@[simp] theorem State.modCtx_rounds (s : State) (n k : Nat) (f : Ctx → Ctx) : (s.modCtx n k f).rounds = s.rounds := rfl
@[simp] theorem State.modCtx_rndlen (s : State) (n k : Nat) (f : Ctx → Ctx) : (s.modCtx n k f).rndlen = s.rndlen := rfl
@[simp] theorem State.modCtx_rndset (s : State) (n k : Nat) (f : Ctx → Ctx) : (s.modCtx n k f).rndset = s.rndset := rfl
@[simp] theorem State.modCtx_reachva (s : State) (n k : Nat) (f : Ctx → Ctx) : (s.modCtx n k f).reachva = s.reachva := rfl
@[simp] theorem State.modCtx_rto (s : State) (n k : Nat) (f : Ctx → Ctx) : (s.modCtx n k f).rto = s.rto := rfl
@[simp] theorem State.modCtx_parkctl (s : State) (n k : Nat) (f : Ctx → Ctx) : (s.modCtx n k f).parkctl = s.parkctl := rfl
@[simp] theorem State.modCtx_faberr (s : State) (n k : Nat) (f : Ctx → Ctx) : (s.modCtx n k f).faberr = s.faberr := rfl
@[simp] theorem State.modCtx_fabports (s : State) (n k : Nat) (f : Ctx → Ctx) : (s.modCtx n k f).fabports = s.fabports := rfl
@[simp] theorem State.modCtx_plan (s : State) (n k : Nat) (f : Ctx → Ctx) : (s.modCtx n k f).plan = s.plan := rfl
@[simp] theorem State.modCtx_unrouted (s : State) (n k : Nat) (f : Ctx → Ctx) : (s.modCtx n k f).unrouted = s.unrouted := rfl

/-! ### `State.modCur` -/

@[simp] theorem State.modCur_now (s : State) (f : Ctx → Ctx) : (s.modCur f).now = s.now := rfl
@[simp] theorem State.modCur_agenda (s : State) (f : Ctx → Ctx) : (s.modCur f).agenda = s.agenda := rfl
@[simp] theorem State.modCur_turns (s : State) (f : Ctx → Ctx) : (s.modCur f).turns = s.turns := rfl
@[simp] theorem State.modCur_delays (s : State) (f : Ctx → Ctx) : (s.modCur f).delays = s.delays := rfl
@[simp] theorem State.modCur_late (s : State) (f : Ctx → Ctx) : (s.modCur f).late = s.late := rfl
@[simp] theorem State.modCur_free (s : State) (f : Ctx → Ctx) : (s.modCur f).free = s.free := rfl
@[simp] theorem State.modCur_nextId (s : State) (f : Ctx → Ctx) : (s.modCur f).nextId = s.nextId := rfl
@[simp] theorem State.modCur_outCap (s : State) (f : Ctx → Ctx) : (s.modCur f).outCap = s.outCap := rfl
@[simp] theorem State.modCur_hbm (s : State) (f : Ctx → Ctx) : (s.modCur f).hbm = s.hbm := rfl
@[simp] theorem State.modCur_pad (s : State) (f : Ctx → Ctx) : (s.modCur f).pad = s.pad := rfl
@[simp] theorem State.modCur_badHbm (s : State) (f : Ctx → Ctx) : (s.modCur f).badHbm = s.badHbm := rfl
@[simp] theorem State.modCur_badPad (s : State) (f : Ctx → Ctx) : (s.modCur f).badPad = s.badPad := rfl
@[simp] theorem State.modCur_lineKeys (s : State) (f : Ctx → Ctx) : (s.modCur f).lineKeys = s.lineKeys := rfl
@[simp] theorem State.modCur_keys (s : State) (f : Ctx → Ctx) : (s.modCur f).keys = s.keys := rfl
@[simp] theorem State.modCur_tags (s : State) (f : Ctx → Ctx) : (s.modCur f).tags = s.tags := rfl
@[simp] theorem State.modCur_l2p (s : State) (f : Ctx → Ctx) : (s.modCur f).l2p = s.l2p := rfl
@[simp] theorem State.modCur_launches (s : State) (f : Ctx → Ctx) : (s.modCur f).launches = s.launches := rfl
@[simp] theorem State.modCur_sites (s : State) (f : Ctx → Ctx) : (s.modCur f).sites = s.sites := rfl
@[simp] theorem State.modCur_devidx (s : State) (f : Ctx → Ctx) : (s.modCur f).devidx = s.devidx := rfl
@[simp] theorem State.modCur_xroot (s : State) (f : Ctx → Ctx) : (s.modCur f).xroot = s.xroot := rfl
@[simp] theorem State.modCur_fnroute (s : State) (f : Ctx → Ctx) : (s.modCur f).fnroute = s.fnroute := rfl
@[simp] theorem State.modCur_patterns (s : State) (f : Ctx → Ctx) : (s.modCur f).patterns = s.patterns := rfl
@[simp] theorem State.modCur_inflight (s : State) (f : Ctx → Ctx) : (s.modCur f).inflight = s.inflight := rfl
@[simp] theorem State.modCur_records (s : State) (f : Ctx → Ctx) : (s.modCur f).records = s.records := rfl
@[simp] theorem State.modCur_joins (s : State) (f : Ctx → Ctx) : (s.modCur f).joins = s.joins := rfl
@[simp] theorem State.modCur_posts (s : State) (f : Ctx → Ctx) : (s.modCur f).posts = s.posts := rfl
@[simp] theorem State.modCur_cancels (s : State) (f : Ctx → Ctx) : (s.modCur f).cancels = s.cancels := rfl
@[simp] theorem State.modCur_unstarted (s : State) (f : Ctx → Ctx) : (s.modCur f).unstarted = s.unstarted := rfl
@[simp] theorem State.modCur_near (s : State) (f : Ctx → Ctx) : (s.modCur f).near = s.near := rfl
@[simp] theorem State.modCur_l1 (s : State) (f : Ctx → Ctx) : (s.modCur f).l1 = s.l1 := rfl
@[simp] theorem State.modCur_slices (s : State) (f : Ctx → Ctx) : (s.modCur f).slices = s.slices := rfl
@[simp] theorem State.modCur_ports (s : State) (f : Ctx → Ctx) : (s.modCur f).ports = s.ports := rfl
@[simp] theorem State.modCur_held (s : State) (f : Ctx → Ctx) : (s.modCur f).held = s.held := rfl
@[simp] theorem State.modCur_bounce (s : State) (f : Ctx → Ctx) : (s.modCur f).bounce = s.bounce := rfl
@[simp] theorem State.modCur_ringWork (s : State) (f : Ctx → Ctx) : (s.modCur f).ringWork = s.ringWork := rfl
@[simp] theorem State.modCur_hostOut (s : State) (f : Ctx → Ctx) : (s.modCur f).hostOut = s.hostOut := rfl
@[simp] theorem State.modCur_host (s : State) (f : Ctx → Ctx) : (s.modCur f).host = s.host := rfl
@[simp] theorem State.modCur_stopped (s : State) (f : Ctx → Ctx) : (s.modCur f).stopped = s.stopped := rfl
@[simp] theorem State.modCur_unitOps (s : State) (f : Ctx → Ctx) : (s.modCur f).unitOps = s.unitOps := rfl
@[simp] theorem State.modCur_unitOpq (s : State) (f : Ctx → Ctx) : (s.modCur f).unitOpq = s.unitOpq := rfl
@[simp] theorem State.modCur_thermlim (s : State) (f : Ctx → Ctx) : (s.modCur f).thermlim = s.thermlim := rfl
@[simp] theorem State.modCur_governor (s : State) (f : Ctx → Ctx) : (s.modCur f).governor = s.governor := rfl
@[simp] theorem State.modCur_boot (s : State) (f : Ctx → Ctx) : (s.modCur f).boot = s.boot := rfl
@[simp] theorem State.modCur_savedTasks (s : State) (f : Ctx → Ctx) : (s.modCur f).savedTasks = s.savedTasks := rfl
@[simp] theorem State.modCur_restores (s : State) (f : Ctx → Ctx) : (s.modCur f).restores = s.restores := rfl
@[simp] theorem State.modCur_transfers (s : State) (f : Ctx → Ctx) : (s.modCur f).transfers = s.transfers := rfl
@[simp] theorem State.modCur_units (s : State) (f : Ctx → Ctx) : (s.modCur f).units = s.units := rfl
@[simp] theorem State.modCur_mrems (s : State) (f : Ctx → Ctx) : (s.modCur f).mrems = s.mrems := rfl
@[simp] theorem State.modCur_jobs (s : State) (f : Ctx → Ctx) : (s.modCur f).jobs = s.jobs := rfl
@[simp] theorem State.modCur_dirty (s : State) (f : Ctx → Ctx) : (s.modCur f).dirty = s.dirty := rfl
@[simp] theorem State.modCur_cut (s : State) (f : Ctx → Ctx) : (s.modCur f).cut = s.cut := rfl
@[simp] theorem State.modCur_stage (s : State) (f : Ctx → Ctx) : (s.modCur f).stage = s.stage := rfl
@[simp] theorem State.modCur_groups (s : State) (f : Ctx → Ctx) : (s.modCur f).groups = s.groups := rfl
@[simp] theorem State.modCur_pushes (s : State) (f : Ctx → Ctx) : (s.modCur f).pushes = s.pushes := rfl
@[simp] theorem State.modCur_partition (s : State) (f : Ctx → Ctx) : (s.modCur f).partition = s.partition := rfl
@[simp] theorem State.modCur_reach (s : State) (f : Ctx → Ctx) : (s.modCur f).reach = s.reach := rfl
@[simp] theorem State.modCur_flows (s : State) (f : Ctx → Ctx) : (s.modCur f).flows = s.flows := rfl
@[simp] theorem State.modCur_serai (s : State) (f : Ctx → Ctx) : (s.modCur f).serai = s.serai := rfl
@[simp] theorem State.modCur_out (s : State) (f : Ctx → Ctx) : (s.modCur f).out = s.out := rfl
@[simp] theorem State.modCur_rounds (s : State) (f : Ctx → Ctx) : (s.modCur f).rounds = s.rounds := rfl
@[simp] theorem State.modCur_rndlen (s : State) (f : Ctx → Ctx) : (s.modCur f).rndlen = s.rndlen := rfl
@[simp] theorem State.modCur_rndset (s : State) (f : Ctx → Ctx) : (s.modCur f).rndset = s.rndset := rfl
@[simp] theorem State.modCur_reachva (s : State) (f : Ctx → Ctx) : (s.modCur f).reachva = s.reachva := rfl
@[simp] theorem State.modCur_rto (s : State) (f : Ctx → Ctx) : (s.modCur f).rto = s.rto := rfl
@[simp] theorem State.modCur_parkctl (s : State) (f : Ctx → Ctx) : (s.modCur f).parkctl = s.parkctl := rfl
@[simp] theorem State.modCur_faberr (s : State) (f : Ctx → Ctx) : (s.modCur f).faberr = s.faberr := rfl
@[simp] theorem State.modCur_fabports (s : State) (f : Ctx → Ctx) : (s.modCur f).fabports = s.fabports := rfl
@[simp] theorem State.modCur_plan (s : State) (f : Ctx → Ctx) : (s.modCur f).plan = s.plan := rfl
@[simp] theorem State.modCur_unrouted (s : State) (f : Ctx → Ctx) : (s.modCur f).unrouted = s.unrouted := rfl

/-! ### `State.modHere` -/

@[simp] theorem State.modHere_now (s : State) (f : Cell → Cell) : (s.modHere f).now = s.now := rfl
@[simp] theorem State.modHere_agenda (s : State) (f : Cell → Cell) : (s.modHere f).agenda = s.agenda := rfl
@[simp] theorem State.modHere_turns (s : State) (f : Cell → Cell) : (s.modHere f).turns = s.turns := rfl
@[simp] theorem State.modHere_delays (s : State) (f : Cell → Cell) : (s.modHere f).delays = s.delays := rfl
@[simp] theorem State.modHere_late (s : State) (f : Cell → Cell) : (s.modHere f).late = s.late := rfl
@[simp] theorem State.modHere_free (s : State) (f : Cell → Cell) : (s.modHere f).free = s.free := rfl
@[simp] theorem State.modHere_nextId (s : State) (f : Cell → Cell) : (s.modHere f).nextId = s.nextId := rfl
@[simp] theorem State.modHere_outCap (s : State) (f : Cell → Cell) : (s.modHere f).outCap = s.outCap := rfl
@[simp] theorem State.modHere_hbm (s : State) (f : Cell → Cell) : (s.modHere f).hbm = s.hbm := rfl
@[simp] theorem State.modHere_pad (s : State) (f : Cell → Cell) : (s.modHere f).pad = s.pad := rfl
@[simp] theorem State.modHere_badHbm (s : State) (f : Cell → Cell) : (s.modHere f).badHbm = s.badHbm := rfl
@[simp] theorem State.modHere_badPad (s : State) (f : Cell → Cell) : (s.modHere f).badPad = s.badPad := rfl
@[simp] theorem State.modHere_lineKeys (s : State) (f : Cell → Cell) : (s.modHere f).lineKeys = s.lineKeys := rfl
@[simp] theorem State.modHere_keys (s : State) (f : Cell → Cell) : (s.modHere f).keys = s.keys := rfl
@[simp] theorem State.modHere_tags (s : State) (f : Cell → Cell) : (s.modHere f).tags = s.tags := rfl
@[simp] theorem State.modHere_l2p (s : State) (f : Cell → Cell) : (s.modHere f).l2p = s.l2p := rfl
@[simp] theorem State.modHere_launches (s : State) (f : Cell → Cell) : (s.modHere f).launches = s.launches := rfl
@[simp] theorem State.modHere_sites (s : State) (f : Cell → Cell) : (s.modHere f).sites = s.sites := rfl
@[simp] theorem State.modHere_devidx (s : State) (f : Cell → Cell) : (s.modHere f).devidx = s.devidx := rfl
@[simp] theorem State.modHere_xroot (s : State) (f : Cell → Cell) : (s.modHere f).xroot = s.xroot := rfl
@[simp] theorem State.modHere_fnroute (s : State) (f : Cell → Cell) : (s.modHere f).fnroute = s.fnroute := rfl
@[simp] theorem State.modHere_patterns (s : State) (f : Cell → Cell) : (s.modHere f).patterns = s.patterns := rfl
@[simp] theorem State.modHere_inflight (s : State) (f : Cell → Cell) : (s.modHere f).inflight = s.inflight := rfl
@[simp] theorem State.modHere_records (s : State) (f : Cell → Cell) : (s.modHere f).records = s.records := rfl
@[simp] theorem State.modHere_joins (s : State) (f : Cell → Cell) : (s.modHere f).joins = s.joins := rfl
@[simp] theorem State.modHere_posts (s : State) (f : Cell → Cell) : (s.modHere f).posts = s.posts := rfl
@[simp] theorem State.modHere_cancels (s : State) (f : Cell → Cell) : (s.modHere f).cancels = s.cancels := rfl
@[simp] theorem State.modHere_unstarted (s : State) (f : Cell → Cell) : (s.modHere f).unstarted = s.unstarted := rfl
@[simp] theorem State.modHere_near (s : State) (f : Cell → Cell) : (s.modHere f).near = s.near := rfl
@[simp] theorem State.modHere_l1 (s : State) (f : Cell → Cell) : (s.modHere f).l1 = s.l1 := rfl
@[simp] theorem State.modHere_slices (s : State) (f : Cell → Cell) : (s.modHere f).slices = s.slices := rfl
@[simp] theorem State.modHere_ports (s : State) (f : Cell → Cell) : (s.modHere f).ports = s.ports := rfl
@[simp] theorem State.modHere_held (s : State) (f : Cell → Cell) : (s.modHere f).held = s.held := rfl
@[simp] theorem State.modHere_bounce (s : State) (f : Cell → Cell) : (s.modHere f).bounce = s.bounce := rfl
@[simp] theorem State.modHere_ringWork (s : State) (f : Cell → Cell) : (s.modHere f).ringWork = s.ringWork := rfl
@[simp] theorem State.modHere_hostOut (s : State) (f : Cell → Cell) : (s.modHere f).hostOut = s.hostOut := rfl
@[simp] theorem State.modHere_host (s : State) (f : Cell → Cell) : (s.modHere f).host = s.host := rfl
@[simp] theorem State.modHere_stopped (s : State) (f : Cell → Cell) : (s.modHere f).stopped = s.stopped := rfl
@[simp] theorem State.modHere_unitOps (s : State) (f : Cell → Cell) : (s.modHere f).unitOps = s.unitOps := rfl
@[simp] theorem State.modHere_unitOpq (s : State) (f : Cell → Cell) : (s.modHere f).unitOpq = s.unitOpq := rfl
@[simp] theorem State.modHere_thermlim (s : State) (f : Cell → Cell) : (s.modHere f).thermlim = s.thermlim := rfl
@[simp] theorem State.modHere_governor (s : State) (f : Cell → Cell) : (s.modHere f).governor = s.governor := rfl
@[simp] theorem State.modHere_boot (s : State) (f : Cell → Cell) : (s.modHere f).boot = s.boot := rfl
@[simp] theorem State.modHere_savedTasks (s : State) (f : Cell → Cell) : (s.modHere f).savedTasks = s.savedTasks := rfl
@[simp] theorem State.modHere_restores (s : State) (f : Cell → Cell) : (s.modHere f).restores = s.restores := rfl
@[simp] theorem State.modHere_transfers (s : State) (f : Cell → Cell) : (s.modHere f).transfers = s.transfers := rfl
@[simp] theorem State.modHere_units (s : State) (f : Cell → Cell) : (s.modHere f).units = s.units := rfl
@[simp] theorem State.modHere_mrems (s : State) (f : Cell → Cell) : (s.modHere f).mrems = s.mrems := rfl
@[simp] theorem State.modHere_jobs (s : State) (f : Cell → Cell) : (s.modHere f).jobs = s.jobs := rfl
@[simp] theorem State.modHere_dirty (s : State) (f : Cell → Cell) : (s.modHere f).dirty = s.dirty := rfl
@[simp] theorem State.modHere_cut (s : State) (f : Cell → Cell) : (s.modHere f).cut = s.cut := rfl
@[simp] theorem State.modHere_stage (s : State) (f : Cell → Cell) : (s.modHere f).stage = s.stage := rfl
@[simp] theorem State.modHere_groups (s : State) (f : Cell → Cell) : (s.modHere f).groups = s.groups := rfl
@[simp] theorem State.modHere_pushes (s : State) (f : Cell → Cell) : (s.modHere f).pushes = s.pushes := rfl
@[simp] theorem State.modHere_partition (s : State) (f : Cell → Cell) : (s.modHere f).partition = s.partition := rfl
@[simp] theorem State.modHere_reach (s : State) (f : Cell → Cell) : (s.modHere f).reach = s.reach := rfl
@[simp] theorem State.modHere_flows (s : State) (f : Cell → Cell) : (s.modHere f).flows = s.flows := rfl
@[simp] theorem State.modHere_serai (s : State) (f : Cell → Cell) : (s.modHere f).serai = s.serai := rfl
@[simp] theorem State.modHere_out (s : State) (f : Cell → Cell) : (s.modHere f).out = s.out := rfl
@[simp] theorem State.modHere_rounds (s : State) (f : Cell → Cell) : (s.modHere f).rounds = s.rounds := rfl
@[simp] theorem State.modHere_rndlen (s : State) (f : Cell → Cell) : (s.modHere f).rndlen = s.rndlen := rfl
@[simp] theorem State.modHere_rndset (s : State) (f : Cell → Cell) : (s.modHere f).rndset = s.rndset := rfl
@[simp] theorem State.modHere_reachva (s : State) (f : Cell → Cell) : (s.modHere f).reachva = s.reachva := rfl
@[simp] theorem State.modHere_rto (s : State) (f : Cell → Cell) : (s.modHere f).rto = s.rto := rfl
@[simp] theorem State.modHere_parkctl (s : State) (f : Cell → Cell) : (s.modHere f).parkctl = s.parkctl := rfl
@[simp] theorem State.modHere_faberr (s : State) (f : Cell → Cell) : (s.modHere f).faberr = s.faberr := rfl
@[simp] theorem State.modHere_fabports (s : State) (f : Cell → Cell) : (s.modHere f).fabports = s.fabports := rfl
@[simp] theorem State.modHere_plan (s : State) (f : Cell → Cell) : (s.modHere f).plan = s.plan := rfl
@[simp] theorem State.modHere_unrouted (s : State) (f : Cell → Cell) : (s.modHere f).unrouted = s.unrouted := rfl

/-! ### `State.clobber` -/

@[simp] theorem State.clobber_now (s : State) (n k : Nat) (d : Dest) (l : Nat) : (s.clobber n k d l).now = s.now := rfl
@[simp] theorem State.clobber_agenda (s : State) (n k : Nat) (d : Dest) (l : Nat) : (s.clobber n k d l).agenda = s.agenda := rfl
@[simp] theorem State.clobber_turns (s : State) (n k : Nat) (d : Dest) (l : Nat) : (s.clobber n k d l).turns = s.turns := rfl
@[simp] theorem State.clobber_delays (s : State) (n k : Nat) (d : Dest) (l : Nat) : (s.clobber n k d l).delays = s.delays := rfl
@[simp] theorem State.clobber_late (s : State) (n k : Nat) (d : Dest) (l : Nat) : (s.clobber n k d l).late = s.late := rfl
@[simp] theorem State.clobber_free (s : State) (n k : Nat) (d : Dest) (l : Nat) : (s.clobber n k d l).free = s.free := rfl
@[simp] theorem State.clobber_nextId (s : State) (n k : Nat) (d : Dest) (l : Nat) : (s.clobber n k d l).nextId = s.nextId := rfl
@[simp] theorem State.clobber_outCap (s : State) (n k : Nat) (d : Dest) (l : Nat) : (s.clobber n k d l).outCap = s.outCap := rfl
@[simp] theorem State.clobber_hbm (s : State) (n k : Nat) (d : Dest) (l : Nat) : (s.clobber n k d l).hbm = s.hbm := rfl
@[simp] theorem State.clobber_pad (s : State) (n k : Nat) (d : Dest) (l : Nat) : (s.clobber n k d l).pad = s.pad := rfl
@[simp] theorem State.clobber_badHbm (s : State) (n k : Nat) (d : Dest) (l : Nat) : (s.clobber n k d l).badHbm = s.badHbm := rfl
@[simp] theorem State.clobber_badPad (s : State) (n k : Nat) (d : Dest) (l : Nat) : (s.clobber n k d l).badPad = s.badPad := rfl
@[simp] theorem State.clobber_lineKeys (s : State) (n k : Nat) (d : Dest) (l : Nat) : (s.clobber n k d l).lineKeys = s.lineKeys := rfl
@[simp] theorem State.clobber_keys (s : State) (n k : Nat) (d : Dest) (l : Nat) : (s.clobber n k d l).keys = s.keys := rfl
@[simp] theorem State.clobber_cells (s : State) (n k : Nat) (d : Dest) (l : Nat) : (s.clobber n k d l).cells = s.cells := rfl
@[simp] theorem State.clobber_tags (s : State) (n k : Nat) (d : Dest) (l : Nat) : (s.clobber n k d l).tags = s.tags := rfl
@[simp] theorem State.clobber_l2p (s : State) (n k : Nat) (d : Dest) (l : Nat) : (s.clobber n k d l).l2p = s.l2p := rfl
@[simp] theorem State.clobber_launches (s : State) (n k : Nat) (d : Dest) (l : Nat) : (s.clobber n k d l).launches = s.launches := rfl
@[simp] theorem State.clobber_sites (s : State) (n k : Nat) (d : Dest) (l : Nat) : (s.clobber n k d l).sites = s.sites := rfl
@[simp] theorem State.clobber_devidx (s : State) (n k : Nat) (d : Dest) (l : Nat) : (s.clobber n k d l).devidx = s.devidx := rfl
@[simp] theorem State.clobber_xroot (s : State) (n k : Nat) (d : Dest) (l : Nat) : (s.clobber n k d l).xroot = s.xroot := rfl
@[simp] theorem State.clobber_fnroute (s : State) (n k : Nat) (d : Dest) (l : Nat) : (s.clobber n k d l).fnroute = s.fnroute := rfl
@[simp] theorem State.clobber_patterns (s : State) (n k : Nat) (d : Dest) (l : Nat) : (s.clobber n k d l).patterns = s.patterns := rfl
@[simp] theorem State.clobber_records (s : State) (n k : Nat) (d : Dest) (l : Nat) : (s.clobber n k d l).records = s.records := rfl
@[simp] theorem State.clobber_joins (s : State) (n k : Nat) (d : Dest) (l : Nat) : (s.clobber n k d l).joins = s.joins := rfl
@[simp] theorem State.clobber_posts (s : State) (n k : Nat) (d : Dest) (l : Nat) : (s.clobber n k d l).posts = s.posts := rfl
@[simp] theorem State.clobber_cancels (s : State) (n k : Nat) (d : Dest) (l : Nat) : (s.clobber n k d l).cancels = s.cancels := rfl
@[simp] theorem State.clobber_unstarted (s : State) (n k : Nat) (d : Dest) (l : Nat) : (s.clobber n k d l).unstarted = s.unstarted := rfl
@[simp] theorem State.clobber_near (s : State) (n k : Nat) (d : Dest) (l : Nat) : (s.clobber n k d l).near = s.near := rfl
@[simp] theorem State.clobber_l1 (s : State) (n k : Nat) (d : Dest) (l : Nat) : (s.clobber n k d l).l1 = s.l1 := rfl
@[simp] theorem State.clobber_slices (s : State) (n k : Nat) (d : Dest) (l : Nat) : (s.clobber n k d l).slices = s.slices := rfl
@[simp] theorem State.clobber_ports (s : State) (n k : Nat) (d : Dest) (l : Nat) : (s.clobber n k d l).ports = s.ports := rfl
@[simp] theorem State.clobber_held (s : State) (n k : Nat) (d : Dest) (l : Nat) : (s.clobber n k d l).held = s.held := rfl
@[simp] theorem State.clobber_bounce (s : State) (n k : Nat) (d : Dest) (l : Nat) : (s.clobber n k d l).bounce = s.bounce := rfl
@[simp] theorem State.clobber_ringWork (s : State) (n k : Nat) (d : Dest) (l : Nat) : (s.clobber n k d l).ringWork = s.ringWork := rfl
@[simp] theorem State.clobber_hostOut (s : State) (n k : Nat) (d : Dest) (l : Nat) : (s.clobber n k d l).hostOut = s.hostOut := rfl
@[simp] theorem State.clobber_host (s : State) (n k : Nat) (d : Dest) (l : Nat) : (s.clobber n k d l).host = s.host := rfl
@[simp] theorem State.clobber_stopped (s : State) (n k : Nat) (d : Dest) (l : Nat) : (s.clobber n k d l).stopped = s.stopped := rfl
@[simp] theorem State.clobber_unitOps (s : State) (n k : Nat) (d : Dest) (l : Nat) : (s.clobber n k d l).unitOps = s.unitOps := rfl
@[simp] theorem State.clobber_unitOpq (s : State) (n k : Nat) (d : Dest) (l : Nat) : (s.clobber n k d l).unitOpq = s.unitOpq := rfl
@[simp] theorem State.clobber_thermlim (s : State) (n k : Nat) (d : Dest) (l : Nat) : (s.clobber n k d l).thermlim = s.thermlim := rfl
@[simp] theorem State.clobber_governor (s : State) (n k : Nat) (d : Dest) (l : Nat) : (s.clobber n k d l).governor = s.governor := rfl
@[simp] theorem State.clobber_boot (s : State) (n k : Nat) (d : Dest) (l : Nat) : (s.clobber n k d l).boot = s.boot := rfl
@[simp] theorem State.clobber_savedTasks (s : State) (n k : Nat) (d : Dest) (l : Nat) : (s.clobber n k d l).savedTasks = s.savedTasks := rfl
@[simp] theorem State.clobber_restores (s : State) (n k : Nat) (d : Dest) (l : Nat) : (s.clobber n k d l).restores = s.restores := rfl
@[simp] theorem State.clobber_transfers (s : State) (n k : Nat) (d : Dest) (l : Nat) : (s.clobber n k d l).transfers = s.transfers := rfl
@[simp] theorem State.clobber_units (s : State) (n k : Nat) (d : Dest) (l : Nat) : (s.clobber n k d l).units = s.units := rfl
@[simp] theorem State.clobber_mrems (s : State) (n k : Nat) (d : Dest) (l : Nat) : (s.clobber n k d l).mrems = s.mrems := rfl
@[simp] theorem State.clobber_jobs (s : State) (n k : Nat) (d : Dest) (l : Nat) : (s.clobber n k d l).jobs = s.jobs := rfl
@[simp] theorem State.clobber_dirty (s : State) (n k : Nat) (d : Dest) (l : Nat) : (s.clobber n k d l).dirty = s.dirty := rfl
@[simp] theorem State.clobber_cut (s : State) (n k : Nat) (d : Dest) (l : Nat) : (s.clobber n k d l).cut = s.cut := rfl
@[simp] theorem State.clobber_stage (s : State) (n k : Nat) (d : Dest) (l : Nat) : (s.clobber n k d l).stage = s.stage := rfl
@[simp] theorem State.clobber_groups (s : State) (n k : Nat) (d : Dest) (l : Nat) : (s.clobber n k d l).groups = s.groups := rfl
@[simp] theorem State.clobber_pushes (s : State) (n k : Nat) (d : Dest) (l : Nat) : (s.clobber n k d l).pushes = s.pushes := rfl
@[simp] theorem State.clobber_partition (s : State) (n k : Nat) (d : Dest) (l : Nat) : (s.clobber n k d l).partition = s.partition := rfl
@[simp] theorem State.clobber_reach (s : State) (n k : Nat) (d : Dest) (l : Nat) : (s.clobber n k d l).reach = s.reach := rfl
@[simp] theorem State.clobber_flows (s : State) (n k : Nat) (d : Dest) (l : Nat) : (s.clobber n k d l).flows = s.flows := rfl
@[simp] theorem State.clobber_serai (s : State) (n k : Nat) (d : Dest) (l : Nat) : (s.clobber n k d l).serai = s.serai := rfl
@[simp] theorem State.clobber_out (s : State) (n k : Nat) (d : Dest) (l : Nat) : (s.clobber n k d l).out = s.out := rfl
@[simp] theorem State.clobber_rounds (s : State) (n k : Nat) (d : Dest) (l : Nat) : (s.clobber n k d l).rounds = s.rounds := rfl
@[simp] theorem State.clobber_rndlen (s : State) (n k : Nat) (d : Dest) (l : Nat) : (s.clobber n k d l).rndlen = s.rndlen := rfl
@[simp] theorem State.clobber_rndset (s : State) (n k : Nat) (d : Dest) (l : Nat) : (s.clobber n k d l).rndset = s.rndset := rfl
@[simp] theorem State.clobber_reachva (s : State) (n k : Nat) (d : Dest) (l : Nat) : (s.clobber n k d l).reachva = s.reachva := rfl
@[simp] theorem State.clobber_rto (s : State) (n k : Nat) (d : Dest) (l : Nat) : (s.clobber n k d l).rto = s.rto := rfl
@[simp] theorem State.clobber_parkctl (s : State) (n k : Nat) (d : Dest) (l : Nat) : (s.clobber n k d l).parkctl = s.parkctl := rfl
@[simp] theorem State.clobber_faberr (s : State) (n k : Nat) (d : Dest) (l : Nat) : (s.clobber n k d l).faberr = s.faberr := rfl
@[simp] theorem State.clobber_fabports (s : State) (n k : Nat) (d : Dest) (l : Nat) : (s.clobber n k d l).fabports = s.fabports := rfl
@[simp] theorem State.clobber_plan (s : State) (n k : Nat) (d : Dest) (l : Nat) : (s.clobber n k d l).plan = s.plan := rfl
@[simp] theorem State.clobber_unrouted (s : State) (n k : Nat) (d : Dest) (l : Nat) : (s.clobber n k d l).unrouted = s.unrouted := rfl

/-! ### `State.setS` -/

@[simp] theorem State.setS_now (s : State) (d : Reg) (w : Word) : (s.setS d w).now = s.now := rfl
@[simp] theorem State.setS_agenda (s : State) (d : Reg) (w : Word) : (s.setS d w).agenda = s.agenda := rfl
@[simp] theorem State.setS_turns (s : State) (d : Reg) (w : Word) : (s.setS d w).turns = s.turns := rfl
@[simp] theorem State.setS_delays (s : State) (d : Reg) (w : Word) : (s.setS d w).delays = s.delays := rfl
@[simp] theorem State.setS_late (s : State) (d : Reg) (w : Word) : (s.setS d w).late = s.late := rfl
@[simp] theorem State.setS_free (s : State) (d : Reg) (w : Word) : (s.setS d w).free = s.free := rfl
@[simp] theorem State.setS_nextId (s : State) (d : Reg) (w : Word) : (s.setS d w).nextId = s.nextId := rfl
@[simp] theorem State.setS_outCap (s : State) (d : Reg) (w : Word) : (s.setS d w).outCap = s.outCap := rfl
@[simp] theorem State.setS_hbm (s : State) (d : Reg) (w : Word) : (s.setS d w).hbm = s.hbm := rfl
@[simp] theorem State.setS_pad (s : State) (d : Reg) (w : Word) : (s.setS d w).pad = s.pad := rfl
@[simp] theorem State.setS_badHbm (s : State) (d : Reg) (w : Word) : (s.setS d w).badHbm = s.badHbm := rfl
@[simp] theorem State.setS_badPad (s : State) (d : Reg) (w : Word) : (s.setS d w).badPad = s.badPad := rfl
@[simp] theorem State.setS_lineKeys (s : State) (d : Reg) (w : Word) : (s.setS d w).lineKeys = s.lineKeys := rfl
@[simp] theorem State.setS_keys (s : State) (d : Reg) (w : Word) : (s.setS d w).keys = s.keys := rfl
@[simp] theorem State.setS_tags (s : State) (d : Reg) (w : Word) : (s.setS d w).tags = s.tags := rfl
@[simp] theorem State.setS_l2p (s : State) (d : Reg) (w : Word) : (s.setS d w).l2p = s.l2p := rfl
@[simp] theorem State.setS_launches (s : State) (d : Reg) (w : Word) : (s.setS d w).launches = s.launches := rfl
@[simp] theorem State.setS_sites (s : State) (d : Reg) (w : Word) : (s.setS d w).sites = s.sites := rfl
@[simp] theorem State.setS_devidx (s : State) (d : Reg) (w : Word) : (s.setS d w).devidx = s.devidx := rfl
@[simp] theorem State.setS_xroot (s : State) (d : Reg) (w : Word) : (s.setS d w).xroot = s.xroot := rfl
@[simp] theorem State.setS_fnroute (s : State) (d : Reg) (w : Word) : (s.setS d w).fnroute = s.fnroute := rfl
@[simp] theorem State.setS_patterns (s : State) (d : Reg) (w : Word) : (s.setS d w).patterns = s.patterns := rfl
@[simp] theorem State.setS_records (s : State) (d : Reg) (w : Word) : (s.setS d w).records = s.records := rfl
@[simp] theorem State.setS_joins (s : State) (d : Reg) (w : Word) : (s.setS d w).joins = s.joins := rfl
@[simp] theorem State.setS_posts (s : State) (d : Reg) (w : Word) : (s.setS d w).posts = s.posts := rfl
@[simp] theorem State.setS_cancels (s : State) (d : Reg) (w : Word) : (s.setS d w).cancels = s.cancels := rfl
@[simp] theorem State.setS_unstarted (s : State) (d : Reg) (w : Word) : (s.setS d w).unstarted = s.unstarted := rfl
@[simp] theorem State.setS_near (s : State) (d : Reg) (w : Word) : (s.setS d w).near = s.near := rfl
@[simp] theorem State.setS_l1 (s : State) (d : Reg) (w : Word) : (s.setS d w).l1 = s.l1 := rfl
@[simp] theorem State.setS_slices (s : State) (d : Reg) (w : Word) : (s.setS d w).slices = s.slices := rfl
@[simp] theorem State.setS_ports (s : State) (d : Reg) (w : Word) : (s.setS d w).ports = s.ports := rfl
@[simp] theorem State.setS_held (s : State) (d : Reg) (w : Word) : (s.setS d w).held = s.held := rfl
@[simp] theorem State.setS_bounce (s : State) (d : Reg) (w : Word) : (s.setS d w).bounce = s.bounce := rfl
@[simp] theorem State.setS_ringWork (s : State) (d : Reg) (w : Word) : (s.setS d w).ringWork = s.ringWork := rfl
@[simp] theorem State.setS_hostOut (s : State) (d : Reg) (w : Word) : (s.setS d w).hostOut = s.hostOut := rfl
@[simp] theorem State.setS_host (s : State) (d : Reg) (w : Word) : (s.setS d w).host = s.host := rfl
@[simp] theorem State.setS_stopped (s : State) (d : Reg) (w : Word) : (s.setS d w).stopped = s.stopped := rfl
@[simp] theorem State.setS_unitOps (s : State) (d : Reg) (w : Word) : (s.setS d w).unitOps = s.unitOps := rfl
@[simp] theorem State.setS_unitOpq (s : State) (d : Reg) (w : Word) : (s.setS d w).unitOpq = s.unitOpq := rfl
@[simp] theorem State.setS_thermlim (s : State) (d : Reg) (w : Word) : (s.setS d w).thermlim = s.thermlim := rfl
@[simp] theorem State.setS_governor (s : State) (d : Reg) (w : Word) : (s.setS d w).governor = s.governor := rfl
@[simp] theorem State.setS_boot (s : State) (d : Reg) (w : Word) : (s.setS d w).boot = s.boot := rfl
@[simp] theorem State.setS_savedTasks (s : State) (d : Reg) (w : Word) : (s.setS d w).savedTasks = s.savedTasks := rfl
@[simp] theorem State.setS_restores (s : State) (d : Reg) (w : Word) : (s.setS d w).restores = s.restores := rfl
@[simp] theorem State.setS_transfers (s : State) (d : Reg) (w : Word) : (s.setS d w).transfers = s.transfers := rfl
@[simp] theorem State.setS_units (s : State) (d : Reg) (w : Word) : (s.setS d w).units = s.units := rfl
@[simp] theorem State.setS_mrems (s : State) (d : Reg) (w : Word) : (s.setS d w).mrems = s.mrems := rfl
@[simp] theorem State.setS_jobs (s : State) (d : Reg) (w : Word) : (s.setS d w).jobs = s.jobs := rfl
@[simp] theorem State.setS_dirty (s : State) (d : Reg) (w : Word) : (s.setS d w).dirty = s.dirty := rfl
@[simp] theorem State.setS_cut (s : State) (d : Reg) (w : Word) : (s.setS d w).cut = s.cut := rfl
@[simp] theorem State.setS_stage (s : State) (d : Reg) (w : Word) : (s.setS d w).stage = s.stage := rfl
@[simp] theorem State.setS_groups (s : State) (d : Reg) (w : Word) : (s.setS d w).groups = s.groups := rfl
@[simp] theorem State.setS_pushes (s : State) (d : Reg) (w : Word) : (s.setS d w).pushes = s.pushes := rfl
@[simp] theorem State.setS_partition (s : State) (d : Reg) (w : Word) : (s.setS d w).partition = s.partition := rfl
@[simp] theorem State.setS_reach (s : State) (d : Reg) (w : Word) : (s.setS d w).reach = s.reach := rfl
@[simp] theorem State.setS_flows (s : State) (d : Reg) (w : Word) : (s.setS d w).flows = s.flows := rfl
@[simp] theorem State.setS_serai (s : State) (d : Reg) (w : Word) : (s.setS d w).serai = s.serai := rfl
@[simp] theorem State.setS_out (s : State) (d : Reg) (w : Word) : (s.setS d w).out = s.out := rfl
@[simp] theorem State.setS_rounds (s : State) (d : Reg) (w : Word) : (s.setS d w).rounds = s.rounds := rfl
@[simp] theorem State.setS_rndlen (s : State) (d : Reg) (w : Word) : (s.setS d w).rndlen = s.rndlen := rfl
@[simp] theorem State.setS_rndset (s : State) (d : Reg) (w : Word) : (s.setS d w).rndset = s.rndset := rfl
@[simp] theorem State.setS_reachva (s : State) (d : Reg) (w : Word) : (s.setS d w).reachva = s.reachva := rfl
@[simp] theorem State.setS_rto (s : State) (d : Reg) (w : Word) : (s.setS d w).rto = s.rto := rfl
@[simp] theorem State.setS_parkctl (s : State) (d : Reg) (w : Word) : (s.setS d w).parkctl = s.parkctl := rfl
@[simp] theorem State.setS_faberr (s : State) (d : Reg) (w : Word) : (s.setS d w).faberr = s.faberr := rfl
@[simp] theorem State.setS_fabports (s : State) (d : Reg) (w : Word) : (s.setS d w).fabports = s.fabports := rfl
@[simp] theorem State.setS_plan (s : State) (d : Reg) (w : Word) : (s.setS d w).plan = s.plan := rfl
@[simp] theorem State.setS_unrouted (s : State) (d : Reg) (w : Word) : (s.setS d w).unrouted = s.unrouted := rfl

/-! ### `State.setVLanes` -/

@[simp] theorem State.setVLanes_now (s : State) (d : Reg) (w : Vec) (l : Nat) : (s.setVLanes d w l).now = s.now := rfl
@[simp] theorem State.setVLanes_agenda (s : State) (d : Reg) (w : Vec) (l : Nat) : (s.setVLanes d w l).agenda = s.agenda := rfl
@[simp] theorem State.setVLanes_turns (s : State) (d : Reg) (w : Vec) (l : Nat) : (s.setVLanes d w l).turns = s.turns := rfl
@[simp] theorem State.setVLanes_delays (s : State) (d : Reg) (w : Vec) (l : Nat) : (s.setVLanes d w l).delays = s.delays := rfl
@[simp] theorem State.setVLanes_late (s : State) (d : Reg) (w : Vec) (l : Nat) : (s.setVLanes d w l).late = s.late := rfl
@[simp] theorem State.setVLanes_free (s : State) (d : Reg) (w : Vec) (l : Nat) : (s.setVLanes d w l).free = s.free := rfl
@[simp] theorem State.setVLanes_nextId (s : State) (d : Reg) (w : Vec) (l : Nat) : (s.setVLanes d w l).nextId = s.nextId := rfl
@[simp] theorem State.setVLanes_outCap (s : State) (d : Reg) (w : Vec) (l : Nat) : (s.setVLanes d w l).outCap = s.outCap := rfl
@[simp] theorem State.setVLanes_hbm (s : State) (d : Reg) (w : Vec) (l : Nat) : (s.setVLanes d w l).hbm = s.hbm := rfl
@[simp] theorem State.setVLanes_pad (s : State) (d : Reg) (w : Vec) (l : Nat) : (s.setVLanes d w l).pad = s.pad := rfl
@[simp] theorem State.setVLanes_badHbm (s : State) (d : Reg) (w : Vec) (l : Nat) : (s.setVLanes d w l).badHbm = s.badHbm := rfl
@[simp] theorem State.setVLanes_badPad (s : State) (d : Reg) (w : Vec) (l : Nat) : (s.setVLanes d w l).badPad = s.badPad := rfl
@[simp] theorem State.setVLanes_lineKeys (s : State) (d : Reg) (w : Vec) (l : Nat) : (s.setVLanes d w l).lineKeys = s.lineKeys := rfl
@[simp] theorem State.setVLanes_keys (s : State) (d : Reg) (w : Vec) (l : Nat) : (s.setVLanes d w l).keys = s.keys := rfl
@[simp] theorem State.setVLanes_tags (s : State) (d : Reg) (w : Vec) (l : Nat) : (s.setVLanes d w l).tags = s.tags := rfl
@[simp] theorem State.setVLanes_l2p (s : State) (d : Reg) (w : Vec) (l : Nat) : (s.setVLanes d w l).l2p = s.l2p := rfl
@[simp] theorem State.setVLanes_launches (s : State) (d : Reg) (w : Vec) (l : Nat) : (s.setVLanes d w l).launches = s.launches := rfl
@[simp] theorem State.setVLanes_sites (s : State) (d : Reg) (w : Vec) (l : Nat) : (s.setVLanes d w l).sites = s.sites := rfl
@[simp] theorem State.setVLanes_devidx (s : State) (d : Reg) (w : Vec) (l : Nat) : (s.setVLanes d w l).devidx = s.devidx := rfl
@[simp] theorem State.setVLanes_xroot (s : State) (d : Reg) (w : Vec) (l : Nat) : (s.setVLanes d w l).xroot = s.xroot := rfl
@[simp] theorem State.setVLanes_fnroute (s : State) (d : Reg) (w : Vec) (l : Nat) : (s.setVLanes d w l).fnroute = s.fnroute := rfl
@[simp] theorem State.setVLanes_patterns (s : State) (d : Reg) (w : Vec) (l : Nat) : (s.setVLanes d w l).patterns = s.patterns := rfl
@[simp] theorem State.setVLanes_records (s : State) (d : Reg) (w : Vec) (l : Nat) : (s.setVLanes d w l).records = s.records := rfl
@[simp] theorem State.setVLanes_joins (s : State) (d : Reg) (w : Vec) (l : Nat) : (s.setVLanes d w l).joins = s.joins := rfl
@[simp] theorem State.setVLanes_posts (s : State) (d : Reg) (w : Vec) (l : Nat) : (s.setVLanes d w l).posts = s.posts := rfl
@[simp] theorem State.setVLanes_cancels (s : State) (d : Reg) (w : Vec) (l : Nat) : (s.setVLanes d w l).cancels = s.cancels := rfl
@[simp] theorem State.setVLanes_unstarted (s : State) (d : Reg) (w : Vec) (l : Nat) : (s.setVLanes d w l).unstarted = s.unstarted := rfl
@[simp] theorem State.setVLanes_near (s : State) (d : Reg) (w : Vec) (l : Nat) : (s.setVLanes d w l).near = s.near := rfl
@[simp] theorem State.setVLanes_l1 (s : State) (d : Reg) (w : Vec) (l : Nat) : (s.setVLanes d w l).l1 = s.l1 := rfl
@[simp] theorem State.setVLanes_slices (s : State) (d : Reg) (w : Vec) (l : Nat) : (s.setVLanes d w l).slices = s.slices := rfl
@[simp] theorem State.setVLanes_ports (s : State) (d : Reg) (w : Vec) (l : Nat) : (s.setVLanes d w l).ports = s.ports := rfl
@[simp] theorem State.setVLanes_held (s : State) (d : Reg) (w : Vec) (l : Nat) : (s.setVLanes d w l).held = s.held := rfl
@[simp] theorem State.setVLanes_bounce (s : State) (d : Reg) (w : Vec) (l : Nat) : (s.setVLanes d w l).bounce = s.bounce := rfl
@[simp] theorem State.setVLanes_ringWork (s : State) (d : Reg) (w : Vec) (l : Nat) : (s.setVLanes d w l).ringWork = s.ringWork := rfl
@[simp] theorem State.setVLanes_hostOut (s : State) (d : Reg) (w : Vec) (l : Nat) : (s.setVLanes d w l).hostOut = s.hostOut := rfl
@[simp] theorem State.setVLanes_host (s : State) (d : Reg) (w : Vec) (l : Nat) : (s.setVLanes d w l).host = s.host := rfl
@[simp] theorem State.setVLanes_stopped (s : State) (d : Reg) (w : Vec) (l : Nat) : (s.setVLanes d w l).stopped = s.stopped := rfl
@[simp] theorem State.setVLanes_unitOps (s : State) (d : Reg) (w : Vec) (l : Nat) : (s.setVLanes d w l).unitOps = s.unitOps := rfl
@[simp] theorem State.setVLanes_unitOpq (s : State) (d : Reg) (w : Vec) (l : Nat) : (s.setVLanes d w l).unitOpq = s.unitOpq := rfl
@[simp] theorem State.setVLanes_thermlim (s : State) (d : Reg) (w : Vec) (l : Nat) : (s.setVLanes d w l).thermlim = s.thermlim := rfl
@[simp] theorem State.setVLanes_governor (s : State) (d : Reg) (w : Vec) (l : Nat) : (s.setVLanes d w l).governor = s.governor := rfl
@[simp] theorem State.setVLanes_boot (s : State) (d : Reg) (w : Vec) (l : Nat) : (s.setVLanes d w l).boot = s.boot := rfl
@[simp] theorem State.setVLanes_savedTasks (s : State) (d : Reg) (w : Vec) (l : Nat) : (s.setVLanes d w l).savedTasks = s.savedTasks := rfl
@[simp] theorem State.setVLanes_restores (s : State) (d : Reg) (w : Vec) (l : Nat) : (s.setVLanes d w l).restores = s.restores := rfl
@[simp] theorem State.setVLanes_transfers (s : State) (d : Reg) (w : Vec) (l : Nat) : (s.setVLanes d w l).transfers = s.transfers := rfl
@[simp] theorem State.setVLanes_units (s : State) (d : Reg) (w : Vec) (l : Nat) : (s.setVLanes d w l).units = s.units := rfl
@[simp] theorem State.setVLanes_mrems (s : State) (d : Reg) (w : Vec) (l : Nat) : (s.setVLanes d w l).mrems = s.mrems := rfl
@[simp] theorem State.setVLanes_jobs (s : State) (d : Reg) (w : Vec) (l : Nat) : (s.setVLanes d w l).jobs = s.jobs := rfl
@[simp] theorem State.setVLanes_dirty (s : State) (d : Reg) (w : Vec) (l : Nat) : (s.setVLanes d w l).dirty = s.dirty := rfl
@[simp] theorem State.setVLanes_cut (s : State) (d : Reg) (w : Vec) (l : Nat) : (s.setVLanes d w l).cut = s.cut := rfl
@[simp] theorem State.setVLanes_stage (s : State) (d : Reg) (w : Vec) (l : Nat) : (s.setVLanes d w l).stage = s.stage := rfl
@[simp] theorem State.setVLanes_groups (s : State) (d : Reg) (w : Vec) (l : Nat) : (s.setVLanes d w l).groups = s.groups := rfl
@[simp] theorem State.setVLanes_pushes (s : State) (d : Reg) (w : Vec) (l : Nat) : (s.setVLanes d w l).pushes = s.pushes := rfl
@[simp] theorem State.setVLanes_partition (s : State) (d : Reg) (w : Vec) (l : Nat) : (s.setVLanes d w l).partition = s.partition := rfl
@[simp] theorem State.setVLanes_reach (s : State) (d : Reg) (w : Vec) (l : Nat) : (s.setVLanes d w l).reach = s.reach := rfl
@[simp] theorem State.setVLanes_flows (s : State) (d : Reg) (w : Vec) (l : Nat) : (s.setVLanes d w l).flows = s.flows := rfl
@[simp] theorem State.setVLanes_serai (s : State) (d : Reg) (w : Vec) (l : Nat) : (s.setVLanes d w l).serai = s.serai := rfl
@[simp] theorem State.setVLanes_out (s : State) (d : Reg) (w : Vec) (l : Nat) : (s.setVLanes d w l).out = s.out := rfl
@[simp] theorem State.setVLanes_rounds (s : State) (d : Reg) (w : Vec) (l : Nat) : (s.setVLanes d w l).rounds = s.rounds := rfl
@[simp] theorem State.setVLanes_rndlen (s : State) (d : Reg) (w : Vec) (l : Nat) : (s.setVLanes d w l).rndlen = s.rndlen := rfl
@[simp] theorem State.setVLanes_rndset (s : State) (d : Reg) (w : Vec) (l : Nat) : (s.setVLanes d w l).rndset = s.rndset := rfl
@[simp] theorem State.setVLanes_reachva (s : State) (d : Reg) (w : Vec) (l : Nat) : (s.setVLanes d w l).reachva = s.reachva := rfl
@[simp] theorem State.setVLanes_rto (s : State) (d : Reg) (w : Vec) (l : Nat) : (s.setVLanes d w l).rto = s.rto := rfl
@[simp] theorem State.setVLanes_parkctl (s : State) (d : Reg) (w : Vec) (l : Nat) : (s.setVLanes d w l).parkctl = s.parkctl := rfl
@[simp] theorem State.setVLanes_faberr (s : State) (d : Reg) (w : Vec) (l : Nat) : (s.setVLanes d w l).faberr = s.faberr := rfl
@[simp] theorem State.setVLanes_fabports (s : State) (d : Reg) (w : Vec) (l : Nat) : (s.setVLanes d w l).fabports = s.fabports := rfl
@[simp] theorem State.setVLanes_plan (s : State) (d : Reg) (w : Vec) (l : Nat) : (s.setVLanes d w l).plan = s.plan := rfl
@[simp] theorem State.setVLanes_unrouted (s : State) (d : Reg) (w : Vec) (l : Nat) : (s.setVLanes d w l).unrouted = s.unrouted := rfl

/-! ### `State.setV` -/

@[simp] theorem State.setV_now (s : State) (d : Reg) (w : Vec) : (s.setV d w).now = s.now := rfl
@[simp] theorem State.setV_agenda (s : State) (d : Reg) (w : Vec) : (s.setV d w).agenda = s.agenda := rfl
@[simp] theorem State.setV_turns (s : State) (d : Reg) (w : Vec) : (s.setV d w).turns = s.turns := rfl
@[simp] theorem State.setV_delays (s : State) (d : Reg) (w : Vec) : (s.setV d w).delays = s.delays := rfl
@[simp] theorem State.setV_late (s : State) (d : Reg) (w : Vec) : (s.setV d w).late = s.late := rfl
@[simp] theorem State.setV_free (s : State) (d : Reg) (w : Vec) : (s.setV d w).free = s.free := rfl
@[simp] theorem State.setV_nextId (s : State) (d : Reg) (w : Vec) : (s.setV d w).nextId = s.nextId := rfl
@[simp] theorem State.setV_outCap (s : State) (d : Reg) (w : Vec) : (s.setV d w).outCap = s.outCap := rfl
@[simp] theorem State.setV_hbm (s : State) (d : Reg) (w : Vec) : (s.setV d w).hbm = s.hbm := rfl
@[simp] theorem State.setV_pad (s : State) (d : Reg) (w : Vec) : (s.setV d w).pad = s.pad := rfl
@[simp] theorem State.setV_badHbm (s : State) (d : Reg) (w : Vec) : (s.setV d w).badHbm = s.badHbm := rfl
@[simp] theorem State.setV_badPad (s : State) (d : Reg) (w : Vec) : (s.setV d w).badPad = s.badPad := rfl
@[simp] theorem State.setV_lineKeys (s : State) (d : Reg) (w : Vec) : (s.setV d w).lineKeys = s.lineKeys := rfl
@[simp] theorem State.setV_keys (s : State) (d : Reg) (w : Vec) : (s.setV d w).keys = s.keys := rfl
@[simp] theorem State.setV_tags (s : State) (d : Reg) (w : Vec) : (s.setV d w).tags = s.tags := rfl
@[simp] theorem State.setV_l2p (s : State) (d : Reg) (w : Vec) : (s.setV d w).l2p = s.l2p := rfl
@[simp] theorem State.setV_launches (s : State) (d : Reg) (w : Vec) : (s.setV d w).launches = s.launches := rfl
@[simp] theorem State.setV_sites (s : State) (d : Reg) (w : Vec) : (s.setV d w).sites = s.sites := rfl
@[simp] theorem State.setV_devidx (s : State) (d : Reg) (w : Vec) : (s.setV d w).devidx = s.devidx := rfl
@[simp] theorem State.setV_xroot (s : State) (d : Reg) (w : Vec) : (s.setV d w).xroot = s.xroot := rfl
@[simp] theorem State.setV_fnroute (s : State) (d : Reg) (w : Vec) : (s.setV d w).fnroute = s.fnroute := rfl
@[simp] theorem State.setV_patterns (s : State) (d : Reg) (w : Vec) : (s.setV d w).patterns = s.patterns := rfl
@[simp] theorem State.setV_records (s : State) (d : Reg) (w : Vec) : (s.setV d w).records = s.records := rfl
@[simp] theorem State.setV_joins (s : State) (d : Reg) (w : Vec) : (s.setV d w).joins = s.joins := rfl
@[simp] theorem State.setV_posts (s : State) (d : Reg) (w : Vec) : (s.setV d w).posts = s.posts := rfl
@[simp] theorem State.setV_cancels (s : State) (d : Reg) (w : Vec) : (s.setV d w).cancels = s.cancels := rfl
@[simp] theorem State.setV_unstarted (s : State) (d : Reg) (w : Vec) : (s.setV d w).unstarted = s.unstarted := rfl
@[simp] theorem State.setV_near (s : State) (d : Reg) (w : Vec) : (s.setV d w).near = s.near := rfl
@[simp] theorem State.setV_l1 (s : State) (d : Reg) (w : Vec) : (s.setV d w).l1 = s.l1 := rfl
@[simp] theorem State.setV_slices (s : State) (d : Reg) (w : Vec) : (s.setV d w).slices = s.slices := rfl
@[simp] theorem State.setV_ports (s : State) (d : Reg) (w : Vec) : (s.setV d w).ports = s.ports := rfl
@[simp] theorem State.setV_held (s : State) (d : Reg) (w : Vec) : (s.setV d w).held = s.held := rfl
@[simp] theorem State.setV_bounce (s : State) (d : Reg) (w : Vec) : (s.setV d w).bounce = s.bounce := rfl
@[simp] theorem State.setV_ringWork (s : State) (d : Reg) (w : Vec) : (s.setV d w).ringWork = s.ringWork := rfl
@[simp] theorem State.setV_hostOut (s : State) (d : Reg) (w : Vec) : (s.setV d w).hostOut = s.hostOut := rfl
@[simp] theorem State.setV_host (s : State) (d : Reg) (w : Vec) : (s.setV d w).host = s.host := rfl
@[simp] theorem State.setV_stopped (s : State) (d : Reg) (w : Vec) : (s.setV d w).stopped = s.stopped := rfl
@[simp] theorem State.setV_unitOps (s : State) (d : Reg) (w : Vec) : (s.setV d w).unitOps = s.unitOps := rfl
@[simp] theorem State.setV_unitOpq (s : State) (d : Reg) (w : Vec) : (s.setV d w).unitOpq = s.unitOpq := rfl
@[simp] theorem State.setV_thermlim (s : State) (d : Reg) (w : Vec) : (s.setV d w).thermlim = s.thermlim := rfl
@[simp] theorem State.setV_governor (s : State) (d : Reg) (w : Vec) : (s.setV d w).governor = s.governor := rfl
@[simp] theorem State.setV_boot (s : State) (d : Reg) (w : Vec) : (s.setV d w).boot = s.boot := rfl
@[simp] theorem State.setV_savedTasks (s : State) (d : Reg) (w : Vec) : (s.setV d w).savedTasks = s.savedTasks := rfl
@[simp] theorem State.setV_restores (s : State) (d : Reg) (w : Vec) : (s.setV d w).restores = s.restores := rfl
@[simp] theorem State.setV_transfers (s : State) (d : Reg) (w : Vec) : (s.setV d w).transfers = s.transfers := rfl
@[simp] theorem State.setV_units (s : State) (d : Reg) (w : Vec) : (s.setV d w).units = s.units := rfl
@[simp] theorem State.setV_mrems (s : State) (d : Reg) (w : Vec) : (s.setV d w).mrems = s.mrems := rfl
@[simp] theorem State.setV_jobs (s : State) (d : Reg) (w : Vec) : (s.setV d w).jobs = s.jobs := rfl
@[simp] theorem State.setV_dirty (s : State) (d : Reg) (w : Vec) : (s.setV d w).dirty = s.dirty := rfl
@[simp] theorem State.setV_cut (s : State) (d : Reg) (w : Vec) : (s.setV d w).cut = s.cut := rfl
@[simp] theorem State.setV_stage (s : State) (d : Reg) (w : Vec) : (s.setV d w).stage = s.stage := rfl
@[simp] theorem State.setV_groups (s : State) (d : Reg) (w : Vec) : (s.setV d w).groups = s.groups := rfl
@[simp] theorem State.setV_pushes (s : State) (d : Reg) (w : Vec) : (s.setV d w).pushes = s.pushes := rfl
@[simp] theorem State.setV_partition (s : State) (d : Reg) (w : Vec) : (s.setV d w).partition = s.partition := rfl
@[simp] theorem State.setV_reach (s : State) (d : Reg) (w : Vec) : (s.setV d w).reach = s.reach := rfl
@[simp] theorem State.setV_flows (s : State) (d : Reg) (w : Vec) : (s.setV d w).flows = s.flows := rfl
@[simp] theorem State.setV_serai (s : State) (d : Reg) (w : Vec) : (s.setV d w).serai = s.serai := rfl
@[simp] theorem State.setV_out (s : State) (d : Reg) (w : Vec) : (s.setV d w).out = s.out := rfl
@[simp] theorem State.setV_rounds (s : State) (d : Reg) (w : Vec) : (s.setV d w).rounds = s.rounds := rfl
@[simp] theorem State.setV_rndlen (s : State) (d : Reg) (w : Vec) : (s.setV d w).rndlen = s.rndlen := rfl
@[simp] theorem State.setV_rndset (s : State) (d : Reg) (w : Vec) : (s.setV d w).rndset = s.rndset := rfl
@[simp] theorem State.setV_reachva (s : State) (d : Reg) (w : Vec) : (s.setV d w).reachva = s.reachva := rfl
@[simp] theorem State.setV_rto (s : State) (d : Reg) (w : Vec) : (s.setV d w).rto = s.rto := rfl
@[simp] theorem State.setV_parkctl (s : State) (d : Reg) (w : Vec) : (s.setV d w).parkctl = s.parkctl := rfl
@[simp] theorem State.setV_faberr (s : State) (d : Reg) (w : Vec) : (s.setV d w).faberr = s.faberr := rfl
@[simp] theorem State.setV_fabports (s : State) (d : Reg) (w : Vec) : (s.setV d w).fabports = s.fabports := rfl
@[simp] theorem State.setV_plan (s : State) (d : Reg) (w : Vec) : (s.setV d w).plan = s.plan := rfl
@[simp] theorem State.setV_unrouted (s : State) (d : Reg) (w : Vec) : (s.setV d w).unrouted = s.unrouted := rfl

/-! ### `State.setP` -/

@[simp] theorem State.setP_now (s : State) (d : Fin 8) (w : Pred) : (s.setP d w).now = s.now := rfl
@[simp] theorem State.setP_agenda (s : State) (d : Fin 8) (w : Pred) : (s.setP d w).agenda = s.agenda := rfl
@[simp] theorem State.setP_turns (s : State) (d : Fin 8) (w : Pred) : (s.setP d w).turns = s.turns := rfl
@[simp] theorem State.setP_delays (s : State) (d : Fin 8) (w : Pred) : (s.setP d w).delays = s.delays := rfl
@[simp] theorem State.setP_late (s : State) (d : Fin 8) (w : Pred) : (s.setP d w).late = s.late := rfl
@[simp] theorem State.setP_free (s : State) (d : Fin 8) (w : Pred) : (s.setP d w).free = s.free := rfl
@[simp] theorem State.setP_nextId (s : State) (d : Fin 8) (w : Pred) : (s.setP d w).nextId = s.nextId := rfl
@[simp] theorem State.setP_outCap (s : State) (d : Fin 8) (w : Pred) : (s.setP d w).outCap = s.outCap := rfl
@[simp] theorem State.setP_hbm (s : State) (d : Fin 8) (w : Pred) : (s.setP d w).hbm = s.hbm := rfl
@[simp] theorem State.setP_pad (s : State) (d : Fin 8) (w : Pred) : (s.setP d w).pad = s.pad := rfl
@[simp] theorem State.setP_badHbm (s : State) (d : Fin 8) (w : Pred) : (s.setP d w).badHbm = s.badHbm := rfl
@[simp] theorem State.setP_badPad (s : State) (d : Fin 8) (w : Pred) : (s.setP d w).badPad = s.badPad := rfl
@[simp] theorem State.setP_lineKeys (s : State) (d : Fin 8) (w : Pred) : (s.setP d w).lineKeys = s.lineKeys := rfl
@[simp] theorem State.setP_keys (s : State) (d : Fin 8) (w : Pred) : (s.setP d w).keys = s.keys := rfl
@[simp] theorem State.setP_tags (s : State) (d : Fin 8) (w : Pred) : (s.setP d w).tags = s.tags := rfl
@[simp] theorem State.setP_l2p (s : State) (d : Fin 8) (w : Pred) : (s.setP d w).l2p = s.l2p := rfl
@[simp] theorem State.setP_launches (s : State) (d : Fin 8) (w : Pred) : (s.setP d w).launches = s.launches := rfl
@[simp] theorem State.setP_sites (s : State) (d : Fin 8) (w : Pred) : (s.setP d w).sites = s.sites := rfl
@[simp] theorem State.setP_devidx (s : State) (d : Fin 8) (w : Pred) : (s.setP d w).devidx = s.devidx := rfl
@[simp] theorem State.setP_xroot (s : State) (d : Fin 8) (w : Pred) : (s.setP d w).xroot = s.xroot := rfl
@[simp] theorem State.setP_fnroute (s : State) (d : Fin 8) (w : Pred) : (s.setP d w).fnroute = s.fnroute := rfl
@[simp] theorem State.setP_patterns (s : State) (d : Fin 8) (w : Pred) : (s.setP d w).patterns = s.patterns := rfl
@[simp] theorem State.setP_inflight (s : State) (d : Fin 8) (w : Pred) : (s.setP d w).inflight = s.inflight := rfl
@[simp] theorem State.setP_records (s : State) (d : Fin 8) (w : Pred) : (s.setP d w).records = s.records := rfl
@[simp] theorem State.setP_joins (s : State) (d : Fin 8) (w : Pred) : (s.setP d w).joins = s.joins := rfl
@[simp] theorem State.setP_posts (s : State) (d : Fin 8) (w : Pred) : (s.setP d w).posts = s.posts := rfl
@[simp] theorem State.setP_cancels (s : State) (d : Fin 8) (w : Pred) : (s.setP d w).cancels = s.cancels := rfl
@[simp] theorem State.setP_unstarted (s : State) (d : Fin 8) (w : Pred) : (s.setP d w).unstarted = s.unstarted := rfl
@[simp] theorem State.setP_near (s : State) (d : Fin 8) (w : Pred) : (s.setP d w).near = s.near := rfl
@[simp] theorem State.setP_l1 (s : State) (d : Fin 8) (w : Pred) : (s.setP d w).l1 = s.l1 := rfl
@[simp] theorem State.setP_slices (s : State) (d : Fin 8) (w : Pred) : (s.setP d w).slices = s.slices := rfl
@[simp] theorem State.setP_ports (s : State) (d : Fin 8) (w : Pred) : (s.setP d w).ports = s.ports := rfl
@[simp] theorem State.setP_held (s : State) (d : Fin 8) (w : Pred) : (s.setP d w).held = s.held := rfl
@[simp] theorem State.setP_bounce (s : State) (d : Fin 8) (w : Pred) : (s.setP d w).bounce = s.bounce := rfl
@[simp] theorem State.setP_ringWork (s : State) (d : Fin 8) (w : Pred) : (s.setP d w).ringWork = s.ringWork := rfl
@[simp] theorem State.setP_hostOut (s : State) (d : Fin 8) (w : Pred) : (s.setP d w).hostOut = s.hostOut := rfl
@[simp] theorem State.setP_host (s : State) (d : Fin 8) (w : Pred) : (s.setP d w).host = s.host := rfl
@[simp] theorem State.setP_stopped (s : State) (d : Fin 8) (w : Pred) : (s.setP d w).stopped = s.stopped := rfl
@[simp] theorem State.setP_unitOps (s : State) (d : Fin 8) (w : Pred) : (s.setP d w).unitOps = s.unitOps := rfl
@[simp] theorem State.setP_unitOpq (s : State) (d : Fin 8) (w : Pred) : (s.setP d w).unitOpq = s.unitOpq := rfl
@[simp] theorem State.setP_thermlim (s : State) (d : Fin 8) (w : Pred) : (s.setP d w).thermlim = s.thermlim := rfl
@[simp] theorem State.setP_governor (s : State) (d : Fin 8) (w : Pred) : (s.setP d w).governor = s.governor := rfl
@[simp] theorem State.setP_boot (s : State) (d : Fin 8) (w : Pred) : (s.setP d w).boot = s.boot := rfl
@[simp] theorem State.setP_savedTasks (s : State) (d : Fin 8) (w : Pred) : (s.setP d w).savedTasks = s.savedTasks := rfl
@[simp] theorem State.setP_restores (s : State) (d : Fin 8) (w : Pred) : (s.setP d w).restores = s.restores := rfl
@[simp] theorem State.setP_transfers (s : State) (d : Fin 8) (w : Pred) : (s.setP d w).transfers = s.transfers := rfl
@[simp] theorem State.setP_units (s : State) (d : Fin 8) (w : Pred) : (s.setP d w).units = s.units := rfl
@[simp] theorem State.setP_mrems (s : State) (d : Fin 8) (w : Pred) : (s.setP d w).mrems = s.mrems := rfl
@[simp] theorem State.setP_jobs (s : State) (d : Fin 8) (w : Pred) : (s.setP d w).jobs = s.jobs := rfl
@[simp] theorem State.setP_dirty (s : State) (d : Fin 8) (w : Pred) : (s.setP d w).dirty = s.dirty := rfl
@[simp] theorem State.setP_cut (s : State) (d : Fin 8) (w : Pred) : (s.setP d w).cut = s.cut := rfl
@[simp] theorem State.setP_stage (s : State) (d : Fin 8) (w : Pred) : (s.setP d w).stage = s.stage := rfl
@[simp] theorem State.setP_groups (s : State) (d : Fin 8) (w : Pred) : (s.setP d w).groups = s.groups := rfl
@[simp] theorem State.setP_pushes (s : State) (d : Fin 8) (w : Pred) : (s.setP d w).pushes = s.pushes := rfl
@[simp] theorem State.setP_partition (s : State) (d : Fin 8) (w : Pred) : (s.setP d w).partition = s.partition := rfl
@[simp] theorem State.setP_reach (s : State) (d : Fin 8) (w : Pred) : (s.setP d w).reach = s.reach := rfl
@[simp] theorem State.setP_flows (s : State) (d : Fin 8) (w : Pred) : (s.setP d w).flows = s.flows := rfl
@[simp] theorem State.setP_serai (s : State) (d : Fin 8) (w : Pred) : (s.setP d w).serai = s.serai := rfl
@[simp] theorem State.setP_out (s : State) (d : Fin 8) (w : Pred) : (s.setP d w).out = s.out := rfl
@[simp] theorem State.setP_rounds (s : State) (d : Fin 8) (w : Pred) : (s.setP d w).rounds = s.rounds := rfl
@[simp] theorem State.setP_rndlen (s : State) (d : Fin 8) (w : Pred) : (s.setP d w).rndlen = s.rndlen := rfl
@[simp] theorem State.setP_rndset (s : State) (d : Fin 8) (w : Pred) : (s.setP d w).rndset = s.rndset := rfl
@[simp] theorem State.setP_reachva (s : State) (d : Fin 8) (w : Pred) : (s.setP d w).reachva = s.reachva := rfl
@[simp] theorem State.setP_rto (s : State) (d : Fin 8) (w : Pred) : (s.setP d w).rto = s.rto := rfl
@[simp] theorem State.setP_parkctl (s : State) (d : Fin 8) (w : Pred) : (s.setP d w).parkctl = s.parkctl := rfl
@[simp] theorem State.setP_faberr (s : State) (d : Fin 8) (w : Pred) : (s.setP d w).faberr = s.faberr := rfl
@[simp] theorem State.setP_fabports (s : State) (d : Fin 8) (w : Pred) : (s.setP d w).fabports = s.fabports := rfl
@[simp] theorem State.setP_plan (s : State) (d : Fin 8) (w : Pred) : (s.setP d w).plan = s.plan := rfl
@[simp] theorem State.setP_unrouted (s : State) (d : Fin 8) (w : Pred) : (s.setP d w).unrouted = s.unrouted := rfl

/-! ### `State.raise` -/

@[simp] theorem State.raise_now (s : State) (f : BitVec 5) : (s.raise f).now = s.now := rfl
@[simp] theorem State.raise_agenda (s : State) (f : BitVec 5) : (s.raise f).agenda = s.agenda := rfl
@[simp] theorem State.raise_turns (s : State) (f : BitVec 5) : (s.raise f).turns = s.turns := rfl
@[simp] theorem State.raise_delays (s : State) (f : BitVec 5) : (s.raise f).delays = s.delays := rfl
@[simp] theorem State.raise_late (s : State) (f : BitVec 5) : (s.raise f).late = s.late := rfl
@[simp] theorem State.raise_free (s : State) (f : BitVec 5) : (s.raise f).free = s.free := rfl
@[simp] theorem State.raise_nextId (s : State) (f : BitVec 5) : (s.raise f).nextId = s.nextId := rfl
@[simp] theorem State.raise_outCap (s : State) (f : BitVec 5) : (s.raise f).outCap = s.outCap := rfl
@[simp] theorem State.raise_hbm (s : State) (f : BitVec 5) : (s.raise f).hbm = s.hbm := rfl
@[simp] theorem State.raise_pad (s : State) (f : BitVec 5) : (s.raise f).pad = s.pad := rfl
@[simp] theorem State.raise_badHbm (s : State) (f : BitVec 5) : (s.raise f).badHbm = s.badHbm := rfl
@[simp] theorem State.raise_badPad (s : State) (f : BitVec 5) : (s.raise f).badPad = s.badPad := rfl
@[simp] theorem State.raise_lineKeys (s : State) (f : BitVec 5) : (s.raise f).lineKeys = s.lineKeys := rfl
@[simp] theorem State.raise_keys (s : State) (f : BitVec 5) : (s.raise f).keys = s.keys := rfl
@[simp] theorem State.raise_tags (s : State) (f : BitVec 5) : (s.raise f).tags = s.tags := rfl
@[simp] theorem State.raise_l2p (s : State) (f : BitVec 5) : (s.raise f).l2p = s.l2p := rfl
@[simp] theorem State.raise_launches (s : State) (f : BitVec 5) : (s.raise f).launches = s.launches := rfl
@[simp] theorem State.raise_sites (s : State) (f : BitVec 5) : (s.raise f).sites = s.sites := rfl
@[simp] theorem State.raise_devidx (s : State) (f : BitVec 5) : (s.raise f).devidx = s.devidx := rfl
@[simp] theorem State.raise_xroot (s : State) (f : BitVec 5) : (s.raise f).xroot = s.xroot := rfl
@[simp] theorem State.raise_fnroute (s : State) (f : BitVec 5) : (s.raise f).fnroute = s.fnroute := rfl
@[simp] theorem State.raise_patterns (s : State) (f : BitVec 5) : (s.raise f).patterns = s.patterns := rfl
@[simp] theorem State.raise_inflight (s : State) (f : BitVec 5) : (s.raise f).inflight = s.inflight := rfl
@[simp] theorem State.raise_records (s : State) (f : BitVec 5) : (s.raise f).records = s.records := rfl
@[simp] theorem State.raise_joins (s : State) (f : BitVec 5) : (s.raise f).joins = s.joins := rfl
@[simp] theorem State.raise_posts (s : State) (f : BitVec 5) : (s.raise f).posts = s.posts := rfl
@[simp] theorem State.raise_cancels (s : State) (f : BitVec 5) : (s.raise f).cancels = s.cancels := rfl
@[simp] theorem State.raise_unstarted (s : State) (f : BitVec 5) : (s.raise f).unstarted = s.unstarted := rfl
@[simp] theorem State.raise_near (s : State) (f : BitVec 5) : (s.raise f).near = s.near := rfl
@[simp] theorem State.raise_l1 (s : State) (f : BitVec 5) : (s.raise f).l1 = s.l1 := rfl
@[simp] theorem State.raise_slices (s : State) (f : BitVec 5) : (s.raise f).slices = s.slices := rfl
@[simp] theorem State.raise_ports (s : State) (f : BitVec 5) : (s.raise f).ports = s.ports := rfl
@[simp] theorem State.raise_held (s : State) (f : BitVec 5) : (s.raise f).held = s.held := rfl
@[simp] theorem State.raise_bounce (s : State) (f : BitVec 5) : (s.raise f).bounce = s.bounce := rfl
@[simp] theorem State.raise_ringWork (s : State) (f : BitVec 5) : (s.raise f).ringWork = s.ringWork := rfl
@[simp] theorem State.raise_hostOut (s : State) (f : BitVec 5) : (s.raise f).hostOut = s.hostOut := rfl
@[simp] theorem State.raise_host (s : State) (f : BitVec 5) : (s.raise f).host = s.host := rfl
@[simp] theorem State.raise_stopped (s : State) (f : BitVec 5) : (s.raise f).stopped = s.stopped := rfl
@[simp] theorem State.raise_unitOps (s : State) (f : BitVec 5) : (s.raise f).unitOps = s.unitOps := rfl
@[simp] theorem State.raise_unitOpq (s : State) (f : BitVec 5) : (s.raise f).unitOpq = s.unitOpq := rfl
@[simp] theorem State.raise_thermlim (s : State) (f : BitVec 5) : (s.raise f).thermlim = s.thermlim := rfl
@[simp] theorem State.raise_governor (s : State) (f : BitVec 5) : (s.raise f).governor = s.governor := rfl
@[simp] theorem State.raise_boot (s : State) (f : BitVec 5) : (s.raise f).boot = s.boot := rfl
@[simp] theorem State.raise_savedTasks (s : State) (f : BitVec 5) : (s.raise f).savedTasks = s.savedTasks := rfl
@[simp] theorem State.raise_restores (s : State) (f : BitVec 5) : (s.raise f).restores = s.restores := rfl
@[simp] theorem State.raise_transfers (s : State) (f : BitVec 5) : (s.raise f).transfers = s.transfers := rfl
@[simp] theorem State.raise_units (s : State) (f : BitVec 5) : (s.raise f).units = s.units := rfl
@[simp] theorem State.raise_mrems (s : State) (f : BitVec 5) : (s.raise f).mrems = s.mrems := rfl
@[simp] theorem State.raise_jobs (s : State) (f : BitVec 5) : (s.raise f).jobs = s.jobs := rfl
@[simp] theorem State.raise_dirty (s : State) (f : BitVec 5) : (s.raise f).dirty = s.dirty := rfl
@[simp] theorem State.raise_cut (s : State) (f : BitVec 5) : (s.raise f).cut = s.cut := rfl
@[simp] theorem State.raise_stage (s : State) (f : BitVec 5) : (s.raise f).stage = s.stage := rfl
@[simp] theorem State.raise_groups (s : State) (f : BitVec 5) : (s.raise f).groups = s.groups := rfl
@[simp] theorem State.raise_pushes (s : State) (f : BitVec 5) : (s.raise f).pushes = s.pushes := rfl
@[simp] theorem State.raise_partition (s : State) (f : BitVec 5) : (s.raise f).partition = s.partition := rfl
@[simp] theorem State.raise_reach (s : State) (f : BitVec 5) : (s.raise f).reach = s.reach := rfl
@[simp] theorem State.raise_flows (s : State) (f : BitVec 5) : (s.raise f).flows = s.flows := rfl
@[simp] theorem State.raise_serai (s : State) (f : BitVec 5) : (s.raise f).serai = s.serai := rfl
@[simp] theorem State.raise_out (s : State) (f : BitVec 5) : (s.raise f).out = s.out := rfl
@[simp] theorem State.raise_rounds (s : State) (f : BitVec 5) : (s.raise f).rounds = s.rounds := rfl
@[simp] theorem State.raise_rndlen (s : State) (f : BitVec 5) : (s.raise f).rndlen = s.rndlen := rfl
@[simp] theorem State.raise_rndset (s : State) (f : BitVec 5) : (s.raise f).rndset = s.rndset := rfl
@[simp] theorem State.raise_reachva (s : State) (f : BitVec 5) : (s.raise f).reachva = s.reachva := rfl
@[simp] theorem State.raise_rto (s : State) (f : BitVec 5) : (s.raise f).rto = s.rto := rfl
@[simp] theorem State.raise_parkctl (s : State) (f : BitVec 5) : (s.raise f).parkctl = s.parkctl := rfl
@[simp] theorem State.raise_faberr (s : State) (f : BitVec 5) : (s.raise f).faberr = s.faberr := rfl
@[simp] theorem State.raise_fabports (s : State) (f : BitVec 5) : (s.raise f).fabports = s.fabports := rfl
@[simp] theorem State.raise_plan (s : State) (f : BitVec 5) : (s.raise f).plan = s.plan := rfl
@[simp] theorem State.raise_unrouted (s : State) (f : BitVec 5) : (s.raise f).unrouted = s.unrouted := rfl

/-! ### `State.padWrite` -/

@[simp] theorem State.padWrite_now (s : State) (n a k x : Nat) : (s.padWrite n a k x).now = s.now := rfl
@[simp] theorem State.padWrite_agenda (s : State) (n a k x : Nat) : (s.padWrite n a k x).agenda = s.agenda := rfl
@[simp] theorem State.padWrite_turns (s : State) (n a k x : Nat) : (s.padWrite n a k x).turns = s.turns := rfl
@[simp] theorem State.padWrite_delays (s : State) (n a k x : Nat) : (s.padWrite n a k x).delays = s.delays := rfl
@[simp] theorem State.padWrite_late (s : State) (n a k x : Nat) : (s.padWrite n a k x).late = s.late := rfl
@[simp] theorem State.padWrite_free (s : State) (n a k x : Nat) : (s.padWrite n a k x).free = s.free := rfl
@[simp] theorem State.padWrite_nextId (s : State) (n a k x : Nat) : (s.padWrite n a k x).nextId = s.nextId := rfl
@[simp] theorem State.padWrite_outCap (s : State) (n a k x : Nat) : (s.padWrite n a k x).outCap = s.outCap := rfl
@[simp] theorem State.padWrite_hbm (s : State) (n a k x : Nat) : (s.padWrite n a k x).hbm = s.hbm := rfl
@[simp] theorem State.padWrite_badHbm (s : State) (n a k x : Nat) : (s.padWrite n a k x).badHbm = s.badHbm := rfl
@[simp] theorem State.padWrite_lineKeys (s : State) (n a k x : Nat) : (s.padWrite n a k x).lineKeys = s.lineKeys := rfl
@[simp] theorem State.padWrite_keys (s : State) (n a k x : Nat) : (s.padWrite n a k x).keys = s.keys := rfl
@[simp] theorem State.padWrite_cells (s : State) (n a k x : Nat) : (s.padWrite n a k x).cells = s.cells := rfl
@[simp] theorem State.padWrite_tags (s : State) (n a k x : Nat) : (s.padWrite n a k x).tags = s.tags := rfl
@[simp] theorem State.padWrite_l2p (s : State) (n a k x : Nat) : (s.padWrite n a k x).l2p = s.l2p := rfl
@[simp] theorem State.padWrite_launches (s : State) (n a k x : Nat) : (s.padWrite n a k x).launches = s.launches := rfl
@[simp] theorem State.padWrite_sites (s : State) (n a k x : Nat) : (s.padWrite n a k x).sites = s.sites := rfl
@[simp] theorem State.padWrite_devidx (s : State) (n a k x : Nat) : (s.padWrite n a k x).devidx = s.devidx := rfl
@[simp] theorem State.padWrite_xroot (s : State) (n a k x : Nat) : (s.padWrite n a k x).xroot = s.xroot := rfl
@[simp] theorem State.padWrite_fnroute (s : State) (n a k x : Nat) : (s.padWrite n a k x).fnroute = s.fnroute := rfl
@[simp] theorem State.padWrite_patterns (s : State) (n a k x : Nat) : (s.padWrite n a k x).patterns = s.patterns := rfl
@[simp] theorem State.padWrite_inflight (s : State) (n a k x : Nat) : (s.padWrite n a k x).inflight = s.inflight := rfl
@[simp] theorem State.padWrite_records (s : State) (n a k x : Nat) : (s.padWrite n a k x).records = s.records := rfl
@[simp] theorem State.padWrite_joins (s : State) (n a k x : Nat) : (s.padWrite n a k x).joins = s.joins := rfl
@[simp] theorem State.padWrite_posts (s : State) (n a k x : Nat) : (s.padWrite n a k x).posts = s.posts := rfl
@[simp] theorem State.padWrite_cancels (s : State) (n a k x : Nat) : (s.padWrite n a k x).cancels = s.cancels := rfl
@[simp] theorem State.padWrite_unstarted (s : State) (n a k x : Nat) : (s.padWrite n a k x).unstarted = s.unstarted := rfl
@[simp] theorem State.padWrite_near (s : State) (n a k x : Nat) : (s.padWrite n a k x).near = s.near := rfl
@[simp] theorem State.padWrite_l1 (s : State) (n a k x : Nat) : (s.padWrite n a k x).l1 = s.l1 := rfl
@[simp] theorem State.padWrite_slices (s : State) (n a k x : Nat) : (s.padWrite n a k x).slices = s.slices := rfl
@[simp] theorem State.padWrite_ports (s : State) (n a k x : Nat) : (s.padWrite n a k x).ports = s.ports := rfl
@[simp] theorem State.padWrite_held (s : State) (n a k x : Nat) : (s.padWrite n a k x).held = s.held := rfl
@[simp] theorem State.padWrite_bounce (s : State) (n a k x : Nat) : (s.padWrite n a k x).bounce = s.bounce := rfl
@[simp] theorem State.padWrite_ringWork (s : State) (n a k x : Nat) : (s.padWrite n a k x).ringWork = s.ringWork := rfl
@[simp] theorem State.padWrite_hostOut (s : State) (n a k x : Nat) : (s.padWrite n a k x).hostOut = s.hostOut := rfl
@[simp] theorem State.padWrite_host (s : State) (n a k x : Nat) : (s.padWrite n a k x).host = s.host := rfl
@[simp] theorem State.padWrite_stopped (s : State) (n a k x : Nat) : (s.padWrite n a k x).stopped = s.stopped := rfl
@[simp] theorem State.padWrite_unitOps (s : State) (n a k x : Nat) : (s.padWrite n a k x).unitOps = s.unitOps := rfl
@[simp] theorem State.padWrite_unitOpq (s : State) (n a k x : Nat) : (s.padWrite n a k x).unitOpq = s.unitOpq := rfl
@[simp] theorem State.padWrite_thermlim (s : State) (n a k x : Nat) : (s.padWrite n a k x).thermlim = s.thermlim := rfl
@[simp] theorem State.padWrite_governor (s : State) (n a k x : Nat) : (s.padWrite n a k x).governor = s.governor := rfl
@[simp] theorem State.padWrite_boot (s : State) (n a k x : Nat) : (s.padWrite n a k x).boot = s.boot := rfl
@[simp] theorem State.padWrite_savedTasks (s : State) (n a k x : Nat) : (s.padWrite n a k x).savedTasks = s.savedTasks := rfl
@[simp] theorem State.padWrite_restores (s : State) (n a k x : Nat) : (s.padWrite n a k x).restores = s.restores := rfl
@[simp] theorem State.padWrite_transfers (s : State) (n a k x : Nat) : (s.padWrite n a k x).transfers = s.transfers := rfl
@[simp] theorem State.padWrite_units (s : State) (n a k x : Nat) : (s.padWrite n a k x).units = s.units := rfl
@[simp] theorem State.padWrite_mrems (s : State) (n a k x : Nat) : (s.padWrite n a k x).mrems = s.mrems := rfl
@[simp] theorem State.padWrite_jobs (s : State) (n a k x : Nat) : (s.padWrite n a k x).jobs = s.jobs := rfl
@[simp] theorem State.padWrite_dirty (s : State) (n a k x : Nat) : (s.padWrite n a k x).dirty = s.dirty := rfl
@[simp] theorem State.padWrite_cut (s : State) (n a k x : Nat) : (s.padWrite n a k x).cut = s.cut := rfl
@[simp] theorem State.padWrite_stage (s : State) (n a k x : Nat) : (s.padWrite n a k x).stage = s.stage := rfl
@[simp] theorem State.padWrite_groups (s : State) (n a k x : Nat) : (s.padWrite n a k x).groups = s.groups := rfl
@[simp] theorem State.padWrite_pushes (s : State) (n a k x : Nat) : (s.padWrite n a k x).pushes = s.pushes := rfl
@[simp] theorem State.padWrite_partition (s : State) (n a k x : Nat) : (s.padWrite n a k x).partition = s.partition := rfl
@[simp] theorem State.padWrite_reach (s : State) (n a k x : Nat) : (s.padWrite n a k x).reach = s.reach := rfl
@[simp] theorem State.padWrite_flows (s : State) (n a k x : Nat) : (s.padWrite n a k x).flows = s.flows := rfl
@[simp] theorem State.padWrite_serai (s : State) (n a k x : Nat) : (s.padWrite n a k x).serai = s.serai := rfl
@[simp] theorem State.padWrite_out (s : State) (n a k x : Nat) : (s.padWrite n a k x).out = s.out := rfl
@[simp] theorem State.padWrite_rounds (s : State) (n a k x : Nat) : (s.padWrite n a k x).rounds = s.rounds := rfl
@[simp] theorem State.padWrite_rndlen (s : State) (n a k x : Nat) : (s.padWrite n a k x).rndlen = s.rndlen := rfl
@[simp] theorem State.padWrite_rndset (s : State) (n a k x : Nat) : (s.padWrite n a k x).rndset = s.rndset := rfl
@[simp] theorem State.padWrite_reachva (s : State) (n a k x : Nat) : (s.padWrite n a k x).reachva = s.reachva := rfl
@[simp] theorem State.padWrite_rto (s : State) (n a k x : Nat) : (s.padWrite n a k x).rto = s.rto := rfl
@[simp] theorem State.padWrite_parkctl (s : State) (n a k x : Nat) : (s.padWrite n a k x).parkctl = s.parkctl := rfl
@[simp] theorem State.padWrite_faberr (s : State) (n a k x : Nat) : (s.padWrite n a k x).faberr = s.faberr := rfl
@[simp] theorem State.padWrite_fabports (s : State) (n a k x : Nat) : (s.padWrite n a k x).fabports = s.fabports := rfl
@[simp] theorem State.padWrite_plan (s : State) (n a k x : Nat) : (s.padWrite n a k x).plan = s.plan := rfl
@[simp] theorem State.padWrite_unrouted (s : State) (n a k x : Nat) : (s.padWrite n a k x).unrouted = s.unrouted := rfl

/-! ### `State.localWrite` -/

@[simp] theorem State.localWrite_now (s : State) (a k x : Nat) : (s.localWrite a k x).now = s.now := rfl
@[simp] theorem State.localWrite_agenda (s : State) (a k x : Nat) : (s.localWrite a k x).agenda = s.agenda := rfl
@[simp] theorem State.localWrite_turns (s : State) (a k x : Nat) : (s.localWrite a k x).turns = s.turns := rfl
@[simp] theorem State.localWrite_delays (s : State) (a k x : Nat) : (s.localWrite a k x).delays = s.delays := rfl
@[simp] theorem State.localWrite_late (s : State) (a k x : Nat) : (s.localWrite a k x).late = s.late := rfl
@[simp] theorem State.localWrite_free (s : State) (a k x : Nat) : (s.localWrite a k x).free = s.free := rfl
@[simp] theorem State.localWrite_nextId (s : State) (a k x : Nat) : (s.localWrite a k x).nextId = s.nextId := rfl
@[simp] theorem State.localWrite_outCap (s : State) (a k x : Nat) : (s.localWrite a k x).outCap = s.outCap := rfl
@[simp] theorem State.localWrite_hbm (s : State) (a k x : Nat) : (s.localWrite a k x).hbm = s.hbm := rfl
@[simp] theorem State.localWrite_badHbm (s : State) (a k x : Nat) : (s.localWrite a k x).badHbm = s.badHbm := rfl
@[simp] theorem State.localWrite_lineKeys (s : State) (a k x : Nat) : (s.localWrite a k x).lineKeys = s.lineKeys := rfl
@[simp] theorem State.localWrite_keys (s : State) (a k x : Nat) : (s.localWrite a k x).keys = s.keys := rfl
@[simp] theorem State.localWrite_cells (s : State) (a k x : Nat) : (s.localWrite a k x).cells = s.cells := rfl
@[simp] theorem State.localWrite_tags (s : State) (a k x : Nat) : (s.localWrite a k x).tags = s.tags := rfl
@[simp] theorem State.localWrite_l2p (s : State) (a k x : Nat) : (s.localWrite a k x).l2p = s.l2p := rfl
@[simp] theorem State.localWrite_launches (s : State) (a k x : Nat) : (s.localWrite a k x).launches = s.launches := rfl
@[simp] theorem State.localWrite_sites (s : State) (a k x : Nat) : (s.localWrite a k x).sites = s.sites := rfl
@[simp] theorem State.localWrite_devidx (s : State) (a k x : Nat) : (s.localWrite a k x).devidx = s.devidx := rfl
@[simp] theorem State.localWrite_xroot (s : State) (a k x : Nat) : (s.localWrite a k x).xroot = s.xroot := rfl
@[simp] theorem State.localWrite_fnroute (s : State) (a k x : Nat) : (s.localWrite a k x).fnroute = s.fnroute := rfl
@[simp] theorem State.localWrite_patterns (s : State) (a k x : Nat) : (s.localWrite a k x).patterns = s.patterns := rfl
@[simp] theorem State.localWrite_inflight (s : State) (a k x : Nat) : (s.localWrite a k x).inflight = s.inflight := rfl
@[simp] theorem State.localWrite_records (s : State) (a k x : Nat) : (s.localWrite a k x).records = s.records := rfl
@[simp] theorem State.localWrite_joins (s : State) (a k x : Nat) : (s.localWrite a k x).joins = s.joins := rfl
@[simp] theorem State.localWrite_posts (s : State) (a k x : Nat) : (s.localWrite a k x).posts = s.posts := rfl
@[simp] theorem State.localWrite_cancels (s : State) (a k x : Nat) : (s.localWrite a k x).cancels = s.cancels := rfl
@[simp] theorem State.localWrite_unstarted (s : State) (a k x : Nat) : (s.localWrite a k x).unstarted = s.unstarted := rfl
@[simp] theorem State.localWrite_near (s : State) (a k x : Nat) : (s.localWrite a k x).near = s.near := rfl
@[simp] theorem State.localWrite_l1 (s : State) (a k x : Nat) : (s.localWrite a k x).l1 = s.l1 := rfl
@[simp] theorem State.localWrite_slices (s : State) (a k x : Nat) : (s.localWrite a k x).slices = s.slices := rfl
@[simp] theorem State.localWrite_ports (s : State) (a k x : Nat) : (s.localWrite a k x).ports = s.ports := rfl
@[simp] theorem State.localWrite_held (s : State) (a k x : Nat) : (s.localWrite a k x).held = s.held := rfl
@[simp] theorem State.localWrite_bounce (s : State) (a k x : Nat) : (s.localWrite a k x).bounce = s.bounce := rfl
@[simp] theorem State.localWrite_ringWork (s : State) (a k x : Nat) : (s.localWrite a k x).ringWork = s.ringWork := rfl
@[simp] theorem State.localWrite_hostOut (s : State) (a k x : Nat) : (s.localWrite a k x).hostOut = s.hostOut := rfl
@[simp] theorem State.localWrite_host (s : State) (a k x : Nat) : (s.localWrite a k x).host = s.host := rfl
@[simp] theorem State.localWrite_stopped (s : State) (a k x : Nat) : (s.localWrite a k x).stopped = s.stopped := rfl
@[simp] theorem State.localWrite_unitOps (s : State) (a k x : Nat) : (s.localWrite a k x).unitOps = s.unitOps := rfl
@[simp] theorem State.localWrite_unitOpq (s : State) (a k x : Nat) : (s.localWrite a k x).unitOpq = s.unitOpq := rfl
@[simp] theorem State.localWrite_thermlim (s : State) (a k x : Nat) : (s.localWrite a k x).thermlim = s.thermlim := rfl
@[simp] theorem State.localWrite_governor (s : State) (a k x : Nat) : (s.localWrite a k x).governor = s.governor := rfl
@[simp] theorem State.localWrite_boot (s : State) (a k x : Nat) : (s.localWrite a k x).boot = s.boot := rfl
@[simp] theorem State.localWrite_savedTasks (s : State) (a k x : Nat) : (s.localWrite a k x).savedTasks = s.savedTasks := rfl
@[simp] theorem State.localWrite_restores (s : State) (a k x : Nat) : (s.localWrite a k x).restores = s.restores := rfl
@[simp] theorem State.localWrite_transfers (s : State) (a k x : Nat) : (s.localWrite a k x).transfers = s.transfers := rfl
@[simp] theorem State.localWrite_units (s : State) (a k x : Nat) : (s.localWrite a k x).units = s.units := rfl
@[simp] theorem State.localWrite_mrems (s : State) (a k x : Nat) : (s.localWrite a k x).mrems = s.mrems := rfl
@[simp] theorem State.localWrite_jobs (s : State) (a k x : Nat) : (s.localWrite a k x).jobs = s.jobs := rfl
@[simp] theorem State.localWrite_dirty (s : State) (a k x : Nat) : (s.localWrite a k x).dirty = s.dirty := rfl
@[simp] theorem State.localWrite_cut (s : State) (a k x : Nat) : (s.localWrite a k x).cut = s.cut := rfl
@[simp] theorem State.localWrite_stage (s : State) (a k x : Nat) : (s.localWrite a k x).stage = s.stage := rfl
@[simp] theorem State.localWrite_groups (s : State) (a k x : Nat) : (s.localWrite a k x).groups = s.groups := rfl
@[simp] theorem State.localWrite_pushes (s : State) (a k x : Nat) : (s.localWrite a k x).pushes = s.pushes := rfl
@[simp] theorem State.localWrite_partition (s : State) (a k x : Nat) : (s.localWrite a k x).partition = s.partition := rfl
@[simp] theorem State.localWrite_reach (s : State) (a k x : Nat) : (s.localWrite a k x).reach = s.reach := rfl
@[simp] theorem State.localWrite_flows (s : State) (a k x : Nat) : (s.localWrite a k x).flows = s.flows := rfl
@[simp] theorem State.localWrite_serai (s : State) (a k x : Nat) : (s.localWrite a k x).serai = s.serai := rfl
@[simp] theorem State.localWrite_out (s : State) (a k x : Nat) : (s.localWrite a k x).out = s.out := rfl
@[simp] theorem State.localWrite_rounds (s : State) (a k x : Nat) : (s.localWrite a k x).rounds = s.rounds := rfl
@[simp] theorem State.localWrite_rndlen (s : State) (a k x : Nat) : (s.localWrite a k x).rndlen = s.rndlen := rfl
@[simp] theorem State.localWrite_rndset (s : State) (a k x : Nat) : (s.localWrite a k x).rndset = s.rndset := rfl
@[simp] theorem State.localWrite_reachva (s : State) (a k x : Nat) : (s.localWrite a k x).reachva = s.reachva := rfl
@[simp] theorem State.localWrite_rto (s : State) (a k x : Nat) : (s.localWrite a k x).rto = s.rto := rfl
@[simp] theorem State.localWrite_parkctl (s : State) (a k x : Nat) : (s.localWrite a k x).parkctl = s.parkctl := rfl
@[simp] theorem State.localWrite_faberr (s : State) (a k x : Nat) : (s.localWrite a k x).faberr = s.faberr := rfl
@[simp] theorem State.localWrite_fabports (s : State) (a k x : Nat) : (s.localWrite a k x).fabports = s.fabports := rfl
@[simp] theorem State.localWrite_plan (s : State) (a k x : Nat) : (s.localWrite a k x).plan = s.plan := rfl
@[simp] theorem State.localWrite_unrouted (s : State) (a k x : Nat) : (s.localWrite a k x).unrouted = s.unrouted := rfl

end Sys2Proof.Machine
end

