-- ==== Sys2Proof/Laws/Ops.lean ====
section
/-! SUPPORT. Tables, cells, contexts and registers read after they are written; issue and retirement. -/
namespace Sys2Proof.Machine

/-! ### Tables -/

@[simp] theorem look_put {α : Type} (d : α) (t : List (Nat × α)) (n m : Nat) (x : α) :
    look d (put t n x) m = if m = n then x else look d t m := by
  induction t with
  | nil => simp [put, look, eq_comm]
  | cons e r ih =>
    obtain ⟨k, v⟩ := e
    by_cases h1 : n < k
    · simp [put, h1, look, eq_comm]
    · by_cases h2 : n = k
      · subst h2
        by_cases h3 : n = m
        · subst h3; simp [put, look]
        · simp [put, look, h3, Ne.symm h3]
      · by_cases h3 : k = m
        · subst h3; simp [put, h1, h2, look, Ne.symm h2]
        · simp [put, h1, h2, look, h3, ih]

@[simp] theorem look?_put {α : Type} (t : List (Nat × α)) (n m : Nat) (x : α) :
    look? (put t n x) m = if m = n then some x else look? t m := by
  induction t with
  | nil => simp [put, look?, eq_comm]
  | cons e r ih =>
    obtain ⟨k, v⟩ := e
    by_cases h1 : n < k
    · simp [put, h1, look?, eq_comm]
    · by_cases h2 : n = k
      · subst h2
        by_cases h3 : n = m
        · subst h3; simp [put, look?]
        · simp [put, look?, h3, Ne.symm h3]
      · by_cases h3 : k = m
        · subst h3; simp [put, h1, h2, look?, Ne.symm h2]
        · simp [put, h1, h2, look?, h3, ih]

/-! ### Cells and contexts -/

@[simp] theorem State.cell_setCell (s : State) (n m : Nat) (c : Cell) :
    (s.setCell n c).cell m = if m = n then c else s.cell m := by
  simp [State.cell, State.setCell, State.blank]

@[simp] theorem State.cell_modCell (s : State) (n m : Nat) (f : Cell → Cell) :
    (s.modCell n f).cell m = if m = n then f (s.cell n) else s.cell m := by
  simp [State.modCell]

@[simp] theorem Cell.ctx_setCtx (c : Cell) (k j : Nat) (x : Ctx) :
    (c.setCtx k x).ctx j = if j % 4 = k % 4 then x else c.ctx j := by
  by_cases h : j % 4 = k % 4
  · simp [Cell.ctx, Cell.setCtx, h]
  · simp [Cell.ctx, Cell.setCtx, h, Ne.symm h]

@[simp] theorem Cell.setCtx_rest (c : Cell) (k : Nat) (x : Ctx) :
    { c.setCtx k x with ctxs := c.ctxs } = c := rfl

@[simp] theorem State.ctx_setCtx (s : State) (n k m j : Nat) (x : Ctx) :
    (s.setCtx n k x).ctx m j = if m = n ∧ j % 4 = k % 4 then x else s.ctx m j := by
  by_cases h : m = n
  · subst h; simp [State.ctx, State.setCtx]
  · simp [State.ctx, State.setCtx, h]

@[simp] theorem State.ctx_modCtx (s : State) (n k m j : Nat) (f : Ctx → Ctx) :
    (s.modCtx n k f).ctx m j = if m = n ∧ j % 4 = k % 4 then f (s.ctx n k) else s.ctx m j := by
  simp [State.modCtx]

@[simp] theorem State.cur_modCur (s : State) (f : Ctx → Ctx) : (s.modCur f).cur = f s.cur := by
  simp [State.modCur, State.cur]

theorem State.ctx_modCur (s : State) (f : Ctx → Ctx) (m j : Nat) :
    (s.modCur f).ctx m j = if m = s.now.cell ∧ j % 4 = s.now.ctx % 4 then f s.cur else s.ctx m j := by
  simp [State.modCur, State.cur]

/-- A change of one context leaves the rest of its cell, and every other cell, alone. -/
theorem State.cell_modCtx_rest (s : State) (n k m : Nat) (f : Ctx → Ctx) :
    { (s.modCtx n k f).cell m with ctxs := (s.cell m).ctxs } = s.cell m := by
  by_cases h : m = n
  · subst h; simp [State.modCtx, State.setCtx]
  · simp [State.modCtx, State.setCtx, h]

/-! ### Registers -/

@[simp] theorem Ctx.getS_zero (x : Ctx) : x.getS 0 = 0 := rfl

@[simp] theorem Ctx.getS_setS (x : Ctx) (d r : Reg) (w : Word) :
    (x.setS d w).getS r = if r = d ∧ d ≠ 0 then w else x.getS r := by
  by_cases h0 : d = 0
  · subst h0; simp [Ctx.setS]
  · by_cases h : r = d
    · subst h; simp [Ctx.setS, Ctx.getS, h0]
    · have h' : d.val ≠ r.val := fun e => h (Fin.ext e.symm)
      by_cases hr : r = 0
      · subst hr; simp [h]
      · simp [Ctx.setS, Ctx.getS, h0, h, hr, h']

@[simp] theorem Ctx.getV_setV (x : Ctx) (d r : Reg) (w : Vec) :
    (x.setV d w).getV r = if r = d then w else x.getV r := by
  by_cases h : r = d
  · subst h; simp [Ctx.setV, Ctx.getV]
  · have h' : d.val ≠ r.val := fun e => h (Fin.ext e.symm)
    simp [Ctx.setV, Ctx.getV, h, h']

@[simp] theorem Ctx.getP_setP (x : Ctx) (d r : Fin 8) (w : Pred) :
    (x.setP d w).getP r = if r = d ∧ d ≠ 0 then w else x.getP r := by
  by_cases h0 : d = 0
  · subst h0; simp [Ctx.setP]
  · by_cases h : r = d
    · subst h; simp [Ctx.setP, Ctx.getP, h0]
    · have h' : d.val ≠ r.val := fun e => h (Fin.ext e.symm)
      by_cases hr : r = 0
      · subst hr; rw [if_neg (fun e => h e.1)]; rfl
      · simp [Ctx.setP, Ctx.getP, h0, h, hr, h']

@[simp] theorem State.clobber_cell (s : State) (n k : Nat) (d : Dest) (l m : Nat) : (s.clobber n k d l).cell m = s.cell m := rfl
@[simp] theorem State.clobber_ctx (s : State) (n k : Nat) (d : Dest) (l m j : Nat) : (s.clobber n k d l).ctx m j = s.ctx m j := rfl
@[simp] theorem State.clobber_cur (s : State) (n k : Nat) (d : Dest) (l : Nat) : (s.clobber n k d l).cur = s.cur := rfl

@[simp] theorem State.setS_cur (s : State) (d : Reg) (w : Word) : (s.setS d w).cur = s.cur.setS d w := by
  simp [State.setS]
@[simp] theorem State.setVLanes_cur (s : State) (d : Reg) (w : Vec) (l : Nat) : (s.setVLanes d w l).cur = s.cur.setV d w := by
  simp [State.setVLanes]
@[simp] theorem State.setV_cur (s : State) (d : Reg) (w : Vec) : (s.setV d w).cur = s.cur.setV d w := by
  simp [State.setV]
@[simp] theorem State.setP_cur (s : State) (d : Fin 8) (w : Pred) : (s.setP d w).cur = s.cur.setP d w := by
  simp [State.setP]
@[simp] theorem State.raise_cur (s : State) (f : BitVec 5) : (s.raise f).cur = { s.cur with fflags := s.cur.fflags ||| f } := by
  simp [State.raise]

@[simp] theorem Ctx.setS_stepping (x : Ctx) (d : Reg) (w : Word) : (x.setS d w).stepping = x.stepping := by
  unfold Ctx.setS; split <;> rfl
@[simp] theorem Ctx.setV_stepping (x : Ctx) (d : Reg) (w : Vec) : (x.setV d w).stepping = x.stepping := rfl
@[simp] theorem Ctx.setP_stepping (x : Ctx) (d : Fin 8) (w : Pred) : (x.setP d w).stepping = x.stepping := by
  unfold Ctx.setP; split <;> rfl
@[simp] theorem Ctx.setS_pc (x : Ctx) (d : Reg) (w : Word) : (x.setS d w).pc = x.pc := by
  unfold Ctx.setS; split <;> rfl
@[simp] theorem Ctx.setV_pc (x : Ctx) (d : Reg) (w : Vec) : (x.setV d w).pc = x.pc := rfl
@[simp] theorem Ctx.setP_pc (x : Ctx) (d : Fin 8) (w : Pred) : (x.setP d w).pc = x.pc := by
  unfold Ctx.setP; split <;> rfl

/-! ### Retirement -/

/-- All that the end of an instruction of the stream does (R44). -/
theorem Ctx.streamed_eq (x : Ctx) : x.streamed = { x with stream := x.streamed.stream, following := x.streamed.following } := by
  unfold Ctx.streamed; split
  · rfl
  · split <;> rfl

/-- It looks at the stream, the mode and the program counter alone. -/
theorem Ctx.streamed_congr {x y : Ctx} (h1 : x.stream = y.stream) (h2 : x.following = y.following) (h3 : x.pc = y.pc) :
    x.streamed.stream = y.streamed.stream ∧ x.streamed.following = y.streamed.following := by
  unfold Ctx.streamed
  rw [h1]
  cases y.stream with
  | nil => exact ⟨h1, h2⟩
  | cons e r =>
    dsimp only
    rw [h3]
    split
    · exact ⟨rfl, h2⟩
    · exact ⟨rfl, rfl⟩

theorem Ctx.apart_unfollow (x : Ctx) : x.unfollow.apart = x.apart := rfl

theorem Ctx.apart_feed (x : Ctx) (i : Instr) (sw : Bool) (pc next : CodeAddr) : (x.feed i sw pc next).apart = x.apart := by
  unfold Ctx.feed
  dsimp only
  split <;> split <;> (try split) <;> rfl

theorem look_map {α : Type} (d : α) (g : Nat → α → α) (t : List (Nat × α)) (n : Nat) :
    look d (t.map fun e => (e.1, g e.1 e.2)) n = (match look? t n with | some x => g n x | none => d) := by
  induction t with
  | nil => rfl
  | cons e r ih =>
    obtain ⟨k, v⟩ := e
    by_cases h : k = n
    · subst h; simp [look, look?]
    · simpa [look, look?, h] using ih

theorem look_eq {α : Type} (d : α) (t : List (Nat × α)) (n : Nat) : look d t n = (look? t n).getD d := by
  induction t with
  | nil => rfl
  | cons e r ih =>
    obtain ⟨k, v⟩ := e
    by_cases h : k = n
    · simp [look, look?, h]
    · simp [look, look?, h, ih]

/-- What the leader's stream does to a cell of its cluster. -/
theorem State.feedFollowers_cell (s : State) (i : Instr) (pc next : CodeAddr) (n : Nat) :
    (s.feedFollowers i pc next).cell n = s.cell n ∨
    (isLeader s.now.cell = true ∧ n / 16 = s.now.cell / 16 ∧ n ≠ s.now.cell ∧
      (s.feedFollowers i pc next).cell n = (s.cell n).setCtx s.now.ctx (((s.cell n).ctx s.now.ctx).feed i s.now.sw pc next)) := by
  unfold State.feedFollowers
  split
  · rename_i h
    have hl : isLeader s.now.cell = true := by
      simp only [Bool.and_eq_true] at h; exact h.1
    let g : Nat → Cell → Cell := fun m c => if m / 16 = s.now.cell / 16 ∧ m ≠ s.now.cell then
      c.setCtx s.now.ctx ((c.ctx s.now.ctx).feed i s.now.sw pc next) else c
    have e : (s.cells.map fun e => if e.1 / 16 = s.now.cell / 16 ∧ e.1 ≠ s.now.cell then
        (e.1, e.2.setCtx s.now.ctx ((e.2.ctx s.now.ctx).feed i s.now.sw pc next)) else e) =
        s.cells.map fun e => (e.1, g e.1 e.2) := by
      apply List.map_congr_left; intro e _; simp only [g]; split <;> rfl
    rw [e]
    simp only [State.cell, State.blank]
    rw [look_map _ g, look_eq _ s.cells]
    cases look? s.cells n with
    | none => left; rfl
    | some c =>
      by_cases hn : n / 16 = s.now.cell / 16 ∧ n ≠ s.now.cell
      · right; exact ⟨hl, hn.1, hn.2, by simp [g, hn]⟩
      · left; simp only [g, hn, if_false]; rfl
  · left; rfl

@[simp] theorem State.feedFollowers_here (s : State) (i : Instr) (pc next : CodeAddr) (k : Nat) :
    (s.feedFollowers i pc next).ctx s.now.cell k = s.ctx s.now.cell k := by
  rcases s.feedFollowers_cell i pc next s.now.cell with h | ⟨_, _, h, _⟩
  · simp [State.ctx, h]
  · exact absurd rfl h

theorem State.feedFollowers_rest (s : State) (i : Instr) (pc next : CodeAddr) :
    s.feedFollowers i pc next = { s with cells := (s.feedFollowers i pc next).cells } := by
  unfold State.feedFollowers; split <;> rfl

theorem State.feedFollowers_ctxs (s : State) (i : Instr) (pc next : CodeAddr) (n : Nat) :
    { (s.feedFollowers i pc next).cell n with ctxs := (s.cell n).ctxs } = s.cell n := by
  rcases s.feedFollowers_cell i pc next n with h | ⟨_, _, _, h⟩ <;> rw [h]
  rfl

theorem State.feedFollowers_ctx (s : State) (i : Instr) (pc next : CodeAddr) (n k : Nat) :
    (s.feedFollowers i pc next).ctx n k = s.ctx n k ∨
    (isLeader s.now.cell = true ∧ n / 16 = s.now.cell / 16 ∧ n ≠ s.now.cell ∧ k % 4 = s.now.ctx % 4 ∧
      ((s.feedFollowers i pc next).ctx n k).apart = (s.ctx n k).apart) := by
  rcases s.feedFollowers_cell i pc next n with h | ⟨h1, h2, h3, h4⟩
  · left; simp [State.ctx, h]
  · by_cases hk : k % 4 = s.now.ctx % 4
    · right
      refine ⟨h1, h2, h3, hk, ?_⟩
      have e : (s.cell n).ctx k = (s.cell n).ctx s.now.ctx := by simp [Cell.ctx, hk]
      simp [State.ctx, h4, hk, e, Ctx.apart_feed]
    · left; simp [State.ctx, h4, hk]

/-- Retirement without a single step, said once: nothing but the executing context changes, and its followers' streams. -/
theorem State.retire_retires (d : Done) (i : Instr) (pc : CodeAddr) (h : d.s.cur.stepping = false) :
    Retires d.s (d.next.getD (seqAddr i pc)) d.transfer (State.retire d i pc) := by
  obtain ⟨x, next, tr⟩ := d
  dsimp only at h ⊢
  generalize hn : next.getD (seqAddr i pc) = nx
  let f : Ctx → Ctx := fun c =>
    let c := { c with retired := c.retired + 1, answers := [], stage := 0 }
    let c := if tr || c.inTrap != 0 then { c with pc := nx } else c.backEdge nx
    let c := if x.now.streamed then c.streamed else c
    Ctx.sequel { c with
      parked := c.parked || x.now.sw
      debugStep := false
      ahead := c.ahead.filter fun e => width i ≤ codeAhead pc e.1 }
  let y := x.modCtx x.now.cell x.now.ctx f
  have hnow : y.now = x.now := rfl
  have hcur : y.cur = f x.cur := by
    show (x.modCur f).cur = _; simp
  have hbe : ∀ c : Ctx, (c.backEdge nx) = { c with pc := (c.backEdge nx).pc, lc := (c.backEdge nx).lc } := by
    intro c; unfold Ctx.backEdge; split
    · rfl
    · dsimp only; split <;> rfl
  let b : Ctx :=
    let c := { x.cur with retired := x.cur.retired + 1, answers := [], stage := 0 }
    if tr || c.inTrap != 0 then { c with pc := nx } else c.backEdge nx
  have hb : b = { x.cur with retired := x.cur.retired + 1, answers := [], stage := 0, pc := b.pc, lc := b.lc } := by
    simp only [b]; split
    · rfl
    · rw [hbe]
  have hf : f x.cur =
      { x.cur with
        retired := x.cur.retired + 1, answers := [], stage := 0, pc := b.pc, lc := b.lc
        parked := x.cur.parked || x.now.sw, debugStep := false
        stream := if x.now.streamed then b.streamed.stream else x.cur.stream
        following := if x.now.streamed then b.streamed.following else x.cur.following
        ahead := (f x.cur).ahead } := by
    have e : f x.cur = Ctx.sequel
        { (if x.now.streamed then b.streamed else b) with
          parked := (if x.now.streamed then b.streamed else b).parked || x.now.sw
          debugStep := false
          ahead := (if x.now.streamed then b.streamed else b).ahead.filter fun e => width i ≤ codeAhead pc e.1 } := rfl
    rw [e]
    cases x.now.streamed
    · simp only [Ctx.sequel, Bool.false_eq_true, if_false]; rw [hb]
    · simp only [Ctx.sequel, if_true]; rw [b.streamed_eq, hb]
  have hfs : (f x.cur).stepping = x.cur.stepping := by rw [hf]
  let go := (y.ctx x.now.cell x.now.ctx).pc
  have hr : State.retire { s := x, next := next, transfer := tr } i pc = y.feedFollowers i pc go := by
    have h1 : ((y.feedFollowers i pc go).ctx x.now.cell x.now.ctx).stepping = false := by
      rw [← hnow, State.feedFollowers_here]
      show y.cur.stepping = false
      rw [hcur, hfs, h]
    unfold State.retire
    dsimp only
    rw [hn]
    exact if_neg (by rw [h1]; decide)
  rw [hr]
  have hcur' : (y.feedFollowers i pc go).cur = f x.cur := by
    have e : (y.feedFollowers i pc go).now = y.now := by
      rw [State.feedFollowers_rest]
    unfold State.cur
    rw [e, State.feedFollowers_here]
    exact hcur
  have hahead : ∀ e ∈ (f x.cur).ahead, e ∈ x.cur.ahead := by
    intro e he
    have he' := (List.mem_filter.mp (List.mem_filter.mp he).1).1
    change e ∈ (if x.now.streamed then b.streamed else b).ahead at he'
    cases hs : x.now.streamed <;> rw [hs] at he'
    · simp only [Bool.false_eq_true, if_false] at he'; rw [hb] at he'; exact he'
    · simp only [if_true] at he'; rw [b.streamed_eq, hb] at he'; exact he'
  refine ⟨?_, ?_, ?_, ?_, ?_, ?_⟩
  · rw [State.feedFollowers_rest]; rfl
  · intro n
    have h1 := y.feedFollowers_ctxs i pc go n
    have h2 := x.cell_modCtx_rest x.now.cell x.now.ctx n f
    change { y.cell n with ctxs := (x.cell n).ctxs } = x.cell n at h2
    rw [← h2, ← h1]
  · intro n k hnk
    have hx : y.ctx n k = x.ctx n k := by simp [y, hnk]
    rw [← hx]
    exact y.feedFollowers_ctx i pc go n k
  · have hpc : (f x.cur).pc = b.pc := by rw [hf]
    have hc := Ctx.streamed_congr (x := b) (y := { x.cur with pc := b.pc }) (by rw [hb]) (by rw [hb]) rfl
    rw [hcur', hpc, ← hc.1, ← hc.2]
    rw [hf]
  · rw [hcur']
    exact hahead
  · have hpc : (f x.cur).pc = b.pc := by rw [hf]
    have hlc : (f x.cur).lc = b.lc := by rw [hf]
    rw [hcur', hpc, hlc]
    by_cases ht : tr = true ∨ x.cur.inTrap ≠ 0
    · have ht' : (tr || x.cur.inTrap != 0) = true := by simpa using ht
      simp [b, ht, ht']
    · have ht' : (tr || x.cur.inTrap != 0) = false := by
        simpa using ht
      rw [if_neg ht]
      simp only [b, ht', Bool.false_eq_true, if_false]
      have he : ∀ c : Ctx, (({ c with retired := c.retired + 1, answers := [], stage := 0 } : Ctx).backEdge nx).pc = (c.backEdge nx).pc ∧
          (({ c with retired := c.retired + 1, answers := [], stage := 0 } : Ctx).backEdge nx).lc = (c.backEdge nx).lc := by
        intro c
        have hd : ({ c with retired := c.retired + 1, answers := [], stage := 0 } : Ctx).depth = c.depth := rfl
        unfold Ctx.backEdge
        rw [hd]
        split
        · exact ⟨rfl, rfl⟩
        · dsimp only; split <;> exact ⟨rfl, rfl⟩
      exact he _

/-! ### Issue -/

/-- An instruction that executes and whose form completes retires. -/
theorem issue_ok {i : Instr} {s : State} {body : Body} {d : Done} (h : Executes i s) (hb : body s = .ok d) :
    issue i s body = .next (State.retire d i s.cur.pc) := by
  have hp : (privileged i && !s.isSys) = false := by
    cases e : privileged i
    · rfl
    · simp [h.mode e]
  simp [issue, h.decodes, hp, h.free, hb]

/-- The commonest case: it runs in sequence. -/
theorem issue_runs {i : Instr} {s x : State} {body : Body} (h : Executes i s) (hb : body s = .ok { s := x })
    (hs : x.cur.stepping = s.cur.stepping) :
    ∃ t, issue i s body = .next t ∧ Retires x (seqAddr i s.cur.pc) false t :=
  ⟨_, issue_ok h hb, State.retire_retires { s := x } i s.cur.pc (hs.trans h.unstepped)⟩

/-- A transfer of control. -/
theorem issue_jumps {i : Instr} {s x : State} {body : Body} {next : CodeAddr} (h : Executes i s)
    (hb : body s = .ok { s := x, next := some next, transfer := true }) (hs : x.cur.stepping = s.cur.stepping) :
    ∃ t, issue i s body = .next t ∧ Retires x next true t :=
  ⟨_, issue_ok h hb, State.retire_retires { s := x, next := some next, transfer := true } i s.cur.pc (hs.trans h.unstepped)⟩

/-- A form that traps takes its trap. -/
theorem issue_trap {i : Instr} {s : State} {body : Body} {c : BitVec 8} {v : Word} (h : Executes i s)
    (hb : body s = .error (.trap c v)) : issue i s body = .next (s.takeTrap s.now.cell s.now.ctx c v) := by
  have hp : (privileged i && !s.isSys) = false := by
    cases e : privileged i
    · rfl
    · simp [h.mode e]
  simp [issue, h.decodes, hp, h.free, hb]

/-- A form that waits leaves the state it waits in. -/
theorem issue_wait {i : Instr} {s x : State} {body : Body} (h : Executes i s) (hb : body s = .error (.wait x)) :
    issue i s body = .next x := by
  have hp : (privileged i && !s.isSys) = false := by
    cases e : privileged i
    · rfl
    · simp [h.mode e]
  simp [issue, h.decodes, hp, h.free, hb]

/-! ### Operand blocks and engines' accesses -/

@[simp] theorem State.timed_cur (s : State) : s.timed.cur = s.cur := rfl
@[simp] theorem State.timed_here (s : State) : s.timed.here = s.here := rfl
@[simp] theorem State.timed_late (s : State) : s.timed.late = s.late.tail := rfl
@[simp] theorem State.timed_inflight (s : State) : s.timed.inflight = s.inflight := rfl

/-- All that an interlocked access to a local or window place does when it completes: it is performed, or goes on its way. -/
theorem State.nearResult_ok {s t : State} {p : Option Place} {ea : Nat} {op : AccOp} {d : Reg} (h : s.nearResult p ea op d = .ok t) :
    ∃ pl u x fl ok, p = some pl ∧ s.nearLoad p ea true op = .ok (u, x, fl, ok) ∧
      (s.late.headD false = true ∧ t = s.timed.launched (s.lockedTo ea pl op d (if op.counted = true then none else some x)) ∨
       s.late.headD false = false ∧
        t = (let v := State.setS { u with late := s.late.tail } d (BitVec.ofNat 64 x); if op.counted = true then v.raise fl else v)) := by
  unfold State.nearResult at h
  cases hl : s.nearLoad p ea true op with
  | error e => simp [hl, bind, Except.bind] at h
  | ok r =>
    obtain ⟨u, x, fl, ok⟩ := r
    cases p with
    | none => simp [State.nearLoad] at hl
    | some pl =>
      refine ⟨pl, u, x, fl, ok, rfl, rfl, ?_⟩
      simp only [hl, bind, Except.bind] at h
      cases hd : s.late.headD false <;> rw [hd] at h
      · exact .inr ⟨rfl, (Except.ok.inj h).symm⟩
      · exact .inl ⟨rfl, (Except.ok.inj h).symm⟩

/-- An interlocked access on its way holds back what touches its register. -/
theorem State.heldBack_of_locked {s : State} {i : Instr} {a : Access} (h : a ∈ s.inflight) (hl : a.locked = true)
    (ho : s.owns s.now.cell s.now.ctx a = true) (ht : touches i a.dest = true) : s.heldBack i = true := by
  have e : s.interlocked i = true := List.any_eq_true.mpr ⟨a, h, by simp [hl, ho, ht]⟩
  simp [State.heldBack, e]

@[simp] theorem State.tookBlock_cur (s : State) : s.tookBlock.cur = s.cur := rfl
@[simp] theorem State.tookBlock_here (s : State) : s.tookBlock.here = s.here := rfl
@[simp] theorem State.tookBlock_late (s : State) : s.tookBlock.late = s.late.tail := rfl
@[simp] theorem State.tookPiece_cur (s : State) (ops : Nat) (l : List Byte) :
    (s.tookPiece ops l).cur = { s.cur with stage := 1025, answers := [.word 512 ops, .word 1024 (ofBytes l)] } := by
  simp [State.tookPiece]

/-- A form that has its whole block is as it was but for the choice it has taken; what it reads its operands from differs from it in the
rows alone. -/
theorem State.gather_ok {s t rd : State} {ops g skip a n : Nat} (h : s.gather ops g skip a n = .ok (t, rd)) :
    (t = s ∨ t = s.tookBlock) ∧ rd = { t with pad := rd.pad } := by
  unfold State.gather at h
  by_cases k : s.cur.stage - 1024 = 0
  · by_cases z : skip ≠ 0
    · rw [if_pos k, if_pos z] at h
      obtain ⟨rfl, rfl⟩ := Prod.mk.inj (Except.ok.inj h)
      exact ⟨.inl rfl, rfl⟩
    · rw [if_pos k, if_neg z] at h
      cases l : s.late.headD false
      · rw [l, if_neg Bool.false_ne_true] at h
        obtain ⟨rfl, rfl⟩ := Prod.mk.inj (Except.ok.inj h)
        exact ⟨.inr rfl, rfl⟩
      · rw [l, if_pos rfl] at h
        simp only [reduceCtorEq] at h
  · rw [if_neg k] at h
    by_cases z : s.cur.stage - 1024 < skip + (n + g - 1) / g
    · rw [if_pos z] at h
      simp only [reduceCtorEq] at h
    · rw [if_neg z] at h
      obtain ⟨rfl, rfl⟩ := Prod.mk.inj (Except.ok.inj h)
      exact ⟨.inl rfl, rfl⟩

/-- A form that takes its block in pieces stays at its instruction, and neither memory nor an access changes. -/
theorem State.gather_waits {s : State} {ops g skip a n : Nat} {e : Stop} (h : s.gather ops g skip a n = .error e) :
    ∃ t, e = .wait t ∧ t.hbm = s.hbm ∧ t.pad = s.pad ∧ t.inflight = s.inflight := by
  unfold State.gather at h
  by_cases k : s.cur.stage - 1024 = 0
  · by_cases z : skip ≠ 0
    · rw [if_pos k, if_pos z] at h
      simp only [reduceCtorEq] at h
    · rw [if_pos k, if_neg z] at h
      cases l : s.late.headD false
      · rw [l, if_neg Bool.false_ne_true] at h
        simp only [reduceCtorEq] at h
      · rw [l, if_pos rfl] at h
        exact ⟨_, (Except.error.inj h).symm, rfl, rfl, rfl⟩
  · rw [if_neg k] at h
    by_cases z : s.cur.stage - 1024 < skip + (n + g - 1) / g
    · rw [if_pos z] at h
      exact ⟨_, (Except.error.inj h).symm, rfl, rfl, rfl⟩
    · rw [if_neg z] at h
      simp only [reduceCtorEq] at h

@[simp] theorem Reach.bind_got {α β : Type} (x : α) (s : State) (f : α → State → Reach β) : (Reach.got x s).bind f = f x s := rfl
@[simp] theorem Reach.bind_fail {α β : Type} (c : Nat) (f : α → State → Reach β) : (Reach.fail c).bind f = .fail c := rfl
@[simp] theorem Reach.bind_wait {α β : Type} (s : Option State) (f : α → State → Reach β) : (Reach.wait s).bind f = .wait s := rfl

/-- What follows an engine's access has a result only where the access had one. -/
theorem Reach.bind_eq_got {α β : Type} {x : Reach α} {f : α → State → Reach β} {y : β} {t : State} (h : x.bind f = .got y t) :
    ∃ a s, x = .got a s ∧ f a s = .got y t := by
  cases x <;> simp_all [Reach.bind]

end Sys2Proof.Machine
end

