-- ==== Sys2Proof/Laws/PerInstr.lean ====
section
/-! SUPPORT. The family RoundTrip: decoding the encoding of an instruction gives it back, constructor by constructor. -/
namespace Sys2Proof.Laws
open Sys2Proof

/-- The bytes that `encode` writes decode, for a well-formed instruction, to it, its switch marker and what follows.  An event has no bytes. -/
def RoundTrip.Statement (i : Instr) : Prop :=
  WellFormed i = true → ∀ (sw : Bool) (rest : List Byte), width i ≠ 0 → decode (encode i sw ++ rest) = .ok (i, sw, rest)

theorem regAt_eq {w lo : Nat} {r : Reg} (h : w / 2 ^ lo % 32 = r.val) : regAt w lo = r := by
  apply Fin.ext; simpa [regAt, Fin.ofNat] using h

theorem predAt_eq {w lo : Nat} {r : Fin 8} (h : w / 2 ^ lo % 8 = r.val) : predAt w lo = r := by
  apply Fin.ext; simpa [predAt, Fin.ofNat] using h

theorem fieldAt_eq {w lo n : Nat} {b : BitVec n} (h : w / 2 ^ lo % 2 ^ n = b.toNat) : fieldAt w lo n = b := by
  apply BitVec.eq_of_toNat_eq; simpa [fieldAt, BitVec.toNat_ofNat] using h

theorem swAt_add {v : Nat} (sw : Bool) (h : v % 4 < 2) : swAt (v + 2 * sw.toNat) = sw := by
  have h2 : (v + 2 * sw.toNat) / 2 % 2 = sw.toNat := by cases sw <;> simp <;> omega
  rw [swAt, h2]; cases sw <;> rfl

theorem roundTrip_event {i : Instr} (h : width i = 0) : RoundTrip.Statement i := fun _ _ _ hw => absurd h hw

theorem roundTrip_two {i : Instr} {v : Nat} (hw : width i = 2) (hv : valueS0 i = v) (h1 : v % 4 = 1) (h2 : v < 2 ^ 32)
    (h : ∀ w t, t < 2 → w = v + 2 * t → decode32 w = .ok i) : RoundTrip.Statement i := by
  subst hv
  intro _ sw rest _
  have hd := h _ sw.toNat (by cases sw <;> decide) rfl
  have hs := swAt_add sw (v := valueS0 i) (by omega)
  have ht : sw.toNat < 2 := by cases sw <;> decide
  have hv : value i sw = valueS0 i + 2 * sw.toNat := rfl
  rw [← hv] at hd hs
  have hl : value i sw < 2 ^ 32 := by omega
  have ho : value i sw % 2 = 1 := by omega
  have e : encode i sw = [BitVec.ofNat 8 (value i sw), BitVec.ofNat 8 (value i sw / 256),
      BitVec.ofNat 8 (value i sw / 65536), BitVec.ofNat 8 (value i sw / 16777216)] := by
    simp [encode, hw, List.range, List.range.loop]
  rw [e]
  clear e hv
  generalize value i sw = v at *
  have h3 : v % 256 + 256 * (v / 256 % 256) = v % 65536 := by omega
  have h4 : v % 65536 + 65536 * (v / 65536 % 256 + 256 * (v / 16777216 % 256)) = v := by omega
  have h5 : swAt (v % 65536) = swAt v := by unfold swAt; congr 1; omega
  have h6 : v % 65536 % 2 = 1 := by omega
  simp [decode, BitVec.toNat_ofNat, h3, h4, h5, h6, hd, hs, Except.map]

theorem roundTrip_one {i : Instr} {v : Nat} (hw : width i = 1) (hv : valueS0 i = v) (h1 : v % 4 = 0) (h2 : v < 2 ^ 16)
    (h : ∀ w t, t < 2 → w = v + 2 * t → decode16 w = .ok i) : RoundTrip.Statement i := by
  subst hv
  intro _ sw rest _
  have hd := h _ sw.toNat (by cases sw <;> decide) rfl
  have hs := swAt_add sw (v := valueS0 i) (by omega)
  have ht : sw.toNat < 2 := by cases sw <;> decide
  have hv : value i sw = valueS0 i + 2 * sw.toNat := rfl
  rw [← hv] at hd hs
  have hl : value i sw < 2 ^ 16 := by omega
  have ho : value i sw % 2 = 0 := by omega
  have e : encode i sw = [BitVec.ofNat 8 (value i sw), BitVec.ofNat 8 (value i sw / 256)] := by
    simp [encode, hw, List.range, List.range.loop]
  rw [e]
  clear e hv
  generalize value i sw = v at *
  have h3 : v % 256 + 256 * (v / 256 % 256) = v := by omega
  simp [decode, BitVec.toNat_ofNat, h3, ho, hd, hs, Except.map]


theorem decode32_00 {w : Nat} (h : w / 4 % 64 = 0) : decode32 w = decodeMajor00 w := by
  rw [decode32, h]; rfl

theorem decode32_01 {w : Nat} (h : w / 4 % 64 = 1) : decode32 w = decodeMajor01 w := by
  rw [decode32, h]; rfl

theorem decode32_02 {w : Nat} (h : w / 4 % 64 = 2) : decode32 w = decodeMajor02 w := by
  rw [decode32, h]; rfl

theorem decode32_03 {w : Nat} (h : w / 4 % 64 = 3) : decode32 w = decodeMajor03 w := by
  rw [decode32, h]; rfl

theorem decode32_04 {w : Nat} (h : w / 4 % 64 = 4) : decode32 w = decodeMajor04 w := by
  rw [decode32, h]; rfl

theorem decode32_05 {w : Nat} (h : w / 4 % 64 = 5) : decode32 w = decodeMajor05 w := by
  rw [decode32, h]; rfl

theorem decode32_06 {w : Nat} (h : w / 4 % 64 = 6) : decode32 w = decodeMajor06 w := by
  rw [decode32, h]; rfl

theorem decode32_07 {w : Nat} (h : w / 4 % 64 = 7) : decode32 w = decodeMajor07 w := by
  rw [decode32, h]; rfl

theorem decode32_08 {w : Nat} (h : w / 4 % 64 = 8) : decode32 w = decodeMajor08 w := by
  rw [decode32, h]; rfl

theorem decode32_09 {w : Nat} (h : w / 4 % 64 = 9) : decode32 w = decodeMajor09 w := by
  rw [decode32, h]; rfl

theorem decode32_0A {w : Nat} (h : w / 4 % 64 = 10) : decode32 w = decodeMajor0A w := by
  rw [decode32, h]; rfl

theorem decode32_0B {w : Nat} (h : w / 4 % 64 = 11) : decode32 w = decodeMajor0B w := by
  rw [decode32, h]; rfl

theorem decode32_0C {w : Nat} (h : w / 4 % 64 = 12) : decode32 w = decodeMajor0C w := by
  rw [decode32, h]; rfl

theorem decode32_0D {w : Nat} (h : w / 4 % 64 = 13) : decode32 w = decodeMajor0D w := by
  rw [decode32, h]; rfl

theorem decode32_0E {w : Nat} (h : w / 4 % 64 = 14) : decode32 w = decodeMajor0E w := by
  rw [decode32, h]; rfl

theorem decode32_0F {w : Nat} (h : w / 4 % 64 = 15) : decode32 w = decodeMajor0F w := by
  rw [decode32, h]; rfl

theorem decode32_10 {w : Nat} (h : w / 4 % 64 = 16) : decode32 w = decodeMajor10 w := by
  rw [decode32, h]; rfl

theorem decode32_11 {w : Nat} (h : w / 4 % 64 = 17) : decode32 w = decodeMajor11 w := by
  rw [decode32, h]; rfl

theorem decode32_12 {w : Nat} (h : w / 4 % 64 = 18) : decode32 w = decodeMajor12 w := by
  rw [decode32, h]; rfl

theorem decode32_13 {w : Nat} (h : w / 4 % 64 = 19) : decode32 w = decodeMajor13 w := by
  rw [decode32, h]; rfl

theorem decode32_14 {w : Nat} (h : w / 4 % 64 = 20) : decode32 w = decodeMajor14 w := by
  rw [decode32, h]; rfl

theorem decode32_15 {w : Nat} (h : w / 4 % 64 = 21) : decode32 w = decodeMajor15 w := by
  rw [decode32, h]; rfl

theorem decode32_16 {w : Nat} (h : w / 4 % 64 = 22) : decode32 w = decodeMajor16 w := by
  rw [decode32, h]; rfl

theorem decode32_17 {w : Nat} (h : w / 4 % 64 = 23) : decode32 w = decodeMajor17 w := by
  rw [decode32, h]; rfl

theorem decode32_18 {w : Nat} (h : w / 4 % 64 = 24) : decode32 w = decodeMajor18 w := by
  rw [decode32, h]; rfl

theorem decode32_19 {w : Nat} (h : w / 4 % 64 = 25) : decode32 w = decodeMajor19 w := by
  rw [decode32, h]; rfl

theorem decode32_1A {w : Nat} (h : w / 4 % 64 = 26) : decode32 w = decodeMajor1A w := by
  rw [decode32, h]; rfl

theorem decode32_1B {w : Nat} (h : w / 4 % 64 = 27) : decode32 w = decodeMajor1B w := by
  rw [decode32, h]; rfl

theorem decode32_1C {w : Nat} (h : w / 4 % 64 = 28) : decode32 w = decodeMajor1C w := by
  rw [decode32, h]; rfl

theorem decode32_1D {w : Nat} (h : w / 4 % 64 = 29) : decode32 w = decodeMajor1D w := by
  rw [decode32, h]; rfl

theorem decode32_1E {w : Nat} (h : w / 4 % 64 = 30) : decode32 w = decodeMajor1E w := by
  rw [decode32, h]; rfl

theorem decode32_1F {w : Nat} (h : w / 4 % 64 = 31) : decode32 w = decodeMajor1F w := by
  rw [decode32, h]; rfl

theorem decode32_20 {w : Nat} (h : w / 4 % 64 = 32) : decode32 w = decodeMajor20 w := by
  rw [decode32, h]; rfl

theorem decode32_21 {w : Nat} (h : w / 4 % 64 = 33) : decode32 w = decodeMajor21 w := by
  rw [decode32, h]; rfl

theorem decode32_22 {w : Nat} (h : w / 4 % 64 = 34) : decode32 w = decodeMajor22 w := by
  rw [decode32, h]; rfl

theorem decode32_23 {w : Nat} (h : w / 4 % 64 = 35) : decode32 w = decodeMajor23 w := by
  rw [decode32, h]; rfl

theorem decode32_24 {w : Nat} (h : w / 4 % 64 = 36) : decode32 w = decodeMajor24 w := by
  rw [decode32, h]; rfl

theorem decode32_25 {w : Nat} (h : w / 4 % 64 = 37) : decode32 w = decodeMajor25 w := by
  rw [decode32, h]; rfl

theorem decode32_26 {w : Nat} (h : w / 4 % 64 = 38) : decode32 w = decodeMajor26 w := by
  rw [decode32, h]; rfl

theorem decode32_27 {w : Nat} (h : w / 4 % 64 = 39) : decode32 w = decodeMajor27 w := by
  rw [decode32, h]; rfl

theorem decode32_28 {w : Nat} (h : w / 4 % 64 = 40) : decode32 w = decodeMajor28 w := by
  rw [decode32, h]; rfl

theorem decode32_29 {w : Nat} (h : w / 4 % 64 = 41) : decode32 w = decodeMajor29 w := by
  rw [decode32, h]; rfl

theorem decode32_2A {w : Nat} (h : w / 4 % 64 = 42) : decode32 w = decodeMajor2A w := by
  rw [decode32, h]; rfl

theorem decode32_2B {w : Nat} (h : w / 4 % 64 = 43) : decode32 w = decodeMajor2B w := by
  rw [decode32, h]; rfl

theorem decode32_2C {w : Nat} (h : w / 4 % 64 = 44) : decode32 w = decodeMajor2C w := by
  rw [decode32, h]; rfl

theorem decode32_2D {w : Nat} (h : w / 4 % 64 = 45) : decode32 w = decodeMajor2D w := by
  rw [decode32, h]; rfl

theorem decode32_2E {w : Nat} (h : w / 4 % 64 = 46) : decode32 w = decodeMajor2E w := by
  rw [decode32, h]; rfl

theorem decode32_2F {w : Nat} (h : w / 4 % 64 = 47) : decode32 w = decodeMajor2F w := by
  rw [decode32, h]; rfl

theorem decode32_30 {w : Nat} (h : w / 4 % 64 = 48) : decode32 w = decodeMajor30 w := by
  rw [decode32, h]; rfl

theorem layout1 (x0 t0 m k0 : Nat) (a0 : Reg) (a1 : Reg) (a2 : Reg) (ht : t0 < 2)
    (hx : x0 = 1 + 4 * m + 8388608 * k0 + 256 * a0.val + 8192 * a1.val + 262144 * a2.val + 2 * t0) (hm : m < 64) (hk0 : k0 < 512) :
    x0 / 4 % 64 = m ∧ x0 / 8388608 % 512 = k0 ∧ regAt x0 8 = a0 ∧ regAt x0 13 = a1 ∧ regAt x0 18 = a2 :=
  ⟨by omega, by omega, regAt_eq (by omega), regAt_eq (by omega), regAt_eq (by omega)⟩

theorem layout2 (x0 t0 m : Nat) (a0 : Reg) (a1 : Reg) (a2 : BitVec 14) (ht : t0 < 2)
    (hx : x0 = 1 + 4 * m + 256 * a0.val + 8192 * a1.val + 262144 * a2.toNat + 2 * t0) (hm : m < 64) :
    x0 / 4 % 64 = m ∧ regAt x0 8 = a0 ∧ regAt x0 13 = a1 ∧ fieldAt x0 18 14 = a2 :=
  ⟨by omega, regAt_eq (by omega), regAt_eq (by omega), fieldAt_eq (by omega)⟩

theorem layout3 (x0 t0 m k0 : Nat) (a0 : Reg) (a1 : Reg) (a2 : BitVec 6) (ht : t0 < 2)
    (hx : x0 = 1 + 4 * m + 16777216 * k0 + 256 * a0.val + 8192 * a1.val + 262144 * a2.toNat + 2 * t0) (hm : m < 64) (hk0 : k0 < 256) :
    x0 / 4 % 64 = m ∧ x0 / 16777216 % 256 = k0 ∧ regAt x0 8 = a0 ∧ regAt x0 13 = a1 ∧ fieldAt x0 18 6 = a2 :=
  ⟨by omega, by omega, regAt_eq (by omega), regAt_eq (by omega), fieldAt_eq (by omega)⟩

theorem layout4 (x0 t0 m : Nat) (a0 : Reg) (a1 : BitVec 19) (ht : t0 < 2)
    (hx : x0 = 1 + 4 * m + 256 * a0.val + 8192 * a1.toNat + 2 * t0) (hm : m < 64) :
    x0 / 4 % 64 = m ∧ regAt x0 8 = a0 ∧ fieldAt x0 13 19 = a1 :=
  ⟨by omega, regAt_eq (by omega), fieldAt_eq (by omega)⟩

theorem layout5 (x0 t0 m k0 : Nat) (a0 : Reg) (a1 : BitVec 16) (a2 : BitVec 2) (ht : t0 < 2)
    (hx : x0 = 1 + 4 * m + 2147483648 * k0 + 256 * a0.val + 8192 * a1.toNat + 536870912 * a2.toNat + 2 * t0) (hm : m < 64) (hk0 : k0 < 2) :
    x0 / 4 % 64 = m ∧ x0 / 2147483648 % 2 = k0 ∧ regAt x0 8 = a0 ∧ fieldAt x0 13 16 = a1 ∧ fieldAt x0 29 2 = a2 :=
  ⟨by omega, by omega, regAt_eq (by omega), fieldAt_eq (by omega), fieldAt_eq (by omega)⟩

theorem layout6 (x0 t0 m k0 : Nat) (a0 : Reg) (a1 : Reg) (ht : t0 < 2)
    (hx : x0 = 1 + 4 * m + 262144 * k0 + 256 * a0.val + 8192 * a1.val + 2 * t0) (hm : m < 64) (hk0 : k0 < 16384) :
    x0 / 4 % 64 = m ∧ x0 / 262144 % 16384 = k0 ∧ regAt x0 8 = a0 ∧ regAt x0 13 = a1 :=
  ⟨by omega, by omega, regAt_eq (by omega), regAt_eq (by omega)⟩

theorem layout7 (x0 t0 m k0 : Nat) (a0 : Reg) (ht : t0 < 2)
    (hx : x0 = 1 + 4 * m + 8192 * k0 + 256 * a0.val + 2 * t0) (hm : m < 64) (hk0 : k0 < 524288) :
    x0 / 4 % 64 = m ∧ x0 / 8192 % 524288 = k0 ∧ regAt x0 8 = a0 :=
  ⟨by omega, by omega, regAt_eq (by omega)⟩

theorem layout8 (x0 t0 m k0 : Nat) (a0 : Reg) (a1 : Reg) (a2 : BitVec 11) (ht : t0 < 2)
    (hx : x0 = 1 + 4 * m + 262144 * k0 + 256 * a0.val + 8192 * a1.val + 2097152 * a2.toNat + 2 * t0) (hm : m < 64) (hk0 : k0 < 8) :
    x0 / 4 % 64 = m ∧ x0 / 262144 % 8 = k0 ∧ regAt x0 8 = a0 ∧ regAt x0 13 = a1 ∧ fieldAt x0 21 11 = a2 :=
  ⟨by omega, by omega, regAt_eq (by omega), regAt_eq (by omega), fieldAt_eq (by omega)⟩

theorem layout9 (x0 t0 m : Nat) (a0 : BitVec 24) (ht : t0 < 2)
    (hx : x0 = 1 + 4 * m + 256 * a0.toNat + 2 * t0) (hm : m < 64) :
    x0 / 4 % 64 = m ∧ fieldAt x0 8 24 = a0 :=
  ⟨by omega, fieldAt_eq (by omega)⟩

theorem layout10 (x0 t0 m k0 : Nat) (a0 : Reg) (a1 : BitVec 14) (ht : t0 < 2)
    (hx : x0 = 1 + 4 * m + 256 * k0 + 8192 * a0.val + 262144 * a1.toNat + 2 * t0) (hm : m < 64) (hk0 : k0 < 32) :
    x0 / 4 % 64 = m ∧ x0 / 256 % 32 = k0 ∧ regAt x0 13 = a0 ∧ fieldAt x0 18 14 = a1 :=
  ⟨by omega, by omega, regAt_eq (by omega), fieldAt_eq (by omega)⟩

theorem layout11 (x0 t0 m k0 k1 : Nat) (a0 : Reg) (ht : t0 < 2)
    (hx : x0 = 1 + 4 * m + 256 * k0 + 262144 * k1 + 8192 * a0.val + 2 * t0) (hm : m < 64) (hk0 : k0 < 32) (hk1 : k1 < 16384) :
    x0 / 4 % 64 = m ∧ x0 / 256 % 32 = k0 ∧ x0 / 262144 % 16384 = k1 ∧ regAt x0 13 = a0 :=
  ⟨by omega, by omega, by omega, regAt_eq (by omega)⟩

theorem layout12 (x0 t0 m k0 k1 : Nat) (a0 : Reg) (a1 : Reg) (a2 : BitVec 6) (a3 : BitVec 1) (ht : t0 < 2)
    (hx : x0 = 1 + 4 * m + 16777216 * k0 + 134217728 * k1 + 256 * a0.val + 8192 * a1.val + 262144 * a2.toNat + 67108864 * a3.toNat + 2 * t0) (hm : m < 64) (hk0 : k0 < 4) (hk1 : k1 < 32) :
    x0 / 4 % 64 = m ∧ x0 / 16777216 % 4 = k0 ∧ x0 / 134217728 % 32 = k1 ∧ regAt x0 8 = a0 ∧ regAt x0 13 = a1 ∧ fieldAt x0 18 6 = a2 ∧ fieldAt x0 26 1 = a3 :=
  ⟨by omega, by omega, by omega, regAt_eq (by omega), regAt_eq (by omega), fieldAt_eq (by omega), fieldAt_eq (by omega)⟩

theorem layout13 (x0 t0 m k0 : Nat) (a0 : Reg) (a1 : Reg) (a2 : BitVec 8) (ht : t0 < 2)
    (hx : x0 = 1 + 4 * m + 67108864 * k0 + 256 * a0.val + 8192 * a1.val + 262144 * a2.toNat + 2 * t0) (hm : m < 64) (hk0 : k0 < 64) :
    x0 / 4 % 64 = m ∧ x0 / 67108864 % 64 = k0 ∧ regAt x0 8 = a0 ∧ regAt x0 13 = a1 ∧ fieldAt x0 18 8 = a2 :=
  ⟨by omega, by omega, regAt_eq (by omega), regAt_eq (by omega), fieldAt_eq (by omega)⟩

theorem layout14 (x0 t0 m k0 k1 : Nat) (a0 : Reg) (a1 : BitVec 10) (ht : t0 < 2)
    (hx : x0 = 1 + 4 * m + 256 * k0 + 268435456 * k1 + 8192 * a0.val + 262144 * a1.toNat + 2 * t0) (hm : m < 64) (hk0 : k0 < 32) (hk1 : k1 < 16) :
    x0 / 4 % 64 = m ∧ x0 / 256 % 32 = k0 ∧ x0 / 268435456 % 16 = k1 ∧ regAt x0 13 = a0 ∧ fieldAt x0 18 10 = a1 :=
  ⟨by omega, by omega, by omega, regAt_eq (by omega), fieldAt_eq (by omega)⟩

theorem layout15 (x0 t0 m k0 : Nat) (a0 : Reg) (a1 : Reg) (a2 : BitVec 10) (ht : t0 < 2)
    (hx : x0 = 1 + 4 * m + 268435456 * k0 + 256 * a0.val + 8192 * a1.val + 262144 * a2.toNat + 2 * t0) (hm : m < 64) (hk0 : k0 < 16) :
    x0 / 4 % 64 = m ∧ x0 / 268435456 % 16 = k0 ∧ regAt x0 8 = a0 ∧ regAt x0 13 = a1 ∧ fieldAt x0 18 10 = a2 :=
  ⟨by omega, by omega, regAt_eq (by omega), regAt_eq (by omega), fieldAt_eq (by omega)⟩

theorem layout16 (x0 t0 m : Nat) (a0 : Reg) (a1 : Reg) (a2 : BitVec 3) (a3 : BitVec 11) (ht : t0 < 2)
    (hx : x0 = 1 + 4 * m + 256 * a0.val + 8192 * a1.val + 262144 * a2.toNat + 2097152 * a3.toNat + 2 * t0) (hm : m < 64) :
    x0 / 4 % 64 = m ∧ regAt x0 8 = a0 ∧ regAt x0 13 = a1 ∧ fieldAt x0 18 3 = a2 ∧ fieldAt x0 21 11 = a3 :=
  ⟨by omega, regAt_eq (by omega), regAt_eq (by omega), fieldAt_eq (by omega), fieldAt_eq (by omega)⟩

theorem layout17 (x0 t0 m : Nat) (a0 : Reg) (a1 : Reg) (a2 : Reg) (a3 : Fin 8) (a4 : BitVec 3) (a5 : BitVec 3) (ht : t0 < 2)
    (hx : x0 = 1 + 4 * m + 256 * a0.val + 8192 * a1.val + 262144 * a2.val + 8388608 * a3.val + 67108864 * a4.toNat + 536870912 * a5.toNat + 2 * t0) (hm : m < 64) :
    x0 / 4 % 64 = m ∧ regAt x0 8 = a0 ∧ regAt x0 13 = a1 ∧ regAt x0 18 = a2 ∧ predAt x0 23 = a3 ∧ fieldAt x0 26 3 = a4 ∧ fieldAt x0 29 3 = a5 :=
  ⟨by omega, regAt_eq (by omega), regAt_eq (by omega), regAt_eq (by omega), predAt_eq (by omega), fieldAt_eq (by omega), fieldAt_eq (by omega)⟩

theorem layout18 (x0 t0 m k0 k1 : Nat) (a0 : Reg) (a1 : Reg) (a2 : Reg) (a3 : BitVec 1) (a4 : BitVec 2) (ht : t0 < 2)
    (hx : x0 = 1 + 4 * m + 8388608 * k0 + 2147483648 * k1 + 256 * a0.val + 8192 * a1.val + 262144 * a2.val + 268435456 * a3.toNat + 536870912 * a4.toNat + 2 * t0) (hm : m < 64) (hk0 : k0 < 32) (hk1 : k1 < 2) :
    x0 / 4 % 64 = m ∧ x0 / 8388608 % 32 = k0 ∧ x0 / 2147483648 % 2 = k1 ∧ regAt x0 8 = a0 ∧ regAt x0 13 = a1 ∧ regAt x0 18 = a2 ∧ fieldAt x0 28 1 = a3 ∧ fieldAt x0 29 2 = a4 :=
  ⟨by omega, by omega, by omega, regAt_eq (by omega), regAt_eq (by omega), regAt_eq (by omega), fieldAt_eq (by omega), fieldAt_eq (by omega)⟩

theorem layout19 (x0 t0 m k0 k1 : Nat) (a0 : Reg) (a1 : Reg) (a2 : Reg) (a3 : BitVec 2) (ht : t0 < 2)
    (hx : x0 = 1 + 4 * m + 8388608 * k0 + 2147483648 * k1 + 256 * a0.val + 8192 * a1.val + 262144 * a2.val + 536870912 * a3.toNat + 2 * t0) (hm : m < 64) (hk0 : k0 < 64) (hk1 : k1 < 2) :
    x0 / 4 % 64 = m ∧ x0 / 8388608 % 64 = k0 ∧ x0 / 2147483648 % 2 = k1 ∧ regAt x0 8 = a0 ∧ regAt x0 13 = a1 ∧ regAt x0 18 = a2 ∧ fieldAt x0 29 2 = a3 :=
  ⟨by omega, by omega, by omega, regAt_eq (by omega), regAt_eq (by omega), regAt_eq (by omega), fieldAt_eq (by omega)⟩

theorem layout20 (x0 t0 m k0 : Nat) (a0 : BitVec 4) (ht : t0 < 2)
    (hx : x0 = 1 + 4 * m + 256 * k0 + 268435456 * a0.toNat + 2 * t0) (hm : m < 64) (hk0 : k0 < 1048576) :
    x0 / 4 % 64 = m ∧ x0 / 256 % 1048576 = k0 ∧ fieldAt x0 28 4 = a0 :=
  ⟨by omega, by omega, fieldAt_eq (by omega)⟩

theorem layout21 (x0 t0 m k0 k1 : Nat) (a0 : Reg) (a1 : Reg) (a2 : BitVec 4) (ht : t0 < 2)
    (hx : x0 = 1 + 4 * m + 256 * k0 + 8388608 * k1 + 8192 * a0.val + 262144 * a1.val + 268435456 * a2.toNat + 2 * t0) (hm : m < 64) (hk0 : k0 < 32) (hk1 : k1 < 32) :
    x0 / 4 % 64 = m ∧ x0 / 256 % 32 = k0 ∧ x0 / 8388608 % 32 = k1 ∧ regAt x0 13 = a0 ∧ regAt x0 18 = a1 ∧ fieldAt x0 28 4 = a2 :=
  ⟨by omega, by omega, by omega, regAt_eq (by omega), regAt_eq (by omega), fieldAt_eq (by omega)⟩

theorem layout22 (x0 t0 m k0 k1 : Nat) (a0 : Reg) (a1 : BitVec 4) (ht : t0 < 2)
    (hx : x0 = 1 + 4 * m + 256 * k0 + 262144 * k1 + 8192 * a0.val + 268435456 * a1.toNat + 2 * t0) (hm : m < 64) (hk0 : k0 < 32) (hk1 : k1 < 1024) :
    x0 / 4 % 64 = m ∧ x0 / 256 % 32 = k0 ∧ x0 / 262144 % 1024 = k1 ∧ regAt x0 13 = a0 ∧ fieldAt x0 28 4 = a1 :=
  ⟨by omega, by omega, by omega, regAt_eq (by omega), fieldAt_eq (by omega)⟩

theorem layout23 (x0 t0 m k0 : Nat) (a0 : Reg) (a1 : Reg) (a2 : Reg) (a3 : BitVec 4) (ht : t0 < 2)
    (hx : x0 = 1 + 4 * m + 8388608 * k0 + 256 * a0.val + 8192 * a1.val + 262144 * a2.val + 268435456 * a3.toNat + 2 * t0) (hm : m < 64) (hk0 : k0 < 32) :
    x0 / 4 % 64 = m ∧ x0 / 8388608 % 32 = k0 ∧ regAt x0 8 = a0 ∧ regAt x0 13 = a1 ∧ regAt x0 18 = a2 ∧ fieldAt x0 28 4 = a3 :=
  ⟨by omega, by omega, regAt_eq (by omega), regAt_eq (by omega), regAt_eq (by omega), fieldAt_eq (by omega)⟩

theorem layout24 (x0 t0 m k0 k1 : Nat) (a0 : Reg) (a1 : Reg) (ht : t0 < 2)
    (hx : x0 = 1 + 4 * m + 256 * k0 + 8388608 * k1 + 8192 * a0.val + 262144 * a1.val + 2 * t0) (hm : m < 64) (hk0 : k0 < 32) (hk1 : k1 < 512) :
    x0 / 4 % 64 = m ∧ x0 / 256 % 32 = k0 ∧ x0 / 8388608 % 512 = k1 ∧ regAt x0 13 = a0 ∧ regAt x0 18 = a1 :=
  ⟨by omega, by omega, by omega, regAt_eq (by omega), regAt_eq (by omega)⟩

theorem layout25 (x0 t0 m k0 : Nat) (a0 : Reg) (a1 : Reg) (a2 : Reg) (a3 : Fin 8) (a4 : BitVec 3) (ht : t0 < 2)
    (hx : x0 = 1 + 4 * m + 67108864 * k0 + 256 * a0.val + 8192 * a1.val + 262144 * a2.val + 8388608 * a3.val + 536870912 * a4.toNat + 2 * t0) (hm : m < 64) (hk0 : k0 < 8) :
    x0 / 4 % 64 = m ∧ x0 / 67108864 % 8 = k0 ∧ regAt x0 8 = a0 ∧ regAt x0 13 = a1 ∧ regAt x0 18 = a2 ∧ predAt x0 23 = a3 ∧ fieldAt x0 29 3 = a4 :=
  ⟨by omega, by omega, regAt_eq (by omega), regAt_eq (by omega), regAt_eq (by omega), predAt_eq (by omega), fieldAt_eq (by omega)⟩

theorem layout26 (x0 t0 m k0 k1 : Nat) (a0 : Reg) (a1 : Reg) (a2 : Fin 8) (a3 : BitVec 3) (ht : t0 < 2)
    (hx : x0 = 1 + 4 * m + 262144 * k0 + 67108864 * k1 + 256 * a0.val + 8192 * a1.val + 8388608 * a2.val + 536870912 * a3.toNat + 2 * t0) (hm : m < 64) (hk0 : k0 < 32) (hk1 : k1 < 8) :
    x0 / 4 % 64 = m ∧ x0 / 262144 % 32 = k0 ∧ x0 / 67108864 % 8 = k1 ∧ regAt x0 8 = a0 ∧ regAt x0 13 = a1 ∧ predAt x0 23 = a2 ∧ fieldAt x0 29 3 = a3 :=
  ⟨by omega, by omega, by omega, regAt_eq (by omega), regAt_eq (by omega), predAt_eq (by omega), fieldAt_eq (by omega)⟩

theorem layout27 (x0 t0 m k0 : Nat) (a0 : Reg) (a1 : Reg) (a2 : Reg) (a3 : BitVec 3) (ht : t0 < 2)
    (hx : x0 = 1 + 4 * m + 8388608 * k0 + 256 * a0.val + 8192 * a1.val + 262144 * a2.val + 536870912 * a3.toNat + 2 * t0) (hm : m < 64) (hk0 : k0 < 64) :
    x0 / 4 % 64 = m ∧ x0 / 8388608 % 64 = k0 ∧ regAt x0 8 = a0 ∧ regAt x0 13 = a1 ∧ regAt x0 18 = a2 ∧ fieldAt x0 29 3 = a3 :=
  ⟨by omega, by omega, regAt_eq (by omega), regAt_eq (by omega), regAt_eq (by omega), fieldAt_eq (by omega)⟩

theorem layout28 (x0 t0 m : Nat) (a0 : Reg) (a1 : Reg) (a2 : Reg) (a3 : BitVec 3) (a4 : BitVec 3) (a5 : BitVec 3) (ht : t0 < 2)
    (hx : x0 = 1 + 4 * m + 256 * a0.val + 8192 * a1.val + 262144 * a2.val + 8388608 * a3.toNat + 67108864 * a4.toNat + 536870912 * a5.toNat + 2 * t0) (hm : m < 64) :
    x0 / 4 % 64 = m ∧ regAt x0 8 = a0 ∧ regAt x0 13 = a1 ∧ regAt x0 18 = a2 ∧ fieldAt x0 23 3 = a3 ∧ fieldAt x0 26 3 = a4 ∧ fieldAt x0 29 3 = a5 :=
  ⟨by omega, regAt_eq (by omega), regAt_eq (by omega), regAt_eq (by omega), fieldAt_eq (by omega), fieldAt_eq (by omega), fieldAt_eq (by omega)⟩

theorem layout29 (x0 t0 m k0 k1 : Nat) (a0 : BitVec 1) (a1 : Reg) (a2 : Reg) (ht : t0 < 2)
    (hx : x0 = 1 + 4 * m + 512 * k0 + 8388608 * k1 + 256 * a0.toNat + 8192 * a1.val + 262144 * a2.val + 2 * t0) (hm : m < 64) (hk0 : k0 < 16) (hk1 : k1 < 512) :
    x0 / 4 % 64 = m ∧ x0 / 512 % 16 = k0 ∧ x0 / 8388608 % 512 = k1 ∧ fieldAt x0 8 1 = a0 ∧ regAt x0 13 = a1 ∧ regAt x0 18 = a2 :=
  ⟨by omega, by omega, by omega, fieldAt_eq (by omega), regAt_eq (by omega), regAt_eq (by omega)⟩

theorem layout30 (x0 t0 m k0 : Nat) (a0 : Reg) (a1 : Reg) (a2 : BitVec 3) (ht : t0 < 2)
    (hx : x0 = 1 + 4 * m + 262144 * k0 + 256 * a0.val + 8192 * a1.val + 536870912 * a2.toNat + 2 * t0) (hm : m < 64) (hk0 : k0 < 2048) :
    x0 / 4 % 64 = m ∧ x0 / 262144 % 2048 = k0 ∧ regAt x0 8 = a0 ∧ regAt x0 13 = a1 ∧ fieldAt x0 29 3 = a2 :=
  ⟨by omega, by omega, regAt_eq (by omega), regAt_eq (by omega), fieldAt_eq (by omega)⟩

theorem layout31 (x0 t0 m k0 : Nat) (a0 : Reg) (a1 : Reg) (a2 : Reg) (a3 : Fin 8) (ht : t0 < 2)
    (hx : x0 = 1 + 4 * m + 67108864 * k0 + 256 * a0.val + 8192 * a1.val + 262144 * a2.val + 8388608 * a3.val + 2 * t0) (hm : m < 64) (hk0 : k0 < 64) :
    x0 / 4 % 64 = m ∧ x0 / 67108864 % 64 = k0 ∧ regAt x0 8 = a0 ∧ regAt x0 13 = a1 ∧ regAt x0 18 = a2 ∧ predAt x0 23 = a3 :=
  ⟨by omega, by omega, regAt_eq (by omega), regAt_eq (by omega), regAt_eq (by omega), predAt_eq (by omega)⟩

theorem layout32 (x0 t0 m k0 : Nat) (ht : t0 < 2)
    (hx : x0 = 1 + 4 * m + 256 * k0 + 2 * t0) (hm : m < 64) (hk0 : k0 < 16777216) :
    x0 / 4 % 64 = m ∧ x0 / 256 % 16777216 = k0 :=
  ⟨by omega, by omega⟩

theorem RoundTrip.add (d : Reg) (a : Reg) (b : Reg) : RoundTrip.Statement (.add d a b) := by
  refine roundTrip_two (v := 1 + 4 * 0 + 8388608 * 0 + 256 * d.val + 8192 * a.val + 262144 * b.val) rfl rfl (by omega) (by omega) fun x0 t0 ht hx => ?_
  obtain ⟨f0, g0, e0, e1, e2⟩ := layout1 x0 t0 0 0 d a b ht hx (by decide) (by decide)
  simp [decode32_00 f0, decodeMajor00, g0, e0, e1, e2]

theorem RoundTrip.sub (d : Reg) (a : Reg) (b : Reg) : RoundTrip.Statement (.sub d a b) := by
  refine roundTrip_two (v := 1 + 4 * 0 + 8388608 * 1 + 256 * d.val + 8192 * a.val + 262144 * b.val) rfl rfl (by omega) (by omega) fun x0 t0 ht hx => ?_
  obtain ⟨f0, g0, e0, e1, e2⟩ := layout1 x0 t0 0 1 d a b ht hx (by decide) (by decide)
  simp [decode32_00 f0, decodeMajor00, g0, e0, e1, e2]

theorem RoundTrip.and (d : Reg) (a : Reg) (b : Reg) : RoundTrip.Statement (.and d a b) := by
  refine roundTrip_two (v := 1 + 4 * 0 + 8388608 * 2 + 256 * d.val + 8192 * a.val + 262144 * b.val) rfl rfl (by omega) (by omega) fun x0 t0 ht hx => ?_
  obtain ⟨f0, g0, e0, e1, e2⟩ := layout1 x0 t0 0 2 d a b ht hx (by decide) (by decide)
  simp [decode32_00 f0, decodeMajor00, g0, e0, e1, e2]

theorem RoundTrip.or (d : Reg) (a : Reg) (b : Reg) : RoundTrip.Statement (.or d a b) := by
  refine roundTrip_two (v := 1 + 4 * 0 + 8388608 * 3 + 256 * d.val + 8192 * a.val + 262144 * b.val) rfl rfl (by omega) (by omega) fun x0 t0 ht hx => ?_
  obtain ⟨f0, g0, e0, e1, e2⟩ := layout1 x0 t0 0 3 d a b ht hx (by decide) (by decide)
  simp [decode32_00 f0, decodeMajor00, g0, e0, e1, e2]

theorem RoundTrip.xor (d : Reg) (a : Reg) (b : Reg) : RoundTrip.Statement (.xor d a b) := by
  refine roundTrip_two (v := 1 + 4 * 0 + 8388608 * 4 + 256 * d.val + 8192 * a.val + 262144 * b.val) rfl rfl (by omega) (by omega) fun x0 t0 ht hx => ?_
  obtain ⟨f0, g0, e0, e1, e2⟩ := layout1 x0 t0 0 4 d a b ht hx (by decide) (by decide)
  simp [decode32_00 f0, decodeMajor00, g0, e0, e1, e2]

theorem RoundTrip.andn (d : Reg) (a : Reg) (b : Reg) : RoundTrip.Statement (.andn d a b) := by
  refine roundTrip_two (v := 1 + 4 * 0 + 8388608 * 5 + 256 * d.val + 8192 * a.val + 262144 * b.val) rfl rfl (by omega) (by omega) fun x0 t0 ht hx => ?_
  obtain ⟨f0, g0, e0, e1, e2⟩ := layout1 x0 t0 0 5 d a b ht hx (by decide) (by decide)
  simp [decode32_00 f0, decodeMajor00, g0, e0, e1, e2]

theorem RoundTrip.orn (d : Reg) (a : Reg) (b : Reg) : RoundTrip.Statement (.orn d a b) := by
  refine roundTrip_two (v := 1 + 4 * 0 + 8388608 * 6 + 256 * d.val + 8192 * a.val + 262144 * b.val) rfl rfl (by omega) (by omega) fun x0 t0 ht hx => ?_
  obtain ⟨f0, g0, e0, e1, e2⟩ := layout1 x0 t0 0 6 d a b ht hx (by decide) (by decide)
  simp [decode32_00 f0, decodeMajor00, g0, e0, e1, e2]

theorem RoundTrip.sll (d : Reg) (a : Reg) (b : Reg) : RoundTrip.Statement (.sll d a b) := by
  refine roundTrip_two (v := 1 + 4 * 0 + 8388608 * 7 + 256 * d.val + 8192 * a.val + 262144 * b.val) rfl rfl (by omega) (by omega) fun x0 t0 ht hx => ?_
  obtain ⟨f0, g0, e0, e1, e2⟩ := layout1 x0 t0 0 7 d a b ht hx (by decide) (by decide)
  simp [decode32_00 f0, decodeMajor00, g0, e0, e1, e2]

theorem RoundTrip.srl (d : Reg) (a : Reg) (b : Reg) : RoundTrip.Statement (.srl d a b) := by
  refine roundTrip_two (v := 1 + 4 * 0 + 8388608 * 8 + 256 * d.val + 8192 * a.val + 262144 * b.val) rfl rfl (by omega) (by omega) fun x0 t0 ht hx => ?_
  obtain ⟨f0, g0, e0, e1, e2⟩ := layout1 x0 t0 0 8 d a b ht hx (by decide) (by decide)
  simp [decode32_00 f0, decodeMajor00, g0, e0, e1, e2]

theorem RoundTrip.sra (d : Reg) (a : Reg) (b : Reg) : RoundTrip.Statement (.sra d a b) := by
  refine roundTrip_two (v := 1 + 4 * 0 + 8388608 * 9 + 256 * d.val + 8192 * a.val + 262144 * b.val) rfl rfl (by omega) (by omega) fun x0 t0 ht hx => ?_
  obtain ⟨f0, g0, e0, e1, e2⟩ := layout1 x0 t0 0 9 d a b ht hx (by decide) (by decide)
  simp [decode32_00 f0, decodeMajor00, g0, e0, e1, e2]

theorem RoundTrip.slt (d : Reg) (a : Reg) (b : Reg) : RoundTrip.Statement (.slt d a b) := by
  refine roundTrip_two (v := 1 + 4 * 0 + 8388608 * 10 + 256 * d.val + 8192 * a.val + 262144 * b.val) rfl rfl (by omega) (by omega) fun x0 t0 ht hx => ?_
  obtain ⟨f0, g0, e0, e1, e2⟩ := layout1 x0 t0 0 10 d a b ht hx (by decide) (by decide)
  simp [decode32_00 f0, decodeMajor00, g0, e0, e1, e2]

theorem RoundTrip.sltu (d : Reg) (a : Reg) (b : Reg) : RoundTrip.Statement (.sltu d a b) := by
  refine roundTrip_two (v := 1 + 4 * 0 + 8388608 * 11 + 256 * d.val + 8192 * a.val + 262144 * b.val) rfl rfl (by omega) (by omega) fun x0 t0 ht hx => ?_
  obtain ⟨f0, g0, e0, e1, e2⟩ := layout1 x0 t0 0 11 d a b ht hx (by decide) (by decide)
  simp [decode32_00 f0, decodeMajor00, g0, e0, e1, e2]

theorem RoundTrip.min (d : Reg) (a : Reg) (b : Reg) : RoundTrip.Statement (.min d a b) := by
  refine roundTrip_two (v := 1 + 4 * 0 + 8388608 * 12 + 256 * d.val + 8192 * a.val + 262144 * b.val) rfl rfl (by omega) (by omega) fun x0 t0 ht hx => ?_
  obtain ⟨f0, g0, e0, e1, e2⟩ := layout1 x0 t0 0 12 d a b ht hx (by decide) (by decide)
  simp [decode32_00 f0, decodeMajor00, g0, e0, e1, e2]

theorem RoundTrip.max (d : Reg) (a : Reg) (b : Reg) : RoundTrip.Statement (.max d a b) := by
  refine roundTrip_two (v := 1 + 4 * 0 + 8388608 * 13 + 256 * d.val + 8192 * a.val + 262144 * b.val) rfl rfl (by omega) (by omega) fun x0 t0 ht hx => ?_
  obtain ⟨f0, g0, e0, e1, e2⟩ := layout1 x0 t0 0 13 d a b ht hx (by decide) (by decide)
  simp [decode32_00 f0, decodeMajor00, g0, e0, e1, e2]

theorem RoundTrip.minu (d : Reg) (a : Reg) (b : Reg) : RoundTrip.Statement (.minu d a b) := by
  refine roundTrip_two (v := 1 + 4 * 0 + 8388608 * 14 + 256 * d.val + 8192 * a.val + 262144 * b.val) rfl rfl (by omega) (by omega) fun x0 t0 ht hx => ?_
  obtain ⟨f0, g0, e0, e1, e2⟩ := layout1 x0 t0 0 14 d a b ht hx (by decide) (by decide)
  simp [decode32_00 f0, decodeMajor00, g0, e0, e1, e2]

theorem RoundTrip.maxu (d : Reg) (a : Reg) (b : Reg) : RoundTrip.Statement (.maxu d a b) := by
  refine roundTrip_two (v := 1 + 4 * 0 + 8388608 * 15 + 256 * d.val + 8192 * a.val + 262144 * b.val) rfl rfl (by omega) (by omega) fun x0 t0 ht hx => ?_
  obtain ⟨f0, g0, e0, e1, e2⟩ := layout1 x0 t0 0 15 d a b ht hx (by decide) (by decide)
  simp [decode32_00 f0, decodeMajor00, g0, e0, e1, e2]

theorem RoundTrip.seq (d : Reg) (a : Reg) (b : Reg) : RoundTrip.Statement (.seq d a b) := by
  refine roundTrip_two (v := 1 + 4 * 0 + 8388608 * 16 + 256 * d.val + 8192 * a.val + 262144 * b.val) rfl rfl (by omega) (by omega) fun x0 t0 ht hx => ?_
  obtain ⟨f0, g0, e0, e1, e2⟩ := layout1 x0 t0 0 16 d a b ht hx (by decide) (by decide)
  simp [decode32_00 f0, decodeMajor00, g0, e0, e1, e2]

theorem RoundTrip.addi (d : Reg) (a : Reg) (i : BitVec 14) : RoundTrip.Statement (.addi d a i) := by
  refine roundTrip_two (v := 1 + 4 * 1 + 256 * d.val + 8192 * a.val + 262144 * i.toNat) rfl rfl (by omega) (by omega) fun x0 t0 ht hx => ?_
  obtain ⟨f0, e0, e1, e2⟩ := layout2 x0 t0 1 d a i ht hx (by decide)
  simp [decode32_01 f0, decodeMajor01, e0, e1, e2]

theorem RoundTrip.andi (d : Reg) (a : Reg) (i : BitVec 14) : RoundTrip.Statement (.andi d a i) := by
  refine roundTrip_two (v := 1 + 4 * 2 + 256 * d.val + 8192 * a.val + 262144 * i.toNat) rfl rfl (by omega) (by omega) fun x0 t0 ht hx => ?_
  obtain ⟨f0, e0, e1, e2⟩ := layout2 x0 t0 2 d a i ht hx (by decide)
  simp [decode32_02 f0, decodeMajor02, e0, e1, e2]

theorem RoundTrip.ori (d : Reg) (a : Reg) (i : BitVec 14) : RoundTrip.Statement (.ori d a i) := by
  refine roundTrip_two (v := 1 + 4 * 3 + 256 * d.val + 8192 * a.val + 262144 * i.toNat) rfl rfl (by omega) (by omega) fun x0 t0 ht hx => ?_
  obtain ⟨f0, e0, e1, e2⟩ := layout2 x0 t0 3 d a i ht hx (by decide)
  simp [decode32_03 f0, decodeMajor03, e0, e1, e2]

theorem RoundTrip.xori (d : Reg) (a : Reg) (i : BitVec 14) : RoundTrip.Statement (.xori d a i) := by
  refine roundTrip_two (v := 1 + 4 * 4 + 256 * d.val + 8192 * a.val + 262144 * i.toNat) rfl rfl (by omega) (by omega) fun x0 t0 ht hx => ?_
  obtain ⟨f0, e0, e1, e2⟩ := layout2 x0 t0 4 d a i ht hx (by decide)
  simp [decode32_04 f0, decodeMajor04, e0, e1, e2]

theorem RoundTrip.slti (d : Reg) (a : Reg) (i : BitVec 14) : RoundTrip.Statement (.slti d a i) := by
  refine roundTrip_two (v := 1 + 4 * 5 + 256 * d.val + 8192 * a.val + 262144 * i.toNat) rfl rfl (by omega) (by omega) fun x0 t0 ht hx => ?_
  obtain ⟨f0, e0, e1, e2⟩ := layout2 x0 t0 5 d a i ht hx (by decide)
  simp [decode32_05 f0, decodeMajor05, e0, e1, e2]

theorem RoundTrip.sltiu (d : Reg) (a : Reg) (i : BitVec 14) : RoundTrip.Statement (.sltiu d a i) := by
  refine roundTrip_two (v := 1 + 4 * 6 + 256 * d.val + 8192 * a.val + 262144 * i.toNat) rfl rfl (by omega) (by omega) fun x0 t0 ht hx => ?_
  obtain ⟨f0, e0, e1, e2⟩ := layout2 x0 t0 6 d a i ht hx (by decide)
  simp [decode32_06 f0, decodeMajor06, e0, e1, e2]

theorem RoundTrip.slli (d : Reg) (a : Reg) (h : BitVec 6) : RoundTrip.Statement (.slli d a h) := by
  refine roundTrip_two (v := 1 + 4 * 7 + 16777216 * 0 + 256 * d.val + 8192 * a.val + 262144 * h.toNat) rfl rfl (by omega) (by omega) fun x0 t0 ht hx => ?_
  obtain ⟨f0, g0, e0, e1, e2⟩ := layout3 x0 t0 7 0 d a h ht hx (by decide) (by decide)
  simp [decode32_07 f0, decodeMajor07, g0, e0, e1, e2]

theorem RoundTrip.srli (d : Reg) (a : Reg) (h : BitVec 6) : RoundTrip.Statement (.srli d a h) := by
  refine roundTrip_two (v := 1 + 4 * 7 + 16777216 * 1 + 256 * d.val + 8192 * a.val + 262144 * h.toNat) rfl rfl (by omega) (by omega) fun x0 t0 ht hx => ?_
  obtain ⟨f0, g0, e0, e1, e2⟩ := layout3 x0 t0 7 1 d a h ht hx (by decide) (by decide)
  simp [decode32_07 f0, decodeMajor07, g0, e0, e1, e2]

theorem RoundTrip.srai (d : Reg) (a : Reg) (h : BitVec 6) : RoundTrip.Statement (.srai d a h) := by
  refine roundTrip_two (v := 1 + 4 * 7 + 16777216 * 2 + 256 * d.val + 8192 * a.val + 262144 * h.toNat) rfl rfl (by omega) (by omega) fun x0 t0 ht hx => ?_
  obtain ⟨f0, g0, e0, e1, e2⟩ := layout3 x0 t0 7 2 d a h ht hx (by decide) (by decide)
  simp [decode32_07 f0, decodeMajor07, g0, e0, e1, e2]

theorem RoundTrip.li (d : Reg) (i : BitVec 19) : RoundTrip.Statement (.li d i) := by
  refine roundTrip_two (v := 1 + 4 * 8 + 256 * d.val + 8192 * i.toNat) rfl rfl (by omega) (by omega) fun x0 t0 ht hx => ?_
  obtain ⟨f0, e0, e1⟩ := layout4 x0 t0 8 d i ht hx (by decide)
  simp [decode32_08 f0, decodeMajor08, e0, e1]

theorem RoundTrip.lih (d : Reg) (h : BitVec 16) (q : BitVec 2) : RoundTrip.Statement (.lih d h q) := by
  refine roundTrip_two (v := 1 + 4 * 9 + 2147483648 * 0 + 256 * d.val + 8192 * h.toNat + 536870912 * q.toNat) rfl rfl (by omega) (by omega) fun x0 t0 ht hx => ?_
  obtain ⟨f0, g0, e0, e1, e2⟩ := layout5 x0 t0 9 0 d h q ht hx (by decide) (by decide)
  simp [decode32_09 f0, decodeMajor09, g0, e0, e1, e2]

theorem RoundTrip.mul (d : Reg) (a : Reg) (b : Reg) : RoundTrip.Statement (.mul d a b) := by
  refine roundTrip_two (v := 1 + 4 * 10 + 8388608 * 0 + 256 * d.val + 8192 * a.val + 262144 * b.val) rfl rfl (by omega) (by omega) fun x0 t0 ht hx => ?_
  obtain ⟨f0, g0, e0, e1, e2⟩ := layout1 x0 t0 10 0 d a b ht hx (by decide) (by decide)
  simp [decode32_0A f0, decodeMajor0A, g0, e0, e1, e2]

theorem RoundTrip.mulh (d : Reg) (a : Reg) (b : Reg) : RoundTrip.Statement (.mulh d a b) := by
  refine roundTrip_two (v := 1 + 4 * 10 + 8388608 * 1 + 256 * d.val + 8192 * a.val + 262144 * b.val) rfl rfl (by omega) (by omega) fun x0 t0 ht hx => ?_
  obtain ⟨f0, g0, e0, e1, e2⟩ := layout1 x0 t0 10 1 d a b ht hx (by decide) (by decide)
  simp [decode32_0A f0, decodeMajor0A, g0, e0, e1, e2]

theorem RoundTrip.mulhsu (d : Reg) (a : Reg) (b : Reg) : RoundTrip.Statement (.mulhsu d a b) := by
  refine roundTrip_two (v := 1 + 4 * 10 + 8388608 * 2 + 256 * d.val + 8192 * a.val + 262144 * b.val) rfl rfl (by omega) (by omega) fun x0 t0 ht hx => ?_
  obtain ⟨f0, g0, e0, e1, e2⟩ := layout1 x0 t0 10 2 d a b ht hx (by decide) (by decide)
  simp [decode32_0A f0, decodeMajor0A, g0, e0, e1, e2]

theorem RoundTrip.mulhu (d : Reg) (a : Reg) (b : Reg) : RoundTrip.Statement (.mulhu d a b) := by
  refine roundTrip_two (v := 1 + 4 * 10 + 8388608 * 3 + 256 * d.val + 8192 * a.val + 262144 * b.val) rfl rfl (by omega) (by omega) fun x0 t0 ht hx => ?_
  obtain ⟨f0, g0, e0, e1, e2⟩ := layout1 x0 t0 10 3 d a b ht hx (by decide) (by decide)
  simp [decode32_0A f0, decodeMajor0A, g0, e0, e1, e2]

theorem RoundTrip.div (d : Reg) (a : Reg) (b : Reg) : RoundTrip.Statement (.div d a b) := by
  refine roundTrip_two (v := 1 + 4 * 10 + 8388608 * 4 + 256 * d.val + 8192 * a.val + 262144 * b.val) rfl rfl (by omega) (by omega) fun x0 t0 ht hx => ?_
  obtain ⟨f0, g0, e0, e1, e2⟩ := layout1 x0 t0 10 4 d a b ht hx (by decide) (by decide)
  simp [decode32_0A f0, decodeMajor0A, g0, e0, e1, e2]

theorem RoundTrip.divu (d : Reg) (a : Reg) (b : Reg) : RoundTrip.Statement (.divu d a b) := by
  refine roundTrip_two (v := 1 + 4 * 10 + 8388608 * 5 + 256 * d.val + 8192 * a.val + 262144 * b.val) rfl rfl (by omega) (by omega) fun x0 t0 ht hx => ?_
  obtain ⟨f0, g0, e0, e1, e2⟩ := layout1 x0 t0 10 5 d a b ht hx (by decide) (by decide)
  simp [decode32_0A f0, decodeMajor0A, g0, e0, e1, e2]

theorem RoundTrip.rem (d : Reg) (a : Reg) (b : Reg) : RoundTrip.Statement (.rem d a b) := by
  refine roundTrip_two (v := 1 + 4 * 10 + 8388608 * 6 + 256 * d.val + 8192 * a.val + 262144 * b.val) rfl rfl (by omega) (by omega) fun x0 t0 ht hx => ?_
  obtain ⟨f0, g0, e0, e1, e2⟩ := layout1 x0 t0 10 6 d a b ht hx (by decide) (by decide)
  simp [decode32_0A f0, decodeMajor0A, g0, e0, e1, e2]

theorem RoundTrip.remu (d : Reg) (a : Reg) (b : Reg) : RoundTrip.Statement (.remu d a b) := by
  refine roundTrip_two (v := 1 + 4 * 10 + 8388608 * 7 + 256 * d.val + 8192 * a.val + 262144 * b.val) rfl rfl (by omega) (by omega) fun x0 t0 ht hx => ?_
  obtain ⟨f0, g0, e0, e1, e2⟩ := layout1 x0 t0 10 7 d a b ht hx (by decide) (by decide)
  simp [decode32_0A f0, decodeMajor0A, g0, e0, e1, e2]

theorem RoundTrip.clz (d : Reg) (a : Reg) : RoundTrip.Statement (.clz d a) := by
  refine roundTrip_two (v := 1 + 4 * 11 + 262144 * 0 + 256 * d.val + 8192 * a.val) rfl rfl (by omega) (by omega) fun x0 t0 ht hx => ?_
  obtain ⟨f0, g0, e0, e1⟩ := layout6 x0 t0 11 0 d a ht hx (by decide) (by decide)
  simp [decode32_0B f0, decodeMajor0B, g0, e0, e1]

theorem RoundTrip.ctz (d : Reg) (a : Reg) : RoundTrip.Statement (.ctz d a) := by
  refine roundTrip_two (v := 1 + 4 * 11 + 262144 * 32 + 256 * d.val + 8192 * a.val) rfl rfl (by omega) (by omega) fun x0 t0 ht hx => ?_
  obtain ⟨f0, g0, e0, e1⟩ := layout6 x0 t0 11 32 d a ht hx (by decide) (by decide)
  simp [decode32_0B f0, decodeMajor0B, g0, e0, e1]

theorem RoundTrip.popc (d : Reg) (a : Reg) : RoundTrip.Statement (.popc d a) := by
  refine roundTrip_two (v := 1 + 4 * 11 + 262144 * 64 + 256 * d.val + 8192 * a.val) rfl rfl (by omega) (by omega) fun x0 t0 ht hx => ?_
  obtain ⟨f0, g0, e0, e1⟩ := layout6 x0 t0 11 64 d a ht hx (by decide) (by decide)
  simp [decode32_0B f0, decodeMajor0B, g0, e0, e1]

theorem RoundTrip.bswap (d : Reg) (a : Reg) : RoundTrip.Statement (.bswap d a) := by
  refine roundTrip_two (v := 1 + 4 * 11 + 262144 * 96 + 256 * d.val + 8192 * a.val) rfl rfl (by omega) (by omega) fun x0 t0 ht hx => ?_
  obtain ⟨f0, g0, e0, e1⟩ := layout6 x0 t0 11 96 d a ht hx (by decide) (by decide)
  simp [decode32_0B f0, decodeMajor0B, g0, e0, e1]

theorem RoundTrip.brev (d : Reg) (a : Reg) : RoundTrip.Statement (.brev d a) := by
  refine roundTrip_two (v := 1 + 4 * 11 + 262144 * 128 + 256 * d.val + 8192 * a.val) rfl rfl (by omega) (by omega) fun x0 t0 ht hx => ?_
  obtain ⟨f0, g0, e0, e1⟩ := layout6 x0 t0 11 128 d a ht hx (by decide) (by decide)
  simp [decode32_0B f0, decodeMajor0B, g0, e0, e1]

theorem RoundTrip.rol (d : Reg) (a : Reg) (b : Reg) : RoundTrip.Statement (.rol d a b) := by
  refine roundTrip_two (v := 1 + 4 * 11 + 8388608 * 5 + 256 * d.val + 8192 * a.val + 262144 * b.val) rfl rfl (by omega) (by omega) fun x0 t0 ht hx => ?_
  obtain ⟨f0, g0, e0, e1, e2⟩ := layout1 x0 t0 11 5 d a b ht hx (by decide) (by decide)
  have h0 : ¬ x0 / 262144 % 16384 = 0 := by omega
  have h1 : ¬ x0 / 262144 % 16384 = 32 := by omega
  have h2 : ¬ x0 / 262144 % 16384 = 64 := by omega
  have h3 : ¬ x0 / 262144 % 16384 = 96 := by omega
  have h4 : ¬ x0 / 262144 % 16384 = 128 := by omega
  simp [decode32_0B f0, decodeMajor0B, g0, e0, e1, e2, h0, h1, h2, h3, h4]

theorem RoundTrip.ror (d : Reg) (a : Reg) (b : Reg) : RoundTrip.Statement (.ror d a b) := by
  refine roundTrip_two (v := 1 + 4 * 11 + 8388608 * 6 + 256 * d.val + 8192 * a.val + 262144 * b.val) rfl rfl (by omega) (by omega) fun x0 t0 ht hx => ?_
  obtain ⟨f0, g0, e0, e1, e2⟩ := layout1 x0 t0 11 6 d a b ht hx (by decide) (by decide)
  have h0 : ¬ x0 / 262144 % 16384 = 0 := by omega
  have h1 : ¬ x0 / 262144 % 16384 = 32 := by omega
  have h2 : ¬ x0 / 262144 % 16384 = 64 := by omega
  have h3 : ¬ x0 / 262144 % 16384 = 96 := by omega
  have h4 : ¬ x0 / 262144 % 16384 = 128 := by omega
  simp [decode32_0B f0, decodeMajor0B, g0, e0, e1, e2, h0, h1, h2, h3, h4]

theorem RoundTrip.rand (d : Reg) : RoundTrip.Statement (.rand d) := by
  refine roundTrip_two (v := 1 + 4 * 11 + 8192 * 7168 + 256 * d.val) rfl rfl (by omega) (by omega) fun x0 t0 ht hx => ?_
  obtain ⟨f0, g0, e0⟩ := layout7 x0 t0 11 7168 d ht hx (by decide) (by decide)
  have h0 : x0 / 262144 % 16384 = 224 := by omega
  have h1 : x0 / 8388608 % 512 = 7 := by omega
  simp [decode32_0B f0, decodeMajor0B, g0, e0, h0, h1]

theorem RoundTrip.beq (a : Reg) (b : Reg) (o : BitVec 11) : RoundTrip.Statement (.beq a b o) := by
  refine roundTrip_two (v := 1 + 4 * 12 + 262144 * 0 + 256 * a.val + 8192 * b.val + 2097152 * o.toNat) rfl rfl (by omega) (by omega) fun x0 t0 ht hx => ?_
  obtain ⟨f0, g0, e0, e1, e2⟩ := layout8 x0 t0 12 0 a b o ht hx (by decide) (by decide)
  simp [decode32_0C f0, decodeMajor0C, g0, e0, e1, e2]

theorem RoundTrip.bne (a : Reg) (b : Reg) (o : BitVec 11) : RoundTrip.Statement (.bne a b o) := by
  refine roundTrip_two (v := 1 + 4 * 12 + 262144 * 1 + 256 * a.val + 8192 * b.val + 2097152 * o.toNat) rfl rfl (by omega) (by omega) fun x0 t0 ht hx => ?_
  obtain ⟨f0, g0, e0, e1, e2⟩ := layout8 x0 t0 12 1 a b o ht hx (by decide) (by decide)
  simp [decode32_0C f0, decodeMajor0C, g0, e0, e1, e2]

theorem RoundTrip.blt (a : Reg) (b : Reg) (o : BitVec 11) : RoundTrip.Statement (.blt a b o) := by
  refine roundTrip_two (v := 1 + 4 * 12 + 262144 * 2 + 256 * a.val + 8192 * b.val + 2097152 * o.toNat) rfl rfl (by omega) (by omega) fun x0 t0 ht hx => ?_
  obtain ⟨f0, g0, e0, e1, e2⟩ := layout8 x0 t0 12 2 a b o ht hx (by decide) (by decide)
  simp [decode32_0C f0, decodeMajor0C, g0, e0, e1, e2]

theorem RoundTrip.bge (a : Reg) (b : Reg) (o : BitVec 11) : RoundTrip.Statement (.bge a b o) := by
  refine roundTrip_two (v := 1 + 4 * 12 + 262144 * 3 + 256 * a.val + 8192 * b.val + 2097152 * o.toNat) rfl rfl (by omega) (by omega) fun x0 t0 ht hx => ?_
  obtain ⟨f0, g0, e0, e1, e2⟩ := layout8 x0 t0 12 3 a b o ht hx (by decide) (by decide)
  simp [decode32_0C f0, decodeMajor0C, g0, e0, e1, e2]

theorem RoundTrip.bltu (a : Reg) (b : Reg) (o : BitVec 11) : RoundTrip.Statement (.bltu a b o) := by
  refine roundTrip_two (v := 1 + 4 * 12 + 262144 * 4 + 256 * a.val + 8192 * b.val + 2097152 * o.toNat) rfl rfl (by omega) (by omega) fun x0 t0 ht hx => ?_
  obtain ⟨f0, g0, e0, e1, e2⟩ := layout8 x0 t0 12 4 a b o ht hx (by decide) (by decide)
  simp [decode32_0C f0, decodeMajor0C, g0, e0, e1, e2]

theorem RoundTrip.bgeu (a : Reg) (b : Reg) (o : BitVec 11) : RoundTrip.Statement (.bgeu a b o) := by
  refine roundTrip_two (v := 1 + 4 * 12 + 262144 * 5 + 256 * a.val + 8192 * b.val + 2097152 * o.toNat) rfl rfl (by omega) (by omega) fun x0 t0 ht hx => ?_
  obtain ⟨f0, g0, e0, e1, e2⟩ := layout8 x0 t0 12 5 a b o ht hx (by decide) (by decide)
  simp [decode32_0C f0, decodeMajor0C, g0, e0, e1, e2]

theorem RoundTrip.jmp (o : BitVec 24) : RoundTrip.Statement (.jmp o) := by
  refine roundTrip_two (v := 1 + 4 * 13 + 256 * o.toNat) rfl rfl (by omega) (by omega) fun x0 t0 ht hx => ?_
  obtain ⟨f0, e0⟩ := layout9 x0 t0 13 o ht hx (by decide)
  simp [decode32_0D f0, decodeMajor0D, e0]

theorem RoundTrip.call (o : BitVec 24) : RoundTrip.Statement (.call o) := by
  refine roundTrip_two (v := 1 + 4 * 14 + 256 * o.toNat) rfl rfl (by omega) (by omega) fun x0 t0 ht hx => ?_
  obtain ⟨f0, e0⟩ := layout9 x0 t0 14 o ht hx (by decide)
  simp [decode32_0E f0, decodeMajor0E, e0]

theorem RoundTrip.jreg (d : Reg) (a : Reg) (i : BitVec 14) : RoundTrip.Statement (.jreg d a i) := by
  refine roundTrip_two (v := 1 + 4 * 15 + 256 * d.val + 8192 * a.val + 262144 * i.toNat) rfl rfl (by omega) (by omega) fun x0 t0 ht hx => ?_
  obtain ⟨f0, e0, e1, e2⟩ := layout2 x0 t0 15 d a i ht hx (by decide)
  simp [decode32_0F f0, decodeMajor0F, e0, e1, e2]

theorem RoundTrip.loop (a : Reg) (i : BitVec 14) : RoundTrip.Statement (.loop a i) := by
  refine roundTrip_two (v := 1 + 4 * 16 + 256 * 0 + 8192 * a.val + 262144 * i.toNat) rfl rfl (by omega) (by omega) fun x0 t0 ht hx => ?_
  obtain ⟨f0, g0, e0, e1⟩ := layout10 x0 t0 16 0 a i ht hx (by decide) (by decide)
  simp [decode32_10 f0, decodeMajor10, g0, e0, e1]

theorem RoundTrip.endtask (a : Reg) : RoundTrip.Statement (.endtask a) := by
  refine roundTrip_two (v := 1 + 4 * 17 + 256 * 0 + 262144 * 0 + 8192 * a.val) rfl rfl (by omega) (by omega) fun x0 t0 ht hx => ?_
  obtain ⟨f0, g0, g1, e0⟩ := layout11 x0 t0 17 0 0 a ht hx (by decide) (by decide) (by decide)
  simp [decode32_11 f0, decodeMajor11, g0, g1, e0]

theorem RoundTrip.spawnPath (d : Reg) (a : Reg) (c : BitVec 6) (r : BitVec 1) : RoundTrip.Statement (.spawnPath d a c r) := by
  refine roundTrip_two (v := 1 + 4 * 17 + 16777216 * 0 + 134217728 * 2 + 256 * d.val + 8192 * a.val + 262144 * c.toNat + 67108864 * r.toNat) rfl rfl (by omega) (by omega) fun x0 t0 ht hx => ?_
  obtain ⟨f0, g0, g1, e0, e1, e2, e3⟩ := layout12 x0 t0 17 0 2 d a c r ht hx (by decide) (by decide) (by decide)
  have h0 : ¬ x0 / 262144 % 16384 = 0 := by omega
  simp [decode32_11 f0, decodeMajor11, g0, g1, e0, e1, e2, e3, h0]

theorem RoundTrip.spawnNear (d : Reg) (a : Reg) (c : BitVec 6) (r : BitVec 1) : RoundTrip.Statement (.spawnNear d a c r) := by
  refine roundTrip_two (v := 1 + 4 * 17 + 16777216 * 1 + 134217728 * 2 + 256 * d.val + 8192 * a.val + 262144 * c.toNat + 67108864 * r.toNat) rfl rfl (by omega) (by omega) fun x0 t0 ht hx => ?_
  obtain ⟨f0, g0, g1, e0, e1, e2, e3⟩ := layout12 x0 t0 17 1 2 d a c r ht hx (by decide) (by decide) (by decide)
  have h0 : ¬ x0 / 262144 % 16384 = 0 := by omega
  simp [decode32_11 f0, decodeMajor11, g0, g1, e0, e1, e2, e3, h0]

theorem RoundTrip.spawnSteal (d : Reg) (a : Reg) (c : BitVec 6) (r : BitVec 1) : RoundTrip.Statement (.spawnSteal d a c r) := by
  refine roundTrip_two (v := 1 + 4 * 17 + 16777216 * 2 + 134217728 * 2 + 256 * d.val + 8192 * a.val + 262144 * c.toNat + 67108864 * r.toNat) rfl rfl (by omega) (by omega) fun x0 t0 ht hx => ?_
  obtain ⟨f0, g0, g1, e0, e1, e2, e3⟩ := layout12 x0 t0 17 2 2 d a c r ht hx (by decide) (by decide) (by decide)
  have h0 : ¬ x0 / 262144 % 16384 = 0 := by omega
  simp [decode32_11 f0, decodeMajor11, g0, g1, e0, e1, e2, e3, h0]

theorem RoundTrip.join (d : Reg) (a : Reg) (k : BitVec 8) : RoundTrip.Statement (.join d a k) := by
  refine roundTrip_two (v := 1 + 4 * 17 + 67108864 * 8 + 256 * d.val + 8192 * a.val + 262144 * k.toNat) rfl rfl (by omega) (by omega) fun x0 t0 ht hx => ?_
  obtain ⟨f0, g0, e0, e1, e2⟩ := layout13 x0 t0 17 8 d a k ht hx (by decide) (by decide)
  have h0 : ¬ x0 / 262144 % 16384 = 0 := by omega
  have h1 : x0 / 134217728 % 32 = 4 := by omega
  simp [decode32_11 f0, decodeMajor11, g0, e0, e1, e2, h0, h1]

theorem RoundTrip.yieldchk (d : Reg) : RoundTrip.Statement (.yieldchk d) := by
  refine roundTrip_two (v := 1 + 4 * 17 + 8192 * 98304 + 256 * d.val) rfl rfl (by omega) (by omega) fun x0 t0 ht hx => ?_
  obtain ⟨f0, g0, e0⟩ := layout7 x0 t0 17 98304 d ht hx (by decide) (by decide)
  have h0 : x0 / 262144 % 16384 = 3072 := by omega
  have h1 : x0 / 16777216 % 4 = 0 := by omega
  have h2 : x0 / 134217728 % 32 = 6 := by omega
  have h3 : x0 / 67108864 % 64 = 12 := by omega
  simp [decode32_11 f0, decodeMajor11, g0, e0, h0, h1, h2, h3]

theorem RoundTrip.follow (a : Reg) (k : BitVec 10) : RoundTrip.Statement (.follow a k) := by
  refine roundTrip_two (v := 1 + 4 * 17 + 256 * 0 + 268435456 * 4 + 8192 * a.val + 262144 * k.toNat) rfl rfl (by omega) (by omega) fun x0 t0 ht hx => ?_
  obtain ⟨f0, g0, g1, e0, e1⟩ := layout14 x0 t0 17 0 4 a k ht hx (by decide) (by decide) (by decide)
  have h0 : ¬ x0 / 262144 % 16384 = 0 := by omega
  have h1 : ¬ x0 / 134217728 % 32 = 2 := by omega
  have h2 : ¬ x0 / 67108864 % 64 = 8 := by omega
  have h3 : ¬ x0 / 8192 % 524288 = 98304 := by omega
  simp [decode32_11 f0, decodeMajor11, g0, g1, e0, e1, h0, h1, h2, h3]

theorem RoundTrip.cancel (a : Reg) : RoundTrip.Statement (.cancel a) := by
  refine roundTrip_two (v := 1 + 4 * 17 + 256 * 0 + 262144 * 6144 + 8192 * a.val) rfl rfl (by omega) (by omega) fun x0 t0 ht hx => ?_
  obtain ⟨f0, g0, g1, e0⟩ := layout11 x0 t0 17 0 6144 a ht hx (by decide) (by decide) (by decide)
  have h0 : x0 / 16777216 % 4 = 0 := by omega
  have h1 : x0 / 134217728 % 32 = 12 := by omega
  have h2 : x0 / 67108864 % 64 = 24 := by omega
  have h3 : ¬ x0 / 8192 % 524288 = 98304 := by omega
  have h4 : x0 / 268435456 % 16 = 6 := by omega
  simp [decode32_11 f0, decodeMajor11, g0, g1, e0, h0, h1, h2, h3, h4]

theorem RoundTrip.rtquiet (d : Reg) (a : Reg) (k : BitVec 8) : RoundTrip.Statement (.rtquiet d a k) := by
  refine roundTrip_two (v := 1 + 4 * 17 + 67108864 * 28 + 256 * d.val + 8192 * a.val + 262144 * k.toNat) rfl rfl (by omega) (by omega) fun x0 t0 ht hx => ?_
  obtain ⟨f0, g0, e0, e1, e2⟩ := layout13 x0 t0 17 28 d a k ht hx (by decide) (by decide)
  have h0 : ¬ x0 / 262144 % 16384 = 0 := by omega
  have h1 : x0 / 134217728 % 32 = 14 := by omega
  have h2 : ¬ x0 / 8192 % 524288 = 98304 := by omega
  have h3 : x0 / 268435456 % 16 = 7 := by omega
  have h4 : ¬ x0 / 262144 % 16384 = 6144 := by omega
  simp [decode32_11 f0, decodeMajor11, g0, e0, e1, e2, h0, h1, h2, h3, h4]

theorem RoundTrip.csrrw (d : Reg) (a : Reg) (k : BitVec 10) : RoundTrip.Statement (.csrrw d a k) := by
  refine roundTrip_two (v := 1 + 4 * 17 + 268435456 * 8 + 256 * d.val + 8192 * a.val + 262144 * k.toNat) rfl rfl (by omega) (by omega) fun x0 t0 ht hx => ?_
  obtain ⟨f0, g0, e0, e1, e2⟩ := layout15 x0 t0 17 8 d a k ht hx (by decide) (by decide)
  have h0 : ¬ x0 / 262144 % 16384 = 0 := by omega
  have h1 : ¬ x0 / 134217728 % 32 = 2 := by omega
  have h2 : ¬ x0 / 67108864 % 64 = 8 := by omega
  have h3 : ¬ x0 / 8192 % 524288 = 98304 := by omega
  have h4 : ¬ x0 / 262144 % 16384 = 6144 := by omega
  have h5 : ¬ x0 / 67108864 % 64 = 28 := by omega
  simp [decode32_11 f0, decodeMajor11, g0, e0, e1, e2, h0, h1, h2, h3, h4, h5]

theorem RoundTrip.csrrs (d : Reg) (a : Reg) (k : BitVec 10) : RoundTrip.Statement (.csrrs d a k) := by
  refine roundTrip_two (v := 1 + 4 * 17 + 268435456 * 9 + 256 * d.val + 8192 * a.val + 262144 * k.toNat) rfl rfl (by omega) (by omega) fun x0 t0 ht hx => ?_
  obtain ⟨f0, g0, e0, e1, e2⟩ := layout15 x0 t0 17 9 d a k ht hx (by decide) (by decide)
  have h0 : ¬ x0 / 262144 % 16384 = 0 := by omega
  have h1 : ¬ x0 / 134217728 % 32 = 2 := by omega
  have h2 : ¬ x0 / 67108864 % 64 = 8 := by omega
  have h3 : ¬ x0 / 8192 % 524288 = 98304 := by omega
  have h4 : ¬ x0 / 262144 % 16384 = 6144 := by omega
  have h5 : ¬ x0 / 67108864 % 64 = 28 := by omega
  simp [decode32_11 f0, decodeMajor11, g0, e0, e1, e2, h0, h1, h2, h3, h4, h5]

theorem RoundTrip.csrrc (d : Reg) (a : Reg) (k : BitVec 10) : RoundTrip.Statement (.csrrc d a k) := by
  refine roundTrip_two (v := 1 + 4 * 17 + 268435456 * 10 + 256 * d.val + 8192 * a.val + 262144 * k.toNat) rfl rfl (by omega) (by omega) fun x0 t0 ht hx => ?_
  obtain ⟨f0, g0, e0, e1, e2⟩ := layout15 x0 t0 17 10 d a k ht hx (by decide) (by decide)
  have h0 : ¬ x0 / 262144 % 16384 = 0 := by omega
  have h1 : ¬ x0 / 134217728 % 32 = 2 := by omega
  have h2 : ¬ x0 / 67108864 % 64 = 8 := by omega
  have h3 : ¬ x0 / 8192 % 524288 = 98304 := by omega
  have h4 : ¬ x0 / 262144 % 16384 = 6144 := by omega
  have h5 : ¬ x0 / 67108864 % 64 = 28 := by omega
  simp [decode32_11 f0, decodeMajor11, g0, e0, e1, e2, h0, h1, h2, h3, h4, h5]

theorem RoundTrip.ld (d : Reg) (a : Reg) (z : BitVec 3) (o : BitVec 11) : RoundTrip.Statement (.ld d a z o) := by
  refine roundTrip_two (v := 1 + 4 * 18 + 256 * d.val + 8192 * a.val + 262144 * z.toNat + 2097152 * o.toNat) rfl rfl (by omega) (by omega) fun x0 t0 ht hx => ?_
  obtain ⟨f0, e0, e1, e2, e3⟩ := layout16 x0 t0 18 d a z o ht hx (by decide)
  simp [decode32_12 f0, decodeMajor12, e0, e1, e2, e3]

theorem RoundTrip.st (d : Reg) (a : Reg) (z : BitVec 3) (o : BitVec 11) : RoundTrip.Statement (.st d a z o) := by
  refine roundTrip_two (v := 1 + 4 * 19 + 256 * d.val + 8192 * a.val + 262144 * z.toNat + 2097152 * o.toNat) rfl rfl (by omega) (by omega) fun x0 t0 ht hx => ?_
  obtain ⟨f0, e0, e1, e2, e3⟩ := layout16 x0 t0 19 d a z o ht hx (by decide)
  simp [decode32_13 f0, decodeMajor13, e0, e1, e2, e3]

theorem RoundTrip.ldl (d : Reg) (a : Reg) (z : BitVec 3) (o : BitVec 11) : RoundTrip.Statement (.ldl d a z o) := by
  refine roundTrip_two (v := 1 + 4 * 20 + 256 * d.val + 8192 * a.val + 262144 * z.toNat + 2097152 * o.toNat) rfl rfl (by omega) (by omega) fun x0 t0 ht hx => ?_
  obtain ⟨f0, e0, e1, e2, e3⟩ := layout16 x0 t0 20 d a z o ht hx (by decide)
  simp [decode32_14 f0, decodeMajor14, e0, e1, e2, e3]

theorem RoundTrip.stl (d : Reg) (a : Reg) (z : BitVec 3) (o : BitVec 11) : RoundTrip.Statement (.stl d a z o) := by
  refine roundTrip_two (v := 1 + 4 * 21 + 256 * d.val + 8192 * a.val + 262144 * z.toNat + 2097152 * o.toNat) rfl rfl (by omega) (by omega) fun x0 t0 ht hx => ?_
  obtain ⟨f0, e0, e1, e2, e3⟩ := layout16 x0 t0 21 d a z o ht hx (by decide)
  simp [decode32_15 f0, decodeMajor15, e0, e1, e2, e3]

theorem RoundTrip.ldc (d : Reg) (a : Reg) (z : BitVec 3) (o : BitVec 11) : RoundTrip.Statement (.ldc d a z o) := by
  refine roundTrip_two (v := 1 + 4 * 22 + 256 * d.val + 8192 * a.val + 262144 * z.toNat + 2097152 * o.toNat) rfl rfl (by omega) (by omega) fun x0 t0 ht hx => ?_
  obtain ⟨f0, e0, e1, e2, e3⟩ := layout16 x0 t0 22 d a z o ht hx (by decide)
  simp [decode32_16 f0, decodeMajor16, e0, e1, e2, e3]

theorem RoundTrip.stc (d : Reg) (a : Reg) (z : BitVec 3) (o : BitVec 11) : RoundTrip.Statement (.stc d a z o) := by
  refine roundTrip_two (v := 1 + 4 * 23 + 256 * d.val + 8192 * a.val + 262144 * z.toNat + 2097152 * o.toNat) rfl rfl (by omega) (by omega) fun x0 t0 ht hx => ?_
  obtain ⟨f0, e0, e1, e2, e3⟩ := layout16 x0 t0 23 d a z o ht hx (by decide)
  simp [decode32_17 f0, decodeMajor17, e0, e1, e2, e3]

theorem RoundTrip.ldv (d : Reg) (a : Reg) (b : Reg) (p : Fin 8) (n : BitVec 3) (y : BitVec 3) : RoundTrip.Statement (.ldv d a b p n y) := by
  refine roundTrip_two (v := 1 + 4 * 24 + 256 * d.val + 8192 * a.val + 262144 * b.val + 8388608 * p.val + 67108864 * n.toNat + 536870912 * y.toNat) rfl rfl (by omega) (by omega) fun x0 t0 ht hx => ?_
  obtain ⟨f0, e0, e1, e2, e3, e4, e5⟩ := layout17 x0 t0 24 d a b p n y ht hx (by decide)
  simp [decode32_18 f0, decodeMajor18, e0, e1, e2, e3, e4, e5]

theorem RoundTrip.stv (d : Reg) (a : Reg) (b : Reg) (p : Fin 8) (n : BitVec 3) (y : BitVec 3) : RoundTrip.Statement (.stv d a b p n y) := by
  refine roundTrip_two (v := 1 + 4 * 25 + 256 * d.val + 8192 * a.val + 262144 * b.val + 8388608 * p.val + 67108864 * n.toNat + 536870912 * y.toNat) rfl rfl (by omega) (by omega) fun x0 t0 ht hx => ?_
  obtain ⟨f0, e0, e1, e2, e3, e4, e5⟩ := layout17 x0 t0 25 d a b p n y ht hx (by decide)
  simp [decode32_19 f0, decodeMajor19, e0, e1, e2, e3, e4, e5]

theorem RoundTrip.amoswap (d : Reg) (a : Reg) (b : Reg) (z : BitVec 1) (u : BitVec 2) : RoundTrip.Statement (.amoswap d a b z u) := by
  refine roundTrip_two (v := 1 + 4 * 26 + 8388608 * 0 + 2147483648 * 0 + 256 * d.val + 8192 * a.val + 262144 * b.val + 268435456 * z.toNat + 536870912 * u.toNat) rfl rfl (by omega) (by omega) fun x0 t0 ht hx => ?_
  obtain ⟨f0, g0, g1, e0, e1, e2, e3, e4⟩ := layout18 x0 t0 26 0 0 d a b z u ht hx (by decide) (by decide) (by decide)
  simp [decode32_1A f0, decodeMajor1A, g0, g1, e0, e1, e2, e3, e4]

theorem RoundTrip.amoadd (d : Reg) (a : Reg) (b : Reg) (z : BitVec 1) (u : BitVec 2) : RoundTrip.Statement (.amoadd d a b z u) := by
  refine roundTrip_two (v := 1 + 4 * 26 + 8388608 * 1 + 2147483648 * 0 + 256 * d.val + 8192 * a.val + 262144 * b.val + 268435456 * z.toNat + 536870912 * u.toNat) rfl rfl (by omega) (by omega) fun x0 t0 ht hx => ?_
  obtain ⟨f0, g0, g1, e0, e1, e2, e3, e4⟩ := layout18 x0 t0 26 1 0 d a b z u ht hx (by decide) (by decide) (by decide)
  simp [decode32_1A f0, decodeMajor1A, g0, g1, e0, e1, e2, e3, e4]

theorem RoundTrip.amoand (d : Reg) (a : Reg) (b : Reg) (z : BitVec 1) (u : BitVec 2) : RoundTrip.Statement (.amoand d a b z u) := by
  refine roundTrip_two (v := 1 + 4 * 26 + 8388608 * 2 + 2147483648 * 0 + 256 * d.val + 8192 * a.val + 262144 * b.val + 268435456 * z.toNat + 536870912 * u.toNat) rfl rfl (by omega) (by omega) fun x0 t0 ht hx => ?_
  obtain ⟨f0, g0, g1, e0, e1, e2, e3, e4⟩ := layout18 x0 t0 26 2 0 d a b z u ht hx (by decide) (by decide) (by decide)
  simp [decode32_1A f0, decodeMajor1A, g0, g1, e0, e1, e2, e3, e4]

theorem RoundTrip.amoor (d : Reg) (a : Reg) (b : Reg) (z : BitVec 1) (u : BitVec 2) : RoundTrip.Statement (.amoor d a b z u) := by
  refine roundTrip_two (v := 1 + 4 * 26 + 8388608 * 3 + 2147483648 * 0 + 256 * d.val + 8192 * a.val + 262144 * b.val + 268435456 * z.toNat + 536870912 * u.toNat) rfl rfl (by omega) (by omega) fun x0 t0 ht hx => ?_
  obtain ⟨f0, g0, g1, e0, e1, e2, e3, e4⟩ := layout18 x0 t0 26 3 0 d a b z u ht hx (by decide) (by decide) (by decide)
  simp [decode32_1A f0, decodeMajor1A, g0, g1, e0, e1, e2, e3, e4]

theorem RoundTrip.amoxor (d : Reg) (a : Reg) (b : Reg) (z : BitVec 1) (u : BitVec 2) : RoundTrip.Statement (.amoxor d a b z u) := by
  refine roundTrip_two (v := 1 + 4 * 26 + 8388608 * 4 + 2147483648 * 0 + 256 * d.val + 8192 * a.val + 262144 * b.val + 268435456 * z.toNat + 536870912 * u.toNat) rfl rfl (by omega) (by omega) fun x0 t0 ht hx => ?_
  obtain ⟨f0, g0, g1, e0, e1, e2, e3, e4⟩ := layout18 x0 t0 26 4 0 d a b z u ht hx (by decide) (by decide) (by decide)
  simp [decode32_1A f0, decodeMajor1A, g0, g1, e0, e1, e2, e3, e4]

theorem RoundTrip.amomin (d : Reg) (a : Reg) (b : Reg) (z : BitVec 1) (u : BitVec 2) : RoundTrip.Statement (.amomin d a b z u) := by
  refine roundTrip_two (v := 1 + 4 * 26 + 8388608 * 5 + 2147483648 * 0 + 256 * d.val + 8192 * a.val + 262144 * b.val + 268435456 * z.toNat + 536870912 * u.toNat) rfl rfl (by omega) (by omega) fun x0 t0 ht hx => ?_
  obtain ⟨f0, g0, g1, e0, e1, e2, e3, e4⟩ := layout18 x0 t0 26 5 0 d a b z u ht hx (by decide) (by decide) (by decide)
  simp [decode32_1A f0, decodeMajor1A, g0, g1, e0, e1, e2, e3, e4]

theorem RoundTrip.amomax (d : Reg) (a : Reg) (b : Reg) (z : BitVec 1) (u : BitVec 2) : RoundTrip.Statement (.amomax d a b z u) := by
  refine roundTrip_two (v := 1 + 4 * 26 + 8388608 * 6 + 2147483648 * 0 + 256 * d.val + 8192 * a.val + 262144 * b.val + 268435456 * z.toNat + 536870912 * u.toNat) rfl rfl (by omega) (by omega) fun x0 t0 ht hx => ?_
  obtain ⟨f0, g0, g1, e0, e1, e2, e3, e4⟩ := layout18 x0 t0 26 6 0 d a b z u ht hx (by decide) (by decide) (by decide)
  simp [decode32_1A f0, decodeMajor1A, g0, g1, e0, e1, e2, e3, e4]

theorem RoundTrip.amominu (d : Reg) (a : Reg) (b : Reg) (z : BitVec 1) (u : BitVec 2) : RoundTrip.Statement (.amominu d a b z u) := by
  refine roundTrip_two (v := 1 + 4 * 26 + 8388608 * 7 + 2147483648 * 0 + 256 * d.val + 8192 * a.val + 262144 * b.val + 268435456 * z.toNat + 536870912 * u.toNat) rfl rfl (by omega) (by omega) fun x0 t0 ht hx => ?_
  obtain ⟨f0, g0, g1, e0, e1, e2, e3, e4⟩ := layout18 x0 t0 26 7 0 d a b z u ht hx (by decide) (by decide) (by decide)
  simp [decode32_1A f0, decodeMajor1A, g0, g1, e0, e1, e2, e3, e4]

theorem RoundTrip.amomaxu (d : Reg) (a : Reg) (b : Reg) (z : BitVec 1) (u : BitVec 2) : RoundTrip.Statement (.amomaxu d a b z u) := by
  refine roundTrip_two (v := 1 + 4 * 26 + 8388608 * 8 + 2147483648 * 0 + 256 * d.val + 8192 * a.val + 262144 * b.val + 268435456 * z.toNat + 536870912 * u.toNat) rfl rfl (by omega) (by omega) fun x0 t0 ht hx => ?_
  obtain ⟨f0, g0, g1, e0, e1, e2, e3, e4⟩ := layout18 x0 t0 26 8 0 d a b z u ht hx (by decide) (by decide) (by decide)
  simp [decode32_1A f0, decodeMajor1A, g0, g1, e0, e1, e2, e3, e4]

theorem RoundTrip.amocas (d : Reg) (a : Reg) (b : Reg) (z : BitVec 1) (u : BitVec 2) : RoundTrip.Statement (.amocas d a b z u) := by
  refine roundTrip_two (v := 1 + 4 * 26 + 8388608 * 9 + 2147483648 * 0 + 256 * d.val + 8192 * a.val + 262144 * b.val + 268435456 * z.toNat + 536870912 * u.toNat) rfl rfl (by omega) (by omega) fun x0 t0 ht hx => ?_
  obtain ⟨f0, g0, g1, e0, e1, e2, e3, e4⟩ := layout18 x0 t0 26 9 0 d a b z u ht hx (by decide) (by decide) (by decide)
  simp [decode32_1A f0, decodeMajor1A, g0, g1, e0, e1, e2, e3, e4]

theorem RoundTrip.amofadd (d : Reg) (a : Reg) (b : Reg) (u : BitVec 2) : RoundTrip.Statement (.amofadd d a b u) := by
  refine roundTrip_two (v := 1 + 4 * 26 + 8388608 * 10 + 2147483648 * 0 + 256 * d.val + 8192 * a.val + 262144 * b.val + 536870912 * u.toNat) rfl rfl (by omega) (by omega) fun x0 t0 ht hx => ?_
  obtain ⟨f0, g0, g1, e0, e1, e2, e3⟩ := layout19 x0 t0 26 10 0 d a b u ht hx (by decide) (by decide) (by decide)
  have h0 : x0 / 8388608 % 32 = 10 := by omega
  simp [decode32_1A f0, decodeMajor1A, g0, g1, e0, e1, e2, e3, h0]

theorem RoundTrip.amobfpadd (d : Reg) (a : Reg) (b : Reg) : RoundTrip.Statement (.amobfpadd d a b) := by
  refine roundTrip_two (v := 1 + 4 * 26 + 8388608 * 11 + 256 * d.val + 8192 * a.val + 262144 * b.val) rfl rfl (by omega) (by omega) fun x0 t0 ht hx => ?_
  obtain ⟨f0, g0, e0, e1, e2⟩ := layout1 x0 t0 26 11 d a b ht hx (by decide) (by decide)
  have h0 : x0 / 8388608 % 32 = 11 := by omega
  have h1 : x0 / 2147483648 % 2 = 0 := by omega
  have h2 : x0 / 8388608 % 64 = 11 := by omega
  simp [decode32_1A f0, decodeMajor1A, g0, e0, e1, e2, h0, h1, h2]

theorem RoundTrip.fence (t : BitVec 4) : RoundTrip.Statement (.fence t) := by
  refine roundTrip_two (v := 1 + 4 * 27 + 256 * 0 + 268435456 * t.toNat) rfl rfl (by omega) (by omega) fun x0 t0 ht hx => ?_
  obtain ⟨f0, g0, e0⟩ := layout20 x0 t0 27 0 t ht hx (by decide) (by decide)
  simp [decode32_1B f0, decodeMajor1B, g0, e0]

theorem RoundTrip.phinit (a : Reg) (b : Reg) (t : BitVec 4) : RoundTrip.Statement (.phinit a b t) := by
  refine roundTrip_two (v := 1 + 4 * 27 + 256 * 0 + 8388608 * 1 + 8192 * a.val + 262144 * b.val + 268435456 * t.toNat) rfl rfl (by omega) (by omega) fun x0 t0 ht hx => ?_
  obtain ⟨f0, g0, g1, e0, e1, e2⟩ := layout21 x0 t0 27 0 1 a b t ht hx (by decide) (by decide) (by decide)
  have h0 : ¬ x0 / 256 % 1048576 = 0 := by omega
  simp [decode32_1B f0, decodeMajor1B, g0, g1, e0, e1, e2, h0]

theorem RoundTrip.pharr (a : Reg) (t : BitVec 4) : RoundTrip.Statement (.pharr a t) := by
  refine roundTrip_two (v := 1 + 4 * 27 + 256 * 0 + 262144 * 64 + 8192 * a.val + 268435456 * t.toNat) rfl rfl (by omega) (by omega) fun x0 t0 ht hx => ?_
  obtain ⟨f0, g0, g1, e0, e1⟩ := layout22 x0 t0 27 0 64 a t ht hx (by decide) (by decide) (by decide)
  have h0 : ¬ x0 / 256 % 1048576 = 0 := by omega
  have h1 : x0 / 8388608 % 32 = 2 := by omega
  simp [decode32_1B f0, decodeMajor1B, g0, g1, e0, e1, h0, h1]

theorem RoundTrip.phadd (a : Reg) (b : Reg) (t : BitVec 4) : RoundTrip.Statement (.phadd a b t) := by
  refine roundTrip_two (v := 1 + 4 * 27 + 256 * 0 + 8388608 * 3 + 8192 * a.val + 262144 * b.val + 268435456 * t.toNat) rfl rfl (by omega) (by omega) fun x0 t0 ht hx => ?_
  obtain ⟨f0, g0, g1, e0, e1, e2⟩ := layout21 x0 t0 27 0 3 a b t ht hx (by decide) (by decide) (by decide)
  have h0 : ¬ x0 / 256 % 1048576 = 0 := by omega
  have h1 : ¬ x0 / 262144 % 1024 = 64 := by omega
  simp [decode32_1B f0, decodeMajor1B, g0, g1, e0, e1, e2, h0, h1]

theorem RoundTrip.phwait (d : Reg) (a : Reg) (b : Reg) (t : BitVec 4) : RoundTrip.Statement (.phwait d a b t) := by
  refine roundTrip_two (v := 1 + 4 * 27 + 8388608 * 4 + 256 * d.val + 8192 * a.val + 262144 * b.val + 268435456 * t.toNat) rfl rfl (by omega) (by omega) fun x0 t0 ht hx => ?_
  obtain ⟨f0, g0, e0, e1, e2, e3⟩ := layout23 x0 t0 27 4 d a b t ht hx (by decide) (by decide)
  have h0 : ¬ x0 / 256 % 1048576 = 0 := by omega
  have h1 : ¬ x0 / 262144 % 1024 = 64 := by omega
  simp [decode32_1B f0, decodeMajor1B, g0, e0, e1, e2, e3, h0, h1]

theorem RoundTrip.phread (d : Reg) (a : Reg) (b : Reg) (t : BitVec 4) : RoundTrip.Statement (.phread d a b t) := by
  refine roundTrip_two (v := 1 + 4 * 27 + 8388608 * 5 + 256 * d.val + 8192 * a.val + 262144 * b.val + 268435456 * t.toNat) rfl rfl (by omega) (by omega) fun x0 t0 ht hx => ?_
  obtain ⟨f0, g0, e0, e1, e2, e3⟩ := layout23 x0 t0 27 5 d a b t ht hx (by decide) (by decide)
  have h0 : ¬ x0 / 256 % 1048576 = 0 := by omega
  have h1 : ¬ x0 / 262144 % 1024 = 64 := by omega
  simp [decode32_1B f0, decodeMajor1B, g0, e0, e1, e2, e3, h0, h1]

theorem RoundTrip.taglk (d : Reg) (a : Reg) : RoundTrip.Statement (.taglk d a) := by
  refine roundTrip_two (v := 1 + 4 * 28 + 262144 * 0 + 256 * d.val + 8192 * a.val) rfl rfl (by omega) (by omega) fun x0 t0 ht hx => ?_
  obtain ⟨f0, g0, e0, e1⟩ := layout6 x0 t0 28 0 d a ht hx (by decide) (by decide)
  simp [decode32_1C f0, decodeMajor1C, g0, e0, e1]

theorem RoundTrip.tagset (d : Reg) (a : Reg) (b : Reg) : RoundTrip.Statement (.tagset d a b) := by
  refine roundTrip_two (v := 1 + 4 * 28 + 8388608 * 1 + 256 * d.val + 8192 * a.val + 262144 * b.val) rfl rfl (by omega) (by omega) fun x0 t0 ht hx => ?_
  obtain ⟨f0, g0, e0, e1, e2⟩ := layout1 x0 t0 28 1 d a b ht hx (by decide) (by decide)
  have h0 : ¬ x0 / 262144 % 16384 = 0 := by omega
  simp [decode32_1C f0, decodeMajor1C, g0, e0, e1, e2, h0]

theorem RoundTrip.taginv (a : Reg) : RoundTrip.Statement (.taginv a) := by
  refine roundTrip_two (v := 1 + 4 * 28 + 256 * 0 + 262144 * 64 + 8192 * a.val) rfl rfl (by omega) (by omega) fun x0 t0 ht hx => ?_
  obtain ⟨f0, g0, g1, e0⟩ := layout11 x0 t0 28 0 64 a ht hx (by decide) (by decide) (by decide)
  have h0 : x0 / 8388608 % 512 = 2 := by omega
  simp [decode32_1C f0, decodeMajor1C, g0, g1, e0, h0]

theorem RoundTrip.tagstat (d : Reg) (a : Reg) (b : Reg) : RoundTrip.Statement (.tagstat d a b) := by
  refine roundTrip_two (v := 1 + 4 * 28 + 8388608 * 3 + 256 * d.val + 8192 * a.val + 262144 * b.val) rfl rfl (by omega) (by omega) fun x0 t0 ht hx => ?_
  obtain ⟨f0, g0, e0, e1, e2⟩ := layout1 x0 t0 28 3 d a b ht hx (by decide) (by decide)
  have h0 : ¬ x0 / 262144 % 16384 = 0 := by omega
  have h1 : ¬ x0 / 262144 % 16384 = 64 := by omega
  simp [decode32_1C f0, decodeMajor1C, g0, e0, e1, e2, h0, h1]

theorem RoundTrip.xfer (a : Reg) : RoundTrip.Statement (.xfer a) := by
  refine roundTrip_two (v := 1 + 4 * 29 + 256 * 0 + 262144 * 0 + 8192 * a.val) rfl rfl (by omega) (by omega) fun x0 t0 ht hx => ?_
  obtain ⟨f0, g0, g1, e0⟩ := layout11 x0 t0 29 0 0 a ht hx (by decide) (by decide) (by decide)
  simp [decode32_1D f0, decodeMajor1D, g0, g1, e0]

theorem RoundTrip.xfern (d : Reg) : RoundTrip.Statement (.xfern d) := by
  refine roundTrip_two (v := 1 + 4 * 29 + 8192 * 1024 + 256 * d.val) rfl rfl (by omega) (by omega) fun x0 t0 ht hx => ?_
  obtain ⟨f0, g0, e0⟩ := layout7 x0 t0 29 1024 d ht hx (by decide) (by decide)
  have h0 : x0 / 262144 % 16384 = 32 := by omega
  simp [decode32_1D f0, decodeMajor1D, g0, e0, h0]

theorem RoundTrip.send (a : Reg) : RoundTrip.Statement (.send a) := by
  refine roundTrip_two (v := 1 + 4 * 30 + 256 * 0 + 262144 * 0 + 8192 * a.val) rfl rfl (by omega) (by omega) fun x0 t0 ht hx => ?_
  obtain ⟨f0, g0, g1, e0⟩ := layout11 x0 t0 30 0 0 a ht hx (by decide) (by decide) (by decide)
  simp [decode32_1E f0, decodeMajor1E, g0, g1, e0]

theorem RoundTrip.sendRel (a : Reg) : RoundTrip.Statement (.sendRel a) := by
  refine roundTrip_two (v := 1 + 4 * 30 + 256 * 0 + 262144 * 32 + 8192 * a.val) rfl rfl (by omega) (by omega) fun x0 t0 ht hx => ?_
  obtain ⟨f0, g0, g1, e0⟩ := layout11 x0 t0 30 0 32 a ht hx (by decide) (by decide) (by decide)
  simp [decode32_1E f0, decodeMajor1E, g0, g1, e0]

theorem RoundTrip.reply (a : Reg) (b : Reg) : RoundTrip.Statement (.reply a b) := by
  refine roundTrip_two (v := 1 + 4 * 30 + 256 * 0 + 8388608 * 2 + 8192 * a.val + 262144 * b.val) rfl rfl (by omega) (by omega) fun x0 t0 ht hx => ?_
  obtain ⟨f0, g0, g1, e0, e1⟩ := layout24 x0 t0 30 0 2 a b ht hx (by decide) (by decide) (by decide)
  have h0 : ¬ x0 / 262144 % 16384 = 0 := by omega
  have h1 : ¬ x0 / 262144 % 16384 = 32 := by omega
  simp [decode32_1E f0, decodeMajor1E, g0, g1, e0, e1, h0, h1]

theorem RoundTrip.replyRel (a : Reg) (b : Reg) : RoundTrip.Statement (.replyRel a b) := by
  refine roundTrip_two (v := 1 + 4 * 30 + 256 * 0 + 8388608 * 3 + 8192 * a.val + 262144 * b.val) rfl rfl (by omega) (by omega) fun x0 t0 ht hx => ?_
  obtain ⟨f0, g0, g1, e0, e1⟩ := layout24 x0 t0 30 0 3 a b ht hx (by decide) (by decide) (by decide)
  have h0 : ¬ x0 / 262144 % 16384 = 0 := by omega
  have h1 : ¬ x0 / 262144 % 16384 = 32 := by omega
  simp [decode32_1E f0, decodeMajor1E, g0, g1, e0, e1, h0, h1]

theorem RoundTrip.sendlb (a : Reg) : RoundTrip.Statement (.sendlb a) := by
  refine roundTrip_two (v := 1 + 4 * 30 + 256 * 0 + 262144 * 128 + 8192 * a.val) rfl rfl (by omega) (by omega) fun x0 t0 ht hx => ?_
  obtain ⟨f0, g0, g1, e0⟩ := layout11 x0 t0 30 0 128 a ht hx (by decide) (by decide) (by decide)
  have h0 : x0 / 8388608 % 512 = 4 := by omega
  simp [decode32_1E f0, decodeMajor1E, g0, g1, e0, h0]

theorem RoundTrip.gqcreate (a : Reg) (b : Reg) : RoundTrip.Statement (.gqcreate a b) := by
  refine roundTrip_two (v := 1 + 4 * 31 + 256 * 0 + 8388608 * 0 + 8192 * a.val + 262144 * b.val) rfl rfl (by omega) (by omega) fun x0 t0 ht hx => ?_
  obtain ⟨f0, g0, g1, e0, e1⟩ := layout24 x0 t0 31 0 0 a b ht hx (by decide) (by decide) (by decide)
  simp [decode32_1F f0, decodeMajor1F, g0, g1, e0, e1]

theorem RoundTrip.gqpush (d : Reg) (a : Reg) (b : Reg) : RoundTrip.Statement (.gqpush d a b) := by
  refine roundTrip_two (v := 1 + 4 * 31 + 8388608 * 1 + 256 * d.val + 8192 * a.val + 262144 * b.val) rfl rfl (by omega) (by omega) fun x0 t0 ht hx => ?_
  obtain ⟨f0, g0, e0, e1, e2⟩ := layout1 x0 t0 31 1 d a b ht hx (by decide) (by decide)
  simp [decode32_1F f0, decodeMajor1F, g0, e0, e1, e2]

theorem RoundTrip.gqpop (d : Reg) (a : Reg) (b : Reg) : RoundTrip.Statement (.gqpop d a b) := by
  refine roundTrip_two (v := 1 + 4 * 31 + 8388608 * 2 + 256 * d.val + 8192 * a.val + 262144 * b.val) rfl rfl (by omega) (by omega) fun x0 t0 ht hx => ?_
  obtain ⟨f0, g0, e0, e1, e2⟩ := layout1 x0 t0 31 2 d a b ht hx (by decide) (by decide)
  simp [decode32_1F f0, decodeMajor1F, g0, e0, e1, e2]

theorem RoundTrip.gqpopDrop (d : Reg) (a : Reg) (b : Reg) : RoundTrip.Statement (.gqpopDrop d a b) := by
  refine roundTrip_two (v := 1 + 4 * 31 + 8388608 * 34 + 256 * d.val + 8192 * a.val + 262144 * b.val) rfl rfl (by omega) (by omega) fun x0 t0 ht hx => ?_
  obtain ⟨f0, g0, e0, e1, e2⟩ := layout1 x0 t0 31 34 d a b ht hx (by decide) (by decide)
  simp [decode32_1F f0, decodeMajor1F, g0, e0, e1, e2]

theorem RoundTrip.gqstat (d : Reg) (a : Reg) (b : Reg) : RoundTrip.Statement (.gqstat d a b) := by
  refine roundTrip_two (v := 1 + 4 * 31 + 8388608 * 3 + 256 * d.val + 8192 * a.val + 262144 * b.val) rfl rfl (by omega) (by omega) fun x0 t0 ht hx => ?_
  obtain ⟨f0, g0, e0, e1, e2⟩ := layout1 x0 t0 31 3 d a b ht hx (by decide) (by decide)
  simp [decode32_1F f0, decodeMajor1F, g0, e0, e1, e2]

theorem RoundTrip.mixcfg (a : Reg) (b : Reg) : RoundTrip.Statement (.mixcfg a b) := by
  refine roundTrip_two (v := 1 + 4 * 32 + 256 * 0 + 8388608 * 0 + 8192 * a.val + 262144 * b.val) rfl rfl (by omega) (by omega) fun x0 t0 ht hx => ?_
  obtain ⟨f0, g0, g1, e0, e1⟩ := layout24 x0 t0 32 0 0 a b ht hx (by decide) (by decide) (by decide)
  simp [decode32_20 f0, decodeMajor20, g0, g1, e0, e1]

theorem RoundTrip.mixjoin (a : Reg) (b : Reg) : RoundTrip.Statement (.mixjoin a b) := by
  refine roundTrip_two (v := 1 + 4 * 32 + 256 * 0 + 8388608 * 1 + 8192 * a.val + 262144 * b.val) rfl rfl (by omega) (by omega) fun x0 t0 ht hx => ?_
  obtain ⟨f0, g0, g1, e0, e1⟩ := layout24 x0 t0 32 0 1 a b ht hx (by decide) (by decide) (by decide)
  simp [decode32_20 f0, decodeMajor20, g0, g1, e0, e1]

theorem RoundTrip.mixpeer (a : Reg) (b : Reg) : RoundTrip.Statement (.mixpeer a b) := by
  refine roundTrip_two (v := 1 + 4 * 32 + 256 * 0 + 8388608 * 2 + 8192 * a.val + 262144 * b.val) rfl rfl (by omega) (by omega) fun x0 t0 ht hx => ?_
  obtain ⟨f0, g0, g1, e0, e1⟩ := layout24 x0 t0 32 0 2 a b ht hx (by decide) (by decide) (by decide)
  simp [decode32_20 f0, decodeMajor20, g0, g1, e0, e1]

theorem RoundTrip.mixadd (d : Reg) (a : Reg) (b : Reg) : RoundTrip.Statement (.mixadd d a b) := by
  refine roundTrip_two (v := 1 + 4 * 32 + 8388608 * 3 + 256 * d.val + 8192 * a.val + 262144 * b.val) rfl rfl (by omega) (by omega) fun x0 t0 ht hx => ?_
  obtain ⟨f0, g0, e0, e1, e2⟩ := layout1 x0 t0 32 3 d a b ht hx (by decide) (by decide)
  simp [decode32_20 f0, decodeMajor20, g0, e0, e1, e2]

theorem RoundTrip.mixtick (a : Reg) : RoundTrip.Statement (.mixtick a) := by
  refine roundTrip_two (v := 1 + 4 * 32 + 256 * 0 + 262144 * 128 + 8192 * a.val) rfl rfl (by omega) (by omega) fun x0 t0 ht hx => ?_
  obtain ⟨f0, g0, g1, e0⟩ := layout11 x0 t0 32 0 128 a ht hx (by decide) (by decide) (by decide)
  have h0 : x0 / 8388608 % 512 = 4 := by omega
  simp [decode32_20 f0, decodeMajor20, g0, g1, e0, h0]

theorem RoundTrip.mixread (d : Reg) (a : Reg) (b : Reg) : RoundTrip.Statement (.mixread d a b) := by
  refine roundTrip_two (v := 1 + 4 * 32 + 8388608 * 5 + 256 * d.val + 8192 * a.val + 262144 * b.val) rfl rfl (by omega) (by omega) fun x0 t0 ht hx => ?_
  obtain ⟨f0, g0, e0, e1, e2⟩ := layout1 x0 t0 32 5 d a b ht hx (by decide) (by decide)
  have h0 : ¬ x0 / 262144 % 16384 = 128 := by omega
  simp [decode32_20 f0, decodeMajor20, g0, e0, e1, e2, h0]

theorem RoundTrip.mixstat (d : Reg) (a : Reg) (b : Reg) : RoundTrip.Statement (.mixstat d a b) := by
  refine roundTrip_two (v := 1 + 4 * 32 + 8388608 * 6 + 256 * d.val + 8192 * a.val + 262144 * b.val) rfl rfl (by omega) (by omega) fun x0 t0 ht hx => ?_
  obtain ⟨f0, g0, e0, e1, e2⟩ := layout1 x0 t0 32 6 d a b ht hx (by decide) (by decide)
  have h0 : ¬ x0 / 262144 % 16384 = 128 := by omega
  simp [decode32_20 f0, decodeMajor20, g0, e0, e1, e2, h0]

theorem RoundTrip.mixleave (a : Reg) : RoundTrip.Statement (.mixleave a) := by
  refine roundTrip_two (v := 1 + 4 * 32 + 256 * 0 + 262144 * 224 + 8192 * a.val) rfl rfl (by omega) (by omega) fun x0 t0 ht hx => ?_
  obtain ⟨f0, g0, g1, e0⟩ := layout11 x0 t0 32 0 224 a ht hx (by decide) (by decide) (by decide)
  have h0 : x0 / 8388608 % 512 = 7 := by omega
  simp [decode32_20 f0, decodeMajor20, g0, g1, e0, h0]

theorem RoundTrip.mixhold (a : Reg) (b : Reg) : RoundTrip.Statement (.mixhold a b) := by
  refine roundTrip_two (v := 1 + 4 * 32 + 256 * 0 + 8388608 * 8 + 8192 * a.val + 262144 * b.val) rfl rfl (by omega) (by omega) fun x0 t0 ht hx => ?_
  obtain ⟨f0, g0, g1, e0, e1⟩ := layout24 x0 t0 32 0 8 a b ht hx (by decide) (by decide) (by decide)
  have h0 : ¬ x0 / 262144 % 16384 = 128 := by omega
  have h1 : ¬ x0 / 262144 % 16384 = 224 := by omega
  simp [decode32_20 f0, decodeMajor20, g0, g1, e0, e1, h0, h1]

theorem RoundTrip.mfmt (a : Reg) (b : Reg) : RoundTrip.Statement (.mfmt a b) := by
  refine roundTrip_two (v := 1 + 4 * 33 + 256 * 0 + 8388608 * 0 + 8192 * a.val + 262144 * b.val) rfl rfl (by omega) (by omega) fun x0 t0 ht hx => ?_
  obtain ⟨f0, g0, g1, e0, e1⟩ := layout24 x0 t0 33 0 0 a b ht hx (by decide) (by decide) (by decide)
  simp [decode32_21 f0, decodeMajor21, g0, g1, e0, e1]

theorem RoundTrip.mma (a : Reg) : RoundTrip.Statement (.mma a) := by
  refine roundTrip_two (v := 1 + 4 * 33 + 256 * 0 + 262144 * 32 + 8192 * a.val) rfl rfl (by omega) (by omega) fun x0 t0 ht hx => ?_
  obtain ⟨f0, g0, g1, e0⟩ := layout11 x0 t0 33 0 32 a ht hx (by decide) (by decide) (by decide)
  have h0 : x0 / 8388608 % 512 = 1 := by omega
  simp [decode32_21 f0, decodeMajor21, g0, g1, e0, h0]

theorem RoundTrip.mmas (a : Reg) : RoundTrip.Statement (.mmas a) := by
  refine roundTrip_two (v := 1 + 4 * 33 + 256 * 0 + 262144 * 64 + 8192 * a.val) rfl rfl (by omega) (by omega) fun x0 t0 ht hx => ?_
  obtain ⟨f0, g0, g1, e0⟩ := layout11 x0 t0 33 0 64 a ht hx (by decide) (by decide) (by decide)
  have h0 : x0 / 8388608 % 512 = 2 := by omega
  simp [decode32_21 f0, decodeMajor21, g0, g1, e0, h0]

theorem RoundTrip.mwait (d : Reg) (a : Reg) : RoundTrip.Statement (.mwait d a) := by
  refine roundTrip_two (v := 1 + 4 * 33 + 262144 * 96 + 256 * d.val + 8192 * a.val) rfl rfl (by omega) (by omega) fun x0 t0 ht hx => ?_
  obtain ⟨f0, g0, e0, e1⟩ := layout6 x0 t0 33 96 d a ht hx (by decide) (by decide)
  have h0 : x0 / 8388608 % 512 = 3 := by omega
  simp [decode32_21 f0, decodeMajor21, g0, e0, e1, h0]

theorem RoundTrip.mar (d : Reg) (a : Reg) : RoundTrip.Statement (.mar d a) := by
  refine roundTrip_two (v := 1 + 4 * 33 + 262144 * 128 + 256 * d.val + 8192 * a.val) rfl rfl (by omega) (by omega) fun x0 t0 ht hx => ?_
  obtain ⟨f0, g0, e0, e1⟩ := layout6 x0 t0 33 128 d a ht hx (by decide) (by decide)
  have h0 : x0 / 8388608 % 512 = 4 := by omega
  simp [decode32_21 f0, decodeMajor21, g0, e0, e1, h0]

theorem RoundTrip.maw (d : Reg) (a : Reg) : RoundTrip.Statement (.maw d a) := by
  refine roundTrip_two (v := 1 + 4 * 33 + 262144 * 160 + 256 * d.val + 8192 * a.val) rfl rfl (by omega) (by omega) fun x0 t0 ht hx => ?_
  obtain ⟨f0, g0, e0, e1⟩ := layout6 x0 t0 33 160 d a ht hx (by decide) (by decide)
  have h0 : x0 / 8388608 % 512 = 5 := by omega
  simp [decode32_21 f0, decodeMajor21, g0, e0, e1, h0]

theorem RoundTrip.mstat (d : Reg) : RoundTrip.Statement (.mstat d) := by
  refine roundTrip_two (v := 1 + 4 * 33 + 8192 * 6144 + 256 * d.val) rfl rfl (by omega) (by omega) fun x0 t0 ht hx => ?_
  obtain ⟨f0, g0, e0⟩ := layout7 x0 t0 33 6144 d ht hx (by decide) (by decide)
  have h0 : x0 / 8388608 % 512 = 6 := by omega
  have h1 : x0 / 262144 % 16384 = 192 := by omega
  simp [decode32_21 f0, decodeMajor21, g0, e0, h0, h1]

theorem RoundTrip.msrec (a : Reg) : RoundTrip.Statement (.msrec a) := by
  refine roundTrip_two (v := 1 + 4 * 33 + 256 * 0 + 262144 * 224 + 8192 * a.val) rfl rfl (by omega) (by omega) fun x0 t0 ht hx => ?_
  obtain ⟨f0, g0, g1, e0⟩ := layout11 x0 t0 33 0 224 a ht hx (by decide) (by decide) (by decide)
  have h0 : x0 / 8388608 % 512 = 7 := by omega
  have h1 : ¬ x0 / 8192 % 524288 = 6144 := by omega
  simp [decode32_21 f0, decodeMajor21, g0, g1, e0, h0, h1]

theorem RoundTrip.mtout (a : Reg) : RoundTrip.Statement (.mtout a) := by
  refine roundTrip_two (v := 1 + 4 * 33 + 256 * 0 + 262144 * 256 + 8192 * a.val) rfl rfl (by omega) (by omega) fun x0 t0 ht hx => ?_
  obtain ⟨f0, g0, g1, e0⟩ := layout11 x0 t0 33 0 256 a ht hx (by decide) (by decide) (by decide)
  have h0 : x0 / 8388608 % 512 = 8 := by omega
  have h1 : ¬ x0 / 8192 % 524288 = 6144 := by omega
  simp [decode32_21 f0, decodeMajor21, g0, g1, e0, h0, h1]

theorem RoundTrip.mrem (a : Reg) (t : BitVec 4) : RoundTrip.Statement (.mrem a t) := by
  refine roundTrip_two (v := 1 + 4 * 33 + 256 * 0 + 262144 * 288 + 8192 * a.val + 268435456 * t.toNat) rfl rfl (by omega) (by omega) fun x0 t0 ht hx => ?_
  obtain ⟨f0, g0, g1, e0, e1⟩ := layout22 x0 t0 33 0 288 a t ht hx (by decide) (by decide) (by decide)
  have h0 : ¬ x0 / 8388608 % 512 = 0 := by omega
  have h1 : ¬ x0 / 262144 % 16384 = 32 := by omega
  have h2 : ¬ x0 / 262144 % 16384 = 64 := by omega
  have h3 : ¬ x0 / 262144 % 16384 = 96 := by omega
  have h4 : ¬ x0 / 262144 % 16384 = 128 := by omega
  have h5 : ¬ x0 / 262144 % 16384 = 160 := by omega
  have h6 : ¬ x0 / 8192 % 524288 = 6144 := by omega
  have h7 : ¬ x0 / 262144 % 16384 = 224 := by omega
  have h8 : ¬ x0 / 262144 % 16384 = 256 := by omega
  simp [decode32_21 f0, decodeMajor21, g0, g1, e0, e1, h0, h1, h2, h3, h4, h5, h6, h7, h8]

theorem RoundTrip.mkey (a : Reg) (b : Reg) : RoundTrip.Statement (.mkey a b) := by
  refine roundTrip_two (v := 1 + 4 * 33 + 256 * 0 + 8388608 * 10 + 8192 * a.val + 262144 * b.val) rfl rfl (by omega) (by omega) fun x0 t0 ht hx => ?_
  obtain ⟨f0, g0, g1, e0, e1⟩ := layout24 x0 t0 33 0 10 a b ht hx (by decide) (by decide) (by decide)
  have h0 : ¬ x0 / 262144 % 16384 = 32 := by omega
  have h1 : ¬ x0 / 262144 % 16384 = 64 := by omega
  have h2 : ¬ x0 / 262144 % 16384 = 96 := by omega
  have h3 : ¬ x0 / 262144 % 16384 = 128 := by omega
  have h4 : ¬ x0 / 262144 % 16384 = 160 := by omega
  have h5 : ¬ x0 / 8192 % 524288 = 6144 := by omega
  have h6 : ¬ x0 / 262144 % 16384 = 224 := by omega
  have h7 : ¬ x0 / 262144 % 16384 = 256 := by omega
  have h8 : ¬ x0 / 262144 % 1024 = 288 := by omega
  simp [decode32_21 f0, decodeMajor21, g0, g1, e0, e1, h0, h1, h2, h3, h4, h5, h6, h7, h8]

theorem RoundTrip.mcap (d : Reg) (a : Reg) : RoundTrip.Statement (.mcap d a) := by
  refine roundTrip_two (v := 1 + 4 * 33 + 262144 * 352 + 256 * d.val + 8192 * a.val) rfl rfl (by omega) (by omega) fun x0 t0 ht hx => ?_
  obtain ⟨f0, g0, e0, e1⟩ := layout6 x0 t0 33 352 d a ht hx (by decide) (by decide)
  have h0 : x0 / 8388608 % 512 = 11 := by omega
  have h1 : ¬ x0 / 8192 % 524288 = 6144 := by omega
  have h2 : x0 / 262144 % 1024 = 352 := by omega
  simp [decode32_21 f0, decodeMajor21, g0, e0, e1, h0, h1, h2]

theorem RoundTrip.mnorm (a : Reg) : RoundTrip.Statement (.mnorm a) := by
  refine roundTrip_two (v := 1 + 4 * 34 + 256 * 0 + 262144 * 0 + 8192 * a.val) rfl rfl (by omega) (by omega) fun x0 t0 ht hx => ?_
  obtain ⟨f0, g0, g1, e0⟩ := layout11 x0 t0 34 0 0 a ht hx (by decide) (by decide) (by decide)
  simp [decode32_22 f0, decodeMajor22, g0, g1, e0]

theorem RoundTrip.mxs (a : Reg) (b : Reg) : RoundTrip.Statement (.mxs a b) := by
  refine roundTrip_two (v := 1 + 4 * 34 + 256 * 0 + 8388608 * 1 + 8192 * a.val + 262144 * b.val) rfl rfl (by omega) (by omega) fun x0 t0 ht hx => ?_
  obtain ⟨f0, g0, g1, e0, e1⟩ := layout24 x0 t0 34 0 1 a b ht hx (by decide) (by decide) (by decide)
  have h0 : ¬ x0 / 262144 % 16384 = 0 := by omega
  simp [decode32_22 f0, decodeMajor22, g0, g1, e0, e1, h0]

theorem RoundTrip.mxsrd (d : Reg) (a : Reg) : RoundTrip.Statement (.mxsrd d a) := by
  refine roundTrip_two (v := 1 + 4 * 34 + 262144 * 64 + 256 * d.val + 8192 * a.val) rfl rfl (by omega) (by omega) fun x0 t0 ht hx => ?_
  obtain ⟨f0, g0, e0, e1⟩ := layout6 x0 t0 34 64 d a ht hx (by decide) (by decide)
  have h0 : x0 / 8388608 % 512 = 2 := by omega
  simp [decode32_22 f0, decodeMajor22, g0, e0, e1, h0]

theorem RoundTrip.stgcfg (a : Reg) (b : Reg) : RoundTrip.Statement (.stgcfg a b) := by
  refine roundTrip_two (v := 1 + 4 * 35 + 256 * 0 + 8388608 * 0 + 8192 * a.val + 262144 * b.val) rfl rfl (by omega) (by omega) fun x0 t0 ht hx => ?_
  obtain ⟨f0, g0, g1, e0, e1⟩ := layout24 x0 t0 35 0 0 a b ht hx (by decide) (by decide) (by decide)
  simp [decode32_23 f0, decodeMajor23, g0, g1, e0, e1]

theorem RoundTrip.stgdone (a : Reg) : RoundTrip.Statement (.stgdone a) := by
  refine roundTrip_two (v := 1 + 4 * 35 + 256 * 0 + 262144 * 32 + 8192 * a.val) rfl rfl (by omega) (by omega) fun x0 t0 ht hx => ?_
  obtain ⟨f0, g0, g1, e0⟩ := layout11 x0 t0 35 0 32 a ht hx (by decide) (by decide) (by decide)
  have h0 : x0 / 8388608 % 512 = 1 := by omega
  simp [decode32_23 f0, decodeMajor23, g0, g1, e0, h0]

theorem RoundTrip.stgtmpl (a : Reg) (b : Reg) : RoundTrip.Statement (.stgtmpl a b) := by
  refine roundTrip_two (v := 1 + 4 * 35 + 256 * 0 + 8388608 * 2 + 8192 * a.val + 262144 * b.val) rfl rfl (by omega) (by omega) fun x0 t0 ht hx => ?_
  obtain ⟨f0, g0, g1, e0, e1⟩ := layout24 x0 t0 35 0 2 a b ht hx (by decide) (by decide) (by decide)
  have h0 : ¬ x0 / 262144 % 16384 = 32 := by omega
  simp [decode32_23 f0, decodeMajor23, g0, g1, e0, e1, h0]

theorem RoundTrip.stgsrec (a : Reg) : RoundTrip.Statement (.stgsrec a) := by
  refine roundTrip_two (v := 1 + 4 * 35 + 256 * 0 + 262144 * 96 + 8192 * a.val) rfl rfl (by omega) (by omega) fun x0 t0 ht hx => ?_
  obtain ⟨f0, g0, g1, e0⟩ := layout11 x0 t0 35 0 96 a ht hx (by decide) (by decide) (by decide)
  have h0 : x0 / 8388608 % 512 = 3 := by omega
  simp [decode32_23 f0, decodeMajor23, g0, g1, e0, h0]

theorem RoundTrip.stgstat (d : Reg) (a : Reg) : RoundTrip.Statement (.stgstat d a) := by
  refine roundTrip_two (v := 1 + 4 * 35 + 262144 * 128 + 256 * d.val + 8192 * a.val) rfl rfl (by omega) (by omega) fun x0 t0 ht hx => ?_
  obtain ⟨f0, g0, e0, e1⟩ := layout6 x0 t0 35 128 d a ht hx (by decide) (by decide)
  have h0 : x0 / 8388608 % 512 = 4 := by omega
  simp [decode32_23 f0, decodeMajor23, g0, e0, e1, h0]

theorem RoundTrip.vadd (d : Reg) (a : Reg) (b : Reg) (p : Fin 8) (y : BitVec 3) : RoundTrip.Statement (.vadd d a b p y) := by
  refine roundTrip_two (v := 1 + 4 * 36 + 67108864 * 0 + 256 * d.val + 8192 * a.val + 262144 * b.val + 8388608 * p.val + 536870912 * y.toNat) rfl rfl (by omega) (by omega) fun x0 t0 ht hx => ?_
  obtain ⟨f0, g0, e0, e1, e2, e3, e4⟩ := layout25 x0 t0 36 0 d a b p y ht hx (by decide) (by decide)
  simp [decode32_24 f0, decodeMajor24, g0, e0, e1, e2, e3, e4]

theorem RoundTrip.vsub (d : Reg) (a : Reg) (b : Reg) (p : Fin 8) (y : BitVec 3) : RoundTrip.Statement (.vsub d a b p y) := by
  refine roundTrip_two (v := 1 + 4 * 36 + 67108864 * 1 + 256 * d.val + 8192 * a.val + 262144 * b.val + 8388608 * p.val + 536870912 * y.toNat) rfl rfl (by omega) (by omega) fun x0 t0 ht hx => ?_
  obtain ⟨f0, g0, e0, e1, e2, e3, e4⟩ := layout25 x0 t0 36 1 d a b p y ht hx (by decide) (by decide)
  simp [decode32_24 f0, decodeMajor24, g0, e0, e1, e2, e3, e4]

theorem RoundTrip.vmul (d : Reg) (a : Reg) (b : Reg) (p : Fin 8) (y : BitVec 3) : RoundTrip.Statement (.vmul d a b p y) := by
  refine roundTrip_two (v := 1 + 4 * 36 + 67108864 * 2 + 256 * d.val + 8192 * a.val + 262144 * b.val + 8388608 * p.val + 536870912 * y.toNat) rfl rfl (by omega) (by omega) fun x0 t0 ht hx => ?_
  obtain ⟨f0, g0, e0, e1, e2, e3, e4⟩ := layout25 x0 t0 36 2 d a b p y ht hx (by decide) (by decide)
  simp [decode32_24 f0, decodeMajor24, g0, e0, e1, e2, e3, e4]

theorem RoundTrip.vmin (d : Reg) (a : Reg) (b : Reg) (p : Fin 8) (y : BitVec 3) : RoundTrip.Statement (.vmin d a b p y) := by
  refine roundTrip_two (v := 1 + 4 * 36 + 67108864 * 3 + 256 * d.val + 8192 * a.val + 262144 * b.val + 8388608 * p.val + 536870912 * y.toNat) rfl rfl (by omega) (by omega) fun x0 t0 ht hx => ?_
  obtain ⟨f0, g0, e0, e1, e2, e3, e4⟩ := layout25 x0 t0 36 3 d a b p y ht hx (by decide) (by decide)
  simp [decode32_24 f0, decodeMajor24, g0, e0, e1, e2, e3, e4]

theorem RoundTrip.vmax (d : Reg) (a : Reg) (b : Reg) (p : Fin 8) (y : BitVec 3) : RoundTrip.Statement (.vmax d a b p y) := by
  refine roundTrip_two (v := 1 + 4 * 36 + 67108864 * 4 + 256 * d.val + 8192 * a.val + 262144 * b.val + 8388608 * p.val + 536870912 * y.toNat) rfl rfl (by omega) (by omega) fun x0 t0 ht hx => ?_
  obtain ⟨f0, g0, e0, e1, e2, e3, e4⟩ := layout25 x0 t0 36 4 d a b p y ht hx (by decide) (by decide)
  simp [decode32_24 f0, decodeMajor24, g0, e0, e1, e2, e3, e4]

theorem RoundTrip.vminu (d : Reg) (a : Reg) (b : Reg) (p : Fin 8) (y : BitVec 3) : RoundTrip.Statement (.vminu d a b p y) := by
  refine roundTrip_two (v := 1 + 4 * 36 + 67108864 * 5 + 256 * d.val + 8192 * a.val + 262144 * b.val + 8388608 * p.val + 536870912 * y.toNat) rfl rfl (by omega) (by omega) fun x0 t0 ht hx => ?_
  obtain ⟨f0, g0, e0, e1, e2, e3, e4⟩ := layout25 x0 t0 36 5 d a b p y ht hx (by decide) (by decide)
  simp [decode32_24 f0, decodeMajor24, g0, e0, e1, e2, e3, e4]

theorem RoundTrip.vmaxu (d : Reg) (a : Reg) (b : Reg) (p : Fin 8) (y : BitVec 3) : RoundTrip.Statement (.vmaxu d a b p y) := by
  refine roundTrip_two (v := 1 + 4 * 36 + 67108864 * 6 + 256 * d.val + 8192 * a.val + 262144 * b.val + 8388608 * p.val + 536870912 * y.toNat) rfl rfl (by omega) (by omega) fun x0 t0 ht hx => ?_
  obtain ⟨f0, g0, e0, e1, e2, e3, e4⟩ := layout25 x0 t0 36 6 d a b p y ht hx (by decide) (by decide)
  simp [decode32_24 f0, decodeMajor24, g0, e0, e1, e2, e3, e4]

theorem RoundTrip.vfma (d : Reg) (a : Reg) (b : Reg) (p : Fin 8) (y : BitVec 3) : RoundTrip.Statement (.vfma d a b p y) := by
  refine roundTrip_two (v := 1 + 4 * 37 + 67108864 * 0 + 256 * d.val + 8192 * a.val + 262144 * b.val + 8388608 * p.val + 536870912 * y.toNat) rfl rfl (by omega) (by omega) fun x0 t0 ht hx => ?_
  obtain ⟨f0, g0, e0, e1, e2, e3, e4⟩ := layout25 x0 t0 37 0 d a b p y ht hx (by decide) (by decide)
  simp [decode32_25 f0, decodeMajor25, g0, e0, e1, e2, e3, e4]

theorem RoundTrip.vfms (d : Reg) (a : Reg) (b : Reg) (p : Fin 8) (y : BitVec 3) : RoundTrip.Statement (.vfms d a b p y) := by
  refine roundTrip_two (v := 1 + 4 * 37 + 67108864 * 1 + 256 * d.val + 8192 * a.val + 262144 * b.val + 8388608 * p.val + 536870912 * y.toNat) rfl rfl (by omega) (by omega) fun x0 t0 ht hx => ?_
  obtain ⟨f0, g0, e0, e1, e2, e3, e4⟩ := layout25 x0 t0 37 1 d a b p y ht hx (by decide) (by decide)
  simp [decode32_25 f0, decodeMajor25, g0, e0, e1, e2, e3, e4]

theorem RoundTrip.vfnma (d : Reg) (a : Reg) (b : Reg) (p : Fin 8) (y : BitVec 3) : RoundTrip.Statement (.vfnma d a b p y) := by
  refine roundTrip_two (v := 1 + 4 * 37 + 67108864 * 2 + 256 * d.val + 8192 * a.val + 262144 * b.val + 8388608 * p.val + 536870912 * y.toNat) rfl rfl (by omega) (by omega) fun x0 t0 ht hx => ?_
  obtain ⟨f0, g0, e0, e1, e2, e3, e4⟩ := layout25 x0 t0 37 2 d a b p y ht hx (by decide) (by decide)
  simp [decode32_25 f0, decodeMajor25, g0, e0, e1, e2, e3, e4]

theorem RoundTrip.vfnms (d : Reg) (a : Reg) (b : Reg) (p : Fin 8) (y : BitVec 3) : RoundTrip.Statement (.vfnms d a b p y) := by
  refine roundTrip_two (v := 1 + 4 * 37 + 67108864 * 3 + 256 * d.val + 8192 * a.val + 262144 * b.val + 8388608 * p.val + 536870912 * y.toNat) rfl rfl (by omega) (by omega) fun x0 t0 ht hx => ?_
  obtain ⟨f0, g0, e0, e1, e2, e3, e4⟩ := layout25 x0 t0 37 3 d a b p y ht hx (by decide) (by decide)
  simp [decode32_25 f0, decodeMajor25, g0, e0, e1, e2, e3, e4]

theorem RoundTrip.vdot (d : Reg) (a : Reg) (b : Reg) (p : Fin 8) (y : BitVec 3) : RoundTrip.Statement (.vdot d a b p y) := by
  refine roundTrip_two (v := 1 + 4 * 37 + 67108864 * 4 + 256 * d.val + 8192 * a.val + 262144 * b.val + 8388608 * p.val + 536870912 * y.toNat) rfl rfl (by omega) (by omega) fun x0 t0 ht hx => ?_
  obtain ⟨f0, g0, e0, e1, e2, e3, e4⟩ := layout25 x0 t0 37 4 d a b p y ht hx (by decide) (by decide)
  simp [decode32_25 f0, decodeMajor25, g0, e0, e1, e2, e3, e4]

theorem RoundTrip.vdotu (d : Reg) (a : Reg) (b : Reg) (p : Fin 8) (y : BitVec 3) : RoundTrip.Statement (.vdotu d a b p y) := by
  refine roundTrip_two (v := 1 + 4 * 37 + 67108864 * 5 + 256 * d.val + 8192 * a.val + 262144 * b.val + 8388608 * p.val + 536870912 * y.toNat) rfl rfl (by omega) (by omega) fun x0 t0 ht hx => ?_
  obtain ⟨f0, g0, e0, e1, e2, e3, e4⟩ := layout25 x0 t0 37 5 d a b p y ht hx (by decide) (by decide)
  simp [decode32_25 f0, decodeMajor25, g0, e0, e1, e2, e3, e4]

theorem RoundTrip.vadds (d : Reg) (a : Reg) (b : Reg) (p : Fin 8) (y : BitVec 3) : RoundTrip.Statement (.vadds d a b p y) := by
  refine roundTrip_two (v := 1 + 4 * 38 + 67108864 * 0 + 256 * d.val + 8192 * a.val + 262144 * b.val + 8388608 * p.val + 536870912 * y.toNat) rfl rfl (by omega) (by omega) fun x0 t0 ht hx => ?_
  obtain ⟨f0, g0, e0, e1, e2, e3, e4⟩ := layout25 x0 t0 38 0 d a b p y ht hx (by decide) (by decide)
  simp [decode32_26 f0, decodeMajor26, g0, e0, e1, e2, e3, e4]

theorem RoundTrip.vaddsu (d : Reg) (a : Reg) (b : Reg) (p : Fin 8) (y : BitVec 3) : RoundTrip.Statement (.vaddsu d a b p y) := by
  refine roundTrip_two (v := 1 + 4 * 38 + 67108864 * 1 + 256 * d.val + 8192 * a.val + 262144 * b.val + 8388608 * p.val + 536870912 * y.toNat) rfl rfl (by omega) (by omega) fun x0 t0 ht hx => ?_
  obtain ⟨f0, g0, e0, e1, e2, e3, e4⟩ := layout25 x0 t0 38 1 d a b p y ht hx (by decide) (by decide)
  simp [decode32_26 f0, decodeMajor26, g0, e0, e1, e2, e3, e4]

theorem RoundTrip.vsubs (d : Reg) (a : Reg) (b : Reg) (p : Fin 8) (y : BitVec 3) : RoundTrip.Statement (.vsubs d a b p y) := by
  refine roundTrip_two (v := 1 + 4 * 38 + 67108864 * 2 + 256 * d.val + 8192 * a.val + 262144 * b.val + 8388608 * p.val + 536870912 * y.toNat) rfl rfl (by omega) (by omega) fun x0 t0 ht hx => ?_
  obtain ⟨f0, g0, e0, e1, e2, e3, e4⟩ := layout25 x0 t0 38 2 d a b p y ht hx (by decide) (by decide)
  simp [decode32_26 f0, decodeMajor26, g0, e0, e1, e2, e3, e4]

theorem RoundTrip.vsubsu (d : Reg) (a : Reg) (b : Reg) (p : Fin 8) (y : BitVec 3) : RoundTrip.Statement (.vsubsu d a b p y) := by
  refine roundTrip_two (v := 1 + 4 * 38 + 67108864 * 3 + 256 * d.val + 8192 * a.val + 262144 * b.val + 8388608 * p.val + 536870912 * y.toNat) rfl rfl (by omega) (by omega) fun x0 t0 ht hx => ?_
  obtain ⟨f0, g0, e0, e1, e2, e3, e4⟩ := layout25 x0 t0 38 3 d a b p y ht hx (by decide) (by decide)
  simp [decode32_26 f0, decodeMajor26, g0, e0, e1, e2, e3, e4]

theorem RoundTrip.vnegs (d : Reg) (a : Reg) (p : Fin 8) (y : BitVec 3) : RoundTrip.Statement (.vnegs d a p y) := by
  refine roundTrip_two (v := 1 + 4 * 38 + 262144 * 0 + 67108864 * 4 + 256 * d.val + 8192 * a.val + 8388608 * p.val + 536870912 * y.toNat) rfl rfl (by omega) (by omega) fun x0 t0 ht hx => ?_
  obtain ⟨f0, g0, g1, e0, e1, e2, e3⟩ := layout26 x0 t0 38 0 4 d a p y ht hx (by decide) (by decide) (by decide)
  simp [decode32_26 f0, decodeMajor26, g0, g1, e0, e1, e2, e3]

theorem RoundTrip.vand (d : Reg) (a : Reg) (b : Reg) (p : Fin 8) (y : BitVec 3) : RoundTrip.Statement (.vand d a b p y) := by
  refine roundTrip_two (v := 1 + 4 * 39 + 67108864 * 0 + 256 * d.val + 8192 * a.val + 262144 * b.val + 8388608 * p.val + 536870912 * y.toNat) rfl rfl (by omega) (by omega) fun x0 t0 ht hx => ?_
  obtain ⟨f0, g0, e0, e1, e2, e3, e4⟩ := layout25 x0 t0 39 0 d a b p y ht hx (by decide) (by decide)
  simp [decode32_27 f0, decodeMajor27, g0, e0, e1, e2, e3, e4]

theorem RoundTrip.vor (d : Reg) (a : Reg) (b : Reg) (p : Fin 8) (y : BitVec 3) : RoundTrip.Statement (.vor d a b p y) := by
  refine roundTrip_two (v := 1 + 4 * 39 + 67108864 * 1 + 256 * d.val + 8192 * a.val + 262144 * b.val + 8388608 * p.val + 536870912 * y.toNat) rfl rfl (by omega) (by omega) fun x0 t0 ht hx => ?_
  obtain ⟨f0, g0, e0, e1, e2, e3, e4⟩ := layout25 x0 t0 39 1 d a b p y ht hx (by decide) (by decide)
  simp [decode32_27 f0, decodeMajor27, g0, e0, e1, e2, e3, e4]

theorem RoundTrip.vxor (d : Reg) (a : Reg) (b : Reg) (p : Fin 8) (y : BitVec 3) : RoundTrip.Statement (.vxor d a b p y) := by
  refine roundTrip_two (v := 1 + 4 * 39 + 67108864 * 2 + 256 * d.val + 8192 * a.val + 262144 * b.val + 8388608 * p.val + 536870912 * y.toNat) rfl rfl (by omega) (by omega) fun x0 t0 ht hx => ?_
  obtain ⟨f0, g0, e0, e1, e2, e3, e4⟩ := layout25 x0 t0 39 2 d a b p y ht hx (by decide) (by decide)
  simp [decode32_27 f0, decodeMajor27, g0, e0, e1, e2, e3, e4]

theorem RoundTrip.vandn (d : Reg) (a : Reg) (b : Reg) (p : Fin 8) (y : BitVec 3) : RoundTrip.Statement (.vandn d a b p y) := by
  refine roundTrip_two (v := 1 + 4 * 39 + 67108864 * 3 + 256 * d.val + 8192 * a.val + 262144 * b.val + 8388608 * p.val + 536870912 * y.toNat) rfl rfl (by omega) (by omega) fun x0 t0 ht hx => ?_
  obtain ⟨f0, g0, e0, e1, e2, e3, e4⟩ := layout25 x0 t0 39 3 d a b p y ht hx (by decide) (by decide)
  simp [decode32_27 f0, decodeMajor27, g0, e0, e1, e2, e3, e4]

theorem RoundTrip.vsll (d : Reg) (a : Reg) (b : Reg) (p : Fin 8) (y : BitVec 3) : RoundTrip.Statement (.vsll d a b p y) := by
  refine roundTrip_two (v := 1 + 4 * 39 + 67108864 * 4 + 256 * d.val + 8192 * a.val + 262144 * b.val + 8388608 * p.val + 536870912 * y.toNat) rfl rfl (by omega) (by omega) fun x0 t0 ht hx => ?_
  obtain ⟨f0, g0, e0, e1, e2, e3, e4⟩ := layout25 x0 t0 39 4 d a b p y ht hx (by decide) (by decide)
  simp [decode32_27 f0, decodeMajor27, g0, e0, e1, e2, e3, e4]

theorem RoundTrip.vsrl (d : Reg) (a : Reg) (b : Reg) (p : Fin 8) (y : BitVec 3) : RoundTrip.Statement (.vsrl d a b p y) := by
  refine roundTrip_two (v := 1 + 4 * 39 + 67108864 * 5 + 256 * d.val + 8192 * a.val + 262144 * b.val + 8388608 * p.val + 536870912 * y.toNat) rfl rfl (by omega) (by omega) fun x0 t0 ht hx => ?_
  obtain ⟨f0, g0, e0, e1, e2, e3, e4⟩ := layout25 x0 t0 39 5 d a b p y ht hx (by decide) (by decide)
  simp [decode32_27 f0, decodeMajor27, g0, e0, e1, e2, e3, e4]

theorem RoundTrip.vsra (d : Reg) (a : Reg) (b : Reg) (p : Fin 8) (y : BitVec 3) : RoundTrip.Statement (.vsra d a b p y) := by
  refine roundTrip_two (v := 1 + 4 * 39 + 67108864 * 6 + 256 * d.val + 8192 * a.val + 262144 * b.val + 8388608 * p.val + 536870912 * y.toNat) rfl rfl (by omega) (by omega) fun x0 t0 ht hx => ?_
  obtain ⟨f0, g0, e0, e1, e2, e3, e4⟩ := layout25 x0 t0 39 6 d a b p y ht hx (by decide) (by decide)
  simp [decode32_27 f0, decodeMajor27, g0, e0, e1, e2, e3, e4]

theorem RoundTrip.vcmpeq (d : Reg) (a : Reg) (b : Reg) (p : Fin 8) (y : BitVec 3) : RoundTrip.Statement (.vcmpeq d a b p y) := by
  refine roundTrip_two (v := 1 + 4 * 40 + 67108864 * 0 + 256 * d.val + 8192 * a.val + 262144 * b.val + 8388608 * p.val + 536870912 * y.toNat) rfl rfl (by omega) (by omega) fun x0 t0 ht hx => ?_
  obtain ⟨f0, g0, e0, e1, e2, e3, e4⟩ := layout25 x0 t0 40 0 d a b p y ht hx (by decide) (by decide)
  simp [decode32_28 f0, decodeMajor28, g0, e0, e1, e2, e3, e4]

theorem RoundTrip.vcmpne (d : Reg) (a : Reg) (b : Reg) (p : Fin 8) (y : BitVec 3) : RoundTrip.Statement (.vcmpne d a b p y) := by
  refine roundTrip_two (v := 1 + 4 * 40 + 67108864 * 1 + 256 * d.val + 8192 * a.val + 262144 * b.val + 8388608 * p.val + 536870912 * y.toNat) rfl rfl (by omega) (by omega) fun x0 t0 ht hx => ?_
  obtain ⟨f0, g0, e0, e1, e2, e3, e4⟩ := layout25 x0 t0 40 1 d a b p y ht hx (by decide) (by decide)
  simp [decode32_28 f0, decodeMajor28, g0, e0, e1, e2, e3, e4]

theorem RoundTrip.vcmplt (d : Reg) (a : Reg) (b : Reg) (p : Fin 8) (y : BitVec 3) : RoundTrip.Statement (.vcmplt d a b p y) := by
  refine roundTrip_two (v := 1 + 4 * 40 + 67108864 * 2 + 256 * d.val + 8192 * a.val + 262144 * b.val + 8388608 * p.val + 536870912 * y.toNat) rfl rfl (by omega) (by omega) fun x0 t0 ht hx => ?_
  obtain ⟨f0, g0, e0, e1, e2, e3, e4⟩ := layout25 x0 t0 40 2 d a b p y ht hx (by decide) (by decide)
  simp [decode32_28 f0, decodeMajor28, g0, e0, e1, e2, e3, e4]

theorem RoundTrip.vcmple (d : Reg) (a : Reg) (b : Reg) (p : Fin 8) (y : BitVec 3) : RoundTrip.Statement (.vcmple d a b p y) := by
  refine roundTrip_two (v := 1 + 4 * 40 + 67108864 * 3 + 256 * d.val + 8192 * a.val + 262144 * b.val + 8388608 * p.val + 536870912 * y.toNat) rfl rfl (by omega) (by omega) fun x0 t0 ht hx => ?_
  obtain ⟨f0, g0, e0, e1, e2, e3, e4⟩ := layout25 x0 t0 40 3 d a b p y ht hx (by decide) (by decide)
  simp [decode32_28 f0, decodeMajor28, g0, e0, e1, e2, e3, e4]

theorem RoundTrip.vcmpltu (d : Reg) (a : Reg) (b : Reg) (p : Fin 8) (y : BitVec 3) : RoundTrip.Statement (.vcmpltu d a b p y) := by
  refine roundTrip_two (v := 1 + 4 * 40 + 67108864 * 4 + 256 * d.val + 8192 * a.val + 262144 * b.val + 8388608 * p.val + 536870912 * y.toNat) rfl rfl (by omega) (by omega) fun x0 t0 ht hx => ?_
  obtain ⟨f0, g0, e0, e1, e2, e3, e4⟩ := layout25 x0 t0 40 4 d a b p y ht hx (by decide) (by decide)
  simp [decode32_28 f0, decodeMajor28, g0, e0, e1, e2, e3, e4]

theorem RoundTrip.vcmpleu (d : Reg) (a : Reg) (b : Reg) (p : Fin 8) (y : BitVec 3) : RoundTrip.Statement (.vcmpleu d a b p y) := by
  refine roundTrip_two (v := 1 + 4 * 40 + 67108864 * 5 + 256 * d.val + 8192 * a.val + 262144 * b.val + 8388608 * p.val + 536870912 * y.toNat) rfl rfl (by omega) (by omega) fun x0 t0 ht hx => ?_
  obtain ⟨f0, g0, e0, e1, e2, e3, e4⟩ := layout25 x0 t0 40 5 d a b p y ht hx (by decide) (by decide)
  simp [decode32_28 f0, decodeMajor28, g0, e0, e1, e2, e3, e4]

theorem RoundTrip.vmv (d : Reg) (a : Reg) (p : Fin 8) (y : BitVec 3) : RoundTrip.Statement (.vmv d a p y) := by
  refine roundTrip_two (v := 1 + 4 * 41 + 262144 * 0 + 67108864 * 0 + 256 * d.val + 8192 * a.val + 8388608 * p.val + 536870912 * y.toNat) rfl rfl (by omega) (by omega) fun x0 t0 ht hx => ?_
  obtain ⟨f0, g0, g1, e0, e1, e2, e3⟩ := layout26 x0 t0 41 0 0 d a p y ht hx (by decide) (by decide) (by decide)
  simp [decode32_29 f0, decodeMajor29, g0, g1, e0, e1, e2, e3]

theorem RoundTrip.vbcast (d : Reg) (a : Reg) (p : Fin 8) (y : BitVec 3) : RoundTrip.Statement (.vbcast d a p y) := by
  refine roundTrip_two (v := 1 + 4 * 41 + 262144 * 0 + 67108864 * 1 + 256 * d.val + 8192 * a.val + 8388608 * p.val + 536870912 * y.toNat) rfl rfl (by omega) (by omega) fun x0 t0 ht hx => ?_
  obtain ⟨f0, g0, g1, e0, e1, e2, e3⟩ := layout26 x0 t0 41 0 1 d a p y ht hx (by decide) (by decide) (by decide)
  simp [decode32_29 f0, decodeMajor29, g0, g1, e0, e1, e2, e3]

theorem RoundTrip.vins (d : Reg) (a : Reg) (b : Reg) (y : BitVec 3) : RoundTrip.Statement (.vins d a b y) := by
  refine roundTrip_two (v := 1 + 4 * 41 + 8388608 * 16 + 256 * d.val + 8192 * a.val + 262144 * b.val + 536870912 * y.toNat) rfl rfl (by omega) (by omega) fun x0 t0 ht hx => ?_
  obtain ⟨f0, g0, e0, e1, e2, e3⟩ := layout27 x0 t0 41 16 d a b y ht hx (by decide) (by decide)
  have h0 : x0 / 67108864 % 8 = 2 := by omega
  simp [decode32_29 f0, decodeMajor29, g0, e0, e1, e2, e3, h0]

theorem RoundTrip.vext (d : Reg) (a : Reg) (b : Reg) (y : BitVec 3) : RoundTrip.Statement (.vext d a b y) := by
  refine roundTrip_two (v := 1 + 4 * 41 + 8388608 * 24 + 256 * d.val + 8192 * a.val + 262144 * b.val + 536870912 * y.toNat) rfl rfl (by omega) (by omega) fun x0 t0 ht hx => ?_
  obtain ⟨f0, g0, e0, e1, e2, e3⟩ := layout27 x0 t0 41 24 d a b y ht hx (by decide) (by decide)
  have h0 : x0 / 67108864 % 8 = 3 := by omega
  simp [decode32_29 f0, decodeMajor29, g0, e0, e1, e2, e3, h0]

theorem RoundTrip.vextu (d : Reg) (a : Reg) (b : Reg) (y : BitVec 3) : RoundTrip.Statement (.vextu d a b y) := by
  refine roundTrip_two (v := 1 + 4 * 41 + 8388608 * 32 + 256 * d.val + 8192 * a.val + 262144 * b.val + 536870912 * y.toNat) rfl rfl (by omega) (by omega) fun x0 t0 ht hx => ?_
  obtain ⟨f0, g0, e0, e1, e2, e3⟩ := layout27 x0 t0 41 32 d a b y ht hx (by decide) (by decide)
  have h0 : x0 / 67108864 % 8 = 4 := by omega
  simp [decode32_29 f0, decodeMajor29, g0, e0, e1, e2, e3, h0]

theorem RoundTrip.vrsum (d : Reg) (a : Reg) (p : Fin 8) (y : BitVec 3) : RoundTrip.Statement (.vrsum d a p y) := by
  refine roundTrip_two (v := 1 + 4 * 42 + 262144 * 0 + 67108864 * 0 + 256 * d.val + 8192 * a.val + 8388608 * p.val + 536870912 * y.toNat) rfl rfl (by omega) (by omega) fun x0 t0 ht hx => ?_
  obtain ⟨f0, g0, g1, e0, e1, e2, e3⟩ := layout26 x0 t0 42 0 0 d a p y ht hx (by decide) (by decide) (by decide)
  simp [decode32_2A f0, decodeMajor2A, g0, g1, e0, e1, e2, e3]

theorem RoundTrip.vrsumu (d : Reg) (a : Reg) (p : Fin 8) (y : BitVec 3) : RoundTrip.Statement (.vrsumu d a p y) := by
  refine roundTrip_two (v := 1 + 4 * 42 + 262144 * 0 + 67108864 * 1 + 256 * d.val + 8192 * a.val + 8388608 * p.val + 536870912 * y.toNat) rfl rfl (by omega) (by omega) fun x0 t0 ht hx => ?_
  obtain ⟨f0, g0, g1, e0, e1, e2, e3⟩ := layout26 x0 t0 42 0 1 d a p y ht hx (by decide) (by decide) (by decide)
  simp [decode32_2A f0, decodeMajor2A, g0, g1, e0, e1, e2, e3]

theorem RoundTrip.vrmin (d : Reg) (a : Reg) (p : Fin 8) (y : BitVec 3) : RoundTrip.Statement (.vrmin d a p y) := by
  refine roundTrip_two (v := 1 + 4 * 42 + 262144 * 0 + 67108864 * 2 + 256 * d.val + 8192 * a.val + 8388608 * p.val + 536870912 * y.toNat) rfl rfl (by omega) (by omega) fun x0 t0 ht hx => ?_
  obtain ⟨f0, g0, g1, e0, e1, e2, e3⟩ := layout26 x0 t0 42 0 2 d a p y ht hx (by decide) (by decide) (by decide)
  simp [decode32_2A f0, decodeMajor2A, g0, g1, e0, e1, e2, e3]

theorem RoundTrip.vrmax (d : Reg) (a : Reg) (p : Fin 8) (y : BitVec 3) : RoundTrip.Statement (.vrmax d a p y) := by
  refine roundTrip_two (v := 1 + 4 * 42 + 262144 * 0 + 67108864 * 3 + 256 * d.val + 8192 * a.val + 8388608 * p.val + 536870912 * y.toNat) rfl rfl (by omega) (by omega) fun x0 t0 ht hx => ?_
  obtain ⟨f0, g0, g1, e0, e1, e2, e3⟩ := layout26 x0 t0 42 0 3 d a p y ht hx (by decide) (by decide) (by decide)
  simp [decode32_2A f0, decodeMajor2A, g0, g1, e0, e1, e2, e3]

theorem RoundTrip.vrminu (d : Reg) (a : Reg) (p : Fin 8) (y : BitVec 3) : RoundTrip.Statement (.vrminu d a p y) := by
  refine roundTrip_two (v := 1 + 4 * 42 + 262144 * 0 + 67108864 * 4 + 256 * d.val + 8192 * a.val + 8388608 * p.val + 536870912 * y.toNat) rfl rfl (by omega) (by omega) fun x0 t0 ht hx => ?_
  obtain ⟨f0, g0, g1, e0, e1, e2, e3⟩ := layout26 x0 t0 42 0 4 d a p y ht hx (by decide) (by decide) (by decide)
  simp [decode32_2A f0, decodeMajor2A, g0, g1, e0, e1, e2, e3]

theorem RoundTrip.vrmaxu (d : Reg) (a : Reg) (p : Fin 8) (y : BitVec 3) : RoundTrip.Statement (.vrmaxu d a p y) := by
  refine roundTrip_two (v := 1 + 4 * 42 + 262144 * 0 + 67108864 * 5 + 256 * d.val + 8192 * a.val + 8388608 * p.val + 536870912 * y.toNat) rfl rfl (by omega) (by omega) fun x0 t0 ht hx => ?_
  obtain ⟨f0, g0, g1, e0, e1, e2, e3⟩ := layout26 x0 t0 42 0 5 d a p y ht hx (by decide) (by decide) (by decide)
  simp [decode32_2A f0, decodeMajor2A, g0, g1, e0, e1, e2, e3]

theorem RoundTrip.vabs (d : Reg) (a : Reg) (p : Fin 8) (y : BitVec 3) : RoundTrip.Statement (.vabs d a p y) := by
  refine roundTrip_two (v := 1 + 4 * 43 + 262144 * 0 + 67108864 * 0 + 256 * d.val + 8192 * a.val + 8388608 * p.val + 536870912 * y.toNat) rfl rfl (by omega) (by omega) fun x0 t0 ht hx => ?_
  obtain ⟨f0, g0, g1, e0, e1, e2, e3⟩ := layout26 x0 t0 43 0 0 d a p y ht hx (by decide) (by decide) (by decide)
  simp [decode32_2B f0, decodeMajor2B, g0, g1, e0, e1, e2, e3]

theorem RoundTrip.vneg (d : Reg) (a : Reg) (p : Fin 8) (y : BitVec 3) : RoundTrip.Statement (.vneg d a p y) := by
  refine roundTrip_two (v := 1 + 4 * 43 + 262144 * 0 + 67108864 * 1 + 256 * d.val + 8192 * a.val + 8388608 * p.val + 536870912 * y.toNat) rfl rfl (by omega) (by omega) fun x0 t0 ht hx => ?_
  obtain ⟨f0, g0, g1, e0, e1, e2, e3⟩ := layout26 x0 t0 43 0 1 d a p y ht hx (by decide) (by decide) (by decide)
  simp [decode32_2B f0, decodeMajor2B, g0, g1, e0, e1, e2, e3]

theorem RoundTrip.vclz (d : Reg) (a : Reg) (p : Fin 8) (y : BitVec 3) : RoundTrip.Statement (.vclz d a p y) := by
  refine roundTrip_two (v := 1 + 4 * 43 + 262144 * 0 + 67108864 * 2 + 256 * d.val + 8192 * a.val + 8388608 * p.val + 536870912 * y.toNat) rfl rfl (by omega) (by omega) fun x0 t0 ht hx => ?_
  obtain ⟨f0, g0, g1, e0, e1, e2, e3⟩ := layout26 x0 t0 43 0 2 d a p y ht hx (by decide) (by decide) (by decide)
  simp [decode32_2B f0, decodeMajor2B, g0, g1, e0, e1, e2, e3]

theorem RoundTrip.vpopc (d : Reg) (a : Reg) (p : Fin 8) (y : BitVec 3) : RoundTrip.Statement (.vpopc d a p y) := by
  refine roundTrip_two (v := 1 + 4 * 43 + 262144 * 0 + 67108864 * 3 + 256 * d.val + 8192 * a.val + 8388608 * p.val + 536870912 * y.toNat) rfl rfl (by omega) (by omega) fun x0 t0 ht hx => ?_
  obtain ⟨f0, g0, g1, e0, e1, e2, e3⟩ := layout26 x0 t0 43 0 3 d a p y ht hx (by decide) (by decide) (by decide)
  simp [decode32_2B f0, decodeMajor2B, g0, g1, e0, e1, e2, e3]

theorem RoundTrip.vcvt (d : Reg) (a : Reg) (b : Reg) (w : BitVec 3) (x : BitVec 3) (m : BitVec 3) : RoundTrip.Statement (.vcvt d a b w x m) := by
  refine roundTrip_two (v := 1 + 4 * 44 + 256 * d.val + 8192 * a.val + 262144 * b.val + 8388608 * w.toNat + 67108864 * x.toNat + 536870912 * m.toNat) rfl rfl (by omega) (by omega) fun x0 t0 ht hx => ?_
  obtain ⟨f0, e0, e1, e2, e3, e4, e5⟩ := layout28 x0 t0 44 d a b w x m ht hx (by decide)
  simp [decode32_2C f0, decodeMajor2C, e0, e1, e2, e3, e4, e5]

theorem RoundTrip.vrcp (d : Reg) (a : Reg) (p : Fin 8) (y : BitVec 3) : RoundTrip.Statement (.vrcp d a p y) := by
  refine roundTrip_two (v := 1 + 4 * 45 + 262144 * 0 + 67108864 * 0 + 256 * d.val + 8192 * a.val + 8388608 * p.val + 536870912 * y.toNat) rfl rfl (by omega) (by omega) fun x0 t0 ht hx => ?_
  obtain ⟨f0, g0, g1, e0, e1, e2, e3⟩ := layout26 x0 t0 45 0 0 d a p y ht hx (by decide) (by decide) (by decide)
  simp [decode32_2D f0, decodeMajor2D, g0, g1, e0, e1, e2, e3]

theorem RoundTrip.vrsqrt (d : Reg) (a : Reg) (p : Fin 8) (y : BitVec 3) : RoundTrip.Statement (.vrsqrt d a p y) := by
  refine roundTrip_two (v := 1 + 4 * 45 + 262144 * 0 + 67108864 * 1 + 256 * d.val + 8192 * a.val + 8388608 * p.val + 536870912 * y.toNat) rfl rfl (by omega) (by omega) fun x0 t0 ht hx => ?_
  obtain ⟨f0, g0, g1, e0, e1, e2, e3⟩ := layout26 x0 t0 45 0 1 d a p y ht hx (by decide) (by decide) (by decide)
  simp [decode32_2D f0, decodeMajor2D, g0, g1, e0, e1, e2, e3]

theorem RoundTrip.vsqrt (d : Reg) (a : Reg) (p : Fin 8) (y : BitVec 3) : RoundTrip.Statement (.vsqrt d a p y) := by
  refine roundTrip_two (v := 1 + 4 * 45 + 262144 * 0 + 67108864 * 2 + 256 * d.val + 8192 * a.val + 8388608 * p.val + 536870912 * y.toNat) rfl rfl (by omega) (by omega) fun x0 t0 ht hx => ?_
  obtain ⟨f0, g0, g1, e0, e1, e2, e3⟩ := layout26 x0 t0 45 0 2 d a p y ht hx (by decide) (by decide) (by decide)
  simp [decode32_2D f0, decodeMajor2D, g0, g1, e0, e1, e2, e3]

theorem RoundTrip.vexp2 (d : Reg) (a : Reg) (p : Fin 8) (y : BitVec 3) : RoundTrip.Statement (.vexp2 d a p y) := by
  refine roundTrip_two (v := 1 + 4 * 45 + 262144 * 0 + 67108864 * 3 + 256 * d.val + 8192 * a.val + 8388608 * p.val + 536870912 * y.toNat) rfl rfl (by omega) (by omega) fun x0 t0 ht hx => ?_
  obtain ⟨f0, g0, g1, e0, e1, e2, e3⟩ := layout26 x0 t0 45 0 3 d a p y ht hx (by decide) (by decide) (by decide)
  simp [decode32_2D f0, decodeMajor2D, g0, g1, e0, e1, e2, e3]

theorem RoundTrip.vlog2 (d : Reg) (a : Reg) (p : Fin 8) (y : BitVec 3) : RoundTrip.Statement (.vlog2 d a p y) := by
  refine roundTrip_two (v := 1 + 4 * 45 + 262144 * 0 + 67108864 * 4 + 256 * d.val + 8192 * a.val + 8388608 * p.val + 536870912 * y.toNat) rfl rfl (by omega) (by omega) fun x0 t0 ht hx => ?_
  obtain ⟨f0, g0, g1, e0, e1, e2, e3⟩ := layout26 x0 t0 45 0 4 d a p y ht hx (by decide) (by decide) (by decide)
  simp [decode32_2D f0, decodeMajor2D, g0, g1, e0, e1, e2, e3]

theorem RoundTrip.vdiv (d : Reg) (a : Reg) (b : Reg) (p : Fin 8) (y : BitVec 3) : RoundTrip.Statement (.vdiv d a b p y) := by
  refine roundTrip_two (v := 1 + 4 * 45 + 67108864 * 5 + 256 * d.val + 8192 * a.val + 262144 * b.val + 8388608 * p.val + 536870912 * y.toNat) rfl rfl (by omega) (by omega) fun x0 t0 ht hx => ?_
  obtain ⟨f0, g0, e0, e1, e2, e3, e4⟩ := layout25 x0 t0 45 5 d a b p y ht hx (by decide) (by decide)
  simp [decode32_2D f0, decodeMajor2D, g0, e0, e1, e2, e3, e4]

theorem RoundTrip.vtie (d : Reg) (a : Reg) (b : Reg) (p : Fin 8) (y : BitVec 3) : RoundTrip.Statement (.vtie d a b p y) := by
  refine roundTrip_two (v := 1 + 4 * 45 + 67108864 * 6 + 256 * d.val + 8192 * a.val + 262144 * b.val + 8388608 * p.val + 536870912 * y.toNat) rfl rfl (by omega) (by omega) fun x0 t0 ht hx => ?_
  obtain ⟨f0, g0, e0, e1, e2, e3, e4⟩ := layout25 x0 t0 45 6 d a b p y ht hx (by decide) (by decide)
  simp [decode32_2D f0, decodeMajor2D, g0, e0, e1, e2, e3, e4]

theorem RoundTrip.vtload (d : BitVec 1) (a : Reg) (b : Reg) : RoundTrip.Statement (.vtload d a b) := by
  refine roundTrip_two (v := 1 + 4 * 45 + 512 * 0 + 8388608 * 56 + 256 * d.toNat + 8192 * a.val + 262144 * b.val) rfl rfl (by omega) (by omega) fun x0 t0 ht hx => ?_
  obtain ⟨f0, g0, g1, e0, e1, e2⟩ := layout29 x0 t0 45 0 56 d a b ht hx (by decide) (by decide) (by decide)
  have h0 : x0 / 67108864 % 8 = 7 := by omega
  simp [decode32_2D f0, decodeMajor2D, g0, g1, e0, e1, e2, h0]

theorem RoundTrip.vshuf (d : Reg) (a : Reg) (b : Reg) (p : Fin 8) (y : BitVec 3) : RoundTrip.Statement (.vshuf d a b p y) := by
  refine roundTrip_two (v := 1 + 4 * 46 + 67108864 * 0 + 256 * d.val + 8192 * a.val + 262144 * b.val + 8388608 * p.val + 536870912 * y.toNat) rfl rfl (by omega) (by omega) fun x0 t0 ht hx => ?_
  obtain ⟨f0, g0, e0, e1, e2, e3, e4⟩ := layout25 x0 t0 46 0 d a b p y ht hx (by decide) (by decide)
  simp [decode32_2E f0, decodeMajor2E, g0, e0, e1, e2, e3, e4]

theorem RoundTrip.vsplat (d : Reg) (a : Reg) (b : Reg) (p : Fin 8) (y : BitVec 3) : RoundTrip.Statement (.vsplat d a b p y) := by
  refine roundTrip_two (v := 1 + 4 * 46 + 67108864 * 1 + 256 * d.val + 8192 * a.val + 262144 * b.val + 8388608 * p.val + 536870912 * y.toNat) rfl rfl (by omega) (by omega) fun x0 t0 ht hx => ?_
  obtain ⟨f0, g0, e0, e1, e2, e3, e4⟩ := layout25 x0 t0 46 1 d a b p y ht hx (by decide) (by decide)
  simp [decode32_2E f0, decodeMajor2E, g0, e0, e1, e2, e3, e4]

theorem RoundTrip.vslidedn (d : Reg) (a : Reg) (b : Reg) (p : Fin 8) (y : BitVec 3) : RoundTrip.Statement (.vslidedn d a b p y) := by
  refine roundTrip_two (v := 1 + 4 * 46 + 67108864 * 2 + 256 * d.val + 8192 * a.val + 262144 * b.val + 8388608 * p.val + 536870912 * y.toNat) rfl rfl (by omega) (by omega) fun x0 t0 ht hx => ?_
  obtain ⟨f0, g0, e0, e1, e2, e3, e4⟩ := layout25 x0 t0 46 2 d a b p y ht hx (by decide) (by decide)
  simp [decode32_2E f0, decodeMajor2E, g0, e0, e1, e2, e3, e4]

theorem RoundTrip.vslideup (d : Reg) (a : Reg) (b : Reg) (p : Fin 8) (y : BitVec 3) : RoundTrip.Statement (.vslideup d a b p y) := by
  refine roundTrip_two (v := 1 + 4 * 46 + 67108864 * 3 + 256 * d.val + 8192 * a.val + 262144 * b.val + 8388608 * p.val + 536870912 * y.toNat) rfl rfl (by omega) (by omega) fun x0 t0 ht hx => ?_
  obtain ⟨f0, g0, e0, e1, e2, e3, e4⟩ := layout25 x0 t0 46 3 d a b p y ht hx (by decide) (by decide)
  simp [decode32_2E f0, decodeMajor2E, g0, e0, e1, e2, e3, e4]

theorem RoundTrip.plen (d : Reg) (a : Reg) (y : BitVec 3) : RoundTrip.Statement (.plen d a y) := by
  refine roundTrip_two (v := 1 + 4 * 47 + 262144 * 0 + 256 * d.val + 8192 * a.val + 536870912 * y.toNat) rfl rfl (by omega) (by omega) fun x0 t0 ht hx => ?_
  obtain ⟨f0, g0, e0, e1, e2⟩ := layout30 x0 t0 47 0 d a y ht hx (by decide) (by decide)
  simp [decode32_2F f0, decodeMajor2F, g0, e0, e1, e2]

theorem RoundTrip.pand (d : Reg) (a : Reg) (b : Reg) (p : Fin 8) : RoundTrip.Statement (.pand d a b p) := by
  refine roundTrip_two (v := 1 + 4 * 47 + 67108864 * 1 + 256 * d.val + 8192 * a.val + 262144 * b.val + 8388608 * p.val) rfl rfl (by omega) (by omega) fun x0 t0 ht hx => ?_
  obtain ⟨f0, g0, e0, e1, e2, e3⟩ := layout31 x0 t0 47 1 d a b p ht hx (by decide) (by decide)
  have h0 : ¬ x0 / 262144 % 2048 = 0 := by omega
  simp [decode32_2F f0, decodeMajor2F, g0, e0, e1, e2, e3, h0]

theorem RoundTrip.por (d : Reg) (a : Reg) (b : Reg) (p : Fin 8) : RoundTrip.Statement (.por d a b p) := by
  refine roundTrip_two (v := 1 + 4 * 47 + 67108864 * 2 + 256 * d.val + 8192 * a.val + 262144 * b.val + 8388608 * p.val) rfl rfl (by omega) (by omega) fun x0 t0 ht hx => ?_
  obtain ⟨f0, g0, e0, e1, e2, e3⟩ := layout31 x0 t0 47 2 d a b p ht hx (by decide) (by decide)
  have h0 : ¬ x0 / 262144 % 2048 = 0 := by omega
  simp [decode32_2F f0, decodeMajor2F, g0, e0, e1, e2, e3, h0]

theorem RoundTrip.pxor (d : Reg) (a : Reg) (b : Reg) (p : Fin 8) : RoundTrip.Statement (.pxor d a b p) := by
  refine roundTrip_two (v := 1 + 4 * 47 + 67108864 * 3 + 256 * d.val + 8192 * a.val + 262144 * b.val + 8388608 * p.val) rfl rfl (by omega) (by omega) fun x0 t0 ht hx => ?_
  obtain ⟨f0, g0, e0, e1, e2, e3⟩ := layout31 x0 t0 47 3 d a b p ht hx (by decide) (by decide)
  have h0 : ¬ x0 / 262144 % 2048 = 0 := by omega
  simp [decode32_2F f0, decodeMajor2F, g0, e0, e1, e2, e3, h0]

theorem RoundTrip.pandn (d : Reg) (a : Reg) (b : Reg) (p : Fin 8) : RoundTrip.Statement (.pandn d a b p) := by
  refine roundTrip_two (v := 1 + 4 * 47 + 67108864 * 4 + 256 * d.val + 8192 * a.val + 262144 * b.val + 8388608 * p.val) rfl rfl (by omega) (by omega) fun x0 t0 ht hx => ?_
  obtain ⟨f0, g0, e0, e1, e2, e3⟩ := layout31 x0 t0 47 4 d a b p ht hx (by decide) (by decide)
  have h0 : ¬ x0 / 262144 % 2048 = 0 := by omega
  simp [decode32_2F f0, decodeMajor2F, g0, e0, e1, e2, e3, h0]

theorem RoundTrip.pget (d : Reg) (a : Reg) : RoundTrip.Statement (.pget d a) := by
  refine roundTrip_two (v := 1 + 4 * 47 + 262144 * 1280 + 256 * d.val + 8192 * a.val) rfl rfl (by omega) (by omega) fun x0 t0 ht hx => ?_
  obtain ⟨f0, g0, e0, e1⟩ := layout6 x0 t0 47 1280 d a ht hx (by decide) (by decide)
  have h0 : x0 / 262144 % 2048 = 1280 := by omega
  have h1 : x0 / 67108864 % 64 = 5 := by omega
  simp [decode32_2F f0, decodeMajor2F, g0, e0, e1, h0, h1]

theorem RoundTrip.pset (d : Reg) (a : Reg) : RoundTrip.Statement (.pset d a) := by
  refine roundTrip_two (v := 1 + 4 * 47 + 262144 * 1536 + 256 * d.val + 8192 * a.val) rfl rfl (by omega) (by omega) fun x0 t0 ht hx => ?_
  obtain ⟨f0, g0, e0, e1⟩ := layout6 x0 t0 47 1536 d a ht hx (by decide) (by decide)
  have h0 : x0 / 262144 % 2048 = 1536 := by omega
  have h1 : x0 / 67108864 % 64 = 6 := by omega
  simp [decode32_2F f0, decodeMajor2F, g0, e0, e1, h0, h1]

theorem RoundTrip.pcnt (d : Reg) (a : Reg) (y : BitVec 3) : RoundTrip.Statement (.pcnt d a y) := by
  refine roundTrip_two (v := 1 + 4 * 47 + 262144 * 1792 + 256 * d.val + 8192 * a.val + 536870912 * y.toNat) rfl rfl (by omega) (by omega) fun x0 t0 ht hx => ?_
  obtain ⟨f0, g0, e0, e1, e2⟩ := layout30 x0 t0 47 1792 d a y ht hx (by decide) (by decide)
  have h0 : ¬ x0 / 67108864 % 64 = 1 := by omega
  have h1 : ¬ x0 / 67108864 % 64 = 2 := by omega
  have h2 : ¬ x0 / 67108864 % 64 = 3 := by omega
  have h3 : ¬ x0 / 67108864 % 64 = 4 := by omega
  have h4 : ¬ x0 / 262144 % 16384 = 1280 := by omega
  have h5 : ¬ x0 / 262144 % 16384 = 1536 := by omega
  simp [decode32_2F f0, decodeMajor2F, g0, e0, e1, e2, h0, h1, h2, h3, h4, h5]

theorem RoundTrip.trap (a : Reg) : RoundTrip.Statement (.trap a) := by
  refine roundTrip_two (v := 1 + 4 * 48 + 256 * 0 + 262144 * 32 + 8192 * a.val) rfl rfl (by omega) (by omega) fun x0 t0 ht hx => ?_
  obtain ⟨f0, g0, g1, e0⟩ := layout11 x0 t0 48 0 32 a ht hx (by decide) (by decide) (by decide)
  simp [decode32_30 f0, decodeMajor30, g0, g1, e0]

theorem RoundTrip.codew (a : Reg) (b : Reg) : RoundTrip.Statement (.codew a b) := by
  refine roundTrip_two (v := 1 + 4 * 48 + 256 * 0 + 8388608 * 4 + 8192 * a.val + 262144 * b.val) rfl rfl (by omega) (by omega) fun x0 t0 ht hx => ?_
  obtain ⟨f0, g0, g1, e0, e1⟩ := layout24 x0 t0 48 0 4 a b ht hx (by decide) (by decide) (by decide)
  have h0 : ¬ x0 / 262144 % 16384 = 32 := by omega
  simp [decode32_30 f0, decodeMajor30, g0, g1, e0, e1, h0]

theorem RoundTrip.rtset (a : Reg) (b : Reg) : RoundTrip.Statement (.rtset a b) := by
  refine roundTrip_two (v := 1 + 4 * 48 + 256 * 0 + 8388608 * 5 + 8192 * a.val + 262144 * b.val) rfl rfl (by omega) (by omega) fun x0 t0 ht hx => ?_
  obtain ⟨f0, g0, g1, e0, e1⟩ := layout24 x0 t0 48 0 5 a b ht hx (by decide) (by decide) (by decide)
  have h0 : ¬ x0 / 262144 % 16384 = 32 := by omega
  simp [decode32_30 f0, decodeMajor30, g0, g1, e0, e1, h0]

theorem RoundTrip.inbhead (d : Reg) (a : Reg) : RoundTrip.Statement (.inbhead d a) := by
  refine roundTrip_two (v := 1 + 4 * 48 + 262144 * 256 + 256 * d.val + 8192 * a.val) rfl rfl (by omega) (by omega) fun x0 t0 ht hx => ?_
  obtain ⟨f0, g0, e0, e1⟩ := layout6 x0 t0 48 256 d a ht hx (by decide) (by decide)
  have h0 : x0 / 8388608 % 512 = 8 := by omega
  simp [decode32_30 f0, decodeMajor30, g0, e0, e1, h0]

theorem RoundTrip.inbrd (d : Reg) (a : Reg) (b : Reg) : RoundTrip.Statement (.inbrd d a b) := by
  refine roundTrip_two (v := 1 + 4 * 48 + 8388608 * 9 + 256 * d.val + 8192 * a.val + 262144 * b.val) rfl rfl (by omega) (by omega) fun x0 t0 ht hx => ?_
  obtain ⟨f0, g0, e0, e1, e2⟩ := layout1 x0 t0 48 9 d a b ht hx (by decide) (by decide)
  have h0 : ¬ x0 / 262144 % 16384 = 32 := by omega
  have h1 : ¬ x0 / 262144 % 16384 = 256 := by omega
  simp [decode32_30 f0, decodeMajor30, g0, e0, e1, e2, h0, h1]

theorem RoundTrip.inbfree (a : Reg) (b : Reg) : RoundTrip.Statement (.inbfree a b) := by
  refine roundTrip_two (v := 1 + 4 * 48 + 256 * 0 + 8388608 * 10 + 8192 * a.val + 262144 * b.val) rfl rfl (by omega) (by omega) fun x0 t0 ht hx => ?_
  obtain ⟨f0, g0, g1, e0, e1⟩ := layout24 x0 t0 48 0 10 a b ht hx (by decide) (by decide) (by decide)
  have h0 : ¬ x0 / 262144 % 16384 = 32 := by omega
  have h1 : ¬ x0 / 262144 % 16384 = 256 := by omega
  simp [decode32_30 f0, decodeMajor30, g0, g1, e0, e1, h0, h1]

theorem RoundTrip.fbstat (d : Reg) (a : Reg) : RoundTrip.Statement (.fbstat d a) := by
  refine roundTrip_two (v := 1 + 4 * 48 + 262144 * 512 + 256 * d.val + 8192 * a.val) rfl rfl (by omega) (by omega) fun x0 t0 ht hx => ?_
  obtain ⟨f0, g0, e0, e1⟩ := layout6 x0 t0 48 512 d a ht hx (by decide) (by decide)
  have h0 : x0 / 8388608 % 512 = 16 := by omega
  simp [decode32_30 f0, decodeMajor30, g0, e0, e1, h0]

theorem RoundTrip.fbread (d : Reg) (a : Reg) (b : Reg) : RoundTrip.Statement (.fbread d a b) := by
  refine roundTrip_two (v := 1 + 4 * 48 + 8388608 * 17 + 256 * d.val + 8192 * a.val + 262144 * b.val) rfl rfl (by omega) (by omega) fun x0 t0 ht hx => ?_
  obtain ⟨f0, g0, e0, e1, e2⟩ := layout1 x0 t0 48 17 d a b ht hx (by decide) (by decide)
  have h0 : ¬ x0 / 262144 % 16384 = 32 := by omega
  have h1 : ¬ x0 / 262144 % 16384 = 256 := by omega
  have h2 : ¬ x0 / 262144 % 16384 = 512 := by omega
  simp [decode32_30 f0, decodeMajor30, g0, e0, e1, e2, h0, h1, h2]

theorem RoundTrip.fbclr (a : Reg) (b : Reg) : RoundTrip.Statement (.fbclr a b) := by
  refine roundTrip_two (v := 1 + 4 * 48 + 256 * 0 + 8388608 * 18 + 8192 * a.val + 262144 * b.val) rfl rfl (by omega) (by omega) fun x0 t0 ht hx => ?_
  obtain ⟨f0, g0, g1, e0, e1⟩ := layout24 x0 t0 48 0 18 a b ht hx (by decide) (by decide) (by decide)
  have h0 : ¬ x0 / 262144 % 16384 = 32 := by omega
  have h1 : ¬ x0 / 262144 % 16384 = 256 := by omega
  have h2 : ¬ x0 / 262144 % 16384 = 512 := by omega
  simp [decode32_30 f0, decodeMajor30, g0, g1, e0, e1, h0, h1, h2]

theorem RoundTrip.replayall (a : Reg) : RoundTrip.Statement (.replayall a) := by
  refine roundTrip_two (v := 1 + 4 * 48 + 256 * 0 + 262144 * 608 + 8192 * a.val) rfl rfl (by omega) (by omega) fun x0 t0 ht hx => ?_
  obtain ⟨f0, g0, g1, e0⟩ := layout11 x0 t0 48 0 608 a ht hx (by decide) (by decide) (by decide)
  have h0 : x0 / 8388608 % 512 = 19 := by omega
  simp [decode32_30 f0, decodeMajor30, g0, g1, e0, h0]

theorem RoundTrip.tlbinv (a : Reg) (b : Reg) : RoundTrip.Statement (.tlbinv a b) := by
  refine roundTrip_two (v := 1 + 4 * 48 + 256 * 0 + 8388608 * 20 + 8192 * a.val + 262144 * b.val) rfl rfl (by omega) (by omega) fun x0 t0 ht hx => ?_
  obtain ⟨f0, g0, g1, e0, e1⟩ := layout24 x0 t0 48 0 20 a b ht hx (by decide) (by decide) (by decide)
  have h0 : ¬ x0 / 262144 % 16384 = 32 := by omega
  have h1 : ¬ x0 / 262144 % 16384 = 256 := by omega
  have h2 : ¬ x0 / 262144 % 16384 = 512 := by omega
  have h3 : ¬ x0 / 262144 % 16384 = 608 := by omega
  simp [decode32_30 f0, decodeMajor30, g0, g1, e0, e1, h0, h1, h2, h3]

theorem RoundTrip.sgload (a : Reg) (b : Reg) : RoundTrip.Statement (.sgload a b) := by
  refine roundTrip_two (v := 1 + 4 * 48 + 256 * 0 + 8388608 * 21 + 8192 * a.val + 262144 * b.val) rfl rfl (by omega) (by omega) fun x0 t0 ht hx => ?_
  obtain ⟨f0, g0, g1, e0, e1⟩ := layout24 x0 t0 48 0 21 a b ht hx (by decide) (by decide) (by decide)
  have h0 : ¬ x0 / 262144 % 16384 = 32 := by omega
  have h1 : ¬ x0 / 262144 % 16384 = 256 := by omega
  have h2 : ¬ x0 / 262144 % 16384 = 512 := by omega
  have h3 : ¬ x0 / 262144 % 16384 = 608 := by omega
  simp [decode32_30 f0, decodeMajor30, g0, g1, e0, e1, h0, h1, h2, h3]

theorem RoundTrip.keyw (a : Reg) (b : Reg) : RoundTrip.Statement (.keyw a b) := by
  refine roundTrip_two (v := 1 + 4 * 48 + 256 * 0 + 8388608 * 22 + 8192 * a.val + 262144 * b.val) rfl rfl (by omega) (by omega) fun x0 t0 ht hx => ?_
  obtain ⟨f0, g0, g1, e0, e1⟩ := layout24 x0 t0 48 0 22 a b ht hx (by decide) (by decide) (by decide)
  have h0 : ¬ x0 / 262144 % 16384 = 32 := by omega
  have h1 : ¬ x0 / 262144 % 16384 = 256 := by omega
  have h2 : ¬ x0 / 262144 % 16384 = 512 := by omega
  have h3 : ¬ x0 / 262144 % 16384 = 608 := by omega
  simp [decode32_30 f0, decodeMajor30, g0, g1, e0, e1, h0, h1, h2, h3]

theorem RoundTrip.preempt (a : Reg) (b : Reg) : RoundTrip.Statement (.preempt a b) := by
  refine roundTrip_two (v := 1 + 4 * 48 + 256 * 0 + 8388608 * 32 + 8192 * a.val + 262144 * b.val) rfl rfl (by omega) (by omega) fun x0 t0 ht hx => ?_
  obtain ⟨f0, g0, g1, e0, e1⟩ := layout24 x0 t0 48 0 32 a b ht hx (by decide) (by decide) (by decide)
  have h0 : ¬ x0 / 262144 % 16384 = 32 := by omega
  have h1 : ¬ x0 / 262144 % 16384 = 256 := by omega
  have h2 : ¬ x0 / 262144 % 16384 = 512 := by omega
  have h3 : ¬ x0 / 262144 % 16384 = 608 := by omega
  simp [decode32_30 f0, decodeMajor30, g0, g1, e0, e1, h0, h1, h2, h3]

theorem RoundTrip.ctxrest (d : Reg) (a : Reg) : RoundTrip.Statement (.ctxrest d a) := by
  refine roundTrip_two (v := 1 + 4 * 48 + 262144 * 1056 + 256 * d.val + 8192 * a.val) rfl rfl (by omega) (by omega) fun x0 t0 ht hx => ?_
  obtain ⟨f0, g0, e0, e1⟩ := layout6 x0 t0 48 1056 d a ht hx (by decide) (by decide)
  have h0 : x0 / 8388608 % 512 = 33 := by omega
  simp [decode32_30 f0, decodeMajor30, g0, e0, e1, h0]

theorem RoundTrip.bncset (d : Reg) (a : Reg) (b : Reg) : RoundTrip.Statement (.bncset d a b) := by
  refine roundTrip_two (v := 1 + 4 * 48 + 8388608 * 34 + 256 * d.val + 8192 * a.val + 262144 * b.val) rfl rfl (by omega) (by omega) fun x0 t0 ht hx => ?_
  obtain ⟨f0, g0, e0, e1, e2⟩ := layout1 x0 t0 48 34 d a b ht hx (by decide) (by decide)
  have h0 : ¬ x0 / 262144 % 16384 = 32 := by omega
  have h1 : ¬ x0 / 262144 % 16384 = 256 := by omega
  have h2 : ¬ x0 / 262144 % 16384 = 512 := by omega
  have h3 : ¬ x0 / 262144 % 16384 = 608 := by omega
  have h4 : ¬ x0 / 262144 % 16384 = 1056 := by omega
  simp [decode32_30 f0, decodeMajor30, g0, e0, e1, e2, h0, h1, h2, h3, h4]

theorem RoundTrip.bncclr (a : Reg) : RoundTrip.Statement (.bncclr a) := by
  refine roundTrip_two (v := 1 + 4 * 48 + 256 * 0 + 262144 * 1120 + 8192 * a.val) rfl rfl (by omega) (by omega) fun x0 t0 ht hx => ?_
  obtain ⟨f0, g0, g1, e0⟩ := layout11 x0 t0 48 0 1120 a ht hx (by decide) (by decide) (by decide)
  have h0 : x0 / 8388608 % 512 = 35 := by omega
  simp [decode32_30 f0, decodeMajor30, g0, g1, e0, h0]

theorem RoundTrip.dbgrd (d : Reg) (a : Reg) (b : Reg) : RoundTrip.Statement (.dbgrd d a b) := by
  refine roundTrip_two (v := 1 + 4 * 48 + 8388608 * 50 + 256 * d.val + 8192 * a.val + 262144 * b.val) rfl rfl (by omega) (by omega) fun x0 t0 ht hx => ?_
  obtain ⟨f0, g0, e0, e1, e2⟩ := layout1 x0 t0 48 50 d a b ht hx (by decide) (by decide)
  have h0 : ¬ x0 / 262144 % 16384 = 32 := by omega
  have h1 : ¬ x0 / 262144 % 16384 = 256 := by omega
  have h2 : ¬ x0 / 262144 % 16384 = 512 := by omega
  have h3 : ¬ x0 / 262144 % 16384 = 608 := by omega
  have h4 : ¬ x0 / 262144 % 16384 = 1056 := by omega
  have h5 : ¬ x0 / 262144 % 16384 = 1120 := by omega
  simp [decode32_30 f0, decodeMajor30, g0, e0, e1, e2, h0, h1, h2, h3, h4, h5]

theorem RoundTrip.dbgwr (a : Reg) (b : Reg) : RoundTrip.Statement (.dbgwr a b) := by
  refine roundTrip_two (v := 1 + 4 * 48 + 256 * 0 + 8388608 * 51 + 8192 * a.val + 262144 * b.val) rfl rfl (by omega) (by omega) fun x0 t0 ht hx => ?_
  obtain ⟨f0, g0, g1, e0, e1⟩ := layout24 x0 t0 48 0 51 a b ht hx (by decide) (by decide) (by decide)
  have h0 : ¬ x0 / 262144 % 16384 = 32 := by omega
  have h1 : ¬ x0 / 262144 % 16384 = 256 := by omega
  have h2 : ¬ x0 / 262144 % 16384 = 512 := by omega
  have h3 : ¬ x0 / 262144 % 16384 = 608 := by omega
  have h4 : ¬ x0 / 262144 % 16384 = 1056 := by omega
  have h5 : ¬ x0 / 262144 % 16384 = 1120 := by omega
  simp [decode32_30 f0, decodeMajor30, g0, g1, e0, e1, h0, h1, h2, h3, h4, h5]

theorem RoundTrip.dbgstep (a : Reg) : RoundTrip.Statement (.dbgstep a) := by
  refine roundTrip_two (v := 1 + 4 * 48 + 256 * 0 + 262144 * 1664 + 8192 * a.val) rfl rfl (by omega) (by omega) fun x0 t0 ht hx => ?_
  obtain ⟨f0, g0, g1, e0⟩ := layout11 x0 t0 48 0 1664 a ht hx (by decide) (by decide) (by decide)
  have h0 : x0 / 8388608 % 512 = 52 := by omega
  simp [decode32_30 f0, decodeMajor30, g0, g1, e0, h0]

theorem RoundTrip.opset (d : Reg) (a : Reg) (b : Reg) : RoundTrip.Statement (.opset d a b) := by
  refine roundTrip_two (v := 1 + 4 * 48 + 8388608 * 64 + 256 * d.val + 8192 * a.val + 262144 * b.val) rfl rfl (by omega) (by omega) fun x0 t0 ht hx => ?_
  obtain ⟨f0, g0, e0, e1, e2⟩ := layout1 x0 t0 48 64 d a b ht hx (by decide) (by decide)
  have h0 : ¬ x0 / 262144 % 16384 = 32 := by omega
  have h1 : ¬ x0 / 262144 % 16384 = 256 := by omega
  have h2 : ¬ x0 / 262144 % 16384 = 512 := by omega
  have h3 : ¬ x0 / 262144 % 16384 = 608 := by omega
  have h4 : ¬ x0 / 262144 % 16384 = 1056 := by omega
  have h5 : ¬ x0 / 262144 % 16384 = 1120 := by omega
  have h6 : ¬ x0 / 262144 % 16384 = 1664 := by omega
  simp [decode32_30 f0, decodeMajor30, g0, e0, e1, e2, h0, h1, h2, h3, h4, h5, h6]

theorem RoundTrip.rowq (d : Reg) (a : Reg) (b : Reg) : RoundTrip.Statement (.rowq d a b) := by
  refine roundTrip_two (v := 1 + 4 * 48 + 8388608 * 65 + 256 * d.val + 8192 * a.val + 262144 * b.val) rfl rfl (by omega) (by omega) fun x0 t0 ht hx => ?_
  obtain ⟨f0, g0, e0, e1, e2⟩ := layout1 x0 t0 48 65 d a b ht hx (by decide) (by decide)
  have h0 : ¬ x0 / 262144 % 16384 = 32 := by omega
  have h1 : ¬ x0 / 262144 % 16384 = 256 := by omega
  have h2 : ¬ x0 / 262144 % 16384 = 512 := by omega
  have h3 : ¬ x0 / 262144 % 16384 = 608 := by omega
  have h4 : ¬ x0 / 262144 % 16384 = 1056 := by omega
  have h5 : ¬ x0 / 262144 % 16384 = 1120 := by omega
  have h6 : ¬ x0 / 262144 % 16384 = 1664 := by omega
  simp [decode32_30 f0, decodeMajor30, g0, e0, e1, e2, h0, h1, h2, h3, h4, h5, h6]

theorem RoundTrip.cMv (d : Reg) (a : Reg) : RoundTrip.Statement (.cMv d a) := by
  refine roundTrip_one (v := 4 + 64 * d.val + 2048 * a.val) rfl rfl (by omega) (by omega) fun x0 t0 ht hx => ?_
  have f0 : x0 / 4 % 16 = 1 := by omega
  simp [decode16, f0, regAt_eq (r := d) (lo := 6) (w := x0) (by omega), regAt_eq (r := a) (lo := 11) (w := x0) (by omega)]

theorem RoundTrip.cAdd (d : Reg) (a : Reg) : RoundTrip.Statement (.cAdd d a) := by
  refine roundTrip_one (v := 8 + 64 * d.val + 2048 * a.val) rfl rfl (by omega) (by omega) fun x0 t0 ht hx => ?_
  have f0 : x0 / 4 % 16 = 2 := by omega
  simp [decode16, f0, regAt_eq (r := d) (lo := 6) (w := x0) (by omega), regAt_eq (r := a) (lo := 11) (w := x0) (by omega)]

theorem RoundTrip.cSub (d : Reg) (a : Reg) : RoundTrip.Statement (.cSub d a) := by
  refine roundTrip_one (v := 12 + 64 * d.val + 2048 * a.val) rfl rfl (by omega) (by omega) fun x0 t0 ht hx => ?_
  have f0 : x0 / 4 % 16 = 3 := by omega
  simp [decode16, f0, regAt_eq (r := d) (lo := 6) (w := x0) (by omega), regAt_eq (r := a) (lo := 11) (w := x0) (by omega)]

theorem RoundTrip.cAnd (d : Reg) (a : Reg) : RoundTrip.Statement (.cAnd d a) := by
  refine roundTrip_one (v := 16 + 64 * d.val + 2048 * a.val) rfl rfl (by omega) (by omega) fun x0 t0 ht hx => ?_
  have f0 : x0 / 4 % 16 = 4 := by omega
  simp [decode16, f0, regAt_eq (r := d) (lo := 6) (w := x0) (by omega), regAt_eq (r := a) (lo := 11) (w := x0) (by omega)]

theorem RoundTrip.cOr (d : Reg) (a : Reg) : RoundTrip.Statement (.cOr d a) := by
  refine roundTrip_one (v := 20 + 64 * d.val + 2048 * a.val) rfl rfl (by omega) (by omega) fun x0 t0 ht hx => ?_
  have f0 : x0 / 4 % 16 = 5 := by omega
  simp [decode16, f0, regAt_eq (r := d) (lo := 6) (w := x0) (by omega), regAt_eq (r := a) (lo := 11) (w := x0) (by omega)]

theorem RoundTrip.cXor (d : Reg) (a : Reg) : RoundTrip.Statement (.cXor d a) := by
  refine roundTrip_one (v := 24 + 64 * d.val + 2048 * a.val) rfl rfl (by omega) (by omega) fun x0 t0 ht hx => ?_
  have f0 : x0 / 4 % 16 = 6 := by omega
  simp [decode16, f0, regAt_eq (r := d) (lo := 6) (w := x0) (by omega), regAt_eq (r := a) (lo := 11) (w := x0) (by omega)]

theorem RoundTrip.cAddi (d : Reg) (i : BitVec 5) : RoundTrip.Statement (.cAddi d i) := by
  refine roundTrip_one (v := 28 + 64 * d.val + 2048 * i.toNat) rfl rfl (by omega) (by omega) fun x0 t0 ht hx => ?_
  have f0 : x0 / 4 % 16 = 7 := by omega
  simp [decode16, f0, regAt_eq (r := d) (lo := 6) (w := x0) (by omega), fieldAt_eq (b := i) (lo := 11) (w := x0) (by omega)]

theorem RoundTrip.cLi (d : Reg) (i : BitVec 5) : RoundTrip.Statement (.cLi d i) := by
  refine roundTrip_one (v := 32 + 64 * d.val + 2048 * i.toNat) rfl rfl (by omega) (by omega) fun x0 t0 ht hx => ?_
  have f0 : x0 / 4 % 16 = 8 := by omega
  simp [decode16, f0, regAt_eq (r := d) (lo := 6) (w := x0) (by omega), fieldAt_eq (b := i) (lo := 11) (w := x0) (by omega)]

theorem RoundTrip.cSlli (d : Reg) (i : BitVec 5) : RoundTrip.Statement (.cSlli d i) := by
  refine roundTrip_one (v := 36 + 64 * d.val + 2048 * i.toNat) rfl rfl (by omega) (by omega) fun x0 t0 ht hx => ?_
  have f0 : x0 / 4 % 16 = 9 := by omega
  simp [decode16, f0, regAt_eq (r := d) (lo := 6) (w := x0) (by omega), fieldAt_eq (b := i) (lo := 11) (w := x0) (by omega)]

theorem RoundTrip.cSrli (d : Reg) (i : BitVec 5) : RoundTrip.Statement (.cSrli d i) := by
  refine roundTrip_one (v := 40 + 64 * d.val + 2048 * i.toNat) rfl rfl (by omega) (by omega) fun x0 t0 ht hx => ?_
  have f0 : x0 / 4 % 16 = 10 := by omega
  simp [decode16, f0, regAt_eq (r := d) (lo := 6) (w := x0) (by omega), fieldAt_eq (b := i) (lo := 11) (w := x0) (by omega)]

theorem RoundTrip.cSrai (d : Reg) (i : BitVec 5) : RoundTrip.Statement (.cSrai d i) := by
  refine roundTrip_one (v := 44 + 64 * d.val + 2048 * i.toNat) rfl rfl (by omega) (by omega) fun x0 t0 ht hx => ?_
  have f0 : x0 / 4 % 16 = 11 := by omega
  simp [decode16, f0, regAt_eq (r := d) (lo := 6) (w := x0) (by omega), fieldAt_eq (b := i) (lo := 11) (w := x0) (by omega)]

theorem RoundTrip.cLdl (d : Reg) (a : Reg) : RoundTrip.Statement (.cLdl d a) := by
  refine roundTrip_one (v := 48 + 64 * d.val + 2048 * a.val) rfl rfl (by omega) (by omega) fun x0 t0 ht hx => ?_
  have f0 : x0 / 4 % 16 = 12 := by omega
  simp [decode16, f0, regAt_eq (r := d) (lo := 6) (w := x0) (by omega), regAt_eq (r := a) (lo := 11) (w := x0) (by omega)]

theorem RoundTrip.cStl (d : Reg) (a : Reg) : RoundTrip.Statement (.cStl d a) := by
  refine roundTrip_one (v := 52 + 64 * d.val + 2048 * a.val) rfl rfl (by omega) (by omega) fun x0 t0 ht hx => ?_
  have f0 : x0 / 4 % 16 = 13 := by omega
  simp [decode16, f0, regAt_eq (r := d) (lo := 6) (w := x0) (by omega), regAt_eq (r := a) (lo := 11) (w := x0) (by omega)]

theorem RoundTrip.cBnez (d : Reg) (i : BitVec 5) : RoundTrip.Statement (.cBnez d i) := by
  refine roundTrip_one (v := 56 + 64 * d.val + 2048 * i.toNat) rfl rfl (by omega) (by omega) fun x0 t0 ht hx => ?_
  have f0 : x0 / 4 % 16 = 14 := by omega
  simp [decode16, f0, regAt_eq (r := d) (lo := 6) (w := x0) (by omega), fieldAt_eq (b := i) (lo := 11) (w := x0) (by omega)]

theorem RoundTrip.cJreg (a : Reg) : RoundTrip.Statement (.cJreg a) := by
  intro hl
  have ha : a.val ≠ 0 := by
    intro h
    have h0 : a = 0 := Fin.ext h
    subst h0
    exact absurd hl (by decide)
  refine roundTrip_one (v := 60 + 2048 * a.val) rfl rfl (by omega) (by omega) (fun x0 t0 ht hx => ?_) hl
  have f0 : x0 / 4 % 16 = 15 := by omega
  have f1 : x0 / 64 % 32 = 0 := by omega
  have f2 : ¬ x0 / 64 % 1024 = 0 := by omega
  simp [decode16, f0, f1, f2, regAt_eq (r := a) (lo := 11) (w := x0) (by omega)]

theorem RoundTrip.lexit : RoundTrip.Statement .lexit := by
  refine roundTrip_two (v := 1 + 4 * 16 + 256 * 1) rfl rfl (by omega) (by omega) fun x0 t0 ht hx => ?_
  obtain ⟨f0, g0⟩ := layout32 x0 t0 16 1 ht hx (by decide) (by decide)
  have h0 : x0 / 256 % 32 = 1 := by omega
  simp [decode32_10 f0, decodeMajor10, g0, h0]

theorem RoundTrip.unfollow : RoundTrip.Statement .unfollow := by
  refine roundTrip_two (v := 1 + 4 * 17 + 256 * 5242880) rfl rfl (by omega) (by omega) fun x0 t0 ht hx => ?_
  obtain ⟨f0, g0⟩ := layout32 x0 t0 17 5242880 ht hx (by decide) (by decide)
  have h0 : x0 / 256 % 32 = 0 := by omega
  have h1 : x0 / 262144 % 16384 = 5120 := by omega
  have h2 : x0 / 16777216 % 4 = 0 := by omega
  have h3 : x0 / 134217728 % 32 = 10 := by omega
  have h4 : x0 / 67108864 % 64 = 20 := by omega
  have h5 : x0 / 8192 % 524288 = 163840 := by omega
  have h6 : x0 / 268435456 % 16 = 5 := by omega
  simp [decode32_11 f0, decodeMajor11, g0, h0, h1, h2, h3, h4, h5, h6]

theorem RoundTrip.eret : RoundTrip.Statement .eret := by
  refine roundTrip_two (v := 1 + 4 * 48 + 256 * 0) rfl rfl (by omega) (by omega) fun x0 t0 ht hx => ?_
  obtain ⟨f0, g0⟩ := layout32 x0 t0 48 0 ht hx (by decide) (by decide)
  have h0 : x0 / 256 % 32 = 0 := by omega
  have h1 : x0 / 262144 % 16384 = 0 := by omega
  have h2 : x0 / 8388608 % 512 = 0 := by omega
  simp [decode32_30 f0, decodeMajor30, g0, h0, h1, h2]

theorem RoundTrip.bkpt : RoundTrip.Statement .bkpt := by
  refine roundTrip_two (v := 1 + 4 * 48 + 256 * 65536) rfl rfl (by omega) (by omega) fun x0 t0 ht hx => ?_
  obtain ⟨f0, g0⟩ := layout32 x0 t0 48 65536 ht hx (by decide) (by decide)
  have h0 : x0 / 256 % 32 = 0 := by omega
  have h1 : x0 / 262144 % 16384 = 64 := by omega
  have h2 : x0 / 8388608 % 512 = 2 := by omega
  simp [decode32_30 f0, decodeMajor30, g0, h0, h1, h2]

theorem RoundTrip.halt : RoundTrip.Statement .halt := by
  refine roundTrip_two (v := 1 + 4 * 48 + 256 * 1572864) rfl rfl (by omega) (by omega) fun x0 t0 ht hx => ?_
  obtain ⟨f0, g0⟩ := layout32 x0 t0 48 1572864 ht hx (by decide) (by decide)
  have h0 : x0 / 256 % 32 = 0 := by omega
  have h1 : x0 / 262144 % 16384 = 1536 := by omega
  have h2 : x0 / 8388608 % 512 = 48 := by omega
  simp [decode32_30 f0, decodeMajor30, g0, h0, h1, h2]

theorem RoundTrip.resume : RoundTrip.Statement .resume := by
  refine roundTrip_two (v := 1 + 4 * 48 + 256 * 1605632) rfl rfl (by omega) (by omega) fun x0 t0 ht hx => ?_
  obtain ⟨f0, g0⟩ := layout32 x0 t0 48 1605632 ht hx (by decide) (by decide)
  have h0 : x0 / 256 % 32 = 0 := by omega
  have h1 : x0 / 262144 % 16384 = 1568 := by omega
  have h2 : x0 / 8388608 % 512 = 49 := by omega
  simp [decode32_30 f0, decodeMajor30, g0, h0, h1, h2]

theorem RoundTrip.cEndtask : RoundTrip.Statement .cEndtask := by
  refine roundTrip_one (v := 60) rfl rfl (by omega) (by omega) fun x0 t0 ht hx => ?_
  have f0 : x0 / 4 % 16 = 15 := by omega
  have f1 : x0 / 64 % 1024 = 0 := by omega
  simp [decode16, f0, f1]

theorem RoundTrip.messageAdmission : RoundTrip.Statement .messageAdmission := roundTrip_event rfl

theorem RoundTrip.overflowRoutineStart : RoundTrip.Statement .overflowRoutineStart := roundTrip_event rfl

theorem RoundTrip.dispatch : RoundTrip.Statement .dispatch := roundTrip_event rfl

theorem RoundTrip.unboundTrap : RoundTrip.Statement .unboundTrap := roundTrip_event rfl

theorem RoundTrip.rload : RoundTrip.Statement .rload := roundTrip_event rfl

theorem RoundTrip.rstore : RoundTrip.Statement .rstore := roundTrip_event rfl

theorem RoundTrip.ramo : RoundTrip.Statement .ramo := roundTrip_event rfl

theorem RoundTrip.lreply : RoundTrip.Statement .lreply := roundTrip_event rfl

theorem RoundTrip.nack : RoundTrip.Statement .nack := roundTrip_event rfl

theorem RoundTrip.marker : RoundTrip.Statement .marker := roundTrip_event rfl

theorem RoundTrip.slotret : RoundTrip.Statement .slotret := roundTrip_event rfl

theorem RoundTrip.drain : RoundTrip.Statement .drain := roundTrip_event rfl

theorem RoundTrip.half : RoundTrip.Statement .half := roundTrip_event rfl

theorem RoundTrip.trailer : RoundTrip.Statement .trailer := roundTrip_event rfl

theorem RoundTrip.ack : RoundTrip.Statement .ack := roundTrip_event rfl

theorem RoundTrip.mxcmd : RoundTrip.Statement .mxcmd := roundTrip_event rfl

theorem RoundTrip.stageMessage : RoundTrip.Statement .stageMessage := roundTrip_event rfl

theorem RoundTrip.reservedClassDiscard : RoundTrip.Statement .reservedClassDiscard := roundTrip_event rfl

theorem RoundTrip.liveUpdate : RoundTrip.Statement .liveUpdate := roundTrip_event rfl

theorem RoundTrip.joinChildUpdate : RoundTrip.Statement .joinChildUpdate := roundTrip_event rfl

theorem RoundTrip.joinCloseUpdate : RoundTrip.Statement .joinCloseUpdate := roundTrip_event rfl

theorem RoundTrip.cancelPropagate : RoundTrip.Statement .cancelPropagate := roundTrip_event rfl

theorem RoundTrip.dlineExpiry : RoundTrip.Statement .dlineExpiry := roundTrip_event rfl

theorem RoundTrip.forcedSave : RoundTrip.Statement .forcedSave := roundTrip_event rfl

theorem RoundTrip.nearPlacement : RoundTrip.Statement .nearPlacement := roundTrip_event rfl

theorem RoundTrip.nearQueueTake : RoundTrip.Statement .nearQueueTake := roundTrip_event rfl

theorem RoundTrip.stealRequest : RoundTrip.Statement .stealRequest := roundTrip_event rfl

theorem RoundTrip.stealVictimReply : RoundTrip.Statement .stealVictimReply := roundTrip_event rfl

theorem RoundTrip.stealBackoffExpiry : RoundTrip.Statement .stealBackoffExpiry := roundTrip_event rfl

theorem RoundTrip.followEngage : RoundTrip.Statement .followEngage := roundTrip_event rfl

theorem RoundTrip.resultReturn : RoundTrip.Statement .resultReturn := roundTrip_event rfl

theorem RoundTrip.homeAccess : RoundTrip.Statement .homeAccess := roundTrip_event rfl

theorem RoundTrip.phaseUpdateAtHome : RoundTrip.Statement .phaseUpdateAtHome := roundTrip_event rfl

theorem RoundTrip.phwaitResolve : RoundTrip.Statement .phwaitResolve := roundTrip_event rfl

theorem RoundTrip.sliceWalk : RoundTrip.Statement .sliceWalk := roundTrip_event rfl

theorem RoundTrip.missPortEntry : RoundTrip.Statement .missPortEntry := roundTrip_event rfl

theorem RoundTrip.xferStart : RoundTrip.Statement .xferStart := roundTrip_event rfl

theorem RoundTrip.xferRowCopy : RoundTrip.Statement .xferRowCopy := roundTrip_event rfl

theorem RoundTrip.xferCompletion : RoundTrip.Statement .xferCompletion := roundTrip_event rfl

theorem RoundTrip.xferRestart : RoundTrip.Statement .xferRestart := roundTrip_event rfl

theorem RoundTrip.checkRefetch : RoundTrip.Statement .checkRefetch := roundTrip_event rfl

theorem RoundTrip.hardwareFaultKill : RoundTrip.Statement .hardwareFaultKill := roundTrip_event rfl

theorem RoundTrip.trapEntry : RoundTrip.Statement .trapEntry := roundTrip_event rfl

theorem RoundTrip.bounceReceive : RoundTrip.Statement .bounceReceive := roundTrip_event rfl

theorem RoundTrip.matrixRequest : RoundTrip.Statement .matrixRequest := roundTrip_event rfl

theorem RoundTrip.aliasTableBuild : RoundTrip.Statement .aliasTableBuild := roundTrip_event rfl

theorem RoundTrip.matrixRestart : RoundTrip.Statement .matrixRestart := roundTrip_event rfl

theorem RoundTrip.matrixCompletion : RoundTrip.Statement .matrixCompletion := roundTrip_event rfl

theorem RoundTrip.tileOwnershipTake : RoundTrip.Statement .tileOwnershipTake := roundTrip_event rfl

theorem RoundTrip.messageArrival : RoundTrip.Statement .messageArrival := roundTrip_event rfl

theorem RoundTrip.slotReturnResend : RoundTrip.Statement .slotReturnResend := roundTrip_event rfl

theorem RoundTrip.retransmitTimeout : RoundTrip.Statement .retransmitTimeout := roundTrip_event rfl

theorem RoundTrip.nackResend : RoundTrip.Statement .nackResend := roundTrip_event rfl

theorem RoundTrip.flowRecordRelease : RoundTrip.Statement .flowRecordRelease := roundTrip_event rfl

theorem RoundTrip.seraiSlotRelease : RoundTrip.Statement .seraiSlotRelease := roundTrip_event rfl

theorem RoundTrip.roundTick : RoundTrip.Statement .roundTick := roundTrip_event rfl

theorem RoundTrip.markerResend : RoundTrip.Statement .markerResend := roundTrip_event rfl

theorem RoundTrip.portRelock : RoundTrip.Statement .portRelock := roundTrip_event rfl

theorem RoundTrip.reachWrite : RoundTrip.Statement .reachWrite := roundTrip_event rfl

theorem RoundTrip.rndsetWrite : RoundTrip.Statement .rndsetWrite := roundTrip_event rfl

theorem RoundTrip.wavelengthPark : RoundTrip.Statement .wavelengthPark := roundTrip_event rfl

theorem RoundTrip.wavelengthWake : RoundTrip.Statement .wavelengthWake := roundTrip_event rfl

theorem RoundTrip.wakeDone : RoundTrip.Statement .wakeDone := roundTrip_event rfl

theorem RoundTrip.mixOperationApply : RoundTrip.Statement .mixOperationApply := roundTrip_event rfl

theorem RoundTrip.waybillDeadline : RoundTrip.Statement .waybillDeadline := roundTrip_event rfl

theorem RoundTrip.engineNackResend : RoundTrip.Statement .engineNackResend := roundTrip_event rfl

theorem RoundTrip.gqPushArrival : RoundTrip.Statement .gqPushArrival := roundTrip_event rfl

theorem RoundTrip.gqPopServe : RoundTrip.Statement .gqPopServe := roundTrip_event rfl

theorem RoundTrip.stageRoundStart : RoundTrip.Statement .stageRoundStart := roundTrip_event rfl

theorem RoundTrip.stageFreeEvaluate : RoundTrip.Statement .stageFreeEvaluate := roundTrip_event rfl

theorem RoundTrip.stageBubbleTimer : RoundTrip.Statement .stageBubbleTimer := roundTrip_event rfl

theorem RoundTrip.opStep : RoundTrip.Statement .opStep := roundTrip_event rfl

theorem RoundTrip.rowCompaction : RoundTrip.Statement .rowCompaction := roundTrip_event rfl

theorem RoundTrip.thermalMigration : RoundTrip.Statement .thermalMigration := roundTrip_event rfl

theorem RoundTrip.thermalTrip : RoundTrip.Statement .thermalTrip := roundTrip_event rfl

theorem RoundTrip.currentGovernor : RoundTrip.Statement .currentGovernor := roundTrip_event rfl

theorem RoundTrip.ballastDraw : RoundTrip.Statement .ballastDraw := roundTrip_event rfl

theorem RoundTrip.doorbell : RoundTrip.Statement .doorbell := roundTrip_event rfl

theorem RoundTrip.doorbellPost : RoundTrip.Statement .doorbellPost := roundTrip_event rfl

theorem RoundTrip.hostRegisterWrite : RoundTrip.Statement .hostRegisterWrite := roundTrip_event rfl

theorem RoundTrip.bar2InboundWrite : RoundTrip.Statement .bar2InboundWrite := roundTrip_event rfl

theorem RoundTrip.jobStart : RoundTrip.Statement .jobStart := roundTrip_event rfl

theorem RoundTrip.nodeStart : RoundTrip.Statement .nodeStart := roundTrip_event rfl

theorem RoundTrip.mappingValidDelivery : RoundTrip.Statement .mappingValidDelivery := roundTrip_event rfl

theorem RoundTrip.ckdesc : RoundTrip.Statement .ckdesc := roundTrip_event rfl

theorem RoundTrip.protectedWriteCopy : RoundTrip.Statement .protectedWriteCopy := roundTrip_event rfl

theorem RoundTrip.checkpointCompletion : RoundTrip.Statement .checkpointCompletion := roundTrip_event rfl

theorem RoundTrip.reset : RoundTrip.Statement .reset := roundTrip_event rfl

theorem RoundTrip.getMeasurements : RoundTrip.Statement .getMeasurements := roundTrip_event rfl

theorem RoundTrip.challenge : RoundTrip.Statement .challenge := roundTrip_event rfl

theorem RoundTrip.keyExchange : RoundTrip.Statement .keyExchange := roundTrip_event rfl

theorem RoundTrip.readingFallsBelowLimit : RoundTrip.Statement .readingFallsBelowLimit := roundTrip_event rfl

theorem RoundTrip.partitionTableAccept : RoundTrip.Statement .partitionTableAccept := roundTrip_event rfl

end Sys2Proof.Laws
end

