-- ==== Sys2Proof/Laws/Rounds.lean ====
section
/-! SUPPORT. What the end of a round leaves as it is: the receiving side of every flow (R310, R315). -/
namespace Sys2Proof.Machine

@[simp] theorem State.portSend_serai (s : State) (d c : Nat) (l : List Nat) : (s.portSend d c l).serai = s.serai := rfl

@[simp] theorem State.protect_serai (s : State) (r : Nat) : (s.protect r).serai = s.serai := by
  unfold State.protect
  split
  · split <;> rfl
  · rfl

theorem State.foldl_serai (f : State → Nat → State) (h : ∀ u d, (f u d).serai = u.serai) (l : List Nat) (t : State) :
    (l.foldl f t).serai = t.serai := by
  induction l generalizing t with
  | nil => rfl
  | cons d l ih => rw [List.foldl_cons, ih, h]

theorem State.endSend_serai (s : State) : s.endSend.serai = s.serai := by
  unfold State.endSend
  dsimp only
  rw [State.foldl_serai]
  · exact State.protect_serai s _
  · intro u d
    rfl

theorem State.roundTick_serai (s : State) : s.roundTick.serai = s.serai := by
  unfold State.roundTick
  split
  · exact s.endSend_serai
  · rfl

theorem State.endRecv_serai (s : State) : s.endRecv.serai = s.serai := by
  unfold State.endRecv
  dsimp only
  split
  · split
    · exact State.roundTick_serai _
    · rfl
  · rfl

/-- A message counted for its round changes no flow's receiving side. -/
theorem State.delivered_serai (s : State) (d r : Nat) : (s.delivered d r).serai = s.serai := State.endRecv_serai _

end Sys2Proof.Machine
end

