-- ==== Sys2Proof/Tests/Slice0.lean ====
section
/-! SUPPORT. Tests: words decoded, ill-formed terms refused, single steps, and for every statement with hypotheses a state
and operands that meet them (`witness_…`). -/
namespace Sys2Proof.Tests
open Sys2Proof Sys2Proof.Machine

/-! ### Decoding: words written out from the encoding tables -/

/-- Words from the fixed bits and fields of the encoding tables: ADD to MUL. -/
theorem test_decode_1 : ∀ p ∈ ([
    (0x00518901, .add 9 12 20), (0x00D18901, .sub 9 12 20), (0x01518901, .and 9 12 20), (0x01D18901, .or 9 12 20),
    (0x02518901, .xor 9 12 20), (0x02D18901, .andn 9 12 20), (0x03518901, .orn 9 12 20), (0x03D18901, .sll 9 12 20),
    (0x04518901, .srl 9 12 20), (0x04D18901, .sra 9 12 20), (0x05518901, .slt 9 12 20), (0x05D18901, .sltu 9 12 20),
    (0x06518901, .min 9 12 20), (0x06D18901, .max 9 12 20), (0x07518901, .minu 9 12 20), (0x07D18901, .maxu 9 12 20),
    (0x08518901, .seq 9 12 20), (0x8D158905, .addi 9 12 9029), (0x8D158909, .andi 9 12 9029),
    (0x8D15890D, .ori 9 12 9029), (0x8D158911, .xori 9 12 9029), (0x8D158915, .slti 9 12 9029),
    (0x8D158919, .sltiu 9 12 9029), (0x00A5891D, .slli 9 12 41), (0x01A5891D, .srli 9 12 41),
    (0x02A5891D, .srai 9 12 41), (0xA2468921, .li 9 332340), (0x37DDE925, .lih 9 48879 1),
    (0x00518929, .mul 9 12 20)] : List (Nat × Instr)), decodeTableWord 32 p.1 = some p.2 := by decide

/-- Words from the fixed bits and fields of the encoding tables: MULH to SPAWN_NEAR. -/
theorem test_decode_2 : ∀ p ∈ ([
    (0x00D18929, .mulh 9 12 20), (0x01518929, .mulhsu 9 12 20), (0x01D18929, .mulhu 9 12 20),
    (0x02518929, .div 9 12 20), (0x02D18929, .divu 9 12 20), (0x03518929, .rem 9 12 20), (0x03D18929, .remu 9 12 20),
    (0x0001892D, .clz 9 12), (0x0081892D, .ctz 9 12), (0x0101892D, .popc 9 12), (0x0181892D, .bswap 9 12),
    (0x0201892D, .brev 9 12), (0x02D1892D, .rol 9 12 20), (0x0351892D, .ror 9 12 20), (0x0380092D, .rand 9),
    (0xA2418931, .beq 9 12 1298), (0xA2458931, .bne 9 12 1298), (0xA2498931, .blt 9 12 1298),
    (0xA24D8931, .bge 9 12 1298), (0xA2518931, .bltu 9 12 1298), (0xA2558931, .bgeu 9 12 1298),
    (0xF1234535, .jmp 15803205), (0xF1234539, .call 15803205), (0x8D15893D, .jreg 9 12 9029),
    (0x8D152041, .loop 9 9029), (0x00000141, .lexit), (0x00012045, .endtask 9), (0x14A58945, .spawnPath 9 12 41 1),
    (0x15A58945, .spawnNear 9 12 41 1)] : List (Nat × Instr)), decodeTableWord 32 p.1 = some p.2 := by decide

/-- Words from the fixed bits and fields of the encoding tables: SPAWN_STEAL to AMOFADD. -/
theorem test_decode_3 : ∀ p ∈ ([
    (0x16A58945, .spawnSteal 9 12 41 1), (0x23218945, .join 9 12 200), (0x30000945, .yieldchk 9),
    (0x40492045, .follow 9 18), (0x50000045, .unfollow), (0x60012045, .cancel 9), (0x73218945, .rtquiet 9 12 200),
    (0x80498945, .csrrw 9 12 18), (0x90498945, .csrrs 9 12 18), (0xA0498945, .csrrc 9 12 18),
    (0xA2558949, .ld 9 12 5 1298), (0xA255894D, .st 9 12 5 1298), (0xA2558951, .ldl 9 12 5 1298),
    (0xA2558955, .stl 9 12 5 1298), (0xA2558959, .ldc 9 12 5 1298), (0xA255895D, .stc 9 12 5 1298),
    (0xC1518961, .ldv 9 12 20 2 0 6), (0xC1518965, .stv 9 12 20 2 0 6), (0x30518969, .amoswap 9 12 20 1 1),
    (0x30D18969, .amoadd 9 12 20 1 1), (0x31518969, .amoand 9 12 20 1 1), (0x31D18969, .amoor 9 12 20 1 1),
    (0x32518969, .amoxor 9 12 20 1 1), (0x32D18969, .amomin 9 12 20 1 1), (0x33518969, .amomax 9 12 20 1 1),
    (0x33D18969, .amominu 9 12 20 1 1), (0x34518969, .amomaxu 9 12 20 1 1), (0x34D18969, .amocas 9 12 20 1 1),
    (0x25518969, .amofadd 9 12 20 1)] : List (Nat × Instr)), decodeTableWord 32 p.1 = some p.2 := by decide

/-- Words from the fixed bits and fields of the encoding tables: AMOBFPADD to MIXREAD. -/
theorem test_decode_4 : ∀ p ∈ ([
    (0x05D18969, .amobfpadd 9 12 20), (0x1000006D, .fence 1), (0x10B1206D, .phinit 9 12 1), (0x1101206D, .pharr 9 1),
    (0x11B1206D, .phadd 9 12 1), (0x1251896D, .phwait 9 12 20 1), (0x12D1896D, .phread 9 12 20 1),
    (0x00018971, .taglk 9 12), (0x00D18971, .tagset 9 12 20), (0x01012071, .taginv 9),
    (0x01D18971, .tagstat 9 12 20), (0x00012075, .xfer 9), (0x00800975, .xfern 9), (0x00012079, .send 9),
    (0x00812079, .sendRel 9), (0x01312079, .reply 9 12), (0x01B12079, .replyRel 9 12), (0x02012079, .sendlb 9),
    (0x0031207D, .gqcreate 9 12), (0x00D1897D, .gqpush 9 12 20), (0x0151897D, .gqpop 9 12 20),
    (0x1151897D, .gqpopDrop 9 12 20), (0x01D1897D, .gqstat 9 12 20), (0x00312081, .mixcfg 9 12),
    (0x00B12081, .mixjoin 9 12), (0x01312081, .mixpeer 9 12), (0x01D18981, .mixadd 9 12 20),
    (0x02012081, .mixtick 9), (0x02D18981, .mixread 9 12 20)] : List (Nat × Instr)), decodeTableWord 32 p.1 = some p.2 := by decide

/-- Words from the fixed bits and fields of the encoding tables: MIXSTAT to VMINU. -/
theorem test_decode_5 : ∀ p ∈ ([
    (0x03518981, .mixstat 9 12 20), (0x03812081, .mixleave 9), (0x04312081, .mixhold 9 12), (0x00312085, .mfmt 9 12),
    (0x00812085, .mma 9), (0x01012085, .mmas 9), (0x01818985, .mwait 9 12), (0x02018985, .mar 9 12),
    (0x02818985, .maw 9 12), (0x03000985, .mstat 9), (0x03812085, .msrec 9), (0x04012085, .mtout 9),
    (0x14812085, .mrem 9 1), (0x05312085, .mkey 9 12), (0x05818985, .mcap 9 12), (0x00012089, .mnorm 9),
    (0x00B12089, .mxs 9 12), (0x01018989, .mxsrd 9 12), (0x0031208D, .stgcfg 9 12), (0x0081208D, .stgdone 9),
    (0x0131208D, .stgtmpl 9 12), (0x0181208D, .stgsrec 9), (0x0201898D, .stgstat 9 12),
    (0x01518991, .vadd 9 12 20 2 0), (0x05518991, .vsub 9 12 20 2 0), (0x09518991, .vmul 9 12 20 2 0),
    (0x0D518991, .vmin 9 12 20 2 0), (0x11518991, .vmax 9 12 20 2 0), (0x15518991, .vminu 9 12 20 2 0)] : List (Nat × Instr)), decodeTableWord 32 p.1 = some p.2 := by decide

/-- Words from the fixed bits and fields of the encoding tables: VMAXU to VEXT. -/
theorem test_decode_6 : ∀ p ∈ ([
    (0x19518991, .vmaxu 9 12 20 2 0), (0x01518995, .vfma 9 12 20 2 0), (0x05518995, .vfms 9 12 20 2 0),
    (0x09518995, .vfnma 9 12 20 2 0), (0x0D518995, .vfnms 9 12 20 2 0), (0x11518995, .vdot 9 12 20 2 0),
    (0x15518995, .vdotu 9 12 20 2 0), (0x01518999, .vadds 9 12 20 2 0), (0x05518999, .vaddsu 9 12 20 2 0),
    (0x09518999, .vsubs 9 12 20 2 0), (0x0D518999, .vsubsu 9 12 20 2 0), (0x52818999, .vnegs 9 12 5 2),
    (0x0151899D, .vand 9 12 20 2 0), (0x0551899D, .vor 9 12 20 2 0), (0x0951899D, .vxor 9 12 20 2 0),
    (0x0D51899D, .vandn 9 12 20 2 0), (0x1151899D, .vsll 9 12 20 2 0), (0x1551899D, .vsrl 9 12 20 2 0),
    (0x1951899D, .vsra 9 12 20 2 0), (0x015189A1, .vcmpeq 9 12 20 2 0), (0x055189A1, .vcmpne 9 12 20 2 0),
    (0x095189A1, .vcmplt 9 12 20 2 0), (0x0D5189A1, .vcmple 9 12 20 2 0), (0x115189A1, .vcmpltu 9 12 20 2 0),
    (0x155189A1, .vcmpleu 9 12 20 2 0), (0x428189A5, .vmv 9 12 5 2), (0x468189A5, .vbcast 9 12 5 2),
    (0x485189A5, .vins 9 12 20 2), (0x4C5189A5, .vext 9 12 20 2)] : List (Nat × Instr)), decodeTableWord 32 p.1 = some p.2 := by decide

/-- Words from the fixed bits and fields of the encoding tables: VEXTU to PANDN. -/
theorem test_decode_7 : ∀ p ∈ ([
    (0x505189A5, .vextu 9 12 20 2), (0x428189A9, .vrsum 9 12 5 2), (0x468189A9, .vrsumu 9 12 5 2),
    (0x4A8189A9, .vrmin 9 12 5 2), (0x4E8189A9, .vrmax 9 12 5 2), (0x528189A9, .vrminu 9 12 5 2),
    (0x568189A9, .vrmaxu 9 12 5 2), (0x428189AD, .vabs 9 12 5 2), (0x468189AD, .vneg 9 12 5 2),
    (0x4A8189AD, .vclz 9 12 5 2), (0x4E8189AD, .vpopc 9 12 5 2), (0xC15189B1, .vcvt 9 12 20 2 0 6),
    (0x428189B5, .vrcp 9 12 5 2), (0x468189B5, .vrsqrt 9 12 5 2), (0x4A8189B5, .vsqrt 9 12 5 2),
    (0x4E8189B5, .vexp2 9 12 5 2), (0x528189B5, .vlog2 9 12 5 2), (0x155189B5, .vdiv 9 12 20 2 0),
    (0x195189B5, .vtie 9 12 20 2 0), (0x1C5181B5, .vtload 1 12 20), (0x015189B9, .vshuf 9 12 20 2 0),
    (0x055189B9, .vsplat 9 12 20 2 0), (0x095189B9, .vslidedn 9 12 20 2 0), (0x0D5189B9, .vslideup 9 12 20 2 0),
    (0xA00189BD, .plen 9 12 5), (0x055189BD, .pand 9 12 20 2), (0x095189BD, .por 9 12 20 2),
    (0x0D5189BD, .pxor 9 12 20 2), (0x115189BD, .pandn 9 12 20 2)] : List (Nat × Instr)), decodeTableWord 32 p.1 = some p.2 := by decide

/-- Words from the fixed bits and fields of the encoding tables: PGET to ROWQ. -/
theorem test_decode_8 : ∀ p ∈ ([
    (0x140189BD, .pget 9 12), (0x180189BD, .pset 9 12), (0xBC0189BD, .pcnt 9 12 5), (0x000000C1, .eret),
    (0x008120C1, .trap 9), (0x010000C1, .bkpt), (0x023120C1, .codew 9 12), (0x02B120C1, .rtset 9 12),
    (0x040189C1, .inbhead 9 12), (0x04D189C1, .inbrd 9 12 20), (0x053120C1, .inbfree 9 12),
    (0x080189C1, .fbstat 9 12), (0x08D189C1, .fbread 9 12 20), (0x093120C1, .fbclr 9 12), (0x098120C1, .replayall 9),
    (0x0A3120C1, .tlbinv 9 12), (0x0AB120C1, .sgload 9 12), (0x0B3120C1, .keyw 9 12), (0x103120C1, .preempt 9 12),
    (0x108189C1, .ctxrest 9 12), (0x115189C1, .bncset 9 12 20), (0x118120C1, .bncclr 9), (0x180000C1, .halt),
    (0x188000C1, .resume), (0x195189C1, .dbgrd 9 12 20), (0x19B120C1, .dbgwr 9 12), (0x1A0120C1, .dbgstep 9),
    (0x205189C1, .opset 9 12 20), (0x20D189C1, .rowq 9 12 20)] : List (Nat × Instr)), decodeTableWord 32 p.1 = some p.2 := by decide

/-- The compact forms (R77, R78). -/
theorem test_decode_compact : ∀ p ∈ ([
    (0x6244, .cMv 9 12), (0x6248, .cAdd 9 12), (0x624C, .cSub 9 12), (0x6250, .cAnd 9 12), (0x6254, .cOr 9 12),
    (0x6258, .cXor 9 12), (0x625C, .cAddi 9 12), (0x6260, .cLi 9 12), (0x6264, .cSlli 9 12), (0x6268, .cSrli 9 12),
    (0x626C, .cSrai 9 12), (0x6270, .cLdl 9 12), (0x6274, .cStl 9 12), (0x6278, .cBnez 9 12), (0x003C, .cEndtask),
    (0x483C, .cJreg 9)] : List (Nat × Instr)), decodeTableWord 16 p.1 = some p.2 := by decide

/-- A word of 32 bits as the code store holds it: two halfwords, the first the low one (R67). -/
def wordOf (w : Nat) : List Byte := (List.range 4).map fun i => BitVec.ofNat 8 (w / 256 ^ i)

/-- Words the spec writes out in its worked examples: scalar, control and memory forms, with their switch markers. -/
theorem test_spec_words_scalar : ∀ p ∈ ([
    (0x0038C601, .add 6 6 14, false), (0x0004EC05, .addi 12 7 1, false), (0x03A54C01, .sll 12 10 9, false),
    (0x00B0ED01, .sub 13 7 12, false), (0x0081081D, .slli 8 8 32, false), (0x0111081D, .srli 8 8 4, false),
    (0x010D291D, .srli 9 9 3, false), (0x02468821, .li 8 0x1234, false), (0x40020B25, .lih 11 0x10 2, false),
    (0xFEC92831, .blt 8 9 0x7F6, false), (0x00004039, .call 0x40, false), (0x00512041, .loop 9 20, false),
    (0x91040A45, .csrrs 10 0 0x041, false), (0x00000045, .endtask 0, false), (0x103D6045, .spawnPath 0 11 15 0, false),
    (0x00199049, .ld 16 12 6 0, false), (0x00199B4B, .ld 27 12 6 0, true), (0x00B94E51, .ldl 14 10 6 5, false),
    (0x00350C51, .ldl 12 8 5 1, false), (0x00310555, .stl 5 8 4 1, false), (0x001BBC5D, .stc 28 29 6 0, false),
    (0x10A96969, .amoadd 9 11 10 1 0, false), (0x05B12869, .amobfpadd 8 9 12, false), (0x0101606D, .pharr 11 0, false),
    (0x20AC006D, .phinit 0 11 2, false), (0x10B5806D, .phinit 12 13 1, false), (0x02016F6F, .phwait 15 11 0 0, true),
    (0x22000C6F, .phwait 12 0 0 2, true), (0x0000A971, .taglk 9 5, false), (0x00008873, .taglk 8 4, true),
    (0x00B48871, .tagset 8 4 13, false), (0x01850A71, .tagstat 10 8 1, false), (0x00016075, .xfer 11, false)] :
    List (Nat × Instr × Bool)), decode (wordOf p.1) = .ok (p.2.1, p.2.2, []) := by decide

/-- Words the spec writes out in its worked examples: messages, units, vectors and system forms. -/
theorem test_spec_words_units : ∀ p ∈ ([
    (0x00012079, .send 9, false), (0x00812079, .sendRel 9, false), (0x011D2079, .reply 9 7, false), (0x02008079, .sendlb 4, false),
    (0x1139AC7D, .gqpopDrop 12 13 14, false), (0x0139AC7D, .gqpop 12 13 14, false), (0x00AD497F, .gqpush 9 10 11, true),
    (0x00188081, .mixcfg 4 6, false), (0x00988081, .mixjoin 4 6, false), (0x01208081, .mixpeer 4 8, false),
    (0x01A08983, .mixadd 9 4 8, true), (0x02A08A83, .mixread 10 4 8, true), (0x02008081, .mixtick 4, false),
    (0x00010085, .mfmt 8 0, false), (0x00812085, .mma 9, false), (0x01818D87, .mwait 13 12, true), (0x02014487, .mar 4 10, true),
    (0x02814485, .maw 4 10, false), (0x03000885, .mstat 8, false), (0x04012085, .mtout 9, false), (0x34812085, .mrem 9 3, false),
    (0x00012089, .mnorm 9, false), (0x00A92089, .mxs 9 10, false), (0x01018E89, .mxsrd 14 12, false),
    (0x60818163, .ldv 1 12 0 1 0 3, true), (0x6081A265, .stv 2 13 0 1 0 3, false), (0x60882391, .vadd 3 1 2 1 3, false),
    (0xA0082391, .vadd 3 1 2 0 5, false), (0x70082495, .vdot 4 1 2 0 3, false), (0xA80822A1, .vcmplt 2 1 2 0 5, false),
    (0xA00068A9, .vrsum 8 3 0 5, false), (0x158044B1, .vcvt 4 2 0 3 5 0, false), (0x788022B5, .vtie 2 1 0 1 3, false),
    (0x1C0160B5, .vtload 0 11 0, false), (0x600141BD, .plen 1 10 3, false), (0x000000C1, .eret, false), (0x008120C1, .trap 9, false),
    (0x080088C3, .fbstat 8 4, true), (0x08A88CC3, .fbread 12 4 10, true), (0x092880C1, .fbclr 4 10, false),
    (0x098080C1, .replayall 4, false), (0x108128C1, .ctxrest 8 9, false), (0x180000C1, .halt, false)] :
    List (Nat × Instr × Bool)), decode (wordOf p.1) = .ok (p.2.1, p.2.2, []) := by decide

/-- The stream decoded in the spec's chapter on encoding, and the halfword of its last example (R66, R78, R80, R87). -/
theorem test_decode_stream :
    decodeTableWord 16 0x4288 = some (.cAdd 10 8) ∧ decodeTableWord 16 0xEB20 = some (.cLi 12 0x1D) ∧
    decodeTableWord 32 0xFFE14A05 = some (.addi 10 10 0x3FF8) ∧ decodeTableWord 16 0x003E = some .cEndtask ∧
    decodeTableWord 16 0x1A5C = some (.cAddi 9 3) ∧ decodeTableWord 16 0x0000 = none ∧
    decodeTableWord 32 0x000000C5 = none ∧ decodeTableWord 32 0xFFFFFFFF = none ∧ decodeTableWord 32 0x003EFFE1 = none := by decide

/-! ### Well-formedness: each check refuses an ill-formed term (R64, R70-R72, R80) -/

/-- A field with a bound: LOOP's end, the CSR number, Z, the space, ORD and type fields, the half selector, a register group,
the kind of a remote command. -/
theorem test_illformed_fields : ∀ i ∈ ([.loop 1 2, .loop 1 8192, .csrrw 1 2 0x3FF, .csrrw 1 2 0x203, .csrrs 1 2 0x203, .csrrc 1 2 0x203,
    .csrrs 1 0 0x3FF, .ld 1 2 7 0, .ldl 1 2 7 0, .ldc 1 2 7 0, .st 1 2 1 0, .stl 1 2 3 0, .stc 1 2 5 0, .ldv 1 2 3 0 3 0,
    .stv 1 2 3 0 3 0, .amoswap 1 2 3 0 3, .amoadd 1 2 3 0 3, .amoand 1 2 3 0 3, .amoor 1 2 3 0 3, .amoxor 1 2 3 0 3,
    .amomin 1 2 3 0 3, .amomax 1 2 3 0 3, .amominu 1 2 3 0 3, .amomaxu 1 2 3 0 3, .amocas 1 2 3 0 3, .amofadd 1 2 3 3,
    .fence 3, .phinit 1 2 3, .pharr 1 3, .phadd 1 2 3, .phwait 1 2 3 3, .phread 1 2 0 3, .phread 1 2 2 0, .tagstat 1 2 2,
    .sendlb 2, .mrem 1 6, .cJreg 0] : List Instr), WellFormed i = false := by decide

/-- A type that the form does not take (R71, R148-R169). -/
theorem test_illformed_types : ∀ i ∈ ([.vadd 1 2 3 0 6, .vsub 1 2 3 0 7, .vmul 1 2 3 0 6, .vmin 1 2 3 0 6, .vmax 1 2 3 0 6,
    .vminu 1 2 3 0 3, .vmaxu 1 2 3 0 5, .vfma 1 2 3 0 6, .vfms 1 2 3 0 6, .vfnma 1 2 3 0 6, .vfnms 1 2 3 0 6, .vdot 1 2 3 0 2,
    .vdotu 1 2 3 0 3, .vadds 1 2 3 0 3, .vaddsu 1 2 3 0 3, .vsubs 1 2 3 0 3, .vsubsu 1 2 3 0 3, .vnegs 1 2 0 3, .vand 1 2 3 0 3,
    .vor 1 2 3 0 3, .vxor 1 2 3 0 3, .vandn 1 2 3 0 3, .vsll 1 2 3 0 3, .vsrl 1 2 3 0 3, .vsra 1 2 3 0 3, .vcmpeq 1 2 3 0 6,
    .vcmpne 1 2 3 0 6, .vcmplt 1 2 3 0 6, .vcmple 1 2 3 0 6, .vcmpltu 1 2 3 0 3, .vcmpleu 1 2 3 0 3, .vmv 1 2 0 6, .vbcast 1 2 0 6,
    .vins 1 2 3 6, .vext 1 2 3 3, .vextu 1 2 3 6, .vrsum 1 2 0 6, .vrsumu 1 2 0 3, .vrmin 1 2 0 6, .vrmax 1 2 0 6, .vrminu 1 2 0 3,
    .vrmaxu 1 2 0 3, .vabs 1 2 0 6, .vneg 1 2 0 6, .vclz 1 2 0 3, .vpopc 1 2 0 3, .vrcp 1 2 0 2, .vrsqrt 1 2 0 2, .vsqrt 1 2 0 2,
    .vexp2 1 2 0 2, .vlog2 1 2 0 6, .vdiv 1 2 3 0 0, .vtie 1 2 0 0 2, .vtie 1 2 2 0 5, .vshuf 1 2 3 0 6, .vsplat 1 2 3 0 6,
    .vslidedn 1 2 3 0 6, .vslideup 1 2 3 0 6, .plen 1 2 6, .pcnt 1 2 6] : List Instr), WellFormed i = false := by decide

/-- A lane past the last one, a predicate field of 8 or more, p0 as a destination (R70, R163, R164). -/
theorem test_illformed_lanes : ∀ i ∈ ([.vins 1 2 4 2, .vext 1 2 16 0, .vextu 1 2 8 1, .vsplat 1 2 8 0 3, .vslidedn 1 2 4 0 5,
    .vslideup 1 2 16 0 0, .vcmpeq 0 2 3 0 2, .vcmpne 8 2 3 0 2, .vcmplt 0 2 3 0 2, .vcmple 31 2 3 0 2, .vcmpltu 0 2 3 0 2,
    .vcmpleu 0 2 3 0 2, .plen 0 2 2, .pand 0 2 3 0, .pand 1 8 3 0, .pand 1 2 8 0, .por 0 2 3 0, .pxor 0 2 3 0, .pandn 0 2 3 0,
    .por 1 8 3 0, .pxor 1 2 9 0, .pandn 1 31 3 0, .pget 1 8, .pset 0 2, .pset 8 2, .pcnt 1 8 2] : List Instr), WellFormed i = false := by decide

/-- VCVT: a mode of 5 or 6, a pair it has not, a sign bit it has not, an odd register of a pair (R167, R168). -/
theorem test_illformed_vcvt : ∀ i ∈ ([.vcvt 4 8 0 5 3 5, .vcvt 4 8 0 5 3 6, .vcvt 4 8 0 3 3 0, .vcvt 4 8 0 7 6 0, .vcvt 4 8 4 0 2 0,
    .vcvt 4 8 0 0 2 1, .vcvt 4 8 2 5 0 0, .vcvt 4 8 1 2 5 0, .vcvt 4 8 1 5 3 0, .vcvt 5 8 0 5 3 0, .vcvt 4 9 0 3 5 0] : List Instr),
    WellFormed i = false := by decide

/-! ### States for the witnesses -/

/-- What `Executes` asks, as a Bool. -/
def ready (i : Instr) (s : State) : Bool := !s.decodeIllegal i && (!privileged i || s.isSys) && !s.heldBack i && !s.cur.stepping

theorem ready_executes {i : Instr} {s : State} (h : ready i s = true) : Executes i s := by
  simp only [ready, Bool.and_eq_true, Bool.not_eq_true', Bool.or_eq_true] at h
  exact ⟨h.1.1.1, fun hp => h.1.1.2.resolve_left (by simp [hp]), h.1.2, h.2⟩

/-- A task of launch 1 on a cell: logical cell 4 of a launch of 16 whose window has 4 rows a cell. -/
def task : Ctx :=
  { busy := true, launch := some 1, lcell := 4, level := 0x40000, cwrows := 4, prows := 40, token := 17, acts := 3 }

/-- A module in which the task runs as context 0 of cell `n`; its cluster translates low addresses to themselves. -/
def on (n : Nat) (x : Ctx) : State :=
  { now := { cell := n, ctx := 0 }
    cells := [(n, Cell.setCtx { trapvec := 0x100, ovfvec := 0x200, hosted := [⟨4, 1, 4, 40, 0x10, 100, [20]⟩] } 0 x)]
    launches := [(1, { recva := 0x40000, lcount := 16, wrows := 4, prows := 40 })]
    l2p := [(4, n)], nextId := 10, l1 := [(l1Key n, [⟨0, 30, 0xF⟩])] }

def user : State := on 0 task
def sup : State := on 0 { task with sys := true }
def depot : State := on Config.depotBase task
def core : State := on (Config.systemBase + 1) { task with launch := none, sys := true }

/-- The same with two registers set. -/
def with2 (s : State) (a : Reg) (x : Nat) (b : Reg) (y : Nat) : State :=
  (s.setS a (BitVec.ofNat 64 x)).setS b (BitVec.ofNat 64 y)

/-- Bytes of the executing task's private rows. -/
def rows (s : State) (l : List (Nat × Nat)) : State := l.foldl (fun s e => s.localWrite e.1 8 e.2) s

/-- An access of the executing context in flight. -/
def flying (s : State) (op : AccOp) (d : Dest) (pl : Place) (p : Phase) : State :=
  s.launched { s.owing op d with place := pl, phase := p }

def goes (s : State) : Bool := match step s with | .next _ => true | _ => false

/-! ### Every instruction that occupies a word is ready on some cell -/

/-- The scalar forms and those of control flow (R90-R106), user mode on a compute cell. -/
theorem witness_scalar : ∀ i ∈ ([.add 1 2 3, .sub 1 2 3, .and 1 2 3, .or 1 2 3, .xor 1 2 3, .andn 1 2 3, .orn 1 2 3, .sll 1 2 3, .srl 1 2 3,
    .sra 1 2 3, .slt 1 2 3, .sltu 1 2 3, .min 1 2 3, .max 1 2 3, .minu 1 2 3, .maxu 1 2 3, .seq 1 2 3, .addi 0 31 0x3FFF, .andi 1 2 0,
    .ori 1 2 0, .xori 1 2 0, .slti 1 2 0, .sltiu 1 2 0, .slli 1 2 63, .srli 1 2 63, .srai 1 2 0, .li 1 0x7FFFF, .lih 1 0xFFFF 3, .mul 1 2 3,
    .mulh 1 2 3, .mulhsu 1 2 3, .mulhu 1 2 3, .div 1 2 3, .divu 1 2 3, .rem 1 2 3, .remu 1 2 3, .clz 1 2, .ctz 1 2, .popc 1 2, .bswap 1 2,
    .brev 1 2, .rol 1 2 3, .ror 1 2 3, .rand 1, .beq 1 2 0x7FF, .bne 1 2 0x400, .blt 1 2 0, .bge 1 2 0, .bltu 1 2 0, .bgeu 1 2 0,
    .jmp 0xFFFFFF, .call 0, .jreg 1 2 0, .loop 1 3, .loop 1 8191, .lexit, .cMv 1 2, .cAdd 1 2, .cSub 1 2, .cAnd 1 2, .cOr 1 2, .cXor 1 2,
    .cAddi 1 0x1F, .cLi 1 0, .cSlli 1 31, .cSrli 1 0, .cSrai 1 0, .cBnez 1 0x10, .cJreg 1, .csrrw 1 2 0x010, .csrrs 1 2 0x010, .csrrc 1 0 0x020,
    .endtask 1, .cEndtask] : List Instr), ready i user = true := by decide

/-- The forms of tasks, memory, tags and the copy engine, and those that post or mix (R108-R120, R222-R240, R345-R366). -/
theorem witness_memory : ∀ i ∈ ([.spawnPath 1 2 63 1, .spawnNear 1 2 0 0, .spawnSteal 1 2 0 0, .join 1 2 16, .yieldchk 1, .follow 1 0x3FF, .unfollow,
    .cancel 1, .rtquiet 1 2 3, .ld 1 2 6 0x7FF, .st 1 2 6 0x400, .ldl 1 2 0 0, .stl 1 2 0 0, .ldc 1 2 5 0, .stc 1 2 4 0, .cLdl 1 2, .cStl 1 2,
    .ldv 1 2 31 7 2 5, .ldv 1 2 0 0 1 0, .ldv 1 2 0 0 0 3, .stv 1 2 3 0 2 0, .stv 1 2 16 1 1 7, .stv 1 2 15 0 0 1, .amoswap 1 2 3 0 0, .amoadd 1 2 3 1 0,
    .amoand 1 2 3 0 2, .amoor 1 2 3 0 1, .amoxor 1 2 3 0 1, .amomin 1 2 3 0 1, .amomax 1 2 3 0 1, .amominu 1 2 3 0 1, .amomaxu 1 2 3 0 1,
    .amocas 1 2 3 1 2, .amofadd 1 2 3 1, .amobfpadd 1 2 3, .fence 0, .fence 2, .phinit 1 2 0, .phinit 1 2 1, .pharr 1 2, .phadd 1 2 0,
    .phwait 1 2 3 1, .phread 1 2 1 2, .taglk 1 2, .tagset 1 2 3, .taginv 1, .tagstat 1 2 1, .xfer 1, .xfern 1, .send 1, .sendRel 1,
    .reply 1 2, .replyRel 1 2] : List Instr), ready i user = true := by decide

/-- The vector forms at the ends of their types (R148-R169). -/
theorem witness_vector : ∀ i ∈ ([.vadd 1 2 3 0 0, .vadd 1 2 3 7 5, .vsub 1 2 3 0 2, .vsub 1 2 3 0 3, .vmul 1 2 3 0 0, .vmul 1 2 3 0 4, .vmin 1 2 3 0 2,
    .vmin 1 2 3 0 3, .vmax 1 2 3 0 0, .vmax 1 2 3 0 5, .vminu 1 2 3 0 2, .vmaxu 1 2 3 0 0, .vfma 1 2 3 0 2, .vfma 1 2 3 0 3, .vfms 1 2 3 0 1,
    .vfms 1 2 3 0 5, .vfnma 1 2 3 0 0, .vfnma 1 2 3 0 4, .vfnms 1 2 3 0 2, .vfnms 1 2 3 0 5, .vdot 1 2 3 0 0, .vdot 1 2 3 0 3, .vdot 1 2 3 0 4,
    .vdotu 1 2 3 0 1, .vadds 1 2 3 0 2, .vaddsu 1 2 3 0 0, .vsubs 1 2 3 0 1, .vsubsu 1 2 3 0 2, .vnegs 1 2 0 0, .vand 1 2 3 0 0, .vor 1 2 3 0 2,
    .vxor 1 2 3 0 1, .vandn 1 2 3 0 0, .vsll 1 2 3 0 0, .vsrl 1 2 3 0 1, .vsra 1 2 3 0 2, .vcmpeq 7 2 3 0 2, .vcmpeq 1 2 3 0 3, .vcmpne 1 2 3 0 0,
    .vcmpne 1 2 3 0 5, .vcmplt 1 2 3 0 1, .vcmplt 1 2 3 0 4, .vcmple 1 2 3 0 2, .vcmple 1 2 3 0 5, .vcmpltu 1 2 3 0 0, .vcmpleu 1 2 3 0 2, .vmv 1 2 0 5,
    .vbcast 1 2 0 0, .vins 1 2 15 0, .vext 1 2 3 2, .vextu 1 2 7 4, .vshuf 1 2 3 0 5, .vsplat 1 2 15 0 0, .vslidedn 1 2 0 0 5, .vslideup 1 2 3 0 2,
    .vrsum 1 2 0 0, .vrsum 1 2 0 5, .vrsumu 1 2 0 2, .vrmin 1 2 0 0, .vrmin 1 2 0 3, .vrmax 1 2 0 2, .vrmax 1 2 0 5, .vrminu 1 2 0 1, .vrmaxu 1 2 0 2,
    .vabs 1 2 0 0, .vabs 1 2 0 5, .vneg 1 2 0 2, .vneg 1 2 0 3, .vclz 1 2 0 0, .vpopc 1 2 0 2, .vrcp 1 2 0 3, .vrsqrt 1 2 0 4, .vsqrt 1 2 0 5,
    .vexp2 1 2 0 3, .vlog2 1 2 0 5, .vdiv 1 2 3 0 4, .vtie 1 2 1 0 5, .vcvt 4 8 1 0 2 0, .vcvt 4 8 2 2 5 7, .vcvt 4 8 1 3 0 4, .vcvt 4 8 0 3 5 0,
    .vcvt 4 8 0 6 5 4, .vcvt 4 8 0 7 3 0, .vcvt 8 4 0 5 6 0, .vcvt 8 4 0 4 7 4, .vtload 1 2 31, .plen 7 2 5, .pand 1 0 7 7, .por 1 2 3 0,
    .pxor 1 2 3 0, .pandn 1 2 3 0, .pget 1 7, .pset 7 1, .pcnt 1 0 0] : List Instr), ready i user = true := by decide

/-- Matrix forms on a compute cell, the stage table and remote forms; queues and mixing on a depot cell (R284-R300, R345-R366, R380-R382). -/
theorem witness_units :
    (∀ i ∈ ([.mma 1, .mmas 1, .mnorm 1, .mxs 1 2, .mtout 1, .mfmt 1 2, .msrec 1, .mwait 1 2, .mar 1 2, .maw 1 2, .mstat 1, .mxsrd 1 2,
      .mrem 1 0, .mrem 1 5, .gqpush 1 2 3, .gqstat 1 2 3] : List Instr), ready i user = true) ∧
    (∀ i ∈ ([.gqcreate 1 2, .gqpop 1 2 3, .gqpopDrop 1 2 3, .mixcfg 1 2, .mixjoin 1 2, .mixpeer 1 2, .mixadd 1 2 3, .mixtick 1, .mixread 1 2 3,
      .mixstat 1 2 3, .mixleave 1, .mixhold 1 2] : List Instr), ready i depot = true) := by decide

/-- The system forms, in system mode on a compute cell, and those of a system core (R242-R259, R393). -/
theorem witness_system :
    (∀ i ∈ ([.sendlb 28, .trap 1, .bkpt, .eret, .codew 1 2, .rtset 1 2, .inbhead 1 2, .inbrd 1 2 3, .inbfree 1 2] : List Instr), ready i sup = true) ∧
    (∀ i ∈ ([.mkey 1 2, .mcap 1 2, .stgcfg 1 2, .stgdone 1, .stgtmpl 1 2, .stgsrec 1, .stgstat 1 2, .fbstat 1 2, .fbread 1 2 3, .fbclr 1 2, .replayall 1,
      .tlbinv 1 2, .sgload 1 2, .keyw 1 2, .preempt 1 2, .ctxrest 1 2, .bncset 1 2 3, .bncclr 1, .halt, .resume, .dbgrd 1 2 3, .dbgwr 1 2, .dbgstep 1,
      .opset 1 2 3, .rowq 1 2 3] : List Instr), ready i core = true) := by decide

/-! ### Single steps: results worked out by hand from the rules named -/

/-- The state that `i` leaves. -/
def after (i : Instr) (s : State) : State := match exec i s with | .next t => t | _ => s
/-- s[9] after `i` on two operands in s[2] and s[3]. -/
def res (i : Instr) (x y : Nat) : Nat := ((after i (with2 user 2 x 3 y)).s 9).toNat
/-- The PC after `i`, from halfword 0x20. -/
def pcAfter (i : Instr) (x y : Nat) : Nat := (after i (with2 (on 0 { task with pc := 0x20 }) 2 x 3 y)).cur.pc.toNat
/-- The cause and value of the trap that `i` takes, 0 for none. -/
def trapOf (i : Instr) (s : State) : Nat × Nat := ((after i s).cur.trapcause.toNat, (after i s).cur.trapval.toNat)

/-- R90: sums wrap, shifts take the amount modulo 64, compares are signed or not. -/
theorem test_alu : res (.add 9 2 3) (2 ^ 64 - 1) 2 = 1 ∧ res (.sub 9 2 3) 0 1 = 2 ^ 64 - 1 ∧ res (.andn 9 2 3) 0xF 0x5 = 0xA ∧
    res (.sll 9 2 3) 1 65 = 2 ∧ res (.sra 9 2 3) (2 ^ 63) 63 = 2 ^ 64 - 1 ∧ res (.srl 9 2 3) (2 ^ 63) 63 = 1 ∧ res (.slt 9 2 3) (2 ^ 64 - 1) 0 = 1 ∧
    res (.sltu 9 2 3) (2 ^ 64 - 1) 0 = 0 ∧ res (.min 9 2 3) (2 ^ 64 - 1) 1 = 2 ^ 64 - 1 ∧ res (.minu 9 2 3) (2 ^ 64 - 1) 1 = 1 := by decide

/-- R91-R94: immediates are sign-extended; LIH replaces one quarter. -/
theorem test_immediates : res (.addi 9 2 0x3FFF) 5 0 = 4 ∧ res (.andi 9 2 0x3FF0) 0xFF 0 = 0xF0 ∧ res (.sltiu 9 2 0x3FFF) 5 0 = 1 ∧
    res (.srai 9 2 4) (2 ^ 63) 0 = 0xF800000000000000 ∧ res (.li 9 0x40000) 0 0 = 2 ^ 64 - 2 ^ 18 ∧
    ((after (.lih 9 0xBEEF 1) (with2 user 9 (2 ^ 64 - 1) 3 0)).s 9).toNat = 0xFFFFFFFFBEEFFFFF := by decide

/-- R95: high products, truncating division and its corners. -/
theorem test_muldiv : res (.mulh 9 2 3) (2 ^ 64 - 1) (2 ^ 64 - 1) = 0 ∧ res (.mulhu 9 2 3) (2 ^ 64 - 1) (2 ^ 64 - 1) = 2 ^ 64 - 2 ∧
    res (.mulhsu 9 2 3) (2 ^ 64 - 1) (2 ^ 64 - 1) = 2 ^ 64 - 1 ∧ res (.div 9 2 3) (2 ^ 64 - 7) 2 = 2 ^ 64 - 3 ∧ res (.rem 9 2 3) (2 ^ 64 - 7) 2 = 2 ^ 64 - 1 ∧
    res (.div 9 2 3) 5 0 = 2 ^ 64 - 1 ∧ res (.remu 9 2 3) 5 0 = 5 ∧ res (.div 9 2 3) (2 ^ 63) (2 ^ 64 - 1) = 2 ^ 63 ∧ res (.rem 9 2 3) (2 ^ 63) (2 ^ 64 - 1) = 0 := by decide

/-- R96: counts, reversals and rotations. -/
theorem test_bits : res (.clz 9 2) 0 0 = 64 ∧ res (.clz 9 2) 1 0 = 63 ∧ res (.ctz 9 2) 0 0 = 64 ∧ res (.ctz 9 2) 8 0 = 3 ∧ res (.popc 9 2) 0xF0F0 0 = 8 ∧
    res (.bswap 9 2) 1 0 = 2 ^ 56 ∧ res (.brev 9 2) 1 0 = 2 ^ 63 ∧ res (.rol 9 2 3) (2 ^ 63) 1 = 1 ∧ res (.ror 9 2 3) 1 1 = 2 ^ 63 := by decide

/-- R70: a write of s0 is discarded. -/
theorem test_s0 : ((after (.addi 0 2 5) user).s 0) = 0 ∧ (after (.addi 0 2 5) user).cur.retired = 1 := by decide

/-- R98-R100: a branch backwards, one not taken, the link of a call, the target of JREG with its own destination as base. -/
theorem test_branches : pcAfter (.beq 2 3 0x7F6) 1 1 = 0x16 ∧ pcAfter (.bne 2 3 0x7F6) 1 1 = 0x22 ∧ pcAfter (.bltu 2 3 4) 1 (2 ^ 64 - 1) = 0x24 ∧
    pcAfter (.blt 2 3 4) 1 (2 ^ 64 - 1) = 0x22 ∧ pcAfter (.call 0xFFFFFF) 0 0 = 0x1F ∧ pcAfter (.jreg 2 2 4) 0x100 0 = 0x104 ∧
    (after (.jreg 2 2 4) (with2 user 2 0x100 3 0)).s 2 = 2 ∧ (after (.call 0x40) user).s 1 = 2 ∧ pcAfter (.cBnez 2 0x1F) 1 0 = 0x1F := by decide

/-- R104-R106: a loop opened, a count of 0, a fourth loop, LEXIT, and the back-edge at LE. -/
theorem test_loops : (after (.loop 2 20) (with2 user 2 3 3 0)).cur.depth = 1 ∧ (after (.loop 2 20) (with2 user 2 0 3 0)).cur.pc = 20 ∧
    trapOf (.loop 2 20) (with2 (on 0 { task with lc := #v[1, 1, 1] }) 2 3 3 0) = (0x0E, 3) ∧
    (after .lexit (on 0 { task with lc := #v[5, 6, 0] })).cur.lc = #v[5, 0, 0] ∧
    (after (.addi 0 0 0) (on 0 { task with pc := 0x1E, ls := #v[0x10, 0, 0], le := #v[0x20, 0, 0], lc := #v[2, 0, 0] })).cur.pc = 0x10 ∧
    (after (.addi 0 0 0) (on 0 { task with pc := 0x1E, ls := #v[0x10, 0, 0], le := #v[0x20, 0, 0], lc := #v[1, 0, 0] })).cur.pc = 0x20 := by decide

/-- R64, R121: FRM keeps its value when 5 is written; a set with s0 only reads. -/
theorem test_csr : (after (.csrrw 9 2 0x011) (with2 user 2 5 3 0)).cur.frm = 0 ∧ (after (.csrrw 9 2 0x011) (with2 user 2 4 3 0)).cur.frm = 4 ∧
    (after (.csrrs 9 0 0x010) (on 0 { task with fflags := 0x11 })).cur.fflags = 0x11 ∧ ((after (.csrrs 9 0 0x010) (on 0 { task with fflags := 0x11 })).s 9) = 0x11 := by decide

/-- R222-R225: sign extension, byte order, MISALIGN before LOCALRANGE. -/
theorem test_local : ((after (.ldl 9 2 2 0) (rows (with2 user 2 8 3 0) [(8, 0x80FE)])).s 9).toNat = 2 ^ 64 - 0x7F02 ∧
    ((after (.ldl 9 2 3 0) (rows (with2 user 2 8 3 0) [(8, 0x80FE)])).s 9).toNat = 0x80FE ∧
    (after (.stl 3 2 4 1) (with2 user 2 8 3 0x11223344)).localRead 12 1 = 0x44 ∧ trapOf (.ldl 9 2 6 0) (with2 user 2 5121 3 0) = (3, 5121) ∧
    trapOf (.ldl 9 2 6 0) (with2 user 2 5120 3 0) = (0xF, 5120) := by decide

/-- R224, R195: an aligned global load leaves the cell; a misaligned one traps; 2^60 traps PERM. -/
theorem test_global : (after (.ld 9 2 6 0) (with2 user 2 0x1000 3 0)).inflight.length = 1 ∧ trapOf (.ld 9 2 6 0) (with2 user 2 0x1001 3 0) = (3, 0x1001) ∧
    trapOf (.st 9 2 6 0) (with2 user 2 (2 ^ 60) 3 0) = (4, 2 ^ 60) := by decide

/-- R226: a vector store under p1 changes the active bytes alone; a load keeps the lanes that are not active. -/
theorem test_vector_memory :
    (let s := ((rows (with2 user 2 16 3 0) [(16, 0x1111111111111111), (24, 0x1111111111111111)]).setV 5 0x22222222222222222222222222222222).setP 1 0x00F0;
      (after (.stv 5 2 0 1 1 2) s).localRead 16 16 = 0x11111111111111112222222211111111 ∧
      ((after (.ldv 5 2 0 1 1 2) s).v 5).toNat = 0x22222222222222221111111122222222) := by decide

/-- v[9] after a vector form on v[2] and v[3]. -/
def vres (i : Instr) (x y : Nat) : Nat := ((after i ((user.setV 2 (BitVec.ofNat 128 x)).setV 3 (BitVec.ofNat 128 y))).v 9).toNat

/-- R157, R159: lanes wrap apart; saturating forms stop at the ends; bf16 1 + 1, and f32 1 + 2^-24 to the even neighbour. -/
theorem test_vector_arithmetic : vres (.vadd 9 2 3 0 0) 0xFF 0x0101 = 0x0100 ∧ vres (.vadds 9 2 3 0 0) 0x7F80 0x0180 = 0x7F80 ∧
    vres (.vsubsu 9 2 3 0 1) 5 6 = 0 ∧ vres (.vmul 9 2 3 0 2) 0x10000 0x10000 = 0 ∧ vres (.vadd 9 2 3 0 3) 0x3F80 0x3F80 = 0x4000 ∧
    vres (.vadd 9 2 3 0 5) 0x3F800000 0x33800000 = 0x3F800000 := by decide

/-- R158, R162, R163, R165: a dot product of i8, a signed compare, a lane moved out, a sum of lanes. -/
theorem test_vector_others : vres (.vdot 9 2 3 0 0) 0x02FF 0x0303 = 3 ∧
    ((after (.vcmplt 1 2 3 0 2) ((user.setV 2 0xFFFFFFFF).setV 3 0)).p 1).toNat = 0x000F ∧
    ((after (.vext 9 2 1 2) (user.setV 2 0x80000000_00000000)).s 9).toNat = 2 ^ 64 - 2 ^ 31 ∧
    ((after (.vrsum 9 2 0 1) (user.setV 2 0x0002_FFFF)).s 9).toNat = 1 := by decide

/-- R167: 1.5 in f32 to i32 by RNE is 2 and raises NX; a value out of range stops at the end and raises NV. -/
theorem test_convert : vres (.vcvt 9 2 0 2 5 0) 0x3FC00000 0 = 2 ∧ (after (.vcvt 9 2 0 2 5 0) (user.setV 2 0x3FC00000)).cur.fflags = 1 ∧
    vres (.vcvt 9 2 0 2 5 0) 0x4F800000 0 % 2 ^ 32 = 0x7FFFFFFF ∧ (after (.vcvt 9 2 0 2 5 0) (user.setV 2 0x4F800000)).cur.fflags = 0x10 := by decide

/-- R155, R156: PLEN sets the bytes of the first elements; PCNT counts elements. -/
theorem test_predicates : ((after (.plen 1 2 2) (with2 user 2 2 3 0)).p 1).toNat = 0x00FF ∧ ((after (.plen 1 2 2) (with2 user 2 (2 ^ 64 - 1) 3 0)).p 1).toNat = 0 ∧
    ((after (.pcnt 9 1 2) (user.setP 1 0x0FF0)).s 9) = 2 := by decide

/-- R228: a signed 32-bit minimum in the rows returns the old value; a compare that fails writes nothing. -/
theorem test_atomics :
    (let s := rows (with2 user 2 8 3 5) [(8, 0xFFFFFFFE)];
      (after (.amomin 9 2 3 0 1) s).localRead 8 4 = 0xFFFFFFFE ∧ ((after (.amomin 9 2 3 0 1) s).s 9).toNat = 2 ^ 64 - 2 ∧
      (after (.amocas 9 2 3 0 1) s).localRead 8 4 = 0xFFFFFFFE ∧ (after (.amoadd 9 2 3 0 1) s).localRead 8 4 = 3) := by decide

/-- R187, R233, R234: a phase word set up for one arrival completes at it; another arrival on a full count traps PHOVER. -/
theorem test_phase :
    (let s := with2 user 2 16 3 1; let t := after (.phinit 2 3 1) s;
      t.localRead 16 16 = 1 ∧ (after (.pharr 2 1) t).localRead 16 16 = 1 + 2 ^ 112 ∧ trapOf (.phadd 2 3 1) t = (8, 16)) := by decide

/-- R175, R237, R238: an entry set is found by its line; the line after it is not. -/
theorem test_tags :
    (let t := after (.tagset 4 2 3) ((with2 user 2 0x8000 3 (2 ^ 25 + 2 ^ 12)).setS 4 5);
      (after (.taglk 9 2) t).s 9 = 5 ∧ (after (.taglk 9 2) (with2 t 2 0x8080 4 0)).s 9 = BitVec.allOnes 64) := by decide +kernel

/-- R82, R243-R246: the traps an instruction takes before its own checks; what entry leaves and ERET restores. -/
theorem test_traps : (trapOf (.mixtick 1) user).1 = 1 ∧ trapOf .eret user = (2, 0xC1) ∧ trapOf (.trap 2) (with2 sup 2 77 3 0) = (0xD, 77) ∧
    (after (.trap 2) sup).cur.pc = 0x100 ∧ (after .eret user).isSys = true ∧
    (let s := on 0 { task with sys := true, inTrap := 1, trappc := 0x44, trapstate := 0 }; (after .eret s).cur.pc = 0x44 ∧ (after .eret s).isSys = false) := by decide

/-- R42, R109, R112: ENDTASK frees the context; a SPAWN's child has the parent's path extended. -/
theorem test_tasks : (after (.endtask 1) user).cur.busy = false ∧
    ((after (.spawnPath 9 2 3 0) (rows (with2 user 2 128 3 0) [(160, 0x10)])).s 9).toNat = 1 + 3 * 2 ^ 4 := by decide

/-! ### The hypotheses of the statements on the step, decoding, scalar forms and tasks -/

/-- StepKeepsMemoryOk, ResetMemoryOk, StepRuns and StepStopsOnlyWhenHeld: an ADD fetched after reset, a ready context of a cell whose
turn it is at the last halfword for a compact form, an event, and a held module with and without a RESET. -/
theorem witness_StepRuns :
    (let s := State.reset.withFetchWord 32 0x00518901; let n := s.turns.headD s.now.cell;
      s.agenda = [] ∧ s.held = false ∧ s.boot.failed = false ∧ s.ticked.unhurried n = true ∧ (∃ k < 4, s.ticked.nextCtx n = some k ∧
        (s.ticked.ctx n k).pendingTrap = none ∧ (s.ticked.ctx n k).stream = [] ∧
        decodePair (s.fetched n k (s.ctx n k).pc.toNat) (s.fetched n k ((s.ctx n k).pc.toNat + 1)) = .ok (.add 9 12 20)) ∧
      Memory.wf s.hbm = true ∧ Memory.wf s.pad = true ∧ goes s = true) ∧
    (let s := ((on 0 { task with pc := 0x3FFF }).modCell 0 fun c => c.setHalf 0x3FFF 0x003C);
      s.agenda = [] ∧ s.held = false ∧ s.boot.failed = false ∧ s.ticked.unhurried 0 = true ∧ s.ticked.nextCtx 0 = some 0 ∧
        (s.ticked.ctx 0 0).pendingTrap = none ∧ (s.ticked.ctx 0 0).stream = [] ∧ s.turns = [] ∧
        decodePair (s.fetched 0 0 0x3FFF) 0 = .ok .cEndtask) ∧
    (let s := on 1 { task with pc := 7, following := true, stream := [(.add 9 12 20, true, 7, 9)] };
      s.agenda = [] ∧ s.held = false ∧ s.boot.failed = false ∧ s.turns.headD s.now.cell = 1 ∧ s.ticked.unhurried 1 = true ∧
        s.ticked.nextCtx 1 = some 0 ∧ (s.ticked.ctx 1 0).pendingTrap = none ∧
        (s.ticked.ctx 1 0).stream = [(.add 9 12 20, true, 7, 9)] ∧ (s.ticked.ctx 1 0).pc = 7) ∧
    (let s := { State.reset with agenda := [(.reset, {})], held := true };
      width Instr.reset = 0 ∧ s.boot.failed = false ∧ goes s = true) ∧
    (let s := { State.reset with agenda := [(.roundTick, {})] };
      width Instr.roundTick = 0 ∧ s.held = false ∧ s.boot.failed = false ∧ goes s = true) ∧
    (match step { State.reset with held := true } with | .fault f => f == .heldUntilReset | _ => false) = true := by decide

/-- DecodeOfEncode and EncodeOfDecode: a compact form and one of 32 bits, each with both markers and bytes behind it. -/
theorem witness_DecodeOfEncode : ∀ i ∈ [Instr.cLi 12 0x1D, .ld 16 12 6 0x7FF], WellFormed i = true ∧ width i ≠ 0 ∧
    ∀ sw ∈ [false, true], decode (encode i sw ++ [0xFF]) = .ok (i, sw, [0xFF]) := by decide

/-- LoopForms and LoopBackEdge: no loop, one, two and three active, a count of 0, LE reached and not. -/
theorem witness_LoopForms :
    (∀ p ∈ [(0, 0), (1, 5), (2, 0), (3, 1)], let x := { task with lc := (Vector.replicate 3 0 : Vector Word 3), s := task.s.set 1 (BitVec.ofNat 64 p.2) }
      let y := (List.range p.1).foldl (fun y j => { y with lc := y.lc.set (j % 3) 1 (Nat.mod_lt _ (by decide)) }) x;
      y.depth = p.1 ∧ ready (.loop 1 3) (on 0 y) = true ∧ ready .lexit (on 0 y) = true ∧ ((on 0 y).s 1).toNat = p.2) ∧
    (∀ p ∈ [(1, 1), (1, 2), (2, 1), (3, 1)], let x := { task with le := #v[0x20, 0x30, 0x40], lc := (Vector.replicate 3 0 : Vector Word 3) }
      let y := (List.range p.1).foldl (fun y j => { y with lc := y.lc.set (j % 3) (BitVec.ofNat 64 p.2) (Nat.mod_lt _ (by decide)) }) x;
      y.depth = p.1 ∧ (∃ j : Fin 3, y.depth = j.val + 1 ∧ y.le[j] = BitVec.ofNat 14 (0x10 + 0x10 * p.1) ∧ (0x22 : CodeAddr) ≠ y.le[j])) := by decide

/-- CsrRegisters: the last FNROUTE register; forms that set with s0 and with another register. -/
theorem witness_CsrRegisters : (47 : Nat) < 48 ∧ ready (.csrrs 1 0 0x010) user = true ∧ ready (.csrrs 1 2 0x010) user = true ∧
    ready (.csrrw 1 2 0x210) core = true ∧ ready (.csrrc 1 2 0x26F) core = true ∧ ready (.csrrw 1 2 0x103) sup = true := by decide

/-- An access of the executing context whose result is on its way. -/
def owed (s : State) (op : AccOp) (d : Dest) : State := s.launched { s.owing op d with place := .hbm 0x1000 }

/-- EndtaskEnds: results owed, and none owed with and without an armed join. -/
theorem witness_EndtaskEnds :
    (owed user (.load 6) (.s 9)).owed 0 0 = true ∧ ready (.endtask 1) (owed user (.load 6) (.s 9)) = true ∧
    user.owed 0 0 = false ∧ ready (.endtask 1) user = true ∧ ready .cEndtask user = true ∧
    ready .cEndtask (on 0 { task with join := some (0x5000, 2), jrec := 0x6000 }) = true := by decide

/-- `Mapped` of Safety.lean as a Bool: for an address whose translation gives a home of this module. -/
def mapped (s : State) (va : Nat) (write : Bool) (pl : Place) (key : Nat) (chk : Bool) : Bool :=
  decide (va < 2 ^ 60) && !s.granuleHeld va && (!write || decide (s.storesOut < 32)) &&
    (match s.translate va write with | .at l => l == ⟨pl, key, chk⟩ | _ => false) && !(match pl with | .remote .. => true | _ => false)

theorem mapped_Mapped {s : State} {va : Nat} {write : Bool} {pl : Place} {key : Nat} {chk : Bool}
    (h : mapped s va write pl key chk = true) : s.Mapped va write pl key chk := by
  simp only [mapped, Bool.and_eq_true, decide_eq_true_eq, Bool.not_eq_true', Bool.or_eq_true] at h
  obtain ⟨⟨⟨⟨h1, h2⟩, h3⟩, h4⟩, h5⟩ := h
  refine ⟨h1, h2, fun hw => h3.resolve_left (by simp [hw]), ?_, fun dev pa hp => by subst hp; simp at h5⟩
  revert h4
  cases s.translate va write <;> simp

/-- `BlockOk` of Safety.lean as a Bool. -/
def blockOk (s : State) (a n align : Nat) : Bool :=
  decide (a % align = 0) && s.localOk s.now.cell s.cur a n && s.badLocal a n == none && !s.rowsBusy a n

theorem blockOk_BlockOk {s : State} {a n align : Nat} (h : blockOk s a n align = true) : s.BlockOk a n align := by
  simp only [blockOk, Bool.and_eq_true, decide_eq_true_eq, beq_iff_eq, Bool.not_eq_true'] at h
  exact ⟨h.1.1.1, h.1.1.2, h.1.2, h.2⟩

/-- `LocalReady` of Safety.lean as a Bool. -/
def localReady (s : State) (a n : Nat) : Bool :=
  s.localOk s.now.cell s.cur a n && !s.homeBusy (.pad s.now.cell (s.localAddr s.now.cell s.cur a)) &&
    !s.placeBad (.pad s.now.cell (s.localAddr s.now.cell s.cur a)) && s.here.evac == none

theorem localReady_LocalReady {s : State} {a n : Nat} (h : localReady s a n = true) : s.LocalReady a n := by
  simp only [localReady, Bool.and_eq_true, Bool.not_eq_true', beq_iff_eq] at h
  exact ⟨h.1.1.1, h.1.1.2, h.1.2, h.2⟩

/-- The context is at the first step of its instruction, and takes its block at once. -/
def atOnce (s : State) : Bool := s.cur.stage == 0 && s.cur.answers.isEmpty && !s.late.headD false

theorem atOnce_AtOnce {s : State} (h : atOnce s = true) : s.AtOnce := by
  simp only [atOnce, Bool.and_eq_true, beq_iff_eq, List.isEmpty_iff, Bool.not_eq_true'] at h
  exact ⟨h.1.1, h.1.2, h.2⟩

/-- SpawnAndJoin, operand blocks: the first step, at once and in pieces; the steps of a block of three pieces behind two others, up to
the last and past it. -/
theorem witness_Pieces :
    atOnce user = true ∧ atOnce depot = true ∧ atOnce core = true ∧ ({ user with late := [true] } : State).late.headD false = true ∧
    (∀ k ∈ [1, 4, 5], let s := on 0 { task with stage := 1024 + k };
      let k := s.cur.stage - 1024; 0 < k ∧ (k < 2 + (40 + 15) / 16 ↔ k ≠ 5) ∧ Memory.wf s.pad = true ∧ Memory.wf s.hbm = true) ∧
    (on 0 { task with stage := 1024 }).cur.stage - 1024 = 0 := by decide

/-- SpawnAndJoin: a SPAWN by path, NEAR and to the deque from a root task and from one of depth 8 with a join that has one
place left; a JOIN at the least class, with and without an armed join. -/
theorem witness_SpawnAndJoin :
    (∀ x ∈ [task, { task with path := 8, join := some (0x5000, 4095) }],
      let s := (rows (on 0 { x with s := x.s.set 2 128 }) [(160, 0x10)]);
      (s.s 2).toNat = 128 ∧ blockOk s 128 48 16 = true ∧ atOnce s = true ∧ s.cur.stage = 0 ∧ s.cur.answers = [] ∧
        ready (.spawnPath 1 2 63 1) { s with late := [true] } = true ∧ 16 ≤ s.localRead (128 + 32) 1 ∧
        s.cur.launch ≠ none ∧ s.cur.path.toNat % 16 < 9 ∧ pathValid s.cur.path = true ∧ s.cur.joinFull = false ∧ s.outFull = false ∧
        s.here.deque.length < 32 ∧ ready (.spawnPath 1 2 63 1) s = true ∧ ready (.spawnNear 1 2 0 0) s = true ∧ ready (.spawnSteal 1 2 5 1) s = true) ∧
    (∀ x ∈ [task, { task with join := some (0x5000, 2) }], let s := on 0 { x with s := x.s.set 2 0x6FF8 };
      ready (.join 1 2 16) s = true ∧ (s.s 2).toNat % 8 = 0 ∧ s.cur.launch ≠ none ∧
        mapped s 0x6FF8 true (.hbm 0x6FF8) 0 false = true ∧ mapped s 0x7000 true (.hbm 0x7000) 0 false = true) := by decide

/-- TaskForms: a cell that follows and the leader; CANCEL's word; RTQUIET of the own cell and of a mapped one. -/
theorem witness_TaskForms :
    ready (.yieldchk 1) user = true ∧ ready (.follow 1 0x3FF) user = true ∧ ready (.follow 1 0) (on 1 task) = true ∧ ready .unfollow (on 1 task) = true ∧
    (let s := with2 user 1 0x40000 2 4;
      ready (.cancel 1) s = true ∧ (s.s 1).toNat % 64 = 0 ∧ mapped s 0x40014 true (.hbm 0x40014) 0 false = true ∧
      ready (.rtquiet 9 2 255) s = true ∧ s.s 2 ≠ BitVec.allOnes 64 ∧ look? s.l2p ((s.s 2).toNat % 65536) = some 0) ∧
    (let s := with2 user 1 (2 ^ 64 - 1) 2 0; ready (.rtquiet 9 1 0) s = true ∧ s.s 1 = BitVec.allOnes 64) := by decide

/-! ### The hypotheses of the statements on memory, order and tags -/

/-- Pages behind the identity map: one of module 5, one of a host window, one that may only be read; 5 is in the partition. -/
def wide (s : State) : State :=
  { s with
    partition := some [5], l2p := [(4, s.now.cell), (5, 1)]
    host := [(0, { windows := [(0, BitVec.ofNat 128 (2 ^ 64 * 12 + 2 ^ 70 + 2 ^ 71))] })]
    l1 := [(l1Key s.now.cell, [⟨2 ^ 30, 0, 2 ^ 51 + 5 * 2 ^ 42 + 0xF⟩, ⟨2 ^ 30 + 1, 0, 2 ^ 42 + 0xF⟩, ⟨2 ^ 30 + 2, 0, 0xB⟩, ⟨0, 30, 0xF⟩])] }

/-- What a translation comes to, but for a home. -/
def perm (s : State) (va : Nat) (w : Bool) : Bool := match s.translate va w with | .perm => true | _ => false
def park (s : State) (va : Nat) (w : Bool) : Bool := match s.translate va w with | .park => true | _ => false
def miss (s : State) (va : Nat) (w : Bool) : Bool := match s.translate va w with | .miss => true | _ => false
def away (s : State) (va : Nat) (w : Bool) (dev pa : Nat) : Bool :=
  match s.translate va w with | .at l => l == ⟨.remote dev pa, 0, false⟩ | _ => false

/-- NearLoads and NearStoresAndTraps: the ends of the rows and of the window, another cell's rows, a store behind an access on
its way, and the three traps. -/
theorem witness_NearAccesses :
    (let s := with2 user 2 8 3 5112;
      ready (.ldl 1 2 6 0x7FF) s = true ∧ s.address 2 6 0x7FF = 0 ∧ localReady s 0 8 = true ∧
      ready (.cLdl 1 3) s = true ∧ (s.s 3).toNat % 8 = 0 ∧ localReady s 5112 8 = true ∧ ready (.cStl 1 3) s = true ∧
      s.localPlace 5112 = some (.pad 0 5624) ∧ s.homeBusy (.pad 0 5624) = false ∧ s.rowsHeld (.pad 0 5624) = false ∧
      ready (.stl 1 2 6 0x7FF) s = true ∧ s.late.headD false = false ∧ { s with late := [true] }.late.headD false = true ∧
      Memory.wf s.pad = true ∧ s.localPlace 5120 = none ∧ s.windowPlace 8192 = none ∧ (5113 : Nat) % 8 ≠ 0) ∧
    (let s := with2 (wide user) 2 640 3 8064;
      ready (.ldc 1 2 0 0x7FF) s = true ∧ s.address 2 0 0x7FF = 639 ∧ s.windowPlace 639 = some (.pad 0 127) ∧ s.placeBad (.pad 0 127) = false ∧
      s.homeBusy (.pad 0 127) = false ∧ s.rowsHeld (.pad 0 127) = false ∧ ready (.stc 1 2 0 0x7FF) s = true ∧
      ready (.stc 1 2 4 0) s = true ∧ s.address 2 4 0 = 640 ∧ s.windowPlace 640 = some (.pad 1 0) ∧ s.storesOut < 32 ∧ s.address 2 4 1 % 8 ≠ 0) ∧
    (let s := flying ((List.range 31).foldl (fun s _ => flying s (.store 8 0) .none (.hbm 0x8000) .issued) user) (.store 8 0) .none (.pad 0 600) .issued;
      s.homeBusy (.pad 0 512) = true ∧ s.localPlace 0 = some (.pad 0 512) ∧ s.storesOut = 31 ∧ ready (.stl 1 0 6 0) s = true ∧ ready (.cStl 1 0) s = true) ∧
    (let s := { user with badPad := [4] };
      s.localPlace 0 = some (.pad 0 512) ∧ s.placeBad (.pad 0 512) = true ∧ s.homeBusy (.pad 0 512) = false ∧
      s.windowPlace 512 = some (.pad 0 0) ∧ ready (.ldl 1 0 6 0) s = true) ∧
    (let s := { with2 (wide user) 2 640 3 0 with badPad := [padKey 1 0 / 128] };
      s.windowPlace 640 = some (.pad 1 0) ∧ s.placeBad (.pad 1 0) = true ∧ s.homeBusy (.pad 1 0) = false ∧ s.rowsHeld (.pad 1 0) = false ∧
      ready (.ldc 1 2 6 0) s = true) := by decide

/-- The executing task's interlocked load of s9 and a PHARR that its home has taken in, on their way. -/
def locked (s : State) : State := s.launched { s.owing (.load 6) (.s 9) with place := .pad 0 512, locked := true, seen := some 3 }
def taken (s : State) (pl : Place) : State := s.launched { s.owing .pharr .none with place := pl, accepted := true }

/-- NearLoads, NearStoresAndTraps, VectorAccesses, Atomics and PhaseForms: forms that perform after their issue; a word of the rows that
is taken in, and one beside it.  IllegalThenPriv: an interlocked load, an instruction that touches its register and one that does not. -/
theorem witness_Interlocked :
    (let s := { with2 (wide user) 2 512 3 0 with late := [true] };
      s.late.headD false = true ∧
      ∀ i ∈ [Instr.ldl 9 2 6 0, .cLdl 9 2, .ldc 9 2 6 0, .ldv 9 2 0 0 1 2, .ldv 9 2 0 0 2 2, .amoadd 9 2 3 0 1, .amofadd 9 2 3 1, .phread 9 2 1 1,
        .phread 9 2 0 2], ready i s = true) ∧
    (let s := taken (with2 (wide user) 2 0 3 16) (.pad 0 512);
      s.wordTaken (.pad 0 512) 8 = true ∧ s.wordTaken (.pad 0 520) 4 = true ∧ s.wordTaken (.pad 0 528) 8 = false ∧ s.wordTaken (.pad 0 504) 8 = false ∧
      s.localPlace 0 = some (.pad 0 512) ∧ s.storesOut < 32 ∧ ∀ i ∈ [Instr.stl 9 2 6 0, .cStl 9 2, .amoadd 9 2 3 0 1], ready i s = true) ∧
    user.wordTaken (.pad 0 512) 8 = false ∧
    (let s := locked user;
      ∃ a ∈ s.inflight, a.locked = true ∧ s.owns s.now.cell s.now.ctx a = true ∧ touches (.add 4 9 5) a.dest = true ∧ touches (.ldv 9 2 0 0 1 2) a.dest = false ∧
        s.decodeIllegal (.add 4 9 5) = false ∧ privileged (.add 4 9 5) = false ∧ ready (.add 4 5 6) s = true ∧ touches (.csrrs 1 0 0x002) a.dest = true ∧
        touches (.csrrs 1 0 0x002) (.s 0) = true ∧ touches (.add 4 0 5) (.s 0) = false) := by decide

/-- R40, R217, R223: a load from the rows that performs after its issue leaves its register alone, and what reads the register waits. -/
theorem test_interlocked :
    (let s := rows (with2 user 2 8 3 7) [(8, 0x80FE)]; let t := after (.ldl 9 2 3 0) { s with late := [true] };
      (t.s 9).toNat = (s.s 9).toNat ∧ t.cur.retired = s.cur.retired + 1 ∧ (after (.addi 4 9 0) t).cur.retired = t.cur.retired ∧
        (after (.addi 4 3 0) t).cur.retired = t.cur.retired + 1 ∧
        t.inflight.map (fun a => (a.locked, a.seen, a.op == .load 3)) = [(true, some 0x80FE, true)]) ∧
    (let s := (with2 user 2 4 3 7).setP 1 0x0F0F; let t := after (.ldv 9 2 0 1 1 2) { s with late := [true] };
      t.inflight.map (fun a => (a.op == .vload 0 4 15 || a.op == .vload 8 4 15, a.dest == .v 9)) = [(true, true), (true, true)]) := by decide

/-- GlobalLoadsAndStores: the last bytes of this module's memory, a host window, another module, a parked granule, a
page that denies, a miss, a misaligned address and one of 2^60. -/
theorem witness_GlobalLoadsAndStores :
    (let s := with2 (wide user) 2 0x23FFFFFFFF8 3 (2 ^ 42 + 0x1FF8);
      ready (.ld 1 2 6 0) s = true ∧ ready (.st 1 2 6 0) s = true ∧ s.address 2 6 0 % 8 = 0 ∧
      mapped s (s.address 2 6 0) false (.hbm 0x23FFFFFFFF8) 0 false = true ∧ mapped s (s.address 2 6 0) true (.hbm 0x23FFFFFFFF8) 0 false = true ∧
      mapped s (s.address 3 6 0) true (.host 0 0xFF8) 0 false = true) ∧
    (let s := with2 (wide user) 2 (2 ^ 42 + 8) 3 (2 ^ 42 + 0x2000);
      s.address 2 6 0 < 2 ^ 60 ∧ s.granuleHeld (2 ^ 42 + 8) = false ∧ s.storesOut < 32 ∧ away s (2 ^ 42 + 8) false 5 8 = true ∧
      away s (2 ^ 42 + 8) true 5 8 = true ∧ s.reaches 5 = true ∧ s.dark 5 = false ∧ s.flowRoom s.cur.lcell.toNat 5 = true ∧
      perm s (s.address 3 6 0) true = true ∧ perm s 0x24000000000 false = true ∧ miss s (2 ^ 42 + 0x3000) false = true ∧ s.address 2 6 1 % 8 = 0) ∧
    (∀ n ∈ [63, 64], let s := { with2 (wide user) 2 (2 ^ 42 + 0x3000) 3 0 with inflight := List.replicate n { user.owing (.load 6) (.s 9) with phase := .parked } };
      s.awaiting = n ∧ miss s (s.address 2 6 0) false = true ∧ s.granuleHeld (s.address 2 6 0) = false ∧ s.storesOut < 32 ∧ ready (.ld 1 2 6 0) s = true) ∧
    (let s := with2 (on 0 { task with answers := [.parkIn 0x123] }) 2 0x123FF8 3 (2 ^ 60);
      park s (s.address 2 6 0) false = true ∧ park s (s.address 2 6 0) true = true ∧ s.awaiting < 64 ∧ s.granuleHeld 0x123FF8 = false ∧
      s.parkRoom 0x123FF8 1 = true ∧
      (let m : Miss := { cell := 0, ctx := 0, vpn := 0x123, write := false, sys := false };
        let u := s.setSlice (sliceOf 0x123FF8) { replay := [.miss m] };
        u.parkRoom 0x123FF8 1 = true ∧ (u.slice (sliceOf 0x123FF8)).replay.any (u.isMiss 0x123) = true ∧
          (s.slice (sliceOf 0x123FF8)).replay.any (s.isMiss 0x123) = false) ∧
      s.address 2 3 0x7FF % 2 = 0 ∧ s.address 2 6 0 % 8 = 0 ∧ ready (.ld 1 2 6 0) s = true ∧ 2 ^ 60 ≤ s.address 3 6 0) := by decide

/-- VectorAccesses, near: an unaligned load and store under a predicate in the rows and the window, at once and an element a step. -/
theorem witness_VectorNear :
    (let s := (with2 (wide user) 2 (2 ^ 64 - 12) 3 526).setP 1 0x0F0F;
      let ea := (s.s 2 + BitVec.ofInt 64 16).toNat; let mask := activeBytes (s.p 1) 2;
      ready (.ldv 1 2 1 1 1 2) s = true ∧ ready (.stv 1 2 1 1 1 2) s = true ∧ ea = 4 ∧ ea % elemBytes 2 = 0 ∧ Memory.wf s.pad = true ∧
      (∀ j < 16, bit mask j = true → s.localPlace (ea + j) = some (.pad 0 (516 + j)) ∧ s.homeBusy (.pad 0 (516 + j)) = false ∧
        s.placeBad (.pad 0 (516 + j)) = false ∧ s.rowsHeld (.pad 0 (516 + j)) = false) ∧
      s.late.headD false = false ∧ (∀ l ∈ s.late.take 16, l = false) ∧ { s with late := [true] }.late.headD false = true ∧
      ((List.range (lanes 2)).filter fun e => active (s.p 1) 2 e) = [0, 2] ∧
      ready (.ldv 1 3 0 1 2 1) s = true ∧
      (∀ j < 16, bit (activeBytes (s.p 1) 1) j = true → s.windowPlace (526 + j) = some (.pad 0 (14 + j)) ∧ s.homeBusy (.pad 0 (14 + j)) = false ∧
        s.placeBad (.pad 0 (14 + j)) = false)) := by decide

/-- VectorAccesses, global: an aligned and an unaligned access, one with no active byte, and a store that would leave 33 outstanding. -/
theorem witness_VectorGlobal :
    (let s := with2 user 2 0x1000 3 0x1FF8;
      (∀ i ∈ [Instr.ldv 1 2 0 0 0 5, .stv 1 2 0 0 0 5, .ldv 1 3 0 0 0 5, .stv 1 3 0 0 0 5], ready i s = true) ∧
      mapped s 0x1000 false (.hbm 0x1000) 0 false = true ∧ mapped s 0x1000 true (.hbm 0x1000) 0 false = true ∧
      0x1FF8 % 16 ≠ 0 ∧ 0x1FF8 % elemBytes 5 = 0 ∧ bit (activeBytes (s.p 0) 5) 0 = true ∧ s.storesOut + (lanes 5) ≤ 32 ∧
      (let u := (List.range 29).foldl (fun s _ => flying s (.store 8 0) .none (.hbm 0x8000) .issued) s;
        32 < u.storesOut + ((List.range (lanes 5)).filter fun e => active (u.p 0) 5 e).length ∧ ready (.stv 1 3 0 0 0 5) u = true) ∧
      ((List.range (lanes 5)).filter fun e => active ((s.setP 1 0).p 1) 5 e) = [] ∧ (s.setP 1 0).storesOut ≤ 32 ∧
      ∀ e < 4, mapped s (0x1FF8 + e * 4) false (.hbm (0x1FF8 + e * 4)) 0 false = true ∧
        mapped s (0x1FF8 + e * 4) true (.hbm (0x1FF8 + e * 4)) 0 false = true) := by decide

/-- VectorFloat and RoundingKeepsNumbers: NaNs, infinities, zeros and numbers of each sign, a value between two numbers, a sum that cancels,
and a value that is an integer and a power of two. -/
theorem witness_Rounding :
    [f32.decode 0x7F800001, f32.decode 0x7FC00000, f32.decode 0x7F800000, f32.decode 0xFF800000, f32.decode 0x80000000, f32.decode 0x40000000,
      f32.decode 0xC0400000] = [.nan true, .nan false, .inf false, .inf true, .fin true 0 (-149), .fin false 8388608 (-22), .fin true 12582912 (-22)] ∧
    f32.ofFp .rne (.fin false 3 (-200)) = (0, flagUF ||| flagNX) ∧ f32.sum .rne false [some (.inf true), some (.inf false)] = (f32.nan, flagNV) ∧
    f32.sum .rne false [some (.fin false 1 0), some (.fin true 1 0)] = (0, 0) := by decide +kernel

theorem witness_Exponents : (Fp.fin false 8388608 (-22)).value = ((2 ^ (1 : ℤ) : ℚ)) ∧ (Fp.fin false 8388608 (-22)).value = ((2 : ℤ) : ℚ) := by
  constructor <;> norm_num [Fp.value]

/-- TableLoads: a valid image of one segment at the end of the rows, an image that is not valid, a misaligned address, a header
and an image past the rows. -/
theorem witness_TableLoads :
    (let s := rows (with2 user 2 5088 3 5104) [(5088, 0x3F80000000000000), (5096, 0x0000000003000001)];
      let ea := (s.s 2).toNat;
      ready (.vtload 0 2 0) s = true ∧ s.cur.stage = 0 ∧ s.word? 512 = none ∧ s.late.headD false = false ∧
        { s with late := [true] }.late.headD false = true ∧ ea % 16 = 0 ∧ s.localOk 0 s.cur ea 16 = true ∧ (tableHeader (s.localBytes ea 16)).isSome = true ∧
        s.localOk 0 s.cur ea 20 = true ∧ s.badLocal ea 20 = none ∧ s.rowsBusy ea 20 = false ∧ (parseTable (s.localBytes ea 20)).isSome = true ∧
        (tableHeader (s.localBytes 0 16)).isSome = false ∧ (5089 : Nat) % 16 ≠ 0 ∧ s.localOk 0 s.cur 5120 16 = false) ∧
    (let s := rows (with2 user 2 5104 3 0) [(5104, 0x3F80000000000000), (5112, 0x0000000003000001)];
      s.localOk 0 s.cur 5104 16 = true ∧ (tableHeader (s.localBytes 5104 16)).isSome = true ∧ s.rowsBusy 5104 16 = false ∧
      s.localOk 0 s.cur 5104 20 = false) := by decide

/-- Atomics: an operation in the rows, one in the window, one of the global space; AMOBFPADD with both homes in one stack
and in two. -/
theorem witness_Atomics :
    (let s := with2 (wide user) 2 5116 3 8;
      (∀ i ∈ [Instr.amoadd 9 2 3 0 1, .amocas 9 2 3 0 1, .amofadd 9 2 3 1], ready i s = true) ∧ (s.s 2).toNat % 4 = 0 ∧
      s.localPlace 5116 = some (.pad 0 5628) ∧ s.homeBusy (.pad 0 5628) = false ∧ s.rowsHeld (.pad 0 5628) = false ∧
      s.placeBad (.pad 0 5628) = false ∧ Memory.wf s.pad = true) ∧
    (let s := with2 (wide user) 2 512 3 8;
      ready (.amoxor 9 2 3 1 2) s = true ∧ (s.s 2).toNat % 8 = 0 ∧ s.windowPlace 512 = some (.pad 0 0) ∧ s.homeBusy (.pad 0 0) = false) ∧
    (∀ n ∈ [31, 32], let s := { with2 (wide user) 2 640 3 8 with inflight := List.replicate n { user.owing (.store 8 0) .none with place := .hbm 0x8000 } };
      s.windowPlace 640 = some (.pad 1 0) ∧ (1 : Nat) ≠ s.now.cell ∧ s.storesOut = n ∧ s.homeBusy (.pad 1 0) = false ∧ s.rowsHeld (.pad 1 0) = false ∧
      s.placeBad (.pad 1 0) = false ∧ ready (.amoadd 9 2 3 0 2) s = true) ∧
    (let s := with2 user 2 0x1000 3 8;
      ready (.amoswap 9 2 3 1 0) s = true ∧ ready (.amofadd 9 2 3 0) s = true ∧ mapped s 0x1000 true (.hbm 0x1000) 0 false = true) ∧
    (∀ p ∈ [(0x1000, true), (0x2000, false)], let s := rows (with2 user 2 0x1020 3 64) [(104, p.1)];
      ready (.amobfpadd 9 2 3) s = true ∧ blockOk s 64 48 16 = true ∧ atOnce s = true ∧ (s.s 2).toNat % 32 = 0 ∧ s.localRead 104 8 = p.1 ∧ p.1 % 2 = 0 ∧
      mapped s 0x1020 true (.hbm 0x1020) 0 false = true ∧ mapped s p.1 true (.hbm p.1) 0 false = true ∧
      (sameStack (.hbm 0x1020) (.hbm p.1) = true ↔ p.2 = true)) ∧
    (∀ p ∈ [(0, 0x1000, true), (0, 0x2000, false), (5, 0x1000, false)], p.1 = user.devidx.toNat ∧ (bankOf 0x1020).1 = (bankOf p.2.1).1 ↔ p.2.2 = true) := by decide

/-- FenceForms: with S, and without S, an access that the scope covers, one at this module's remote addresses, a PHWAIT since before
a trap, and none. -/
theorem witness_FenceForms :
    (∀ sw ∈ [true, false], let s := { user with now := { user.now with sw := sw } };
      ready (.fence 0) s = true ∧ s.inflight = [] ∧
      let u := flying s (.load 6) (.s 9) (.hbm 0x1000) .issued;
      ready (.fence 1) u = true ∧ (∃ a ∈ u.inflight, u.owns 0 0 a = true ∧ covers 0 1 a = true ∧ covers 0 0 a = false ∧
        covers 0 1 { a with place := .remote 0 0x1000 } = true ∧ covers 0 1 { a with place := .remote 5 0x1000 } = false) ∧
      let v := (flying s (.phwait 1) (.s 9) (.pad 0 512) .issued).modCur fun x => { x with inTrap := 1 };
      ready (.fence 0) v = true ∧ ∃ a ∈ v.inflight, v.owns 0 0 a = true ∧ covers 0 0 a = true ∧ a.trap < v.cur.inTrap) := by decide

/-- FenceForms, what waits: an access that a FENCE's scope covers, and one that it covers no more. -/
theorem witness_HeldBack :
    (∀ pl ∈ [Place.hbm 0x1000, .remote 5 0x1000], let s := (flying user (.load 6) (.s 9) pl .issued).modCur fun x => { x with fence := [(1, 10)] };
      holdable (.ld 1 2 6 0) = true ∧ s.interlocked (.ld 1 2 6 0) = false ∧ s.cur.mixreads = [] ∧ s.waitsPhase s.now.cell s.now.ctx = false ∧
        (s.heldBack (.ld 1 2 6 0) = true ↔ pl = .hbm 0x1000)) := by decide

/-- PhaseForms: an update that is refused, one that completes a phase and one that does not; the rows; this module's memory
before its reply, with one that accepts and one that rejects; a host window. -/
theorem witness_PhaseForms :
    (let w : PhaseWord := { arrTgt := 2, arrCnt := 1, byteTgt := 2 ^ 40 - 1, byteCnt := 2 ^ 40 - 1, gen := 2 ^ 15 - 1, err := false };
      (w.arrTgt < w.arrCnt + 2 ∨ w.byteTgt < w.byteCnt + 0) ∧ w.arrCnt + 1 = w.arrTgt ∧ w.byteCnt + 0 = w.byteTgt ∧ w.arrCnt + 0 ≤ w.arrTgt ∧
      w.arrTgt < 2 ^ 16 ∧ w.arrCnt < 2 ^ 16 ∧ w.byteTgt < 2 ^ 40 ∧ w.byteCnt < 2 ^ 40 ∧ w.gen < 2 ^ 15) ∧
    (let s := with2 user 2 5104 3 1;
      phasePlace s 1 5104 = some (.pad 0 5616) ∧ s.homeBusy (.pad 0 5616) = false ∧ s.placeBad (.pad 0 5616) = false ∧ s.reply? = none ∧ s.word? 512 = none ∧
      s.rowsHeld (.pad 0 5616) = false ∧ s.late.headD false = false ∧ s.inflight = [] ∧ Memory.wf s.pad = true ∧
      ∀ i ∈ [Instr.phinit 2 3 1, .pharr 2 1, .phadd 2 3 1, .phwait 9 2 3 1, .phread 9 2 1 1], ready i s = true) ∧
    (∀ l ∈ [[], [Answer.word 512 0x1000, .value 0 true], [.word 512 0x1000, .value 0 false]], let s := with2 (on 0 { task with answers := l }) 2 0x1000 3 1;
      (∀ i ∈ [Instr.phinit 2 3 0, .pharr 2 0, .phadd 2 3 0, .phwait 9 2 3 0, .phread 9 2 1 0], ready i s = true) ∧
      mapped s 0x1000 true (.hbm 0x1000) 0 false = true ∧ mapped s 0x1000 false (.hbm 0x1000) 0 false = true ∧
      s.kept (s.s 2).toNat = 0x1000 ∧ (s.reply? = none ∨ s.reply? = some (0, true) ∨ s.reply? = some (0, false))) ∧
    (let s := with2 (wide user) 2 (2 ^ 42 + 0x1000) 3 1;
      mapped s (2 ^ 42 + 0x1000) true (.host 0 0) 0 false = true ∧ ready (.phinit 2 3 0) s = true) := by decide

/-- TagForms: slot 255 valid, the line found in it, in none, and in an evicted slot. -/
theorem witness_TagForms :
    (let s := { with2 user 2 0x8080 3 0 with tags := [(4 * 256 + 255, { tag := 0x100, len := 2, valid := true }), (4 * 256 + 256, {})] };
      let tk := tagKey 0 s.cur;
      ready (.taglk 1 2) s = true ∧ tk = 4 ∧ (s.tagEntry tk 255).hasLine 0x101 = true ∧ (s.tagEntry tk 255).valid = true ∧
      ((List.range 255).all fun j => !((s.tagEntry tk j).hasLine 0x101 && (s.tagEntry tk j).valid)) = true) ∧
    ((List.range 256).all fun j => !(user.tagEntry 4 j).hasLine 0 && !(user.tagEntry 4 j).evicted) = true ∧
    (let s := { user with tags := [(4 * 256, { len := 1, evicted := true })] };
      ((List.range 256).all fun j => !(s.tagEntry 4 j).valid) = true ∧ (s.tagEntry 4 0).hasLine 0 = true ∧ (s.tagEntry 4 0).evicted = true) := by decide +kernel

/-- A transfer as its engine holds it. -/
def xfer0 : Transfer := { id := 3, cell := 0, token := 17, lcell := 4, launch := some 1, path := 0, base := 0, block := 0 }

/-- CopyForms: an empty engine and a full one; a block at the end of the rows, misaligned and outside. -/
theorem witness_CopyForms :
    (let s := with2 user 2 5056 3 5120;
      ready (.xfer 2) s = true ∧ s.transfers = [] ∧ blockOk s 5056 64 64 = true ∧ atOnce s = true ∧ ready (.xfer 2) { s with late := [true] } = true ∧ (5057 : Nat) % 64 ≠ 0 ∧ s.localOk 0 s.cur 5120 64 = false ∧
      ready (.xfern 1) s = true) ∧
    (let s := { user with transfers := List.replicate 64 xfer0 };
      ready (.xfer 2) s = true ∧ 64 ≤ (s.transfers.filter fun t => l1Key t.cell == l1Key s.now.cell).length) := by decide

/-- With no bad line in the scratchpads, no local byte lies on one. -/
theorem badLocal_of_nil {s : State} (h : s.badPad = []) (a n : Nat) : s.badLocal a n = none := by
  simp [State.badLocal, h]

/-- MessageForms: a class below 16, a payload above 4,096 bytes, a module out of reach, the own module and module 5; an inbox
with room and a full one. -/
theorem witness_MessageForms :
    (let s := with2 (wide user) 2 0 3 (2 ^ 32 * 4 + 5);
      (∀ i ∈ [Instr.send 2, .sendRel 2, .reply 2 3, .replyRel 2 3], ready i s = true) ∧ blockOk s 0 64 64 = true ∧ s.localRead 36 1 < 16 ∧
      (addressDst (s.s 3)).dev = 5 ∧ (addressDst (s.s 3)).dev < 320 ∧ s.reaches 5 = true ∧ s.dark 5 = false ∧ s.outFull = false ∧
      s.flowRoom s.cur.lcell.toNat 5 = true ∧ s.reaches 6 = false ∧ s.devidx.toNat = 0 ∧ atOnce s = true ∧
      (∀ i ∈ [Instr.send 2, .sendRel 2, .reply 2 3, .replyRel 2 3], ready i { s with late := [true] } = true)) ∧
    (let m : FlowMsg := { pkt := { Packet.none with cls := 16, ddev := 5, scell := 0 }, after := [10] };
      let s := { wide user with out := [], flows := [{ scell := 4, ddev := 5, buf := List.replicate 32 m, next := 32 }] };
      s.flowRoom 4 5 = false ∧ ({ s with flows := [{ scell := 4, ddev := 5, buf := List.replicate 31 m, next := 65535 }] } : State).flowRoom 4 5 = true) ∧
    (let s := owed (wide user) (.store 8 0) .none; s.pendingAccess 10 = true ∧ s.pendingAccess 11 = false ∧ s.flowRoom 4 5 = true) ∧
    (look? (wide core).l2p 4 = some (Config.systemBase + 1) ∧ kindOf (Config.systemBase + 1) = some .system ∧ look? (wide user).l2p 6 = none) ∧
    (let m : MxCmd := { id := 5, fc := 0, kind := .mma, token := 17, cell := 0, lcell := 4, launch := some 1 };
      ∀ n ∈ [4, 3], let s := { user with units := [(0, { cmds := List.replicate n m })] }; s.mxFull = decide (n = 4)) ∧
    (let s := rows (wide user) [(32, 0x1001001000000004), (40, 0x0000000000000040)];
      s.localRead 36 1 = 16 ∧ s.localRead 38 2 = 4097 ∧ (s.blockDst 0).dev = 0) ∧
    (let s := rows (wide user) [(32, 0x1000001000000004), (40, 0x0000000000000040)];
      s.localRead 36 1 = 16 ∧ s.localRead 38 2 = 4096 ∧ s.localRead 40 4 % 2 ^ 19 = 64 ∧ s.localOk 0 s.cur 64 4096 = true ∧ s.badPad = [] ∧ (s.blockDst 0).dev = 0) ∧
    sup.here.freeSlots = 64 ∧ ready (.sendlb 28) sup = true ∧
    (sup.v 28).toNat % 256 < 16 ∧ 16 ≤ ((sup.setV 28 0x10).v 28).toNat % 256 ∧
    (let s := sup.modHere fun c => { c with slots := (List.range 64).map fun i => (i, {}) }; s.here.freeSlots = 0) := by decide

/-! ### The hypotheses of the statements on units and system forms -/

/-- QueueAndMixForms: an own queue with no waiting push, groups 47 and 48, a packet at the end of the rows; each answer of a pop; a
pop with three others waiting; block 4,095 and 4,096; lists and values in the rows. -/
theorem witness_QueueAndMixForms :
    (let s := with2 depot 2 (47 * 256 + 255) 3 4976;
      (∀ i ∈ [Instr.gqcreate 2 3, .gqpush 9 2 3, .gqstat 9 2 3, .gqpop 9 2 3, .gqpopDrop 9 2 3], ready i s = true) ∧ atOnce s = true ∧
      (s.gqueue 0 255).waiting = [] ∧ (s.s 2).toNat / 2 ^ 8 % 2 ^ 6 < 48 ∧ s.rowsBusy 4976 144 = false ∧ s.localOk s.now.cell s.cur 4976 144 = true ∧ (4976 : Nat) % 16 = 0 ∧
      s.badPad = [] ∧ s.cur.answers = [] ∧ (s.gqueue 0 255).pops.length < 4 ∧ Memory.wf s.pad = true) ∧
    (let s := with2 depot 2 (48 * 256) 3 0; 48 ≤ (s.s 2).toNat / 2 ^ 8 % 2 ^ 6 ∧ ready (.gqpush 9 2 3) s = true) ∧
    (∀ l ∈ [[Answer.word 512 4976, .packet 0x503 (List.replicate 128 1)], [.word 512 4976, .value 0x503 false]], ∀ k ∈ [0, 1, 135],
      let s := with2 (on Config.depotBase { task with answers := l, stage := k }) 2 0 3 0; s.cur.answers = l ∧ s.kept 0 = 4976 ∧
        ready (.gqpop 9 2 3) s = true ∧ s.cur.stage < 136 ∧ s.late.headD false = false ∧ { s with late := [true] }.late.headD false = true) ∧
    (List.replicate 128 (1 : Byte)).length = 128 ∧
    (let s := (rows (with2 depot 2 4095 3 16) [(16, 0x0002000100000002)]).setGroup 0 { blocks := [(4095, { len := 512 })] };
      (∀ i ∈ [Instr.mixcfg 2 3, .mixjoin 2 3, .mixpeer 2 3, .mixadd 9 2 3, .mixtick 2, .mixread 9 2 3, .mixstat 9 2 3, .mixleave 2,
        .mixhold 2 3], ready i s = true) ∧ (s.s 2).toNat % 2 ^ 16 = 4095 ∧ s.issueLen 4095 = 512 ∧ s.localRead 16 2 = 2 ∧
      s.localOk s.now.cell s.cur 16 4 = true ∧ blockOk s 16 8 16 = true ∧ atOnce s = true ∧ s.localOk s.now.cell s.cur 16 2048 = true ∧ s.badPad = []) ∧
    (4096 : Nat) ≤ ((with2 depot 2 4096 3 0).s 2).toNat % 2 ^ 16 := by decide +kernel

/-- A command of the cell's queue. -/
def mx0 : MxCmd := { id := 5, fc := 0, kind := .mma, token := 17, cell := 0, lcell := 4, launch := some 1 }
def units (u : MxUnit) (s : State) : State := { s with units := [(0, u)] }

/-- MatrixForms: four commands and fewer; descriptors of operands by address and by slot; MSREC, MAR and MAW aligned and not; a
tile of another task and a free one, with a record and without; MREM's classes; a leased context and none. -/
theorem witness_MatrixForms :
    (let s := units { cmds := List.replicate 4 mx0 } user; s.mxFull = true ∧ ready (.mma 2) s = true) ∧
    (let s := with2 user 2 5088 3 4;
      s.mxFull = false ∧ atOnce s = true ∧ blockOk s 5088 32 32 = true ∧ blockOk s 5056 64 32 = true ∧
      let c := { s.mxCommand .mma with desc := s.localRead 5088 32 };
      (s.slotCheck c.ava c.swz).isOk = true ∧ (s.slotCheck c.bva c.swz).isOk = true ∧ (s.slotCheck (2 ^ 63 + 255) 0).isOk = true ∧
      (s.s 2).toNat % 64 ≠ 0 ∧ (64 : Nat) % 64 = 0) ∧
    (let s := with2 user 2 (2 ^ 16 * 124) 3 (2 ^ 16);
      (s.mx 0).waits = [] ∧ (s.mx 0).recs = [] ∧ ((s.mx 0).fmt 0).oty ≠ 3 ∧ (s.s 2).toNat / 2 ^ 16 % 2 ^ 7 % 4 = 0 ∧ (s.s 3).toNat / 2 ^ 16 % 2 ^ 7 % 4 ≠ 0 ∧
      s.tileTaken 0 0 17 = false ∧ look? (s.mx 0).samples 0 = none) ∧
    (let s := units { owners := [(7, 18)], samples := [(6, (0, 9, 10))], cmds := [{ mx0 with token := 18, started := true }] }
        (user.modCell 0 fun c => c.setCtx 1 { task with token := 18 });
      mx0.kind.tiled = true ∧ s.tileOwner 0 7 = some 18 ∧ s.tileOwner 0 6 = none ∧ (∀ e ∈ (s.mx 0).cmds, e.names 6 = false) ∧
      s.tileTaken 0 7 17 = true ∧ s.tileTaken 0 6 17 = false ∧ look? (s.mx 0).samples 6 = some (0, 9, 10)) ∧
    (let s := rows (with2 (wide user) 2 0 3 0) [(64, 5), (80, 16)];
      ready (.mrem 2 5) s = true ∧ atOnce s = true ∧ blockOk s 0 128 64 = true ∧ s.localRead 80 1 = 16 ∧ s.localRead 64 8 % 2 ^ 9 = 5 ∧ s.reaches 5 = true ∧
      s.outFull = false ∧ s.dark 5 = false ∧ s.flowRoom s.cur.lcell.toNat 5 = true ∧ user.localRead 80 1 < 16) ∧
    (let s := with2 core 2 0 3 63;
      s.leased (s.s 2) = some (0, 16) ∧ ({ s with sites := [(63, 4095)] } : State).leased (s.s 3) = none ∧ (s.mx 0).queue 16 = [] ∧
      ready (.mkey 2 3) s = true ∧ ready (.mcap 9 2) s = true) := by decide

/-- StageForms: the table off; loads to come and all answered; a running entry and none. -/
theorem witness_StageForms :
    (let s := with2 { core with l1 := [(l1Key core.now.cell, [⟨0, 30, 0xF⟩])] } 2 0x1000 3 (2 ^ 53 + 1);
      ready (.stgcfg 2 3) s = true ∧ (s.s 2).toNat % 16 = 0 ∧ cfgMode (s.s 3).toNat = 2 ∧ s.cur.stage = 0 ∧ (s.s 3).toNat % 256 = 1 ∧
      mapped s 0x1000 false (.hbm 0x1000) 0 false = true ∧ cfgMode (s.s 2).toNat = 0) ∧
    (let s := with2 (on (Config.systemBase + 1) { task with launch := none, sys := true, stage := 1, answers := [.word 512 (2 ^ 64 * (2 ^ 53 + 1) + 0x1000), .word 0 0] }) 2 0 3 0;
      ready (.stgcfg 2 3) s = true ∧ s.kept 0 = 2 ^ 64 * (2 ^ 53 + 1) + 0x1000 ∧ 1 ≤ s.cur.stage ∧ ((List.range 1).mapM s.word?) = some [0]) ∧
    (let s := { core with stage := { mode := 2, running := true, entries := [0] } };
      s.stage.running = true ∧ ((s.stage.outputs (s.s 2)).all fun m => s.stageRoom m.1 (s.stage.outputs (s.s 2)).length) = true ∧ core.stage.running = false ∧ ready (.stgdone 2) s = true) ∧
    (∀ i ∈ [Instr.stgtmpl 2 3, .stgsrec 2, .stgstat 9 2], ready i core = true) ∧ (64 : Nat) % 64 = 0 ∧ (65 : Nat) % 64 ≠ 0 := by decide

/-- TrapEntry, IllegalThenPriv and TrapForms: no result owed, one owed, one owed no more; a form of another cell, a system form in
user mode, a store behind a FENCE; ERET from a trap and from an UNBOUND one, with and without results owed. -/
theorem witness_TrapEntry :
    (user.ctx 0 0).stepping = false ∧ user.owedAtTrap 0 0 = false ∧ (owed user (.load 6) (.s 9)).owedAtTrap 0 0 = true ∧
    (let s := { on 0 { task with pendingTrap := some (causeTrap, 7) } with now := { cell := 0, ctx := 0, arg := { a := 0, b := 0 } } };
      s.now.arg.a = 0 ∧ s.now.arg.b = 0 ∧ (s.ctx 0 0).pendingTrap = some (causeTrap, 7) ∧ s.owedAtTrap 0 0 = false ∧ (s.ctx 0 0).stepping = false) ∧
    width (.mixtick 1) ≠ 0 ∧ user.decodeIllegal (.mixtick 1) = true ∧ user.decodeIllegal (.trap 1) = false ∧ privileged .eret = true ∧
    user.isSys = false ∧ user.decodeIllegal .eret = false ∧
    (let s := owed (on 0 { task with fence := [10] }) (.store 8 0) .none;
      s.heldBack (.st 1 2 6 0) = true ∧ s.decodeIllegal (.st 1 2 6 0) = false ∧ privileged (.st 1 2 6 0) = false) ∧
    (let s := on 0 { task with sys := true, inTrap := 1, trapstate := 3 }; ready .eret s = true ∧ bit s.cur.trapstate.toNat 3 = false) ∧
    (let s := { on 0 {} with cells := [(0, Cell.setCtx { unbound := some 63, slots := [(63, { chan := 2 })] } 3 { busy := true, sys := true, trapstate := BitVec.ofNat 64 (8 + 2 ^ 16 * 63) })]
                             now := { cell := 0, ctx := 3 } };
      ready .eret s = true ∧ bit s.cur.trapstate.toNat 3 = true ∧ s.owed 0 3 = false ∧ look? s.here.slots 63 = some { chan := 2 } ∧ s.here.unbound = some 63 ∧
      (owed s (.load 6) (.s 9)).owed 0 3 = true) := by decide

/-- CellForms and ModuleForms: a target that exists and none, an odd halfword, classes 15 and 16, a slot with a message and none;
slices 47 and 48, key index 0 and another, a record of a launch, a table with room and a full one. -/
theorem witness_CellForms :
    (let s := with2 sup 2 (2 ^ 63 + 0x3FFE) 3 (2 ^ 32 * 0x8400 + 15);
      (∀ i ∈ [Instr.codew 2 3, .rtset 2 3, .inbhead 9 2, .inbrd 9 2 3, .inbfree 2 3], ready i s = true) ∧ (s.s 2).toNat % 2 ^ 14 % 2 = 0 ∧
      s.targetCell (s.s 2) = some 0 ∧ s.targetCell (s.s 3) = none ∧ (s.s 3).toNat % 2 ^ 14 % 2 = 1 ∧ (s.s 3).toNat % 256 < 16 ∧ 16 ≤ (s.s 2).toNat % 256 ∧
      look? s.here.slots 62 = none) ∧
    (let s := sup.modHere fun c => { c with slots := [(63, {})], queue := [(7, [63])] }; look? s.here.slots 63 = some {} ∧ look [] s.here.queue 7 = [63]) ∧
    (let s := with2 core 2 47 3 4096;
      (∀ i ∈ [Instr.fbstat 9 2, .fbread 9 2 3, .fbclr 2 3, .replayall 2, .tlbinv 2 3, .sgload 2 3, .keyw 2 3, .preempt 2 3, .ctxrest 9 2,
        .bncset 9 2 3, .bncclr 2], ready i s = true) ∧ (s.s 2).toNat % 256 < 48 ∧ 48 ≤ ((with2 core 2 48 3 0).s 2).toNat % 256 ∧
      blockOk s 4096 64 64 = true ∧ (s.s 2).toNat % 64 ≠ 0 ∧ (s.s 3).toNat % 64 = 0 ∧ (s.s 3).toNat % 4096 = 0 ∧ (s.s 2).toNat % 4096 ≠ 0 ∧
      look? s.bounce 47 = none ∧ s.bounce.length < 256) ∧
    (let s := { core with bounce := (List.range 256).map fun i => (i, 0) }; look? s.bounce 255 = some 0 ∧ look? s.bounce 256 = none ∧ 256 ≤ s.bounce.length) := by decide +kernel

/-- ControlForms: a running cell with no save in progress, a halted one, an item of it and none; a compute cell and no cell. -/
theorem witness_ControlForms :
    (let s := on 0 task; kindOf 0 ≠ some .system ∧ (s.cell 0).halted = false ∧ ([0, 1, 2, 3].all fun k => !((s.cell 0).ctx k).saving) = true) ∧
    (let s := (with2 core 2 (2 ^ 17 * 3 + 0x83FF) 3 31).modCell 0x83FF fun c => { c with halted := true };
      (∀ i ∈ [Instr.halt, .resume, .dbgrd 9 2 3, .dbgwr 2 3, .dbgstep 2, .opset 9 2 3, .rowq 9 2 3], ready i s = true) ∧
      ((on 0 { task with stage := 1025 }).cell 0).mid = true ∧ ((on 0 task).cell 0).mid = false ∧ ((on 0 { task with saving := true, storing := some ({ id := 12, area := 0, body := 0, task := {}, pos := 0 } : Storing) }).cell 0).mid = true ∧
      (s.debugItem (s.s 2).toNat 31).isSome = true ∧ s.debugItem (s.s 2).toNat 32 = none ∧ kindOf ((s.s 2).toNat % 2 ^ 17) ≠ none ∧
      (s.cell ((s.s 2).toNat % 2 ^ 17)).halted = true) ∧
    (let s := with2 core 2 (2 ^ 32 * 0x83FF + 2 ^ 62) 3 (2 ^ 32 * 0x8400); s.opTarget (s.s 2) = some 0x83FF ∧ s.opTarget (s.s 3) = none) := by decide

/-! ### The hypotheses of the statements on events -/

/-- The state with an event's arguments. -/
def ev (s : State) (arg : EventArg) : State := { s with now := { s.now with arg := arg } }

/-- The module with page tables: the first 1 GiB of every address below 2^39 is mapped to itself. -/
def paged (s : State) : State :=
  { s with xroot := 0x8000, hbm := [(0x8000, 0x01), (0x8001, 0x90), (0x9000, 0x01), (0x9001, 0xA0), (0xA000, 0x0F)] }

/-- Global bytes written before the event. -/
def bytes (s : State) (l : List (Nat × Nat × Nat)) : State := l.foldl (fun s e => s.hbmWrite 0 e.1 e.2.1 e.2.2) s

/-- A message of the launch, and a post of it to logical cell 4. -/
def msg : Msg := { cls := 16, launch := 1, dest := 4 }
def post0 : Post := { msg := msg, target := .logical 4, placed := true }

/-- A cell 0 with routines of classes 16 (bound) and 17 (strict, not bound), and some inbox slots taken. -/
def inbox (x : Ctx) (slots : List (Nat × Msg)) (queue : List (Nat × List Nat)) : State :=
  (on 0 x).modCell 0 fun c => { c with slots := slots, queue := queue, routines := [(16, { entry := 0x40, chan := 2, bound := true }), (17, { chan := 3, strict := true })] }

/-- TaskDeliveryEvents, delivery: 59 slots taken and 63 for a SENDLB; a held post without a payload and one whose payload ends the
rows; a store to rows that are away with room in the ring. -/
theorem witness_Delivery :
    (∀ q ∈ [(post0, 59), ({ post0 with msg := { msg with lb := true } }, 63)],
      let s := ev { inbox {} ((List.range q.2).map fun i => (i, {})) [] with posts := [q.1] } { a := 0, b := 0 };
      s.posts[0]? = some q.1 ∧ s.pathClear 0 q.1 = true ∧ q.1.gate = .clear ∧ s.destCell q.1.target = some 0 ∧ q.1.placed = true ∧
      s.detReady 0 q.1 = true ∧ (s.cell 0).slots.length + (if q.1.msg.lb then 1 else 5) = 64 ∧ look? (s.cell 0).slots q.2 = none ∧
      (∀ j < q.2, look? (s.cell 0).slots j ≠ none)) ∧
    (∀ l ∈ [[], List.replicate 16 (0xAB : Byte)],
      let p : Post := { post0 with held := true, placed := l.isEmpty, payload := l, msg := { msg with payaddr := 5104 } };
      let s := ev { user with posts := [p] } { a := 0 };
      s.posts[0]? = some p ∧ s.destCell p.target ≠ none ∧ s.pathClear 0 p = true ∧ (l = [] → p.placed = true) ∧
      (l ≠ [] → p.placed = false ∧ look? s.l2p 4 = some 0 ∧ (s.cell 0).evac = none ∧ s.payloadOk 4 p.msg.payaddr.toNat p.payload.length = true ∧
        look? s.bounce 4 = none)) ∧
    (let s := flying { bytes (paged user) [(0x1010, 8, 8)] with bounce := [(5, 0x1000)] } (.store 8 7) .none (.away 5 false 0) .issued;
      ∃ x ∈ s.inflight, s.access x.id = some x ∧ x.place = .away 5 false 0 ∧ x.phase = .issued ∧ x.op = .store 8 7 ∧ s.homeTurn x = true ∧
        (look? s.bounce 5).any s.ringAway = false ∧ (s.bounceWrite 5 false 0 (toBytes 8 7)).isSome = true) := by decide +kernel

/-- R216 and R317 within a module: two messages of round 0 wait for its end, and the one of the smaller logical cell goes first
though it was posted last. -/
theorem test_det_window :
    let p (c i : Nat) : Post := { post0 with det := some (0, c, i, 0) };
    let s := { user with posts := [p 9 1, p 4 2] }; let u := { s with rounds := { started := true } };
    s.detReady 1 (p 4 2) = false ∧ u.detReady 1 (p 4 2) = true ∧ u.detReady 0 (p 9 1) = false := by decide

/-- TaskDeliveryEvents, starts: a restored record; a head of a bound class; an aged channel; a head behind another of its flow; the
deque's bottom. -/
theorem witness_Dispatch :
    (let s := { inbox task [(1, msg), (2, msg)] [(2, [1]), (5, [2])] with unstarted := [(9, [6]), (1, [7, 6])] };
      s.unstarted = [(9, [6])] ++ (0 * 64 + 1, [7, 6]) :: [] ∧ Cell.head s (s.cell 0) 2 = some (some 1, msg) ∧ (s.cell 0).deque = [] ∧ look [] (s.cell 0).queue 5 = [2] ∧ look [] (s.cell 0).queue 6 = []) ∧
    ([4095, 4096].all fun n => (BitVec.ofNat 13 n).toNat == n) = true ∧
    (let s := (inbox task [] []).modCell 0 fun c => { c with deque := [post0] };
      (s.cell 0).deque = [post0] ∧ post0.gate = .clear ∧ post0.after.any s.pendingAccess = false ∧ ((s.cell 0).routine 16).chan.toNat = 2) ∧
    (let s := ev { on 0 { busy := false } with restores := [{ va := 0x3000, image := 4 * 2 ^ 64 }] } { a := 0 };
      (match s.bounceStep 4 with | .got _ _ => true | _ => false) = true ∧ (s.cell 0).still = false ∧ (s.ctx 0 0).busy = false ∧ (s.nextRestore 0).isSome = true ∧ ∀ j < 3, (s.goOnRestoring 0 j).isNone = true) ∧
    (let s := ev (on 0 { task with again := [(0, [])] }) { a := 0 };
      (s.cell 0).still = false ∧ (s.goOnRestoring 0 0).isSome = true) ∧
    (let s := ev (paged (inbox task [(63, msg)] [(2, [63])])) { a := 0 };
      (s.cell 0).still = false ∧ (s.ctx 0 0).busy = true ∧ (s.ctx 0 1).busy = false ∧ s.nextRestore 0 = none ∧ (∀ j < 3, (s.goOnRestoring 0 j).isNone = true) ∧ (s.cell 0).deque = [] ∧
      s.doomed 0 msg = false ∧ s.pick 0 = some 2 ∧ Cell.head s (s.cell 0) 2 = some (some 63, msg) ∧
      ∀ c < 8, c ≠ 2 → Cell.head s (s.cell 0) c = none) := by decide

/-- TaskDeliveryEvents, context 3's own starts: 56 slots taken; a strict head; a strict deque's bottom. -/
theorem witness_Overflow :
    (let s := ev (inbox task ((List.range 56).map fun i => (i, {})) []) { a := 0 };
      56 ≤ (s.cell 0).slots.length ∧ (s.cell 0).still = false ∧ (s.ctx 0 3).busy = false) ∧
    (let s := ev (paged (inbox task [(63, { msg with cls := 17 })] [(3, [63])])) { a := 0 };
      s.strictHead 0 = some (3, 63, { msg with cls := 17 }) ∧ (s.cell 0).still = false ∧ (s.ctx 0 3).busy = false) ∧
    (let s := ev ((paged (inbox task [] [])).modCell 0 fun c => { c with deque := [{ post0 with msg := { msg with cls := 17 } }] }) { a := 0 };
      s.strictHead 0 = none ∧ s.strictBottom 0 = some (0, { msg with cls := 17, chan := 3 }) ∧ (s.cell 0).still = false ∧ (s.ctx 0 3).busy = false) := by decide

/-- EndingAndRecordEvents, records: LIVE 0, 1 and more, with a ticket; LIVE 0 in a launch whose PHASE has flipped; the last subtraction with a parent; a child's end; a close. -/
theorem witness_Records :
    (∀ q ∈ [(RecOp.liveAdd 0x40000 7, 0), (.liveAdd 0x40000 7, 1), (.liveSub 0x40000, 2), (.liveSub 0x40000, 1)],
      let s := ev { bytes (paged user) [(0x40000, 16, freshPhase.toNat), (0x40010, 4, q.2), (0x40028, 8, 0x50000)] with records := [q.1] } { a := 0 };
      s.recordTurn 0 0x40000 = true ∧ s.records[0]? = some q.1 ∧
      let s0 : State := { s with records := [] };
      s0.vaRead 0x40010 4 = some q.2 ∧ (s0.vaWrite 0x40010 4 1).isSome = true ∧ (s0.vaRead 0x40000 16).isSome = true ∧
        s0.vaRead 0x40028 8 = some 0x50000 ∧ (freshPhase.update 1 0).isSome = true ∧ s0.vaRead 0x40000 16 = some freshPhase.toNat) ∧
    (let s := ev { bytes (paged user) [(0x40000, 16, { freshPhase with gen := 1 }.toNat), (0x40010, 4, 0)] with records := [.liveAdd 0x40000 7] } { a := 0 };
      s.recordTurn 0 0x40000 = true ∧ ({ s with records := [] } : State).vaRead 0x40010 4 = some 0 ∧
        (({ s with records := [] } : State).vaRead 0x40000 16).map (PhaseWord.gen ∘ PhaseWord.ofNat) = some 1) ∧
    (∀ o ∈ [RecOp.joinChild 0x6000 4095 9 true 0, .joinClose 0x6000 4096 0], let s := ev { paged user with records := [o] } { a := 0 };
      s.recordTurn 0 0x6000 = true ∧ s.records[0]? = some o ∧ (s.vaRead 0x6000 8).isSome = true ∧
        (s.vaWrite (0x6010 + 8 * 4095) 8 9).isSome = true ∧ (s.vaWrite 0x6000 8 4096).isSome = true) := by decide +kernel

/-- Page tables as `paged` has them, and the second 1 GiB in module 5's memory. -/
def pagedAway (s : State) : State :=
  { paged s with partition := some [5], hbm := [(0x8000, 0x01), (0x8001, 0x90), (0x9000, 0x01), (0x9001, 0xA0), (0xA000, 0x0F), (0xA008, 0x0F), (0xA00D, 0x14), (0xA00E, 0x08)] }

/-- ModuleForms, BNCCLR, and TaskDeliveryEvents, BOUNCE_RECEIVE and DISPATCH: a ring in this module and one in another, whose header is
to be read, with an entry to apply or room for one, and, when there is none, no room. -/
theorem witness_RingAway :
    (∀ q ∈ [(0x1000, false), (0x40001000, true)], let s := with2 { pagedAway core with bounce := [(47, q.1)] } 2 47 3 0;
      ready (.bncclr 2) s = true ∧ s.kept 47 = 47 ∧ look? s.bounce 47 = some q.1 ∧ s.ringAway q.1 = q.2 ∧ s.word? 512 = none) ∧
    (let s := { pagedAway core with bounce := [(47, 0x40001000)] };
      (match s.applyAway 47 0x40001000 with | .wait (some _) => true | _ => false) = true ∧
      (match s.bounceStep 47 with | .wait (some _) => true | _ => false) = true ∧
      ((s.bounceAway 47 false 0 [1]).map Prod.snd) = some 0) ∧
    (let head (va n : Nat) : Access := { user.owing (.vload 0 8 0xFF) .none with va := va, place := .remote 5 0x1000, phase := .done n 0, unit := some 9 };
      ∀ t ∈ [0, 1], let s := { pagedAway core with bounce := [(47, 0x40001000)], ringWork := [(47, 9)], inflight := [head 0x40001000 t, head 0x40001008 1, head 0x40001010 9] };
        (match s.applyAway 47 0x40001000 with | .got _ _ => t == 1 | .wait (some _) => t == 0 | _ => false) = true ∧
        ((s.bounceAway 47 false 0 [1]).map Prod.snd) = some 1) := by decide +kernel

/-- ModuleForms, CTXREST: a record of this module and one of another module; one of its words read, and COMMIT set to 0; and
EndingAndRecordEvents: a save area in another module. -/
theorem witness_RecordAway :
    (∀ q ∈ [(0x3000, false), (0x40003000, true)], let s := with2 (pagedAway core) 2 q.1 3 0;
      ready (.ctxrest 9 2) s = true ∧ s.word? 513 = none ∧ s.kept (s.s 2).toNat = (s.s 2).toNat ∧ (s.s 2).toNat % 4096 = 0 ∧ s.away q.1 = q.2) ∧
    (let s := ({ bytes (pagedAway core) [(0x3000, 8, 1)] with nextId := 9 } : State).modCur fun y => { y with answers := [.word 512 0x3000, .word 513 7] };
      let j : Job' := ⟨7, l1Key s.now.cell, s.now.cell, s.cur.lcell.toNat, none⟩;
      ready (.ctxrest 9 2) s = true ∧ s.word? 513 = some 7 ∧ s.kept (s.s 2).toNat = 0x3000 ∧
      (match s.unitRead j 0x3000 8 with | .got v _ => v == 1 | _ => false) = true ∧
      (match s.unitUpdate j 0x3000 (.amo 0 8 0 0) with | .got v _ => v == 1 | _ => false) = true) ∧
    (let s := ev (bytes (pagedAway (on 0 { task with saving := true, level := 0x200000 })) [(0x200020, 8, 0x40000000)]) { a := 0, b := 0 };
      (s.ctx 0 0).busy = true ∧ s.saveReady 0 0 = true ∧ s.areaAway (s.ctx 0 0).level.toNat = some 0x40000000) := by decide +kernel

/-- EndingAndRecordEvents, endings: a cancelled record; DLINE 0 with a cancellation and with a pre-emption; a save with a record to
write and none; an access of a save of another module's area that failed, is on its way, was the last; a killed task with its message and without. -/
theorem witness_Endings :
    { user with cancels := [0x40000] }.cancels = 0x40000 :: [] ∧
    (∀ q ∈ [(2 : BitVec 2), 3, 1], let s := ev (on 0 { task with prq := q, dline := 0 }) { a := 0, b := 0 };
      let x := s.ctx 0 0;
      x.busy = true ∧ x.prq ≠ 0 ∧ x.dline = 0 ∧ x.ending = false ∧ x.saving = false ∧ (s.cell 0).still = false ∧ s.sysMode 0 0 = false ∧
      (bit x.prq.toNat 1 = true ↔ q ≠ 1)) ∧
    (let s := ev (on 0 { task with saving := true }) { a := 0, b := 0 };
      (s.ctx 0 0).busy = true ∧ s.saveReady 0 0 = true ∧ s.areaAway (s.ctx 0 0).level.toNat = none ∧ (s.writeRecord 0 0 (s.pendEntries 0 0).1 (s.pendEntries 0 0).2).isSome = false) ∧
    (∀ q ∈ [(Phase.failed 4, 3), (.issued, 3), (.done 0 0, 515)],
      let st : Storing := { id := 12, area := 0x300000, body := 0, task := {}, pos := q.2 };
      let s := ev ((on 0 { task with saving := true, storing := some st }).launched
        { user.owing (.store 8 0) .none with unit := some 12, phase := q.1 }) { a := 0, b := 0 };
      (s.ctx 0 0).busy = true ∧ (s.ctx 0 0).storing = some st ∧ (s.unitFailed 12 = none ↔ q.1 ≠ .failed 4) ∧ (s.unitOpen 12 = true ↔ q.1 = .issued)) ∧
    (on 0 { task with retained := some msg }).ctx 0 0 = { task with retained := some msg } ∧ user.ctx 0 0 = task ∧ task.retained = none ∧ task.busy = true := by decide

/-- Reads below a write see what was there. -/
theorem hbmRead_below {s u : State} {a n : Nat} (h : ∀ b, b < a + n → Memory.get u.hbm b = Memory.get s.hbm b) :
    u.hbmRead 0 a n = s.hbmRead 0 a n := by
  induction n generalizing a with
  | zero => rfl
  | succ n ih =>
    simp only [State.hbmRead, State.hbmByte, ↓reduceIte]
    rw [h a (by omega), ih fun b hb => h b (by omega)]

/-- What a write of plain bytes without a checkpoint changes: no byte below, not the root of translation, and no check value. -/
theorem hbmWriteMasked_below {s : State} (a mask n x : Nat) (hw : Memory.wf s.hbm = true) (hc : s.cut.active = false) :
    (s.hbmWriteMasked 0 a mask n x).xroot = s.xroot ∧ (s.hbmWriteMasked 0 a mask n x).badHbm = s.badHbm ∧
      ∀ b, b < a → Memory.get (s.hbmWriteMasked 0 a mask n x).hbm b = Memory.get s.hbm b := by
  induction n generalizing s a mask x with
  | zero => exact ⟨rfl, rfl, fun _ _ => rfl⟩
  | succ n ih =>
    have one : ∀ v : Byte, (s.hbmSetByte 0 a v).xroot = s.xroot ∧ (s.hbmSetByte 0 a v).cut = s.cut ∧
        (s.hbmSetByte 0 a v).hbm = Memory.set s.hbm a v ∧ (s.hbmSetByte 0 a v).badHbm = s.badHbm := by
      intro v
      simp only [State.hbmSetByte, State.touchLine, State.protectedLine, hc, Bool.false_and, Bool.false_eq_true, ↓reduceIte]
      split <;> exact ⟨rfl, rfl, rfl, rfl⟩
    simp only [State.hbmWriteMasked]
    split
    · obtain ⟨h1, h2, h3, h4⟩ := one (BitVec.ofNat 8 x)
      have := @ih (s.hbmSetByte 0 a (BitVec.ofNat 8 x)) (a + 1) (mask / 2) (x / 256) (by rw [h3]; exact Memory.wf_set _ _ hw) (by rw [h2, hc])
      refine ⟨this.1.trans h1, this.2.1.trans h4, fun b hb => ?_⟩
      rw [this.2.2 b (by omega), h3, Memory.get_set _ _ _ hw, if_neg (by omega)]
    · have := @ih s (a + 1) (mask / 2) (x / 256) hw hc
      exact ⟨this.1, this.2.1, fun b hb => this.2.2 b (by omega)⟩

/-- A page of the first 1 GiB can be written by the module itself in any state that keeps the page tables of `paged`. -/
theorem vaWrite_paged {u : State} (va n x : Nat) (hv : va < 2 ^ 30) (hx : u.xroot = 0x8000) (hb : u.badHbm = [])
    (h : ∀ b, b < 0xB000 → Memory.get u.hbm b = Memory.get (paged user).hbm b) : u.vaWrite va n x = some (u.hbmWrite 0 va n x) := by
  have r1 : u.hbmRead 0 0x8000 8 = 0x9001 := (hbmRead_below fun b hb => h b (by omega)).trans (by decide)
  have r2 : u.hbmRead 0 0x9000 8 = 0xA001 := (hbmRead_below fun b hb => h b (by omega)).trans (by decide)
  have r3 : u.hbmRead 0 0xA000 8 = 0xF := (hbmRead_below fun b hb => h b (by omega)).trans (by decide)
  have w : u.walk va = .leaf 18 15 := by
    have b1 : bits va 48 12 = 0 := by simp only [bits]; omega
    have b2 : bits va 39 9 = 0 := by simp only [bits]; omega
    have b3 : bits va 30 9 = 0 := by simp only [bits]; omega
    have f : pteValid 0x9001 = true ∧ pteMalformed 1 0x9001 = false ∧ pteFrame 0x9001 = 0x9000 ∧ pteValid 0xA001 = true ∧
        pteMalformed 2 0xA001 = false ∧ pteFrame 0xA001 = 0xA000 ∧ pteValid 0xF = true ∧ pteMalformed 3 0xF = false ∧ pteLeaf 0xF = true ∧
        pteContig 0xF = 0 := by decide
    obtain ⟨f1, f2, f3, f4, f5, f6, f7, f8, f9, f10⟩ := f
    simp [State.walk, State.walkFrom, hx, hb, r1, r2, r3, b1, b2, b3, f1, f2, f3, f4, f5, f6, f7, f8, f9, f10, leafSize]
  have l : leafPa 18 15 va = va := by simp [leafPa, pteFrame, bits]; omega
  have p : va < Config.hbmBytes := by simp only [Config.hbmBytes]; omega
  simp [State.vaWrite, State.engineHbm, State.engineHome, State.engine, State.walked, State.locate, State.denied, State.homeOf, w, l, p, pteWrite, pteSys, bit, show ¬ 1152921504606846976 ≤ va by omega, show pteKey 15 = 0 by decide]

/-- The same for a whole write. -/
theorem hbmWrite_below {s : State} (a n x : Nat) (hw : Memory.wf s.hbm = true) (hc : s.cut.active = false) :
    (s.hbmWrite 0 a n x).xroot = s.xroot ∧ ∀ b, b < a → Memory.get (s.hbmWrite 0 a n x).hbm b = Memory.get s.hbm b :=
  have h := hbmWriteMasked_below a (2 ^ n - 1) n x hw hc
  ⟨h.1, h.2.2⟩

/-- With no bad line a write leaves none. -/
theorem hbmWrite_good {s : State} (a n x : Nat) (hw : Memory.wf s.hbm = true) (hc : s.cut.active = false) (hb : s.badHbm = []) :
    (s.hbmWrite 0 a n x).badHbm = [] := by
  have h := (hbmWriteMasked_below a (2 ^ n - 1) n x hw hc).2.1
  simp [State.hbmWrite, State.hbmStore, h, hb, healed]

/-- A task to be saved, with its level record's save area at 3 MiB: two records' worth of header. -/
def saver : State := paged (on 0 { task with saving := true, level := 0x200000 })
def saver1 : State := saver.hbmWrite 0 0x200020 8 0x300000
def saver2 : State := saver1.hbmWrite 0 0x300000 8 1
def saver3 : State := saver2.hbmWrite 0 0x300008 8 1

set_option maxRecDepth 20000
theorem saver_ok : Memory.wf saver.hbm = true ∧ saver.cut.active = false ∧ Memory.wf saver1.hbm = true ∧ saver1.cut.active = false ∧
    Memory.wf saver2.hbm = true ∧ saver2.cut.active = false ∧ Memory.wf saver3.hbm = true ∧ saver3.cut.active = false := by decide
theorem saver_root : saver2.xroot = 0x8000 ∧ saver3.xroot = 0x8000 ∧ saver2.badHbm = [] ∧ saver3.badHbm = [] := by decide
theorem saver_low2 (b : Nat) (hb : b < 0xB000) : Memory.get saver2.hbm b = Memory.get (paged user).hbm b := by
  have h := saver_ok
  exact ((hbmWrite_below 0x300000 8 1 h.2.2.1 h.2.2.2.1).2 b (by omega)).trans
    ((hbmWrite_below 0x200020 8 0x300000 h.1 h.2.1).2 b (by omega))
theorem saver_low3 (b : Nat) (hb : b < 0xB000) : Memory.get saver3.hbm b = Memory.get (paged user).hbm b :=
  ((hbmWrite_below 0x300008 8 1 saver_ok.2.2.2.2.1 saver_ok.2.2.2.2.2.1).2 b (by omega)).trans (saver_low2 b hb)
theorem saver_area : saver2.vaRead 0x200020 8 = some 0x300000 ∧ (saver2.engineHome 0x300000 false).isSome = true ∧ saver2.vaRead 0x300000 4 = some 1 ∧
    saver2.vaRead 0x300008 8 = some 0 ∧ (saver2.ctx 0 0).level = 0x200000 := by decide

/-- A save area's header on a good line. -/
theorem areaLine_good {s : State} {va : Nat} (x : Ctx) (h : (s.engineHome va false).isSome = true) (hb : s.badHbm = []) :
    s.areaLine x va = some s := by
  unfold State.areaLine
  revert h; cases s.engineHome va false <;> simp [hb]

/-- A save's record, when the area and the free record can be read and written. -/
theorem writeRecord_of {s s1 s2 s3 : State} {n k : Nat} {pend : List PendEntry} {pc : CodeAddr} {area j nrec : Nat}
    (h1 : s.vaRead ((s.ctx n k).level.toNat + 32) 8 = some area) (h2 : area % 4096 = 0) (h3 : s.areaLine (s.ctx n k) area = some s)
    (h4 : s.vaRead area 4 = some nrec) (h5 : s.vaRead (area + 8) 8 = some j) (h6 : j < nrec) (h7 : s.vaWrite (area + 8) 8 (j + 1) = some s1)
    (h8 : s1.vaWrite (area + 4096 * (j + 1)) 4096 ((s.ctx n k).record k pc.toNat pend) = some s2)
    (h9 : s2.vaWrite (area + 4096 * (j + 1)) 8 (1 + 2 ^ 32 * (j % 2 ^ 32)) = some s3) :
    s.writeRecord n k pend pc = some (area + 4096 * (j + 1), s3) := by
  simp only [State.writeRecord, State.allocRecord, h1, Option.bind_eq_bind, Option.bind_some, h2, h3, h4, h5, h7]
  simp [Nat.not_le.mpr h6, h8]
  simp only [show (4294967296 : Nat) = 2 ^ 32 from rfl, h9, Option.bind_some]

/-- EndingAndRecordEvents: a save with a free record. -/
theorem witness_SaveWithRecord :
    ((ev saver2 { a := 0, b := 0 }).ctx 0 0).busy = true ∧ saver2.saveReady 0 0 = true ∧
      ∃ e, saver2.writeRecord 0 0 (saver2.pendEntries 0 0).1 (saver2.pendEntries 0 0).2 = some e := by
  refine ⟨by decide, by decide, ?_⟩
  obtain ⟨a1, a2, a3, a4, a5⟩ := saver_area
  obtain ⟨_, _, _, _, _, _, hw, hc⟩ := saver_ok
  have w1 : saver2.vaWrite 0x300008 8 1 = some saver3 := vaWrite_paged 0x300008 8 1 (by decide) saver_root.1 saver_root.2.2.1 saver_low2
  have w2 := vaWrite_paged (u := saver3) 0x301000 4096 ((saver2.ctx 0 0).record 0 (saver2.pendEntries 0 0).2.toNat (saver2.pendEntries 0 0).1)
    (by decide) saver_root.2.1 saver_root.2.2.2 saver_low3
  have w3 := vaWrite_paged (u := saver3.hbmWrite 0 0x301000 4096 ((saver2.ctx 0 0).record 0 (saver2.pendEntries 0 0).2.toNat (saver2.pendEntries 0 0).1))
    0x301000 8 1 (by decide)
    (by rw [(hbmWrite_below 0x301000 4096 _ hw hc).1, saver_root.2.1])
    (hbmWrite_good 0x301000 4096 _ hw hc saver_root.2.2.2)
    (fun b hlt => by rw [(hbmWrite_below 0x301000 4096 _ hw hc).2 b (by omega), saver_low3 b hlt])
  exact ⟨_, writeRecord_of (area := 0x300000) (j := 0) (nrec := 1) (by rw [a5]; exact a1) rfl (areaLine_good _ a2 saver_root.2.2.1) a3 a4 (by decide) w1 w2 w3⟩
set_option maxRecDepth 512

/-- PlacementEvents: a walk with a cell that takes the task in the cluster, a hop in x and in y, the hint with a queue; a thief that is
idle, its victim without and with a task, a backoff; a follower whose leader has come to its address. -/
theorem witness_PlacementEvents :
    (∀ q ∈ [(0, 0, 0, 0, 1), (5, 3, 5, 3, 0), (5, 3, 4, 3, 0), (5, 3, 5, 4, 0)], let p : Post := { post0 with target := .near q.1 q.2.1 q.2.2.1 q.2.2.2.1 q.2.2.2.2 };
      let s := ev { paged user with posts := [p] } { a := 0 };
      s.posts[0]? = some p ∧ p.gate = .clear ∧ s.pathClear 0 p = true ∧
      (if q.1 = 0 then s.nearCell 0 0 1 = some (0, 4) else s.nearCell q.1 q.2.1 1 = none ∧ (look [] s.near (64 * q.2.1 + q.1)).length < 32)) ∧
    (let p := { post0 with target := .near 0 0 0 0 1 }; let s := ev { paged user with near := [(0, [{ p with msg := { msg with launch := 2 } }, p])] } { a := 0 };
      s.clusterXY 0 = (0, 0) ∧ (look [] s.near 0)[1]? = some p ∧ s.nearFit 0 1 = some 4 ∧ s.nearFit 0 2 = none) ∧
    (let s := ev (paged user) { a := 0, b := 0 };
      (s.cell 0).hosted[0]? = some ⟨4, 1, 4, 40, 0x10, 100, [20]⟩ ∧ (s.cell 0).still = false ∧ (s.cell 0).steal.asked = none ∧ (s.cell 0).steal.waiting = false ∧
      (s.ctx 0 1).busy = false ∧ s.noneEligible 0 = true) ∧
    (let s := ev ((paged user).modCell 0 fun c => { c with steal := { asked := some 9 } }) { a := 0 };
      (s.cell 0).steal.asked = some 9 ∧ look? s.l2p 9 = none) ∧
    (let s := ev ((paged { user with l2p := [(4, 0), (9, 1)] }).modCell 0 fun c => { c with steal := { asked := some 9, launch := 1 } }) { a := 0 };
      let s := s.modCell 1 fun c => { c with deque := [{ post0 with placed := false }, post0] };
      look? s.l2p 9 = some 1 ∧ (1 : Nat) ≠ 0 ∧ post0.msg.launch.toNat = (s.cell 0).steal.launch ∧ (s.cell 1).deque.getLast? = some post0 ∧ ((s.cell 0).hosted.find? (·.launch == 1)).isSome = true ∧ post0.gate = .clear ∧
      post0.after = [] ∧ s.doomed 1 post0.msg = false) ∧
    (user.modCell 0 fun c => { c with steal := { waiting := true, backoff := 4096 } }).here.steal.waiting = true ∧
    (let s := ev (on 1 { task with wait := .follow 0x3FFF, following := true }) { a := 1, b := 0 };
      (s.ctx 1 0).wait = .follow 0x3FFF ∧ (s.ctx 1 0).following = true) := by decide

/-- The access of identity 10 that `flying` makes. -/
def acc (s : State) : Option Access := s.access 10

/-- AccessAndMissEvents, homes: a load, an update and a wait whose generation differs, each first at its home; the same generation; a
store to a line that a checkpoint protects. -/
theorem witness_Homes :
    (∀ q ∈ [(AccOp.load 6, 0), (.pharr, 1), (.phadd 5, 1), (.phwait 1, 2), (.phwait 0, 2)],
      let s := ev (flying user q.1 (.s 9) (.pad 0 512) .issued) { a := 10 };
      ∃ a ∈ acc s, a.phase = .issued ∧ a.place = .pad 0 512 ∧ s.homeTurn a = true ∧ s.rowsHeld a.place = false ∧ s.joinHolds a = false ∧ s.homeBad a = false ∧
        a.op.event = q.2 ∧ s.cutHolds a = false ∧ ((s.perform a.place a.key a.op).isSome = true ↔ q.1 ≠ .phwait 0)) ∧
    (let s := ev (flying { user with cut := { active := true, shares := [shareOf 32] } } (.store 8 7) .none (.hbm 0x1000) .issued) { a := 10 };
      ∃ a ∈ acc s, a.phase = .issued ∧ a.place = .hbm 0x1000 ∧ s.homeTurn a = true ∧ s.cutHolds a = true ∧
        ((s.copyFrame (0x1000 / 128 / 32)).applyAccess a).isSome = true) ∧
    (let s := ev (flying user (.record 8 7) .none (.hbm 0x6000) .issued) { a := 10 };
      ∃ a ∈ acc s, s.homeTurn a = true ∧ s.joinHolds a = false ∧ a.op.event = 0 ∧ (s.perform a.place 0 a.op).isSome = true ∧
        ∀ u ∈ s.perform a.place 0 a.op, (u.1.joins.filter fun (h : JoinHome) => h.va == a.va).length ≤ 1) := by decide

/-- AccessAndMissEvents, homes: an update that its home takes in, its task waiting for the reply; a store to the word behind it. -/
theorem witness_TakenIn :
    (let s := ev (flying (on 0 { task with wait := .home 10 }) .pharr .none (.pad 0 512) .issued) { a := 10, b := 1 };
      let s := { s with pad := Memory.write s.pad (padKey 0 512) 16 2 };
      ∃ a ∈ acc s, a.phase = .issued ∧ a.op.replies = true ∧ a.accepted = false ∧ a.place = .pad 0 512 ∧ s.mayApply a = true ∧ s.homeBad a = false ∧
        (match s.perform a.place a.key a.op with | some (_, _, _, ok) => ok | none => false) = true ∧ s.owns a.cell a.ctx a = true ∧
        (s.ctx a.cell a.ctx).busy = true ∧ (s.ctx a.cell a.ctx).wait = .home 10 ∧ s.now.arg.b = 1) ∧
    (let s := ev (flying (taken user (.pad 0 512)) (.store 8 7) .none (.pad 0 520) .issued) { a := 11 };
      ∃ a ∈ s.access 11, a.op.event = 0 ∧ a.phase = .issued ∧ s.rowsHeld a.place = false ∧ s.homeBad a = false ∧ s.writeWaits a = true) ∧
    (let s := ev (user.launched { user.owing (.load 6) (.s 9) with place := .pad 0 512, phase := .done 1 0, locked := true }) { a := 10 };
      ∃ a ∈ acc s, a.phase = .done 1 0 ∧ a.locked = true) := by decide

/-- R171, R234: a home that has taken a PHARR in lets its task go on and applies the update later. -/
theorem test_takenIn :
    let s := ev (flying (on 0 { task with wait := .home 10 }) .pharr .none (.pad 0 512) .issued) { a := 10, b := 1 };
    let s := { s with pad := Memory.write s.pad (padKey 0 512) 16 2 };
    let t := after .phaseUpdateAtHome s; let u := after .phaseUpdateAtHome (ev t { a := 10 });
    t.cur.wait = .none ∧ (PhaseWord.ofNat (t.padRead 0 512 16)).arrCnt = 0 ∧ t.inflight.length = 1 ∧
      (PhaseWord.ofNat (u.padRead 0 512 16)).arrCnt = 1 ∧ u.inflight = [] := by decide

/-- AccessAndMissEvents, returns: to a register, to one written since, to a vector, to a waiting context, to a task that has ended; a bad
line asked for again and given up. -/
theorem witness_Returns :
    (∀ q ∈ [(AccOp.load 6, Dest.s 9, 0, 0), (.load 6, .s 9, 0xFFFF, 1), (.vload 0 16 0x0FF0, .v 9, 0, 0), (.pharr, .none, 0, 0)],
      let s := ev (user.launched { user.owing q.1 q.2.1 with place := .hbm 0, phase := .done 1 4, clobber := q.2.2.1 }) { a := 10, b := q.2.2.2 };
      ∃ a ∈ acc s, a.phase = .done 1 4 ∧ a.unit = none ∧ s.owns a.cell a.ctx a = true ∧ (s.ctx a.cell a.ctx).busy = true ∧
        a.op.replies = decide (q.1 = .pharr) ∧ a.dest = q.2.1 ∧ a.clobber = q.2.2.1 ∧ a.landed = 0) ∧
    (let s := ev (flying (on 0 { task with acts := 2 }) (.load 6) (.s 9) (.hbm 0) (.done 1 0)) { a := 10 };
      let s := s.modCur fun _ => task; ∃ a ∈ acc s, s.owns a.cell a.ctx a = false) ∧
    (∀ q ∈ [(true, 0), (false, 1), (false, 2)],
      let s := ev (user.launched { user.owing (.load 6) (.s 9) with place := .hbm 0, phase := .done 1 0, tries := q.2 }) { a := 10, flag := q.1 };
      ∃ a ∈ acc s, a.phase = .done 1 0 ∧ a.tries < 3 ∧ a.op.returns = true ∧ a.unit = none ∧ a.chk = false ∧ (s.now.arg.flag = true ∨ a.tries < 2 ∨ a.tries = 2)) := by decide

/-- AccessAndMissEvents, misses of an engine: a slice that is full. -/
theorem witness_FullSlice :
    (let m : Miss := { cell := 0, ctx := 0, vpn := 0x123, write := false, sys := false };
      let s := { user with slices := [(sliceOf 0x80000000000, { replay := List.replicate 2048 (.miss m), misses := List.replicate 2048 m })] };
      (0x80000000000 : Nat) < 2 ^ 60 ∧ tlbFind (look [] s.l1 0) (0x80000000000 / 4096) = none ∧ m.unit = none ∧
        (s.slice (sliceOf 0x80000000000)).replay.length = 2048 ∧ (s.slice (sliceOf 0x80000000000)).misses.length = 2048) := by
  exact ⟨by decide, by decide, rfl, List.length_replicate, List.length_replicate⟩

/-- AccessAndMissEvents, misses: the first of its slice at a port; a slice's oldest, with a leaf and with none. -/
theorem witness_Misses :
    (let m : Miss := { cell := 0, ctx := 0, vpn := 0x123, write := false, sys := false };
      (let s := ev { user with ports := [(0, m)] } { a := 0, b := 0 }; s.ports[0]? = some (0, m) ∧ (s.slice (sliceOf (m.vpn * 4096))).replay.length + (s.slice (sliceOf (m.vpn * 4096))).misses.length < 4096) ∧
      ∀ p ∈ [true, false], let u := if p then paged (on 0 { task with wait := .walk 0x123 }) else on 0 { task with wait := .walk 0x123 };
        let s := ev { u with slices := [(sliceOf 0x123000, { misses := [m] })] } { a := sliceOf 0x123000 };
        (s.slice s.now.arg.a).misses = [m] ∧ tlbFind (s.slice s.now.arg.a).tlb 0x123 = none ∧ (s.ctx 0 0).wait = .walk 0x123 ∧ (s.ctx 0 0).busy = true ∧
          s.walk (0x123 * 4096) = if p then .leaf 18 15 else .fault false) := by decide

/-- AccessAndMissEvents, misses: a fault whose record is left for later, and two that are on their way into the fault buffer. -/
theorem witness_Unrecorded :
    (let m : Miss := { cell := 0, ctx := 0, vpn := 0x123, write := false, sys := false };
      let s := ev { on 0 { task with wait := .walk 0x123 } with slices := [(sliceOf 0x123000, { misses := [m] })] } { a := sliceOf 0x123000, c := 1 };
      (s.slice s.now.arg.a).misses = [m] ∧ tlbFind (s.slice s.now.arg.a).tlb 0x123 = none ∧ s.now.arg.c < 2 ∧ s.walk (0x123 * 4096) = .fault false) ∧
    (let e : FaultEntry := { vpn := 5, write := true, mal := false, eng := false };
      let s := ev { user with slices := [(3, { unrecorded := [{ e with vpn := 4 }, e] })] } { a := 3, c := 1 + 2 };
      (s.slice 3).unrecorded[1]? = some e ∧ s.now.arg.c = 1 + 2) := by decide

/-- A transfer of one element of 8 bytes from byte 0 of the task's rows to byte 8, started; with POST and class 16. -/
def xfer1 : Transfer :=
  { xfer0 with started := true, block := 8 * 2 ^ 64 + 2 ^ 256 + 2 ^ 272 + 5 * 2 ^ 424 + 3 * 2 ^ 432 + 16 * 2 ^ 440 + 16 * 2 ^ 456 }

/-- CopyAndMatrixEvents, the copy engine: a transfer to start, one whose next element is in the rows, one released from a replay queue, one
that is over. -/
theorem witness_CopyEngine :
    (let s := ev { user with transfers := [xfer0] } { a := 0, b := 0 }; s.xferAt 0 0 = some xfer0 ∧ s.stopped = false ∧ xfer0.started = false) ∧
    (let t := { xfer0 with started := true, parked := true }; let s := ev { user with transfers := [t] } { a := 0, b := 0 };
      s.xferAt 0 0 = some t ∧ s.slices = []) ∧
    (let t := { xfer0 with started := true, status := some 0 }; let s := ev { user with transfers := [t] } { a := 0, b := 0 };
      s.xferAt 0 0 = some t ∧ t.parked = false ∧ t.step = 0 ∧ s.unitOpen t.id = false ∧ s.unitFailed t.id = none ∧ t.params.phadd = false ∧ t.params.clipped = false ∧ t.params.stamp = false ∧
      t.params.post = false) ∧
    (let s := ev { user with transfers := [xfer1] } { a := 0, b := 0 }; let p := xfer1.params;
      s.xferAt 0 0 = some xfer1 ∧ s.unitFailed 3 = none ∧ s.unitClear 3 = s ∧ p.mode = 0 ∧ p.bx = 1 ∧ 0 < p.by' ∧ p.ssp = 1 ∧ p.dsp = 1 ∧ p.swz = 0 ∧
      s.xferRange xfer1 1 (p.srcAddr 0 0 0) p.e = true ∧ s.xferPlace xfer1 1 (p.srcAddr 0 0 0) = some (.pad 0 512) ∧ s.rowsHeld (.pad 0 512) = false ∧
      s.placeBad (.pad 0 512) = false ∧ s.xferRange xfer1 1 (p.dstAddr 0 0) p.e = true ∧ s.xferPlace xfer1 1 (p.dstAddr 0 0) = some (.pad 0 520) ∧
      Memory.wf s.pad = true ∧ p.post = true ∧ p.cls = 16) := by decide +kernel

/-- A built-in message of module 5's logical cell 4, alone at the head of its flow. -/
def pkt (cls : Nat) (args : List Nat) (payload : List Nat) : Packet :=
  { Packet.none with sdev := 5, scell := 4, cls := cls, args := args, payload := payload, seq := 7 }
def headed (s : State) (p : Packet) : State :=
  { s with partition := some [5], serai := [{ sdev := 5, scell := 4, expected := 8, queue := [(p, 0)] }], now := { s.now with arg := { a := 5, b := 4 } } }

/-- CopyAndMatrixEvents, the matrix unit: MFMT, MMA and MXS next in turn; a k-step; an alias table to build; a released command; a
completed one; a free tile; a message with a good capability and a bad one. -/
theorem witness_MatrixUnit :
    (∀ k ∈ [MxKind.mfmt, .msrec, .mkey, .mma, .mtout, .mxs], let c : MxCmd := { mx0 with kind := k, started := (k == .mxs), built := (k == .mxs) };
      let s := ev (units { owners := [(0, 17)], cmds := [c] } user) { a := 0, b := 32 };
      s.stopped = false ∧ (s.mx 0).accs = [] ∧ s.governor.holds.contains 0x20000 = false ∧ s.mxNext 0 = some c) ∧
    (let c := { mx0 with kind := MxKind.mxs, started := true }; let s := ev (units { norm := some (0, 17), cmds := [c], aliasQueue := [5, 6] } user) { a := 0, b := 0 };
      (s.mx 0).aliasQueue.head? = some c.id ∧
      ((s.mx 0).queue 0).head? = some c ∧ c.built = false ∧ c.code = none ∧ (s.mx 0).aliasCmd = none ∧ s.normOwner 0 = some (0, 17)) ∧
    (let s := ev (units { cmds := [{ mx0 with parked := true }] } user) { a := 0, b := 0 }; ((s.mx 0).queue 0).head? = some { mx0 with parked := true } ∧ s.slices = []) ∧
    (let c := { mx0 with kind := MxKind.mxs, code := some 0, result := some (5, 6) }; let s := ev (units { cmds := [c] } user) { a := 0, b := 0 };
      ((s.mx 0).queue 0).head? = some c ∧ s.unitOpen 5 = false ∧ s.unitFailed 5 = none ∧ c.ret = none ∧ (s.mx 0).waits = []) ∧
    (let s := ev (units { cmds := [mx0] } user) { a := 0, b := 0 }; (s.mx 0).cmds.find? (·.names 0) = some mx0 ∧ s.tileOwner 0 0 = none) ∧
    (let cap := 2 ^ 15; let good := cap + (mix 0 (BitVec.ofNat 64 cap)).toNat / 2 ^ 42 % 2 ^ 22 * 2 ^ 42;
      ∀ q ∈ [(good, true), (good ^^^ 2 ^ 42, false)], let p := pkt 11 [0, 4, 0, 0] ((List.range 24).map (fun _ => 0) ++ (List.range 8).map (fun i => q.1 / 256 ^ i % 256));
        let s := headed user p;
        s.flowHead 11 = some p ∧ s.siteOf 0 0 = some 0 ∧ (s.mxRemote p).1.fc = 16 ∧
          s.capOk p.dcell 0 ((s.mxRemote p).1.desc / 2 ^ 192 % 2 ^ 64) ((s.mx 0).fmt 16).lkey = q.2 ∧ (s.mx 0).queued 16 < 4) := by decide +kernel

/-- A packet that arrives in module 0. -/
def arriving (s : State) (p : Packet) (ok : Bool) : State := ev { s with partition := some [5] } { p := p, flag := ok }

/-- A flow of logical cell 4 to module 5 with a message sent for the access that `flying` makes. -/
def flow0 : Flow := { scell := 4, ddev := 5, next := 8, buf := [{ pkt := { Packet.none with cls := 0, seq := 7 }, access := some 10, sent := true, replied := false }] }
def sending (op : AccOp) : State :=
  { user.launched { user.owing op (.s 9) with place := .remote 5 0x1000, phase := .sent 5 7 } with partition := some [5], flows := [flow0] }

/-- FabricPacketEvents, arrivals: a reserved class; damaged messages of the classes that are not sequenced and of one that is; the
expected message of a class that waits and of one that is issued, ones 1 and 31 ahead, ones 32 and 32,767 ahead; a first one. -/
theorem witness_Arrivals :
    (∀ c ∈ [13, 15], let s := arriving user (pkt c [] []) true; s.now.arg.p.ddev = s.devidx.toNat ∧ s.now.arg.p.sdev ≠ 0 ∧ 13 ≤ s.now.arg.p.cls ∧ s.now.arg.p.cls ≤ 15) ∧
    (∀ c ∈ [3, 4, 5, 6, 7, 16], let s := arriving user (pkt c [0, 15] []) false;
      s.now.arg.flag = false ∧ s.now.arg.p.cls = c ∧ s.now.arg.p.args.getD 1 0 < 16 ∧ s.now.arg.p.ddev = s.devidx.toNat ∧ s.now.arg.p.sdev ≠ 0 ∧
        s.ackRoom s.now.arg.p = true ∧ (sequenced c = true ↔ c = 16)) ∧
    (∀ q ∈ [(9, 0, 7), (0, 0, 7), (16, 1, 6), (0, 31, 65512), (10, 32, 65511), (2, 32767, 2 ^ 15 + 8)], let f : Serai := { sdev := 5, scell := 4, expected := q.2.2 };
      let s := arriving { user with serai := [f] } (pkt q.1 [] []) true; let p := s.now.arg.p.onLink;
      sequenced s.now.arg.p.cls = true ∧ s.ackRoom s.now.arg.p = true ∧ s.findSerai p.sdev p.scell = some f ∧ f.expected < 2 ^ 16 ∧ p.cls = q.1 ∧
        p.seq = (f.expected + q.2.1) % 2 ^ 16 ∧ f.held = [] ∧ f.queue = [] ∧ s.reorderUsed < 16384 ∧ p.first = false) ∧
    (let s := arriving user { pkt 8 [] [] with first := true } true; let p := s.now.arg.p.onLink;
      s.findSerai p.sdev p.scell = none ∧ p.first = true ∧ s.serai.length < 4096 ∧ p.cls = 8) := by decide +kernel

/-- R305: fields of a header flit at the bits of its table, a payload of 65 bytes in two flits, and the message read back. -/
theorem test_flits :
    (let p := { pkt 0xAB [1, 2, 3, 0xF0] ((List.range 65).map fun i => i) with
        ddev := 0x101, dcell := 0xFFFF, rel := true, launch := 0xFFF, paylen := 65, spcell := 0x1FFFF, path := 9, paddr := 0x7FFFF, rnd := 0x800 };
      let h := p.header;
      h % 2 ^ 9 = 0x101 ∧ h / 2 ^ 25 % 2 ^ 9 = 5 ∧ h / 2 ^ 50 % 2 ^ 8 = 0xAB ∧ h / 2 ^ 58 % 8 = 1 ∧ h / 2 ^ 61 % 8 = 0 ∧ h / 2 ^ 64 % 2 ^ 16 = 7 ∧
        h / 2 ^ 105 % 2 ^ 17 = 0x1FFFF ∧ h / 2 ^ 122 % 64 = 0 ∧ h / 2 ^ 320 % 2 ^ 64 = 0xF0 ∧ h / 2 ^ 384 % 2 ^ 64 = 9 ∧ h / 2 ^ 499 = 0x800 ∧
        p.flits.length = 3 ∧ (p.flits.getD 2 0) = 64 ∧ (p.flits.getD 0 0) % 2 ^ 448 = h % 2 ^ 448 ∧ p.onLink = p) := by decide +kernel

/-- CRC-32C of the nine digits that its definition is checked with. -/
theorem test_crc32c : crc32c 72 (ofBytes ((List.range 9).map fun i => BitVec.ofNat 8 (0x31 + i))) = 0xE3069283 := by decide +kernel

/-- AES-256 of FIPS 197, appendix C.3. -/
theorem test_aes256 : aes256 0x1f1e1d1c1b1a191817161514131211100f0e0d0c0b0a09080706050403020100 0xffeeddccbbaa99887766554433221100 =
    0x8960494b9049fceabf456751cab7a28e := by decide +kernel

/-- FabricPacketEvents, requests: loads of 8 and 16 bytes, a store, a masked store and an AMO at the last bytes of the memory and past
it, a bad line. -/
theorem witness_RemoteRequests :
    (∀ q ∈ [(0, 6), (0, 16), (1, 6), (1, 16 + 2 ^ 21 * 0xFF), (2, 1 + 8 * 2)], ∀ pa ∈ [Config.hbmBytes - 16, Config.hbmBytes],
      let p := pkt q.1 [pa, q.2, 9, 0] []; let s := headed user p;
      s.flowHead q.1 = some p ∧ (pa = Config.hbmBytes - 16 → pa < Config.hbmBytes ∧ s.badHbm.contains (pa / 128) = false ∧
        s.ramoBad (.hbm pa) (ramoOp p) = false ∧ (match ramoOp p with | .bfpadd .. => false | _ => true) = true ∧
        (q.1 = 1 → (s.placeWrite (.hbm pa) 0 16 0xFF 9).isSome = true) ∧ (q.1 = 2 → (s.perform (.hbm pa) 0 (ramoOp p)).isSome = true))) ∧
    (∀ q ∈ [(0x1020, true), (0x2000, false), (Config.hbmBytes, false)], let p := pkt 2 [0x1000, 11, q.1, 0] [];
      (match ramoOp p with
        | .bfpadd _ (.hbm b) _ _ => decide (b < Config.hbmBytes ∧ (bankOf 0x1000).1 = (bankOf b).1) | _ => !q.2) = q.2) ∧
    (∀ c ∈ [1, 2], let p := pkt c [0x1000, 6] []; let s := headed (taken user (.hbm 0x1000)) p;
      s.flowHead c = some p ∧ s.wordTaken (.hbm 0x1000) 16 = true ∧ s.wordTaken (.hbm 0x1000) 32 = true ∧ (ramoOp p).writes = true ∧
        user.wordTaken (.hbm 0x1000) 32 = false) ∧
    (let p := pkt 2 [0x1000, 1] []; let s := headed { user with badHbm := [32] } p;
      s.badHbm.contains (0x1000 / 128) = true ∧ s.ramoBad (.hbm 0x1000) (ramoOp p) = true) := by decide

/-- FabricPacketEvents, replies and the sender's events: a reply with status 0, 1 and 2, and one given again; a NACK of cause 1 and 2; a slot return; a timeout; a
NACK that is due; an idle flow and an idle slot. -/
theorem witness_Replies :
    (∀ st ∈ [0, 1, 2], let s := arriving (sending (.load 6)) (pkt 3 [99, 0, st, 7 + 2 ^ 16 * 4] []) true; let p := s.now.arg.p.onLink;
      s.now.arg.p.ddev = s.devidx.toNat ∧ s.now.arg.p.sdev ≠ s.devidx.toNat ∧ s.now.arg.flag = true ∧ s.now.arg.p.cls = 3 ∧ p.sdev = 5 ∧
        s.findFlow 4 5 = some flow0 ∧ (s.sentAccess 4 5 7).isSome = true ∧ p.args.getD 2 0 % 2 ^ 8 = st ∧
        p.args.getD 3 0 % 2 ^ 16 = 7 ∧ p.args.getD 3 0 / 2 ^ 16 % 2 ^ 16 = 4) ∧
    (let f := { flow0 with answered := [7], buf := [] }; let s := arriving { user with flows := [f] } (pkt 3 [99, 0, 1, 7 + 2 ^ 16 * 4] []) true;
      s.sentAccess 4 5 7 = none ∧ s.findFlow 4 5 = some f ∧ f.answered.contains 7 = true) ∧
    (∀ l ∈ [[7], []], let f := { flow0 with answered := [6], buf := [], bare := l };
      let s := arriving { user with flows := [f] } (pkt 3 [99, 0, 1, 7 + 2 ^ 16 * 4] []) true;
      s.sentAccess 4 5 7 = none ∧ s.findFlow 4 5 = some f ∧ f.answered.contains 7 = false ∧ (f.buf.find? (·.pkt.seq == 7)).bind FlowMsg.owner = none ∧
        f.bare.contains 7 = (l == [7])) ∧
    (let m : FlowMsg := { pkt := { Packet.none with cls := 1, seq := 7 }, sent := true, owner := some (some 1, 4) };
      ([m].find? (·.pkt.seq == 7)).bind FlowMsg.owner = some (some 1, 4)) ∧
    (∀ c ∈ [1, 2], let s := arriving (sending (.load 6)) (pkt 4 [2 ^ 16 * 4, c] []) true; let p := s.now.arg.p.onLink;
      s.now.arg.p.cls = 4 ∧ p.args.getD 0 0 / 2 ^ 16 % 2 ^ 16 = 4 ∧ p.args.getD 1 0 % 2 ^ 8 = c ∧ s.findFlow 4 5 = some flow0) ∧
    (let m : FlowMsg := { pkt := { Packet.none with cls := 1, seq := 65535 }, sent := true }; let f := { flow0 with buf := [m] };
      let s := ev { user with flows := [f], serai := [{ sdev := 5, scell := 4, expected := 0 }] } { a := 4, b := 5, c := 65535, p := pkt 6 [4, 0] [] };
      s.findFlow 4 5 = some f ∧ f.buf = [m] ∧ m.sent = true ∧ m.acked = false ∧ m.replied = true ∧ m.access = none ∧ m.pkt.seq < 2 ^ 16 ∧
        s.now.arg.p.onLink.args.getD 1 0 % 2 ^ 16 = (m.pkt.seq + 1) % 2 ^ 16 ∧ s.now.arg.p.onLink.args.getD 0 0 % 2 ^ 16 = 4 ∧ f.buf.find? (·.pkt.seq == s.now.arg.c) = some m ∧ m.engine = false ∧ s.dark 5 = false ∧
        (s.findSerai 5 4).isSome = true) ∧
    (let f := { flow0 with nackDue := true }; ({ user with flows := [f] } : State).findFlow 4 5 = some f ∧ f.nackDue = true ∧ user.dark f.ddev = false) ∧
    (let s : State := { user with devidx := 40, unrouted := [0], flows := [flow0] };
      s.findFlow 4 5 = some flow0 ∧ s.dark flow0.ddev = true) ∧
    (let f := { flow0 with buf := [] }; ({ user with flows := [f] } : State).findFlow 4 5 = some f ∧ f.buf = []) := by decide +kernel

/-- RoundEvents: the first tick, one after a receive round and one before it; markers of a round that is over and of the open one; masks
that can be read and not; a drain of the own module and of another; a port that drains, parks, is parked and wakes. -/
theorem witness_RoundEvents :
    (∀ r ∈ [(0, 0), (2, 2), (3, 2)], let s := { user with rounds := { send := r.1, recv := r.2 - 1, started := (r.2 != 0) } };
      s.stage.mode ≠ 1 ∧ (s.rounds.send = 0 ∨ s.rounds.send ≤ s.rounds.next ∨ s.rounds.next < s.rounds.send) ∧ s.rounds.next = r.2) ∧
    (∀ r ∈ [0, 1], let s := arriving { user with rounds := { started := true } } (pkt 5 [r, 3] []) true;
      s.now.arg.p.cls = 5 ∧ s.now.arg.p.sdev ≠ s.now.arg.p.ddev ∧ s.now.arg.flag = true ∧ s.now.arg.p.onLink.args.getD 0 0 = r ∧ s.rounds.next = 1) ∧
    (paged user).readMask 0x1000 = some [] ∧ user.readMask 0x1000 = none ∧
    (∀ d ∈ [0, 5], let p := { pkt 7 [3, 15] [] with sdev := d }; p.cls = 7 ∧ p.args.getD 1 0 < 16 ∧ (p.sdev = user.devidx.toNat ↔ d = 0)) ∧
    (let s : State := { user with fabports := [(0, { draining := true, drained := true }), (1, { live := 5 }), (2, { waking := true })] };
      (look {} s.fabports 0).draining = true ∧ (look {} s.fabports 0).drained = true ∧ (look {} s.fabports 1).live ≠ 8 ∧ (look {} s.fabports 2).waking = true ∧
        (look {} s.fabports 15).waking = false ∧ 0 ≤ s.parkMax) := by decide +kernel

/-- Group 47 with block 9 of one value, some halves staged and some of module 5 merged before. -/
def merging (l : List Staged) (m : List Nat) : State :=
  user.setGroup 47 { blocks := [(9, { w := 0x10000000000, len := 1, x := [0], merged := [(5, m)] })], staged := l }

/-- CaravanAndQueueEvents, the engine: a chunk; a trailer whose half is there, missing, merged before; an ACK; a deadline that doubts and
one that does not; a NACK; each kind of operation. -/
theorem witness_CaravanEvents :
    (let p := pkt 8 [2 ^ 12 * 47 + 4095, 3, 0] [0, 0, 128, 63]; let s := headed user p;
      s.flowHead 8 = some p ∧ s.reaches 5 = true ∧ ((s.group 47).stage 5 4095 3 0 0 (payloadF32 1 p.payload)).isSome = true) ∧
    (∀ q ∈ [(true, []), (false, []), (true, [3])], let p := pkt 10 [2 ^ 12 * 47 + 9, 2 ^ 39, 3, 1] [];
      let s := headed (merging (if q.1 then [{ sdev := 5, block := 9, seq := 3, chunks := [(0, (1, [0x3F800000]))] }] else []) q.2) p;
      s.flowHead 10 = some p ∧ s.reaches 5 = true ∧ s.flowRoom (0xFF00 + 47) 5 = true ∧ (s.block' 47 9).left = false ∧
        ((look? (s.block' 47 9).merged 5).getD []).contains 3 = (q.2 == [3]) ∧
        (stagedHalf ((s.group 47).staged.find? fun h => h.sdev == 5 && h.block == 9 && h.seq == 3) 1 1).isSome = q.1) ∧
    (∀ st ∈ [0, 2], let p := pkt 9 [2 ^ 12 * 47 + 9, 3, st] []; let w : Waybill := { seq := 3, peer := 5, fseq := 0, ws := 7, s := [] };
      let s := headed (user.setGroup 47 { blocks := [(9, { waybills := [(0, w)] })] }) p;
      s.flowHead 9 = some p ∧ (s.block' 47 9).waybills.find? (fun e => e.2.seq.toNat == p.args.getD 1 0 % 2 ^ 32 && e.2.peer.toNat == p.sdev) = some (0, w)) ∧
    (∀ t ∈ [(7 : BitVec 8), 8], let w : Waybill := { seq := 3, peer := 5, fseq := 0, ws := 7, tries := t, s := [] };
      let s := ev (user.setGroup 0 { blocks := [(9, { waybills := [(61, w)] })] }) { a := 0, b := 9, c := 61 };
      s.stopped = false ∧ look? (s.block' 0 9).waybills s.now.arg.c = some w ∧ s.dark w.peer.toNat = false ∧ (w.doubt = false) ∧ ((s.block' 0 9).retry.toNat ≤ w.tries.toNat ↔ t = 8)) ∧
    (let w : Waybill := { seq := 3, peer := 5, fseq := 9, ws := 7, s := [1] };
      let s := ev (user.setGroup 0 { nacks := [5], blocks := [(9, { waybills := [(0, w)] })] }) { a := 0, b := 5 };
      (s.group 0).nacks.contains 5 = true ∧ s.dark 5 = false ∧ s.waybillsTo 0 5 = [(9, w)]) ∧
    (∀ k ∈ [MixKind.cfg 256, .join 256, .hold true, .tick, .add 1 [0x3F800000], .stat 0, .leave, .read 1 Config.depotBase 0, .peer 1 0 0 [5]],
      let o : MixOp := { cell := Config.depotBase, ctx := 0, block := 9, kind := k, id := some 10 };
      let s := ev ((owed depot .reply (.s 9)).setGroup 0 { blocks := [(9, { w := 0x10000000000, len := 1, x := [0] })], ops := [o] }) { a := 0 };
      (s.group 0).ops = [o] ∧ s.stopped = false ∧ ((s.setGroup 0 { s.group 0 with ops := [] }).applyMix 0 o).isSome = true) := by decide

/-- CaravanAndQueueEvents, gradient queues: a push to a queue with one place left and to a full one; a pop of a packet of the type and of another. -/
theorem witness_QueueEvents :
    (∀ n ∈ [1, 2], let p : Push := { group := 0, queue := 255, data := [], sideband := 3, id := 10, cell := Config.depotBase, ctx := 0 };
      let s := ev { depot.setGroup 0 { queues := [(255, { valid := true, ty := 3, nslot := 2, packets := List.replicate n (3, []) })] } with pushes := [p] } { a := 0 };
      s.pushes[0]? = some p ∧ (s.gqueue 0 255).waiting = [] ∧ (s.gqueue 0 255).valid = true ∧ ((s.gqueue 0 255).packets.length < (s.gqueue 0 255).nslot.toNat ↔ n = 1) ∧
        ((s.group 0).queues.map fun e => e.2.waiting.length).foldl (· + ·) 0 < 1024) ∧
    (∀ ok ∈ [true, false], (ev depot { flag := ok }).now.arg.flag = ok) ∧
    (∀ q ∈ [(3, false), (4, false), (4, true)], let w : PopWait := { id := 10, cell := Config.depotBase, ctx := 0, drop := q.2 };
      let s := ev ((on Config.depotBase { task with wait := .queue 10 }).setGroup 0
        { queues := [(255, { valid := true, ty := 3, nslot := 1, packets := [(BitVec.ofNat 64 q.1, [])], pops := [w] })] }) { a := 0, b := 255 };
      (s.gqueue 0 255).pops = [w] ∧ (s.gqueue 0 255).packets = [(BitVec.ofNat 64 q.1, [])] ∧ (s.gqueue 0 255).valid = true ∧
        (s.ctx w.cell w.ctx).wait = .queue w.id ∧ (s.gqueue 0 255).waiting = [] ∧ (q.1 % 2 ^ 3 = (s.gqueue 0 255).ty.toNat ↔ q.1 = 3) ∧
        q.1 / 2 ^ 8 % 2 ^ 12 = (s.gqueue 0 255).block.toNat) := by decide

/-- StageEvents: a message; one for each stash; in round mode and in free mode an entry that lacks its input and one that can start; a
running entry; the end of the table. -/
theorem witness_StageEvents :
    (let p := pkt 12 [0, 7, 9, 0] []; (headed user p).flowHead 12 = some p ∧ user.stage.pending = [] ∧ look? user.stage.acts 7 = none ∧
      look? user.stage.grads 7 = none ∧ user.stage.acts.length < 256 ∧ user.stage.grads.length < 256) ∧
    (∀ m ∈ [(1 : BitVec 2), 2], ∀ c ∈ [((0 : Word), some 0), (0xC000000000100, none)],
      let s := { user with stage := { mode := m, cfg := c.1, entries := [0], templates := [(0, { launch := 1, lcell := 4 })] } };
      s.stage.starting = none ∧ s.stage.srbase = 0 ∧ ({ launch := 1, lcell := 4 } : Template).valid = true ∧ s.stage.round ≤ s.rounds.next ∧ s.stage.arrivals = [] ∧ s.stage.pending = [] ∧ s.stage.idle = true ∧ s.stage.why = c.2 ∧
        look? s.stage.templates (entryTmpl s.stage.entry) = some { launch := 1, lcell := 4 }) ∧
    ({ mode := 1, cfg := 1, entries := [0], running := true } : Stage).running = true ∧
    (∀ q ∈ [(2 ^ 50, 0, 0, some 1), (2 ^ 50, 1, 0, none), (2 ^ 51, 1, 0, some 0), (2 ^ 51, 0, 1, some 2), (2 ^ 50, 0, 3, none), (2 ^ 8, 0, 2, some 2)],
      ({ mode := 2, cfg := BitVec.ofNat 64 q.1, dnslots := BitVec.ofNat 16 q.2.1, entries := [q.2.2.1] } : Stage).why = q.2.2.2) ∧
    ({ srbase := 0x1000, entries := [2 + 2 ^ 8] } : Stage).recordWrite (2 + 2 ^ 8) = some (0x1041, 1, 0) ∧
    ({ mode := 1, cfg := 1, entries := [0], ptr := 1 } : Stage).nent ≤ 1 := by decide

/-- StageEvents: an entry that is starting, with its write on its way and over; an invalid template. -/
theorem witness_StageStarting :
    (∀ m ∈ [(0 : BitVec 2), 1, 2], let s := { user.launched { user.owing (.store 2 0) .none with unit := some 12 } with
        stage := { mode := m, starting := some { entry := 0, template := { launch := 1, lcell := 4 }, a3 := 0, record := none, write := .sent 12 } } };
      (∀ st ∈ s.stage.starting, st.write = .sent 12) ∧ s.stage.starting.isSome = true ∧ s.unitOpen 12 = true ∧ s.unitOpen 13 = false) ∧
    (let s := { user with slices := [(0, { replay := [.stage 13] })]
                          stage := { starting := some { entry := 0, template := { launch := 1, lcell := 4 }, a3 := 0, record := none, write := .parked 13 } } };
      (∀ st ∈ s.stage.starting, st.write = .parked 13) ∧ s.stage.starting.isSome = true ∧ s.slices.any (fun q => q.2.replay.contains (.stage 13)) = true) ∧
    (let st : Starting := { entry := 0, template := { launch := 1, lcell := 4 }, a3 := 0, record := some (0x1000, 2, 0), write := .parked 13 };
      let s := { paged user with stage := { starting := some st } };
      s.slices = [] ∧ (match s.stageWrite st.template 0x1000 2 0 with | .got _ _ => true | _ => false) = true) ∧
    (let s := { user with stage := { templates := [(0, { launch := 1, lcell := 4, valid := false })], entries := [0] } };
      s.stage.pending = [] ∧ look? s.stage.templates (entryTmpl s.stage.entry) = some { launch := 1, lcell := 4, valid := false }) := by decide

/-- PowerAndPlannerEvents, power: the unit's step; a ROWQ; steps to 6, to the OP in force, down below the pinned rows and above, up in heat and not
a migration with a cell that takes and none; a reading below; the trip's and the governor's bounds. -/
theorem witness_PowerEvents :
    (let s := ev { user with unitOpq := [(0, [{ id := 10, query := none, op := 6 }])] } { a := 0, b := 1 };
      s.now.arg.b = 1 ∧ look [] s.unitOpq 0 = [{ id := 10, query := none, op := 6 }]) ∧
    (∀ q ∈ [(6, none, 90), (4, none, 90), (0, none, 90), (3, none, 90), (5, none, 106), (5, none, 105), (0, some (0 : Nat), 90)],
      let s := ev (user.modCell 0 fun c => { c with hosted := [⟨4, 1, 4, 0, 0x10, 100, [20]⟩], opq := [{ id := 10, query := q.2.1, op := q.1 }] }) { a := 0, b := 0, c := q.2.2 };
      let c := s.cell 0;
      s.now.arg.b ≠ 1 ∧ c.opq = [{ id := 10, query := q.2.1, op := q.1 }] ∧ c.evac = none ∧ c.opcur.toNat = 4 ∧ s.thermalLimit = 105 ∧ s.rowPin 0 ≤ c.rowsAt 3 ∧ s.stepReady 0 = true) ∧
    (flying user (.store 8 7) .none (.pad 0 512) .issued).stepReady 0 = false ∧ (flying user (.store 8 7) .none (.pad 1 0) .issued).stepReady 0 = true ∧
    (let s := user.modCell 0 fun c => { c with rowmap := (List.range 90).map fun i => (i, 1), hosted := [⟨4, 1, 4090, 0, 0x10, 100, [20]⟩] };
      (s.cell 0).rowsAt 0 = 4070 ∧ s.rowPin 0 = 4090) ∧
    (∀ h ∈ [1, 16], let s := ev (on 0 {}) { a := 0, b := 0, c := h, data := 106 :: (List.replicate 15 (if h = 1 then 50 else 110)) };
      (s.cell 0).hosted[0]? = some ⟨4, 1, 4, 40, 0x10, 100, [20]⟩ ∧ kindOf 0 = some .compute ∧ s.thermalLimit < s.now.arg.data.getD 0 0 ∧ s.lcellIdle 0 4 = true ∧ s.rowsQuiet 0 = true ∧
        (∀ j < 16, s.takesMoved j 0 ⟨4, 1, 4, 40, 0x10, 100, [20]⟩ (s.now.arg.data.getD j 0) = decide (h = 1 ∧ j ≠ 0)) ∧ ((s.cell 0).messagesOf 4).length ≤ (s.cell 1).freeSlots) ∧
    (let g : Governor := { current := 15500, recent := List.replicate 9 true };
      (∀ n ∈ [16000, 17000], n ≤ g.current.toNat + 1500 * 1 ∧ g.current.toNat ≤ n + 1500 * 1 ∧ n ≤ 30000) ∧ ((g.elapse 1).filter id).length ≤ 10 ∧ (((g.elapse 1).drop ((g.elapse 1).length - 99)).filter id).length < 10 ∧
      ({ user with governor := { g with holds := [0] } } : State).governor.holds.contains 0 = true) ∧
    (104 : Nat) < user.thermalLimit ∧ (user.modCell 0 fun c => { c with stretched := true }).here.stretched = true := by decide

/-- HostEvents: a queue with a place left and a full one; the last BAR2 byte; a doorbell for firmware; a checkpoint to arm and one to
end; a RESET with an image and without. -/
theorem witness_HostEvents :
    (∀ n ∈ [63, 64], let s := ev { user with host := [(3, { doorbells := List.replicate n 0x9000, cls := 16 })] } { a := 3, b := 0x9000 };
      (s.hostPort 3).doorbells.length = n ∧ 16 ≤ (s.hostPort 3).cls ∧ s.now.arg.a < 4) ∧
    (let s := ev user { a := 3, b := 2 ^ 36 - 1, c := 0, data := [1] }; s.now.arg.b + s.now.arg.data.length ≤ 2 ^ 36 ∧
      (s.hostPort 3).apbase.toNat + s.now.arg.b + s.now.arg.data.length ≤ Config.hbmBytes ∧ (0x1F0 : Nat) = 0x100 + 16 * 15) ∧
    (let s := ev (paged user) { a := 0x1000 }; s.cut.busy = false ∧ (s.vaRead 0x1000 64).isSome = true) ∧
    (let s := { user with cut := { busy := true, active := true } }; s.cut.active = true ∧ s.cut.full = false ∧ s.cut.shares = []) ∧
    user.boot.failed = false ∧ (ev user { flag := false }).now.arg.flag = false := by decide

/-- A job of one node at 64 KiB: its graph at 0x11000, job record at 0x12000, one routine of class 16. -/
def jobState : State :=
  { paged user with hbm := [(0x8000, 0x1), (0x8001, 0x90), (0x9000, 0x1), (0x9001, 0xa0), (0xa000, 0xf), (0x10001, 0x10), (0x10002, 0x1), (0x10009, 0x20), (0x1000a, 0x1), (0x11000, 0x1), (0x11011, 0x31), (0x11012, 0x1), (0x11018, 0x1), (0x1101a, 0x1), (0x11021, 0x30), (0x11022, 0x1), (0x1103a, 0x1), (0x13003, 0x10)] }

/-- PowerAndPlannerEvents, jobs: a job to start; a node with no predecessor; one whose predecessor has failed; a launch that is over. -/
theorem witness_PlannerEvents :
    (let s := ev jobState { a := 0x10000, b := 3, data := [0x14000, 0x15000] }; let job := 0x120000000000000011000;
      s.now.arg.data.getD 0 0 % 64 = 0 ∧ s.now.arg.data.getD 1 0 % 64 = 0 ∧ s.vaNum 0x10000 64 = some job ∧ s.jobChecks 0x10000 job = some true ∧ s.vaNum 0x11000 16 = some 1 ∧ s.predecessors job 1 0 = some [] ∧
      s.jobs = [] ∧ (s.vaWrite 0x12000 64 1).isSome = true ∧ (s.vaWrite 0x14000 64 1).isSome = true ∧ (s.vaWrite 0x15000 64 1).isSome = true) ∧
    (let j : Job := { va := 0x10000, jrec := 0x12000, graphRec := 0x15000, port := 3 };
      let s := ev { jobState with jobs := [j] } { a := 0x10000, b := 0, data := [7, 0x16000, 9, 0x100, 0x200, 3] };
      s.jobs.find? (·.va == 0x10000) = some j ∧ look? j.nodes 0 = none ∧ (s.startNode j 0x120000000000000011000 0 s.now.arg.data).isSome = true ∧
        s.nodeEnd { j with nodes := [(0, { launch := none, recva := 0 })] } 0 = some false) ∧
    (let s := ev (bytes (paged user) [(0x40000, 16, 0x10000000000000000000000000000 + freshPhase.toNat)]) { a := 0, b := 0 };
      (s.cell 0).hosted[0]? = some ⟨4, 1, 4, 40, 0x10, 100, [20]⟩ ∧ (look? s.launches 1).isSome = true ∧ s.flipped 0x40000 = some (true, false) ∧ s.rowsQuiet 0 = true) := by decide +kernel
end Sys2Proof.Tests
end

section
/-! SUPPORT. Every instruction that occupies a word goes through `issue`; what a step runs. -/
namespace Sys2Proof.Machine

/-- An instruction that occupies a word is issued: its meaning is `issue` of its own form (R82). -/
theorem exec_eq_issue (i : Instr) (s : State) (h : width i ≠ 0) : ∃ body : Body, exec i s = issue i s body := by
  cases i
  case messageAdmission | overflowRoutineStart | dispatch | unboundTrap | rload | rstore | ramo | lreply | nack | marker |
    slotret | drain | half | trailer | ack | mxcmd | stageMessage | reservedClassDiscard | liveUpdate | joinChildUpdate |
    joinCloseUpdate | cancelPropagate | dlineExpiry | forcedSave | nearPlacement | nearQueueTake | stealRequest |
    stealVictimReply | stealBackoffExpiry | followEngage | resultReturn | homeAccess | phaseUpdateAtHome | phwaitResolve |
    sliceWalk | missPortEntry | xferStart | xferRowCopy | xferCompletion | xferRestart | checkRefetch | hardwareFaultKill |
    trapEntry | bounceReceive | matrixRequest | aliasTableBuild | matrixRestart | matrixCompletion | tileOwnershipTake |
    messageArrival | slotReturnResend | retransmitTimeout | nackResend | flowRecordRelease | seraiSlotRelease | roundTick |
    markerResend | portRelock | reachWrite | rndsetWrite | wavelengthPark | wavelengthWake | wakeDone | mixOperationApply |
    waybillDeadline | engineNackResend | gqPushArrival | gqPopServe | stageRoundStart | stageFreeEvaluate | stageBubbleTimer
    | opStep | rowCompaction | thermalMigration | thermalTrip | currentGovernor | ballastDraw | doorbell | doorbellPost |
    hostRegisterWrite | bar2InboundWrite | jobStart | nodeStart | mappingValidDelivery | ckdesc | protectedWriteCopy |
    checkpointCompletion | reset | getMeasurements | challenge | keyExchange | readingFallsBelowLimit | partitionTableAccept =>
    exact absurd rfl h
  all_goals
    dsimp only [exec]
    exact ⟨_, rfl⟩

theorem issue_illegal {i : Instr} {s : State} (body : Body) (h : s.decodeIllegal i = true) :
    issue i s body = .next (s.takeTrap s.now.cell s.now.ctx causeIllegal (s.instrValue i)) := by
  simp [issue, h]

theorem issue_priv {i : Instr} {s : State} (body : Body) (hd : s.decodeIllegal i = false) (hp : privileged i = true)
    (hs : s.isSys = false) : issue i s body = .next (s.takeTrap s.now.cell s.now.ctx causePriv (s.instrValue i)) := by
  simp [issue, hd, hp, hs]

theorem issue_heldBack {i : Instr} {s : State} (body : Body) (hd : s.decodeIllegal i = false)
    (hp : privileged i = true → s.isSys = true) (hh : s.heldBack i = true) : issue i s body = .next s := by
  have hp' : (privileged i && !s.isSys) = false := by
    cases e : privileged i
    · rfl
    · simp [hp e]
  simp [issue, hd, hp', hh]

/-! ### Registers of another file -/

@[simp] theorem Ctx.getV_setS (x : Ctx) (d r : Reg) (w : Word) : (x.setS d w).getV r = x.getV r := by
  unfold Ctx.setS; split <;> rfl
@[simp] theorem Ctx.getP_setS (x : Ctx) (d : Reg) (r : Fin 8) (w : Word) : (x.setS d w).getP r = x.getP r := by
  unfold Ctx.setS; split <;> rfl
@[simp] theorem Ctx.getS_setP (x : Ctx) (d : Fin 8) (r : Reg) (w : Pred) : (x.setP d w).getS r = x.getS r := by
  unfold Ctx.setP; split <;> rfl
@[simp] theorem Ctx.getV_setP (x : Ctx) (d : Fin 8) (r : Reg) (w : Pred) : (x.setP d w).getV r = x.getV r := by
  unfold Ctx.setP; split <;> rfl
@[simp] theorem Ctx.getS_setV (x : Ctx) (d r : Reg) (w : Vec) : (x.setV d w).getS r = x.getS r := rfl
@[simp] theorem Ctx.getP_setV (x : Ctx) (d : Reg) (r : Fin 8) (w : Vec) : (x.setV d w).getP r = x.getP r := rfl

/-! ### The step (R28, R43, R84) -/

@[simp] theorem Cell.ctx_mapCtxs (f : Ctx → Ctx) (c : Cell) (k : Nat) : (c.mapCtxs f).ctx k = f (c.ctx k) := by
  have h : k % 4 = 0 ∨ k % 4 = 1 ∨ k % 4 = 2 ∨ k % 4 = 3 := by omega
  have hk : ∀ j, k % 4 = j % 4 → c.ctx k = c.ctx j := fun j e => by simp [Cell.ctx, e]
  obtain h | h | h | h := h
  · simp [Cell.mapCtxs, h, hk 0 h]
  · simp [Cell.mapCtxs, h, hk 1 h]
  · simp [Cell.mapCtxs, h, hk 2 h]
  · simp [Cell.mapCtxs, h, hk 3 h]

@[simp] theorem Cell.code_mapCtxs (f : Ctx → Ctx) (c : Cell) : (c.mapCtxs f).code = c.code := rfl

@[simp] theorem Cell.code_haltIfDue (c : Cell) : c.haltIfDue.code = c.code := by
  unfold Cell.haltIfDue Cell.halt
  repeat' split
  all_goals rfl

@[simp] theorem Cell.ctxs_haltIfDue (c : Cell) : c.haltIfDue.ctxs = c.ctxs := by
  unfold Cell.haltIfDue Cell.halt
  repeat' split
  all_goals rfl

/-- The clock of a cell changes no code store. -/
theorem State.tick_code (s : State) (n d m : Nat) : ((s.tick n d).cell m).code = (s.cell m).code := by
  unfold State.tick
  by_cases h : m = n
  · subst h; split
    · split <;> simp
    · simp
  · split
    · split <;> simp [h]
    · simp [h]

theorem Cell.ctx_congr {c c' : Cell} (h : c.ctxs = c'.ctxs) (k : Nat) : c.ctx k = c'.ctx k := by
  simp [Cell.ctx, h]

/-- Of the contexts the clock of a cell changes DLINE alone. -/
theorem State.tick_ctx (s : State) (n d m k : Nat) : ∃ l, (s.tick n d).ctx m k = { s.ctx m k with dline := l } := by
  by_cases h : m = n ∧ (s.cell n).still = false
  · obtain ⟨rfl, hs⟩ := h
    refine ⟨BitVec.ofNat 32 ((s.ctx m k).dline.toNat - d), ?_⟩
    show ((s.tick m d).cell m).ctx k = _
    unfold State.tick
    rw [if_neg (by rw [hs]; decide), State.cell_modCell, if_pos rfl]
    refine (Cell.ctx_congr (c' := (s.cell m).mapCtxs fun x => { x with dline := BitVec.ofNat 32 (x.dline.toNat - d) }) rfl k).trans ?_
    exact Cell.ctx_mapCtxs _ _ k
  · refine ⟨(s.ctx m k).dline, ?_⟩
    show ((s.tick n d).cell m).ctx k = (s.cell m).ctx k
    unfold State.tick
    split
    · split
      · by_cases hm : m = n
        · subst hm; rw [State.cell_modCell, if_pos rfl]; exact Cell.ctx_congr (Cell.ctxs_haltIfDue _) k
        · rw [State.cell_modCell, if_neg hm]
      · rfl
    · next hs => rw [State.cell_modCell, if_neg (fun hm => h ⟨hm, by simpa using hs⟩)]

@[simp] theorem State.ticked_code (s : State) (m : Nat) : (s.ticked.cell m).code = (s.cell m).code :=
  State.tick_code { s with turns := s.turns.tail } _ _ m

theorem State.ticked_ctx (s : State) (m k : Nat) : ∃ l, s.ticked.ctx m k = { s.ctx m k with dline := l } :=
  State.tick_ctx { s with turns := s.turns.tail } _ _ m k

/-- What a context fetches hangs on its cell's code store, its program counter and its old halfwords alone. -/
theorem Cell.fetchHalf_congr {c c' : Cell} {x x' : Ctx} (hc : c.code = c'.code) (hx : x.ahead = x'.ahead) (a : Nat) :
    c.fetchHalf x a = c'.fetchHalf x' a := by
  simp [Cell.fetchHalf, Cell.half, hc, hx]

theorem Ctx.sequel_ahead_congr {x x' : Ctx} (hp : x.pc = x'.pc) (ha : x.ahead = x'.ahead) : x.sequel.ahead = x'.sequel.ahead := by
  simp [Ctx.sequel, hp, ha]

/-- With nothing of the cell more urgent, its next action is the chosen context's fetch. -/
theorem State.fetchCell_fetch {s t : State} {n k : Nat}
    (e : t = { s.tick n (s.delays.headD 1) with delays := (s.tick n (s.delays.headD 1)).delays.tail })
    (hu : t.unhurried n = true) (hk : t.nextCtx n = some k) (hp : (t.ctx n k).pendingTrap = none) : s.fetchCell n = t.fetch n k := by
  have quiet : ∀ j ∈ List.range 4, t.overdue n j = false ∧ t.saveReady n j = false ∧ t.engaged n j = false := by
    simpa [State.unhurried, List.range, List.range.loop, and_assoc] using hu
  have none_of : ∀ f : Nat → Bool, (∀ j ∈ List.range 4, f j = false) → (List.range 4).find? f = none := fun f h =>
    List.find?_eq_none.mpr fun j hj => by simp [h j hj]
  have h1 := none_of (t.overdue n) fun j hj => (quiet j hj).1
  have h2 := none_of (t.saveReady n) fun j hj => (quiet j hj).2.1
  have h3 := none_of (t.engaged n) fun j hj => (quiet j hj).2.2
  have unfolded : s.fetchCell n = match (List.range 4).find? (t.overdue n) with
    | some j => .run .dlineExpiry { t with now := { t.now with arg := { a := n, b := j } } }
    | none => match (List.range 4).find? (t.saveReady n) with
      | some j => .run .forcedSave { t with now := { t.now with arg := { a := n, b := j } } }
      | none => match (List.range 4).find? (t.engaged n) with
        | some j => .run .followEngage { t with now := { t.now with arg := { a := n, b := j } } }
        | none => match t.nextCtx n with
          | none => .idle t
          | some j => if (t.ctx n j).pendingTrap ≠ none then
              .run .trapEntry { t with now := { t.now with arg := { a := n, b := j } } } else t.fetch n j := by
    rw [e]; rfl
  rw [unfolded, h1, h2, h3, hk]
  exact if_neg (not_not_intro hp)

/-- With nothing in the agenda and the module running, the next action is one of the cell whose turn it is. -/
theorem State.nextAction_fetchCell {s : State} (ha : s.agenda = []) (hh : s.held = false) (hb : s.boot.failed = false) :
    s.nextAction = State.fetchCell { s with turns := s.turns.tail } (s.turns.headD s.now.cell) := by
  cases hs : s.turns with
  | nil =>
    have e : { s with turns := [] } = s := by rw [← hs]
    rw [List.tail_nil, List.headD_nil, e]
    simp only [State.nextAction, ha, hh, hb, hs, Bool.false_eq_true, if_false]
  | cons n r => simp only [State.nextAction, ha, hh, hb, hs, Bool.false_eq_true, if_false, List.tail_cons, List.headD_cons]

/-- The choice of a context for issue changes no context (R28). -/
theorem State.ctx_modCell_of_ctxs (s : State) (n m j : Nat) {f : Cell → Cell} (h : ∀ c, (f c).ctxs = c.ctxs) :
    (s.modCell n f).ctx m j = s.ctx m j := by
  unfold State.ctx
  by_cases hm : m = n
  · subst hm; rw [State.cell_modCell, if_pos rfl]; exact Cell.ctx_congr (h _) j
  · rw [State.cell_modCell, if_neg hm]

theorem State.code_setCtx (s : State) (n k m : Nat) (x : Ctx) : ((s.setCtx n k x).cell m).code = (s.cell m).code := by
  unfold State.setCtx
  by_cases hm : m = n
  · subst hm; rw [State.cell_modCell, if_pos rfl]; rfl
  · rw [State.cell_modCell, if_neg hm]

/-- The chosen cell with the chosen context about to issue. -/
def State.chosen (s : State) (n k : Nat) : State :=
  (s.modCell n fun c => { c with last := k % 4 }).setCtx n k { (s.ctx n k).sequel with parked := false }

theorem State.chosen_code (s : State) (n k m : Nat) : ((s.chosen n k).cell m).code = (s.cell m).code := by
  unfold State.chosen
  rw [State.code_setCtx]
  by_cases hm : m = n
  · subst hm; rw [State.cell_modCell, if_pos rfl]
  · rw [State.cell_modCell, if_neg hm]

theorem State.issuing_eq (s : State) (n k : Nat) (sw : Bool) :
    s.issuing n k sw = { s.chosen n k with now := { cell := n, ctx := k, sw := sw } } := by
  have hx := s.ctx_modCell_of_ctxs n n k (f := fun c => { c with last := k % 4 }) (fun _ => rfl)
  unfold State.issuing State.chosen State.modCtx
  dsimp only
  rw [hx]
  rfl

/-- The fetch of a context, in terms of the state in which it has been chosen. -/
theorem State.fetch_eq (s : State) (n k : Nat) : s.fetch n k = match (s.ctx n k).stream with
    | (i, sw, pc, _) :: _ => if pc = (s.ctx n k).pc
        then .run i { s.chosen n k with now := { cell := n, ctx := k, sw := sw, streamed := true, arg := {} } }
        else .idle ((s.chosen n k).modCtx n k fun x => { x with stream := [], following := false })
    | [] =>
      let h0 := ((s.chosen n k).cell n).fetchHalf (s.ctx n k).sequel (s.ctx n k).pc.toNat
      let h1 := if (s.ctx n k).pc = 0x3FFF then 0 else ((s.chosen n k).cell n).fetchHalf (s.ctx n k).sequel ((s.ctx n k).pc.toNat + 1)
      let u := { s.chosen n k with now := { cell := n, ctx := k, sw := swAt h0, streamed := false, arg := {} } }
      match decodePair h0 h1 with
      | .ok i => .run i u
      | .error _ => .illegal (BitVec.ofNat 64 (if h0 % 2 = 0 then h0 else h1 * 65536 + h0)) u := rfl

/-- A context that takes its instruction from its own code store (R66, R84). -/
theorem State.fetch_own {s : State} {n k h : Nat} {i : Instr} (hs : (s.ctx n k).stream = [])
    (hh : h = s.fetched n k (s.ctx n k).pc.toNat)
    (hd : decodePair h (if (s.ctx n k).pc = 0x3FFF then 0 else s.fetched n k ((s.ctx n k).pc.toNat + 1)) = .ok i) :
    s.fetch n k = .run i (s.issuing n k (swAt h)) := by
  have hf : ∀ a, ((s.chosen n k).cell n).fetchHalf (s.ctx n k).sequel a = s.fetched n k a := fun a =>
    Cell.fetchHalf_congr (s.chosen_code n k n) rfl a
  rw [State.fetch_eq, hs, State.issuing_eq]
  dsimp only
  rw [hf, hf, ← hh, hd]

/-- A context that follows takes the instruction its leader has fed it (R43, R44). -/
theorem State.fetch_streamed {s : State} {n k : Nat} {i : Instr} {sw : Bool} {pc next : CodeAddr}
    {r : List (Instr × Bool × CodeAddr × CodeAddr)} (hs : (s.ctx n k).stream = (i, sw, pc, next) :: r) (hp : pc = (s.ctx n k).pc) :
    s.fetch n k = .run i { s.issuing n k sw with now := { (s.issuing n k sw).now with streamed := true } } := by
  rw [State.fetch_eq, hs, State.issuing_eq]
  exact if_pos hp

/-- The halfwords a context finds are the same once its cell's clock has moved on. -/
theorem State.fetched_ticked (s : State) (n k a : Nat) : s.ticked.fetched n k a = s.fetched n k a := by
  obtain ⟨l, hx⟩ := s.ticked_ctx n k
  refine Cell.fetchHalf_congr (s.ticked_code n) ?_ a
  rw [hx]
  rfl

/-- An event that stands first in the agenda is the next action. -/
theorem State.nextAction_event {s : State} {i : Instr} {arg : EventArg} {rest : List (Instr × EventArg)}
    (ha : s.agenda = (i, arg) :: rest) (hw : width i = 0) (hb : s.boot.failed = false) (hh : s.held = false ∨ i = .reset) :
    s.nextAction = .run i { s with agenda := rest, now := { s.now with arg := arg } } := by
  have hn : (s.held && i != .reset) = false := by
    obtain h | h := hh
    · rw [h]; rfl
    · rw [h]; simp
  unfold State.nextAction
  rw [ha]
  dsimp only
  rw [hn, hw, hb]
  rfl

theorem step_of_run {s t : State} {i : Instr} (h : s.nextAction = .run i t) : step s = exec i t := by
  rw [step, h]

end Sys2Proof.Machine

open Sys2Proof Sys2Proof.Machine in
/-- Settles O45: each check is a branch of `issue`, through which every instruction with a word goes. -/
theorem illegalThenPriv : Obligations.IllegalThenPriv := by
  unfold Obligations.IllegalThenPriv
  intro i s hw
  obtain ⟨body, he⟩ := exec_eq_issue i s hw
  unfold Traps
  rw [he]
  refine ⟨issue_illegal body, issue_priv body, issue_heldBack body, ?_⟩
  intro a ha hd hp hl ho ht
  exact issue_heldBack body hd hp (State.heldBack_of_locked ha hl ho ht)

open Sys2Proof Sys2Proof.Machine in
/-- Settles O1: the reset state lists no cell, so each reads as the blank one. -/
theorem resetState : Obligations.ResetState := by
  unfold Obligations.ResetState
  have hctx : ∀ n k, State.reset.ctx n k = {} := fun n k => by
    simp [State.ctx, Cell.ctx, State.cell, State.reset, State.blank, look]
  refine ⟨fun n => ⟨rfl, rfl, rfl, rfl, rfl⟩, fun n k => ?_, ?_⟩
  · rw [hctx]; exact ⟨rfl, rfl, rfl⟩
  · decide

open Sys2Proof Sys2Proof.Machine in
/-- Settles O7: the next action is the fetch of the chosen context, or the agenda's first event. -/
theorem stepRuns : Obligations.StepRuns := by
  unfold Obligations.StepRuns
  refine ⟨?_, ?_, ?_⟩
  · intro s k i n ha hh hb hu hk hp hs h hd
    obtain ⟨l, hx⟩ := s.ticked_ctx n k
    have hpc : (s.ticked.ctx n k).pc = (s.ctx n k).pc := by rw [hx]
    have hf : s.nextAction = s.ticked.fetch n k := by
      rw [State.nextAction_fetchCell ha hh hb]
      exact State.fetchCell_fetch rfl hu hk hp
    refine step_of_run (hf.trans (State.fetch_own hs ?_ ?_))
    · rw [hpc, State.fetched_ticked]
    · rw [hpc, State.fetched_ticked]; exact hd
  · intro s k i sw pc next r n issuing ha hh hb hu hk hp hs hpc
    have hf : s.nextAction = s.ticked.fetch n k := by
      rw [State.nextAction_fetchCell ha hh hb]
      exact State.fetchCell_fetch rfl hu hk hp
    exact step_of_run (hf.trans (State.fetch_streamed hs hpc))
  · intro s i arg rest ha hw hb hh
    exact step_of_run (State.nextAction_event ha hw hb hh)

open Sys2Proof Sys2Proof.Machine in
/-- Settles O9: the register files are read after a write, and no update reaches another context. -/
theorem registerWrites : Obligations.RegisterWrites := by
  unfold Obligations.RegisterWrites
  refine ⟨?_, ?_, ?_, ?_, ?_, ?_, ?_⟩
  · intro s d r w
    by_cases h0 : r = 0
    · subst h0; simp [State.s]
    · by_cases h : r = d
      · subst h; simp [State.s, h0]
      · simp [State.s, h0, h]
  · intro s d w
    exact ⟨fun r => by rw [State.v, State.setS_cur, Ctx.getV_setS]; rfl, fun r => by rw [State.p, State.setS_cur, Ctx.getP_setS]; rfl⟩
  · intro s d r w
    by_cases h0 : r = 0
    · subst h0; simp [State.p, Ctx.getP]
    · by_cases h : r = d
      · subst h; simp [State.p, h0]
      · simp [State.p, h0, h]
  · intro s d r w; simp [State.v]
  · intro s d w
    exact ⟨fun r => by rw [State.s, State.setP_cur, Ctx.getS_setP]; rfl, fun r => by rw [State.v, State.setP_cur, Ctx.getV_setP]; rfl⟩
  · intro s d w
    exact ⟨fun r => by rw [State.s, State.setV_cur, Ctx.getS_setV]; rfl, fun r => by rw [State.p, State.setV_cur, Ctx.getP_setV]; rfl⟩
  · intro s n k hnk
    refine ⟨fun d w => ?_, fun d w => ?_, fun d w => ?_⟩
    · simp [State.setS, State.ctx_modCur, hnk]
    · simp [State.setP, State.ctx_modCur, hnk]
    · simp [State.setV, State.setVLanes, State.ctx_modCur, hnk]
end

section
/-! SUPPORT. Control and status registers: what a write leaves alone, and what is read back (R64, R121). -/
namespace Sys2Proof.Machine

theorem State.cur_modCtx_stepping (s : State) (n k : Nat) {f : Ctx → Ctx} (h : ∀ x, (f x).stepping = x.stepping) :
    (s.modCtx n k f).cur.stepping = s.cur.stepping := by
  unfold State.cur
  rw [State.modCtx_now, State.ctx_modCtx]
  split
  · next e => rw [h, State.ctx, State.ctx, e.1, Cell.ctx, Cell.ctx]; simp only [e.2]
  · rfl

theorem State.cur_modCell_of_ctxs (s : State) (n : Nat) {f : Cell → Cell} (h : ∀ c, (f c).ctxs = c.ctxs) : (s.modCell n f).cur = s.cur :=
  s.ctx_modCell_of_ctxs n _ _ h

/-- An update of the module that touches neither its cells nor the focus leaves the executing context. -/
theorem State.cur_congr {s t : State} (hc : t.cells = s.cells) (hn : t.now = s.now) (hs : t.stopped = s.stopped) : t.cur = s.cur := by
  simp only [State.cur, State.ctx, State.cell, State.blank, hc, hn, hs]

@[simp] theorem Ctx.setLoopCsr_stepping (x : Ctx) (j v : Nat) : (x.setLoopCsr j v).stepping = x.stepping := by
  unfold Ctx.setLoopCsr
  dsimp only
  split <;> rfl

@[simp] theorem State.depotCsrWrite_cur (s : State) (n k num v : Nat) : (s.depotCsrWrite n k num v).cur = s.cur := rfl

/-- A write of a control register arms no single step. -/
theorem State.csrWrite_stepping (s : State) (n k num : Nat) (w : Word) : (s.csrWrite n k num w).cur.stepping = s.cur.stepping := by
  unfold State.csrWrite
  dsimp only
  split
  case h_1 | h_3 | h_4 | h_5 | h_6 | h_7 | h_8 | h_11 | h_12 | h_13 | h_14 => exact s.cur_modCtx_stepping n k fun _ => rfl
  case h_2 =>
    split
    · rfl
    · exact s.cur_modCtx_stepping n k fun _ => rfl
  case h_9 | h_10 | h_15 | h_16 => exact congrArg Ctx.stepping (s.cur_modCell_of_ctxs n fun _ => rfl)
  case h_17 | h_18 | h_19 | h_20 | h_21 | h_22 | h_23 | h_24 => rfl
  case h_25 =>
    split
    · exact s.cur_modCtx_stepping n k fun x => x.setLoopCsr_stepping _ _
    · split
      · rfl
      · split <;> rfl

/-- A loop register read after it is written (R64). -/
@[simp] theorem Ctx.loopCsr_setLoopCsr (x : Ctx) {j : Nat} (v : Nat) (hj : j < 9) :
    (x.setLoopCsr j v).loopCsr j = v % 2 ^ (if j % 3 = 2 then 64 else 14) := by
  interval_cases j <;> simp [Ctx.setLoopCsr, Ctx.loopCsr]

theorem word_mod (w : Word) : BitVec.ofNat 64 (w.toNat % 18446744073709551616) = w := by
  rw [Nat.mod_eq_of_lt (show w.toNat < 18446744073709551616 from w.isLt), BitVec.ofNat_toNat, BitVec.setWidth_eq]

/-- The registers that keep the low bits of what is written, by number and width (R64, R247, R319, R398). -/
def plainCsrs : List (Nat × Nat) :=
  [(0x010, 5), (0x012, 64), (0x013, 64), (0x018, 14), (0x019, 14), (0x01A, 64), (0x01B, 14), (0x01C, 14), (0x01D, 64),
    (0x01E, 14), (0x01F, 14), (0x020, 64), (0x100, 8), (0x101, 14), (0x102, 64), (0x200, 14), (0x201, 14), (0x204, 64),
    (0x205, 64), (0x206, 64), (0x207, 64), (0x208, 32), (0x2C0, 32), (0x2C5, 32), (0x2C6, 64), (0x2E0, 8)]

/-- Each of them reads back what is written, cut to its width. -/
theorem State.csrRead_csrWrite_plain (s : State) (n k : Nat) (w : Word) :
    ∀ p ∈ plainCsrs, (s.csrWrite n k p.1 w).csrRead n k p.1 = BitVec.ofNat 64 (w.toNat % 2 ^ p.2) := by
  simp only [plainCsrs, List.mem_cons, List.not_mem_nil, or_false, forall_eq_or_imp, forall_eq]
  refine ⟨?_, ?_, ?_, ?_, ?_, ?_, ?_, ?_, ?_, ?_, ?_, ?_, ?_, ?_, ?_, ?_, ?_, ?_, ?_, ?_, ?_, ?_, ?_, ?_, ?_, ?_⟩
  all_goals simp [State.csrWrite, State.csrRead, State.taskCsr, State.systemCsr, word_mod]

/-- An entry of FNROUTE reads back, cut to 11 bits (R319). -/
theorem State.csrRead_csrWrite_fnroute (s : State) (n k : Nat) (w : Word) {j : Nat} (hj : j < 48) :
    (s.csrWrite n k (0x240 + j) w).csrRead n k (0x240 + j) = BitVec.ofNat 64 (w.toNat % 2 ^ 11) := by
  have hw : s.csrWrite n k (0x240 + j) w = { s with fnroute := put s.fnroute j (BitVec.ofNat 11 w.toNat) } := by
    unfold State.csrWrite
    dsimp only
    split <;> (try omega)
    rw [if_neg (by omega), if_neg (by omega), if_pos (by omega), Nat.add_sub_cancel_left]
  have hr : ∀ t : State, t.systemCsr n k (0x240 + j) = (look 0 t.fnroute j).toNat := fun t => by
    unfold State.systemCsr
    dsimp only
    split <;> (try omega)
    rw [if_pos (by omega), Nat.add_sub_cancel_left]
  unfold State.csrRead
  rw [if_neg (by omega), if_neg (by omega), if_neg (by omega), hr, hw]
  simp

/-- A form of CSR access runs in sequence, with the old value in s[D] and the new one written when it writes (R121). -/
theorem csr_runs {i : Instr} {s : State} (d a : Reg) (k : BitVec 10) (wr : Bool) (new : Word → Word → Word) (h : Executes i s)
    (he : exec i s = issue i s (csrBody d a k wr new)) :
    let old := s.csrRead s.now.cell s.now.ctx k.toNat
    Runs i s (if wr then (s.setS d old).csrWrite s.now.cell s.now.ctx k.toNat (new old (s.s a)) else s.setS d old) := by
  intro old
  unfold Runs
  rw [he]
  refine issue_runs h rfl ?_
  split
  · rw [State.csrWrite_stepping, State.setS_cur, Ctx.setS_stepping]
  · rw [State.setS_cur, Ctx.setS_stepping]

end Sys2Proof.Machine
end

section
open Sys2Proof Sys2Proof.Machine

/-- Settles O18: the three forms share one body; the registers are read back number by number. -/
theorem csrRegisters : Obligations.CsrRegisters := by
  unfold Obligations.CsrRegisters
  refine ⟨fun d a k s => ⟨fun h => ?_, fun h => ?_, fun h => ?_⟩, fun s n k w => ⟨?_, ?_, ?_, ?_, ?_, ?_⟩⟩
  · exact csr_runs d a k true _ h (exec_csrrw d a k s)
  · simpa using csr_runs d a k (a != 0) _ h (exec_csrrs d a k s)
  · simpa using csr_runs d a k (a != 0) _ h (exec_csrrc d a k s)
  · exact s.csrRead_csrWrite_plain n k w
  · exact fun j hj => s.csrRead_csrWrite_fnroute n k w hj
  · by_cases hw : w.toNat % 8 < 5
    · simp [State.csrWrite, State.csrRead, State.taskCsr, hw, Nat.not_le.mpr hw]
    · simp [State.csrWrite, State.csrRead, State.taskCsr, hw, Nat.le_of_not_lt hw]
  · have hx : ((s.ctx n k).trapstate.toNat / 4 * 4 + w.toNat % 4) % 18446744073709551616 =
        (s.ctx n k).trapstate.toNat / 4 * 4 + w.toNat % 4 := Nat.mod_eq_of_lt (by have := (s.ctx n k).trapstate.isLt; omega)
    simp [State.csrWrite, State.csrRead, State.systemCsr, hx]
  · have hx : w.toNat / 32768 * 32768 % 4503599627370496 = w.toNat % 4503599627370496 / 32768 * 32768 := by omega
    simp [State.csrWrite, State.csrRead, State.systemCsr, hx]
  · have hx : min 16384 (w.toNat % 32768) % 32768 = min 16384 (w.toNat % 32768) := by omega
    simp [State.csrWrite, State.csrRead, State.systemCsr, hx]
end

section
/-! SUPPORT. What a leader's end or trap does to its followers, and the end of an activation (R43, R44, R57, R109). -/
namespace Sys2Proof.Machine

/-- Cells changed each by its number: every cell is as it was, or changed. -/
theorem State.cell_mapCells (s : State) (g : Nat → Cell → Cell) (m : Nat) :
    State.cell { s with cells := s.cells.map fun e => (e.1, g e.1 e.2) } m = s.cell m ∨
    State.cell { s with cells := s.cells.map fun e => (e.1, g e.1 e.2) } m = g m (s.cell m) := by
  simp only [State.cell, State.blank, look_map _ g, look_eq _ s.cells]
  cases look? s.cells m with
  | none => exact .inl rfl
  | some c => exact .inr rfl

/-- `t` is `s` but for follow mode in context `k` of the other cells of `n`'s cluster, where each of `fs` is a change of that mode. -/
structure FollowersOf (n k : Nat) (f : Ctx → Ctx) (s t : State) : Prop where
  rest : t = { s with cells := t.cells }
  cells : ∀ m, t.cell m = s.cell m ∨ m ≠ n ∧ t.cell m = (s.cell m).setCtx k (f ((s.cell m).ctx k))

theorem FollowersOf.refl (n k : Nat) (f : Ctx → Ctx) (s : State) : FollowersOf n k f s s := ⟨rfl, fun _ => .inl rfl⟩

/-- The change of one context of every other cell of a cluster. -/
theorem followersOf_map (s : State) (n k : Nat) (f : Ctx → Ctx) :
    FollowersOf n k f s { s with cells := s.cells.map fun e =>
      if e.1 / 16 = n / 16 ∧ e.1 ≠ n then (e.1, e.2.setCtx k (f (e.2.ctx k))) else e } := by
  refine ⟨rfl, fun m => ?_⟩
  let g : Nat → Cell → Cell := fun m c => if m / 16 = n / 16 ∧ m ≠ n then c.setCtx k (f (c.ctx k)) else c
  have e : (s.cells.map fun e => if e.1 / 16 = n / 16 ∧ e.1 ≠ n then (e.1, e.2.setCtx k (f (e.2.ctx k))) else e) =
      s.cells.map fun e => (e.1, g e.1 e.2) :=
    List.map_congr_left fun e _ => by simp only [g]; split <;> rfl
  rw [e]
  obtain h | h := s.cell_mapCells g m
  · exact .inl h
  · rw [h]
    by_cases hm : m / 16 = n / 16 ∧ m ≠ n
    · exact .inr ⟨hm.2, if_pos hm⟩
    · exact .inl (if_neg hm)

theorem State.releaseFollowers_of (s : State) (n k : Nat) : FollowersOf n k Ctx.unfollow s (s.releaseFollowers n k) := by
  unfold State.releaseFollowers
  split
  · exact followersOf_map s n k _
  · exact .refl ..

theorem State.engageFollowers_of (s : State) (n k : Nat) :
    FollowersOf n k (Ctx.engage · (s.ctx n k).pc) s (s.engageFollowers n k) := by
  unfold State.engageFollowers
  dsimp only
  split
  · exact followersOf_map s n k _
  · exact .refl ..

/-- The leader's own cell is as it was. -/
theorem FollowersOf.own {n k : Nat} {f : Ctx → Ctx} {s t : State} (h : FollowersOf n k f s t) : t.cell n = s.cell n := by
  obtain e | ⟨e, -⟩ := h.cells n
  · exact e
  · exact absurd rfl e

/-- No context changes but by `f`. -/
theorem FollowersOf.ctx {n k : Nat} {f : Ctx → Ctx} {s t : State} (h : FollowersOf n k f s t) (m j : Nat) :
    t.ctx m j = s.ctx m j ∨ m ≠ n ∧ t.ctx m j = f (s.ctx m j) := by
  unfold State.ctx
  obtain e | ⟨hm, e⟩ := h.cells m
  · exact .inl (by rw [e])
  · rw [e, Cell.ctx_setCtx]
    split
    · next hj =>
      have : (s.cell m).ctx j = (s.cell m).ctx k := by simp [Cell.ctx, hj]
      exact .inr ⟨hm, by rw [this]⟩
    · exact .inl rfl

theorem FollowersOf.ctx_own {n k : Nat} {f : Ctx → Ctx} {s t : State} (h : FollowersOf n k f s t) (j : Nat) : t.ctx n j = s.ctx n j := by
  simp only [State.ctx, h.own]

/-- Freeing context (n, k): what it is afterwards. -/
theorem State.freeCtx_ctx (s : State) (n k : Nat) : (s.freeCtx n k).ctx n k =
    { s.ctx n k with
      busy := false, parked := false, ending := false, wait := .none, answers := [], pendingTrap := none
      stepping := false, debugStep := false, fence := [], following := false, stream := [], join := none
      jrec := 0, retained := none, prq := 0, dline := 0, sys := false, inTrap := 0, saving := false, mixreads := []
      tables := ((s.ctx n k).tables.set 0 none).set 1 none, stage := 0, again := [], storing := none } := by
  unfold State.freeCtx
  rw [State.ctx_modCtx, if_pos ⟨rfl, rfl⟩, (s.releaseFollowers_of n k).ctx_own]

/-- It changes cells alone. -/
theorem State.freeCtx_rest (s : State) (n k : Nat) : s.freeCtx n k = { s with cells := (s.freeCtx n k).cells } := by
  have h := (s.releaseFollowers_of n k).rest
  unfold State.freeCtx
  rw [h]
  rfl

/-- The state in which ENDTASK with result `w` has ended the executing context's activation (R57, R109). -/
def State.endedWith (s : State) (w : Word) : State :=
  (((s.modCur fun x => { x with retired := x.retired + 1 }).engageFollowers s.now.cell s.now.ctx).endUpdates s.now.cell s.now.ctx w
    false).freeCtx s.now.cell s.now.ctx

/-- ENDTASK waits while results are owed, and ends the activation otherwise. -/
theorem endtaskBody_eq (a : Reg) (s : State) : endtaskBody a s =
    if s.owed s.now.cell s.now.ctx then .error (.wait (s.modCur fun x => { x with ending := true }))
    else .error (.wait (s.endedWith (s.s a))) := by
  have hs : (s.modCur fun x => { x with retired := x.retired + 1 }).s a = s.s a := by
    rw [State.s, State.cur_modCur]; rfl
  unfold endtaskBody State.endedWith
  rw [← hs]

/-- What ENDTASK with result `w` leaves (R57, R109): the context free, and the updates in their order. -/
def EndsWith (s : State) (w : Word) (t : State) : Prop :=
  t.cur.busy = false ∧ t.cur.join = none ∧ t.cur.retired = s.cur.retired + 1 ∧
    t.cur.s = s.cur.s ∧ t.posts = s.posts ∧ t.pad = s.pad ∧ t.hbm = s.hbm ∧
    t.records = s.records ++ (match s.cur.join with | some (va, n) => [RecOp.joinClose va.toNat n s.nextId] | none => [])
      ++ (if s.cur.jrec = 0 then [] else [RecOp.joinChild s.cur.jrec.toNat s.cur.jslot.toNat w.toNat false s.nextId])
      ++ (if s.cur.launch = none then [] else [RecOp.liveSub s.cur.level.toNat])

theorem State.endedWith_ends (s : State) (w : Word) : EndsWith s w (s.endedWith w) := by
  let s1 := s.modCur fun x => { x with retired := x.retired + 1 }
  have he := s1.engageFollowers_of s.now.cell s.now.ctx
  generalize hs2 : s1.engageFollowers s.now.cell s.now.ctx = s2 at he
  have hx : s2.ctx s.now.cell s.now.ctx = { s.cur with retired := s.cur.retired + 1 } := by
    rw [he.ctx_own]
    exact s.cur_modCur _
  let s3 := s2.endUpdates s.now.cell s.now.ctx w false
  have ht : s.endedWith w = s3.freeCtx s.now.cell s.now.ctx := by
    simp only [s3, ← hs2]; rfl
  have hr := s3.freeCtx_rest s.now.cell s.now.ctx
  have hnow : s2.now = s.now := by rw [he.rest]; rfl
  have hc : (s.endedWith w).cur = (s3.freeCtx s.now.cell s.now.ctx).ctx s.now.cell s.now.ctx := by
    rw [ht]
    unfold State.cur
    rw [hr]
    show State.ctx _ s2.now.cell s2.now.ctx = _
    rw [hnow]
  have hx3 : s3.ctx s.now.cell s.now.ctx = { s.cur with retired := s.cur.retired + 1 } := hx
  have hrec : s2.records = s.records := by rw [he.rest]; rfl
  have hid : s2.nextId = s.nextId := by rw [he.rest]; rfl
  refine ⟨?_, ?_, ?_, ?_, ?_, ?_, ?_, ?_⟩
  iterate 4 rw [hc, State.freeCtx_ctx, hx3]
  · rw [ht, hr]; show s2.posts = _; rw [he.rest]; rfl
  · rw [ht, hr]; show s2.pad = _; rw [he.rest]; rfl
  · rw [ht, hr]; show s2.hbm = _; rw [he.rest]; rfl
  · rw [ht, hr]
    show s3.records = _
    simp only [s3, State.endUpdates, hx, hrec, hid] <;> rfl

end Sys2Proof.Machine
end

section
open Sys2Proof Sys2Proof.Machine

/-- Settles O19: both forms have one body, the compact one with result s0. -/
theorem endtaskEnds : Obligations.EndtaskEnds := by
  unfold Obligations.EndtaskEnds
  intro a s p hp hx
  have key : ∀ (i : Instr) (b : Reg), Executes i s → exec i s = issue i s (endtaskBody b) →
      if s.owed s.now.cell s.now.ctx = true then exec i s = .next (s.modCur fun x => { x with ending := true })
      else ∃ t, exec i s = .next t ∧ EndsWith s (s.s b) t := by
    intro i b hx he
    rw [he]
    split
    · next ho => exact issue_wait hx (by rw [endtaskBody_eq, if_pos ho])
    · next ho => exact ⟨_, issue_wait hx (by rw [endtaskBody_eq, if_neg ho]), s.endedWith_ends _⟩
  simp only [List.mem_cons, List.not_mem_nil, or_false] at hp
  obtain rfl | rfl := hp
  · exact key _ a hx (exec_endtask a s)
  · exact key _ 0 hx (exec_cEndtask s)
end

section
/-! SUPPORT. The executing cell and context under the updates of State. -/
namespace Sys2Proof.Machine

/-- A change of the executing context hangs on what it does to that context. -/
theorem State.modCur_congr {s : State} {f g : Ctx → Ctx} (h : f s.cur = g s.cur) : s.modCur f = s.modCur g := by
  unfold State.cur at h
  unfold State.modCur State.modCtx
  rw [h]

theorem State.here_modCur (s : State) (f : Ctx → Ctx) : (s.modCur f).here = s.here.setCtx s.now.ctx (f s.cur) := by
  simp [State.modCur, State.modCtx, State.setCtx, State.here, State.cur]

@[simp] theorem State.here_modHere (s : State) (f : Cell → Cell) : (s.modHere f).here = f s.here := by
  simp [State.modHere, State.here]

theorem State.cur_modHere (s : State) {f : Cell → Cell} (h : ∀ c, (f c).ctxs = c.ctxs) : (s.modHere f).cur = s.cur :=
  s.cur_modCell_of_ctxs _ h

@[simp] theorem State.here_sent_modCur (s : State) (f : Ctx → Ctx) : (s.modCur f).here.sent = s.here.sent := by
  rw [State.here_modCur]; rfl

@[simp] theorem State.here_deque_modCur (s : State) (f : Ctx → Ctx) : (s.modCur f).here.deque = s.here.deque := by
  rw [State.here_modCur]; rfl

@[simp] theorem State.setS_here (s : State) (d : Reg) (w : Word) : (s.setS d w).here = (s.modCur (·.setS d w)).here := rfl

@[simp] theorem State.countSent_cur (s : State) : s.countSent.cur = s.cur := s.cur_modHere fun _ => rfl

@[simp] theorem State.countSent_here_sent (s : State) : s.countSent.here.sent = s.here.sent + 1 := by
  rw [State.countSent, State.here_modHere]

@[simp] theorem State.countSent_here_deque (s : State) : s.countSent.here.deque = s.here.deque := by
  rw [State.countSent, State.here_modHere]

/-! ### SPAWN (R110-R114) -/

/-- With nothing kept the operands are those of the registers now. -/
theorem State.kept_of_nil {s : State} (h : s.cur.answers = []) (x : Nat) : s.kept x = x := by
  simp [State.kept, State.word?, h]

theorem State.block_ok {s : State} {a n align : Nat} (h : s.BlockOk a n align) : s.block a n align = .ok () := by
  simp [State.block, h.aligned, h.inRows, h.quiet]

/-- The first step of a form with a block, read as a whole (R207). -/
theorem State.gather_whole {s : State} (ops g a n : Nat) (hk : s.cur.stage - 1024 = 0) (hl : s.late.headD false = false) :
    s.gather ops g 0 a n = .ok (s.tookBlock, s.tookBlock) := by
  simp only [State.gather, hk, hl]; rfl

/-- The first step of a form with a block, read in pieces (R207). -/
theorem State.gather_piece {s : State} (ops g a n : Nat) (hk : s.cur.stage = 0) (ha : s.cur.answers = []) (hl : s.late.headD false = true) :
    s.gather ops g 0 a n = .error (.wait (s.tookPiece ops (s.localBytes a g))) := by
  have hf : s.tookBlock.modCur (fun x =>
      let y := x.keep ops
      { y with stage := 1025 + 0, answers := y.answers ++ [.word (1024 + 0) (ofBytes (s.tookBlock.localBytes (a + g * (0 - 0)) g))] }) =
      s.tookPiece ops (s.localBytes a g) := by
    refine State.modCur_congr ?_
    simp only [Ctx.keep, State.tookBlock_cur, ha, List.nil_append, List.singleton_append, Nat.sub_zero, Nat.mul_zero, Nat.add_zero]
    rfl
  simp only [State.gather, hk, hl]
  exact congrArg (fun t => Except.error (Stop.wait t)) hf

/-! ### JOIN (R57, R115) -/

/-- An access just issued holds back no granule (R195). -/
theorem State.granuleHeld_launched (s : State) (a : Access) (va : Nat) (hp : a.phase = .issued) (hr : a.replayed = false) :
    (s.launched a).granuleHeld va = s.granuleHeld va := by
  show ((s.inflight ++ [a]).any fun b => s.owns s.now.cell s.now.ctx b && (b.phase == .parked || b.replayed) && b.reaches va) = _
  rw [List.any_append, List.any_cons, List.any_nil, hp, hr]
  simp [State.granuleHeld]

theorem State.probe_mapped {s : State} {va : Nat} {w : Bool} {pl : Place} {key : Nat} {chk : Bool} (h : s.Mapped va w pl key chk) :
    s.probe va w = .ok () := by
  unfold State.probe
  rw [if_neg (Nat.not_le.mpr h.low), if_neg (by rw [h.free]; decide), h.home]

/-- An access whose address translates to a home in this module leaves for it (R178, R223). -/
theorem State.global_at {s : State} {w : Bool} {a : Access} {pl : Place} {key : Nat} {chk : Bool} (hl : a.va < 2 ^ 60)
    (hf : s.granuleHeld a.va = false) (hc : a.op.counted = true → s.storesOut < 32) (ht : s.translate a.va w = .at ⟨pl, key, chk⟩)
    (hn : ∀ dev pa, pl ≠ .remote dev pa) : s.global w a = .ok (s.enter { a with place := pl, key := key, chk := chk }) := by
  have hroom : (a.op.counted && decide (32 ≤ s.storesOut)) = false := by
    cases e : a.op.counted
    · rfl
    · simpa using hc e
  have hsend : s.send { a with place := pl, key := key, chk := chk } = some (s.enter { a with place := pl, key := key, chk := chk }) := by
    unfold State.send
    cases pl with
    | remote dev pa => exact absurd rfl (hn dev pa)
    | hbm _ => rfl
    | host _ _ => rfl
    | pad _ _ => rfl
    | away _ _ _ => rfl
  unfold State.global
  rw [if_neg (Nat.not_le.mpr hl), hf, hroom, ht]
  dsimp only
  rw [hsend]
  rfl

/-- The state in which JOIN has made its two accesses and armed its join (R57, R115). -/
def State.joined (s : State) (a1 a2 : Access) (va : Nat) : State :=
  let x := s.cur
  let t := (s.launched a1).launched a2
  let close := match x.join with
    | some (v, n) => [RecOp.joinClose v.toNat n s.nextId]
    | none => []
  State.modCur { t with
      records := t.records ++ close ++ [RecOp.liveAdd x.level.toNat 0]
      joins := t.joins ++ [{ va := va, lcell := x.lcell.toNat, launch := (x.launch.getD 0).toNat, path := x.path, errs := 0 }] }
    fun x => { x with join := some (BitVec.ofNat 64 va, 0) }

theorem joinBody_ok {s : State} {d a : Reg} {k : BitVec 8} {pa pa' : Place} {key key' : Nat} {chk chk' : Bool}
    (ha : (s.s a).toNat % 8 = 0) (hk : 16 ≤ k.toNat) (hl : s.cur.launch ≠ none) (h1 : s.Mapped (s.s a).toNat true pa key chk)
    (h2 : s.Mapped ((s.s a).toNat + 8) true pa' key' chk') :
    let va := (s.s a).toNat
    let a1 := s.issuedTo (.join d a k) va pa key chk (.record 8 (k.toNat * 2 ^ 32 + 0xFFFF)) .none (k.toNat * 2 ^ 32 + 0xFFFF)
    let a2 := { s.issuedTo (.join d a k) (va + 8) pa' key' chk' (.record 8 (s.s d).toNat) .none (s.s d).toNat with id := s.nextId + 1 }
    joinBody d a k s = .ok { s := s.joined a1 a2 va } := by
  intro va a1 a2
  have hg1 : s.global true { Access.of (s.s a).toNat (.hbm 0) (.record 8 (k.toNat * 2 ^ 32 + 0xFFFF)) .none with
      word := value (.join d a k) s.now.sw, data := k.toNat * 2 ^ 32 + 0xFFFF } = .ok (s.launched a1) :=
    State.global_at h1.low h1.free (fun h => nomatch h) h1.home h1.near
  have hheld : (s.launched a1).granuleHeld ((s.s a).toNat + 8) = false := (s.granuleHeld_launched a1 _ rfl rfl).trans h2.free
  have hg2 : (s.launched a1).global true { Access.of ((s.s a).toNat + 8) (.hbm 0) (.record 8 (s.s d).toNat) .none with
      word := value (.join d a k) s.now.sw, data := (s.s d).toNat } = .ok ((s.launched a1).launched a2) :=
    State.global_at h2.low hheld (fun h => nomatch h) h2.home h2.near
  have ha' : aligned (s.s a).toNat 8 = .ok () := if_pos ha
  unfold joinBody
  simp only [ha', State.probe_mapped h1, State.probe_mapped h2, bind, Except.bind]
  refine (if_neg (Nat.not_lt.mpr hk)).trans ((if_neg hl).trans ?_)
  rw [hg1]
  dsimp only
  rw [hheld, if_neg Bool.false_ne_true, hg2]
  rfl

/-- What `postChild` adds for a child at place 0, 1 or 2 with room in the deque (R53-R55). -/
theorem State.postChild_eq (s : State) (m : Msg) (near place : Nat) (rel : Bool) (hp : place < 3) (hd : s.here.deque.length < 32) :
    ∃ q : Post, q.msg = m ∧ q.after = (if rel then s.openAccesses else []) ∧ q.gate = .pending s.nextId ∧
      (place = 0 → q.target = .logical m.dest.toNat) ∧
      (place = 1 → q.target = .near (s.clusterXY s.now.cell).1 (s.clusterXY s.now.cell).2 (bits near 8 6) (bits near 16 5) (bits near 0 6)) ∧
      (place = 2 → q.target = .physical s.now.cell) ∧
      let t : State := { s with nextId := s.nextId + 1, records := s.records ++ [RecOp.liveAdd (s.levelVa m.launch.toNat) s.nextId] }
      s.postChild m near place rel = if place = 2 then t.modHere fun c => { c with deque := q :: c.deque }
        else { t with posts := s.posts ++ [q] } := by
  obtain rfl | rfl | rfl : place = 0 ∨ place = 1 ∨ place = 2 := by omega
  · exact ⟨{ msg := m, target := .logical m.dest.toNat, out := true, after := if rel then s.openAccesses else []
             flow := some (s.cur.lcell.toNat, m.dest.toNat), det := s.window m, gate := .pending s.nextId },
      rfl, rfl, rfl, fun _ => rfl, fun h => by omega, fun h => by omega, rfl⟩
  · exact ⟨{ msg := m, target := .near (s.clusterXY s.now.cell).1 (s.clusterXY s.now.cell).2 (bits near 8 6) (bits near 16 5) (bits near 0 6)
             out := true, after := if rel then s.openAccesses else [], det := s.window m, gate := .pending s.nextId },
      rfl, rfl, rfl, fun h => by omega, fun _ => rfl, fun h => by omega, rfl⟩
  · refine ⟨{ msg := m, target := .physical s.now.cell, after := if rel then s.openAccesses else [], gate := .pending s.nextId },
      rfl, rfl, rfl, fun h => by omega, fun h => by omega, fun _ => rfl, ?_⟩
    simp only [State.postChild, hd]
    rfl

/-- A byte of a longer little-endian read. -/
theorem Memory.read_succ (m : List Host.Cell) (a n : Nat) : Memory.read m a (n + 1) = (Memory.get m a).toNat + 256 * Memory.read m (a + 1) n := rfl

theorem State.localRead_three (s : State) (a : Nat) : s.localRead a 3 =
    s.localRead a 1 + 256 * (s.localRead (a + 1) 1 + 256 * s.localRead (a + 2) 1) := by
  simp only [State.localRead, State.padRead, State.localAddr, padKey, Memory.read]
  ring_nf

theorem State.localRead_byte_lt (s : State) (a : Nat) : s.localRead a 1 < 256 := by
  simp only [State.localRead, State.padRead, Memory.read]
  omega

/-- The four arguments of a child are those of its block (R111). -/
theorem State.childMsg_args (s : State) (base place c : Nat) (rel : Bool) (j : Fin 4) :
    (s.childMsg base place c rel).args[j] = BitVec.ofNat 64 (s.localRead (base + 8 * j.val) 8) := by
  fin_cases j <;> rfl

/-- The state that a SPAWN completes in, whose block is read as a whole and in order (R112-R114). -/
def State.spawned (s : State) (place : Nat) (d : Reg) (base c : Nat) (rel : Bool) : State :=
  State.setS ((State.countSent (s.tookBlock.postChild (s.tookBlock.childMsg base place c rel) (s.localRead (base + 33) 3) place rel)).modCur fun x =>
    { x with join := x.join.map fun (va, n) => (va, n + 1) }) d (childPath s.cur.path c)

@[simp] theorem State.tookBlock_localRead (s : State) (a n : Nat) : s.tookBlock.localRead a n = s.localRead a n := rfl

theorem spawnBody_ok {s : State} {d a : Reg} (place : Nat) (c : BitVec 6) (r : BitVec 1) (ho : s.outFull = false)
    (hb : s.BlockOk (s.s a).toNat 48 16) (h1 : s.AtOnce) (hc : 16 ≤ s.localRead ((s.s a).toNat + 32) 1) (hl : s.cur.launch ≠ none)
    (hd : s.cur.path.toNat % 16 < 9) (hv : pathValid s.cur.path = true) (hj : s.cur.joinFull = false) :
    spawnBody place d a c r s = .ok { s := s.spawned place d (s.s a).toNat c.toNat (r == 1) } := by
  unfold spawnBody
  have hg := State.gather_whole (s := s) (s.s a).toNat 1 (s.s a).toNat 48 (by rw [h1.first]) h1.whole
  have hp : ¬ (decide (9 ≤ s.cur.path.toNat % 16) || !pathValid s.cur.path) = true := by simp [hv, hd]
  simp only [State.kept_of_nil h1.fresh, ho, State.block_ok hb, hb.good, hg, bind, Except.bind, pure, Except.pure]
  refine (if_neg Bool.false_ne_true).trans ((if_neg (Nat.not_lt.mpr hc)).trans ((if_neg hl).trans ((if_neg hp).trans ((if_neg ?_).trans rfl))))
  exact fun h => Bool.false_ne_true (hj.symm.trans h)

/-! ### Blocks read piece by piece (R207) -/

/-- The bytes of a number, low byte first. -/
theorem getD_toBytes (n x j : Nat) (hj : j < n) : (toBytes n x).getD j 0 = BitVec.ofNat 8 (x / 256 ^ j) := by
  induction n generalizing x j with
  | zero => omega
  | succ n ih =>
    cases j with
    | zero => simp [toBytes]
    | succ j =>
      rw [toBytes, List.getD_cons_succ, ih _ _ (by omega), Nat.pow_succ, Nat.mul_comm (256 ^ j), ← Nat.div_div_eq_div_mul]

@[simp] theorem length_toBytes (n x : Nat) : (toBytes n x).length = n := by
  induction n generalizing x with
  | zero => rfl
  | succ n ih => rw [toBytes, List.length_cons, ih]

/-- A byte of the number that a byte string stands for. -/
theorem ofBytes_byte (l : List Byte) (j : Nat) : ofBytes l / 256 ^ j % 256 = (l.getD j 0).toNat := by
  induction l generalizing j with
  | nil => simp [ofBytes]
  | cons b r ih =>
    have hb := b.isLt
    cases j with
    | zero => rw [ofBytes, List.getD_cons_zero]; omega
    | succ j =>
      rw [List.getD_cons_succ, ← ih j, ofBytes, Nat.pow_succ, Nat.mul_comm (256 ^ j), ← Nat.div_div_eq_div_mul]
      congr 2
      omega

/-- Pieces of `g` bytes one after another. -/
theorem getD_flatMap_toBytes {α : Type} (g : Nat) (hg : 0 < g) (f : α → Nat) (l : List α) (j : Nat) (x : α) (h : l[j / g]? = some x) :
    (l.flatMap fun y => toBytes g (f y)).getD j 0 = BitVec.ofNat 8 (f x / 256 ^ (j % g)) := by
  induction l generalizing j with
  | nil => simp at h
  | cons y r ih =>
    rw [List.flatMap_cons]
    by_cases hj : j < g
    · rw [Nat.div_eq_of_lt hj] at h
      obtain rfl : y = x := by simpa using h
      rw [List.getD_append _ _ _ _ (by rw [length_toBytes]; exact hj), getD_toBytes _ _ _ hj, Nat.mod_eq_of_lt hj]
    · have e : j = j - g + g := by omega
      rw [e, Nat.add_div_right _ hg] at h
      rw [List.getD_append_right _ _ _ _ (by rw [length_toBytes]; omega), length_toBytes, ih (j - g) (by simpa using h)]
      conv_rhs => rw [e, Nat.add_mod_right]

/-- A form that has its whole block in pieces goes on with it in its rows (R207). -/
theorem State.gather_read {s : State} {ops g skip a n : Nat} (hg : 0 < g) (hk : 0 < s.cur.stage - 1024)
    (hp : skip + (n + g - 1) / g ≤ s.cur.stage - 1024) (hm : s.MemoryOk) : ∃ rd, s.gather ops g skip a n = .ok (s, rd) ∧ rd.cur = s.cur ∧
      ∀ j, j < n → rd.localRead (a + j) 1 = (s.word? (1024 + skip + j / g)).getD 0 / 256 ^ (j % g) % 256 := by
  let got := (List.range ((n + g - 1) / g)).flatMap fun j => toBytes g ((s.word? (1024 + skip + j)).getD 0)
  let key := padKey s.now.cell (s.localAddr s.now.cell s.cur a)
  refine ⟨{ s with pad := Memory.write s.pad key n (ofBytes (got.take n)) }, ?_, rfl, fun j hj => ?_⟩
  · unfold State.gather
    dsimp only
    rw [if_neg (Nat.ne_of_gt hk), if_neg (Nat.not_lt.mpr hp)]
  · have hkey : padKey s.now.cell (s.localAddr s.now.cell s.cur (a + j)) = key + j := by
      simp only [key, padKey, State.localAddr]; omega
    have hq : j / g < (n + g - 1) / g := by
      rw [Nat.div_lt_iff_lt_mul hg, Nat.mul_comm]
      have := Nat.div_add_mod (n + g - 1) g
      have := Nat.mod_lt (n + g - 1) hg
      omega
    have hgot : (got.take n).getD j 0 = BitVec.ofNat 8 ((s.word? (1024 + skip + j / g)).getD 0 / 256 ^ (j % g)) := by
      rw [List.getD_eq_getElem?_getD, List.getElem?_take_of_lt hj, ← List.getD_eq_getElem?_getD]
      exact getD_flatMap_toBytes g hg (fun j => (s.word? (1024 + skip + j)).getD 0) _ j (j / g) (by simp [hq])
    show Memory.read (Memory.write s.pad key n (ofBytes (got.take n))) (padKey s.now.cell (s.localAddr s.now.cell s.cur (a + j))) 1 = _
    rw [hkey, Memory.read, Memory.read, Memory.get_write _ _ _ _ hm.2, if_pos ⟨by omega, by omega⟩, Nat.add_sub_cancel_left,
      BitVec.toNat_ofNat, ofBytes_byte, hgot, BitVec.toNat_ofNat, Nat.mul_zero, Nat.add_zero]

/-- In the middle of a block the next piece is taken, and nothing else changes (R207). -/
theorem State.gather_next {s : State} {ops g skip a n : Nat} (hk : 0 < s.cur.stage - 1024) (hp : s.cur.stage - 1024 < skip + (n + g - 1) / g) :
    s.gather ops g skip a n = .error (.wait (s.modCur fun x => { x with
      stage := 1025 + (s.cur.stage - 1024), answers := x.answers ++ [.word (1024 + (s.cur.stage - 1024))
        (ofBytes (s.localBytes (a + g * (s.cur.stage - 1024 - skip)) g))] })) := by
  simp only [State.gather, if_neg (Nat.ne_of_gt hk), if_pos hp]

/-- A form whose earlier pieces settled the way it reads its block goes on. -/
theorem State.gather_skip {s : State} {ops g skip a n : Nat} (hk : s.cur.stage - 1024 = 0) (hs : skip ≠ 0) :
    s.gather ops g skip a n = .ok (s, s) := by
  unfold State.gather
  dsimp only
  rw [if_pos hk, if_pos hs]

/-- The three forms of SPAWN by their placement (R110). -/
def spawnForm (place : Fin 3) (d a : Reg) (c : BitVec 6) (r : BitVec 1) : Instr :=
  match place with
  | 0 => .spawnPath d a c r
  | 1 => .spawnNear d a c r
  | 2 => .spawnSteal d a c r

theorem exec_spawnForm (place : Fin 3) (d a : Reg) (c : BitVec 6) (r : BitVec 1) (s : State) :
    exec (spawnForm place d a c r) s = issue (spawnForm place d a c r) s (spawnBody place.val d a c r) := by
  fin_cases place
  · exact exec_spawnPath d a c r s
  · exact exec_spawnNear d a c r s
  · exact exec_spawnSteal d a c r s

/-- The first step of a SPAWN whose block is read in pieces (R207). -/
theorem spawnBody_piece {s : State} {d a : Reg} (place : Nat) (c : BitVec 6) (r : BitVec 1) (ho : s.outFull = false)
    (hb : s.BlockOk (s.s a).toNat 48 16) (hk : s.cur.stage = 0) (ha : s.cur.answers = []) (hl : s.late.headD false = true) :
    spawnBody place d a c r s = .error (.wait (s.tookPiece (s.s a).toNat (s.localBytes (s.s a).toNat 1))) := by
  have hg := State.gather_piece (s.s a).toNat 1 (s.s a).toNat 48 hk ha hl
  unfold spawnBody
  simp only [State.kept_of_nil ha, ho, State.block_ok hb, hb.good, hg, bind, Except.bind]
  rfl

/-- What a child that has been posted leaves of the executing context and cell. -/
theorem State.postChild_here (s : State) (m : Msg) (near place : Nat) (rel : Bool) (hp : place < 3) (hd : s.here.deque.length < 32) :
    (s.postChild m near place rel).cur = s.cur ∧ (s.postChild m near place rel).here.sent = s.here.sent ∧
      (s.postChild m near place rel).now = s.now := by
  obtain ⟨q, -, -, -, -, -, -, e⟩ := s.postChild_eq m near place rel hp hd
  rw [e]
  split
  · exact ⟨State.cur_modHere _ fun _ => rfl, by rw [State.here_modHere]; rfl, rfl⟩
  · exact ⟨rfl, rfl, rfl⟩

theorem State.spawned_here (s : State) (place : Nat) (d : Reg) (base c : Nat) (rel : Bool) : (s.spawned place d base c rel).here.sent =
    (s.tookBlock.postChild (s.tookBlock.childMsg base place c rel) (s.localRead (base + 33) 3) place rel).here.sent + 1 := by
  simp [State.spawned]

theorem State.spawned_here_deque (s : State) (place : Nat) (d : Reg) (base c : Nat) (rel : Bool) : (s.spawned place d base c rel).here.deque =
    (s.tookBlock.postChild (s.tookBlock.childMsg base place c rel) (s.localRead (base + 33) 3) place rel).here.deque := by
  simp [State.spawned]

theorem State.spawned_records (s : State) (place : Nat) (d : Reg) (base c : Nat) (rel : Bool) : (s.spawned place d base c rel).records =
    (s.tookBlock.postChild (s.tookBlock.childMsg base place c rel) (s.localRead (base + 33) 3) place rel).records := by
  rw [State.spawned, State.setS_records, State.modCur_records, State.countSent, State.modHere_records]

theorem State.spawned_posts (s : State) (place : Nat) (d : Reg) (base c : Nat) (rel : Bool) : (s.spawned place d base c rel).posts =
    (s.tookBlock.postChild (s.tookBlock.childMsg base place c rel) (s.localRead (base + 33) 3) place rel).posts := by
  rw [State.spawned, State.setS_posts, State.modCur_posts, State.countSent, State.modHere_posts]

theorem State.spawned_cur (s : State) {place : Nat} (d : Reg) (base c : Nat) (rel : Bool) (hp : place < 3) (hd : s.here.deque.length < 32) :
    (s.spawned place d base c rel).cur =
      Ctx.setS { s.cur with join := s.cur.join.map fun j => (j.1, j.2 + 1) } d (childPath s.cur.path c) := by
  obtain ⟨hc, -, -⟩ := s.tookBlock.postChild_here (s.tookBlock.childMsg base place c rel) (s.localRead (base + 33) 3) place rel hp hd
  unfold State.spawned
  rw [State.setS_cur, State.cur_modCur, State.countSent_cur, hc]
  rfl

end Sys2Proof.Machine
end

section
open Sys2Proof Sys2Proof.Machine

/-- Settles O20: SPAWN through `spawnBody_ok` and `postChild_eq`, the blocks through `gather`'s cases, JOIN through `joinBody_ok`. -/
theorem spawnAndJoin : Obligations.SpawnAndJoin := by
  unfold Obligations.SpawnAndJoin
  refine ⟨?_, ?_, ?_⟩
  · intro d a c r s base child p hp hx hb ho
    obtain ⟨place, rfl⟩ : ∃ place : Fin 3, p = (spawnForm place d a c r, place.val) := by
      simp only [List.mem_cons, List.not_mem_nil, or_false] at hp
      obtain rfl | rfl | rfl := hp
      · exact ⟨0, rfl⟩
      · exact ⟨1, rfl⟩
      · exact ⟨2, rfl⟩
    clear hp
    dsimp only at hx ⊢
    have hbranch := exec_spawnForm place d a c r s
    refine ⟨fun hk ha hl => ?_, fun h1 hc hl hd hv hj hq => ?_⟩
    · rw [hbranch]
      exact issue_wait hx (spawnBody_piece place.val c r ho hb hk ha hl)
    · obtain ⟨q, hm, ha, hg, ht0, ht1, ht2, he⟩ := s.tookBlock.postChild_eq (s.tookBlock.childMsg base place.val c.toNat (r == 1))
        (s.localRead (base + 33) 3) place.val (r == 1) place.isLt hq
      have hcur := s.spawned_cur d base c.toNat (r == 1) place.isLt hq
      have hlaunch : some q.msg.launch = s.cur.launch := by
        rw [hm]
        obtain ⟨l, e⟩ := Option.ne_none_iff_exists'.mp hl
        rw [e]
        show some (s.cur.launch.getD 0) = _
        rw [e]; rfl
      refine ⟨s.spawned place.val d base c.toNat (r == 1), q, ?_, ?_, ?_, ?_, ?_, ?_, hlaunch, ?_, ?_, ?_, ?_, ?_, ?_, ?_, hg, ?_, ?_, ?_, ?_, ht2⟩
      · rw [Runs, hbranch]
        exact issue_runs hx (spawnBody_ok place.val c r ho hb h1 hc hl hd hv hj) (by rw [hcur, Ctx.setS_stepping])
      · rw [State.s, hcur, Ctx.getS_setS]
        by_cases h0 : d = 0
        · subst h0; rfl
        · rw [if_pos ⟨rfl, h0⟩, if_neg h0]; rfl
      · rw [hcur]
        unfold Ctx.setS; split <;> rfl
      · rw [s.spawned_here, (s.tookBlock.postChild_here _ _ _ _ place.isLt hq).2.1]; rfl
      · rw [hm]; rfl
      · rw [hm]; rfl
      · rw [hm]; cases hj : s.cur.join <;> simp only [State.childMsg, State.tookBlock_cur, hj, Option.map, Option.getD]
      · rw [hm]; cases hj : s.cur.join <;> simp only [State.childMsg, State.tookBlock_cur, hj]
      · rw [hm]; exact State.childMsg_args s base place c.toNat (r == 1)
      · rw [hm]; rfl
      · rw [hm]; rfl
      · rw [hm]; rfl
      · rw [ha]; simp only [beq_iff_eq]; rfl
      · rw [s.spawned_records, he, hm]
        split <;> rfl
      · rw [s.spawned_posts, s.spawned_here_deque, he]
        split
        · rw [State.here_modHere]
          exact ⟨rfl, rfl⟩
        · exact ⟨rfl, rfl⟩
      · intro h0
        rw [ht0 h0, hm, State.childMsg, h0]
        rfl
      · intro h1
        have b0 := s.localRead_byte_lt (base + 33)
        have b1 : s.localRead (base + 33 + 1) 1 < 256 := s.localRead_byte_lt _
        have e1 : bits (s.localRead (base + 33) 3) 8 6 = s.localRead (base + 33 + 1) 1 % 64 := by
          rw [State.localRead_three, bits]; omega
        have e2 : bits (s.localRead (base + 33) 3) 16 5 = s.localRead (base + 33 + 2) 1 % 32 := by
          rw [State.localRead_three, bits]; omega
        have e3 : bits (s.localRead (base + 33) 3) 0 6 = s.localRead (base + 33) 1 % 64 := by
          rw [State.localRead_three, bits]; omega
        rw [ht1 h1, e1, e2, e3]
        rfl
  · intro s ops g skip a n hg hn pieces k
    refine ⟨fun hk hs hl => ?_, fun hk ha hs hl => ?_, State.gather_skip, State.gather_next, State.gather_read hg⟩
    · rw [hs]; exact State.gather_whole ops g a n hk hl
    · rw [hs]; exact State.gather_piece ops g a n hk ha hl
  · intro d a k s pa pa' key key' chk chk' va hx ha hk hl h1 h2
    refine ⟨_, issue_runs hx (joinBody_ok ha hk hl h1 h2) (by rw [State.joined, State.cur_modCur]; rfl), ?_, ?_, ?_⟩
    · rw [State.joined, State.cur_modCur]
      simp
    · rfl
    · exact List.append_assoc _ _ _
end

section
namespace Sys2Proof.Machine

theorem State.cur_modCur_stepping (s : State) (f : Ctx → Ctx) (h : ∀ x, (f x).stepping = x.stepping) :
    (s.modCur f).cur.stepping = s.cur.stepping := by
  rw [s.cur_modCur, h]

theorem State.cur_setS_stepping (s : State) (d : Reg) (w : Word) : (s.setS d w).cur.stepping = s.cur.stepping := by
  rw [State.setS_cur, Ctx.setS_stepping]

end Sys2Proof.Machine
end

section
open Sys2Proof Sys2Proof.Machine

/-- Settles O21: each form's body, form by form. -/
theorem taskForms : Obligations.TaskForms := by
  unfold Obligations.TaskForms
  intro d a k c s
  refine ⟨fun hx => ?_, fun hx => ?_, fun hx => ?_, ?_, ?_, ?_⟩
  · exact issue_runs (body := writes d fun t => t.cur.prq.zeroExtend 64) hx rfl (s.cur_setS_stepping d _)
  · split
    · next h => exact issue_runs (body := followBody a k) hx (if_pos h) rfl
    · next h => exact issue_runs (body := followBody a k) hx (if_neg h) (s.cur_modCur_stepping _ fun _ => rfl)
  · exact issue_runs (body := unfollowBody) hx rfl (s.cur_modCur_stepping _ fun _ => rfl)
  · intro pa key chk hx ha hm
    have ha' : aligned (s.s a).toNat 64 = .ok () := if_pos ha
    have hg : s.global true { Access.of ((s.s a).toNat + 20) (.hbm 0) (.orBits 4 1) .none with word := value (.cancel a) s.now.sw, data := 1 } =
      .ok (s.launched (s.issuedTo (.cancel a) ((s.s a).toNat + 20) pa key chk (.orBits 4 1) .none 1)) :=
      State.global_at hm.low hm.free (fun h => nomatch h) hm.home hm.near
    refine issue_runs hx ?_ rfl
    simp only [cancelBody, ha', hg, bind, Except.bind]
    rfl
  · intro hx hs
    exact issue_runs (body := rtquietBody d a c) hx (if_pos hs) (s.cur_setS_stepping d _)
  · intro cell hx hs hl
    have hb : rtquietBody d a c s =
        .ok { s := s.enter (Access.of 0 noHome (.query 0 cell c.toNat) (.s d)) } := by
      have hl' : look? s.l2p (bits (s.s a).toNat 0 16) = some cell := by
        rw [bits, Nat.pow_zero, Nat.div_one]; exact hl
      exact (if_neg hs).trans (by simp only [hl'])
    exact ⟨_, issue_runs hx hb rfl, _, rfl, rfl, rfl⟩
end

section
/-! SUPPORT. Trap entry: what it leaves of the trapping context, of the other contexts and of memory (R243, R246). -/
namespace Sys2Proof.Machine

/-- A trap's PSYS and L32 stand in TRAPSTATE's bits 0 and 2. -/
theorem trapState_toNat (psys long noact : Bool) (cls slot : Nat) : (trapState psys long noact cls slot).toNat =
    psys.toNat + 4 * long.toNat + 8 * noact.toNat + 256 * (cls % 256) + 65536 * (slot % 64) := by
  have h1 := psys.toNat_lt
  have h2 := long.toNat_lt
  have h3 := noact.toNat_lt
  rw [trapState, BitVec.toNat_ofNat]
  exact Nat.mod_eq_of_lt (by omega)

theorem trapState_psys (psys long noact : Bool) (cls slot : Nat) :
    (trapState psys long noact cls slot).toNat % 2 = psys.toNat := by
  have := psys.toNat_lt
  rw [trapState_toNat]; omega

theorem trapState_long (psys long noact : Bool) (cls slot : Nat) :
    (trapState psys long noact cls slot).toNat / 4 % 2 = long.toNat := by
  have := psys.toNat_lt
  have := long.toNat_lt
  rw [trapState_toNat]; omega

/-- Two contexts hold the same general, vector and predicate registers. -/
def Ctx.SameRegs (x y : Ctx) : Prop := x.s = y.s ∧ x.v = y.v ∧ x.p = y.p

theorem Ctx.SameRegs.refl (x : Ctx) : x.SameRegs x := ⟨rfl, rfl, rfl⟩

theorem Ctx.SameRegs.trans {x y z : Ctx} (h : x.SameRegs y) (h' : y.SameRegs z) : x.SameRegs z :=
  ⟨h.1.trans h'.1, h.2.1.trans h'.2.1, h.2.2.trans h'.2.2⟩

theorem Ctx.unfollow_sameRegs (x : Ctx) : x.unfollow.SameRegs x := ⟨rfl, rfl, rfl⟩

theorem Ctx.engage_sameRegs (x : Ctx) (pc : CodeAddr) : (x.engage pc).SameRegs x := by
  unfold Ctx.engage; split <;> exact ⟨rfl, rfl, rfl⟩

theorem FollowersOf.sameRegs {n k : Nat} {f : Ctx → Ctx} {s t : State} (h : FollowersOf n k f s t) (hf : ∀ x, (f x).SameRegs x)
    (m j : Nat) : (t.ctx m j).SameRegs (s.ctx m j) := by
  obtain e | ⟨-, e⟩ := h.ctx m j
  · rw [e]; exact .refl _
  · rw [e]; exact hf _

/-- A follower's mode alone differs between `s` and `t`: cell `n` is the same, and so are all registers and all of the module
but its cells. -/
structure LedBy (n : Nat) (s t : State) : Prop where
  rest : t = { s with cells := t.cells }
  own : t.cell n = s.cell n
  regs : ∀ m j, (t.ctx m j).SameRegs (s.ctx m j)

theorem FollowersOf.ledBy {n k : Nat} {f : Ctx → Ctx} {s t : State} (h : FollowersOf n k f s t) (hf : ∀ x, (f x).SameRegs x) :
    LedBy n s t := ⟨h.rest, h.own, h.sameRegs hf⟩

theorem LedBy.refl (n : Nat) (s : State) : LedBy n s s := ⟨rfl, rfl, fun _ _ => .refl _⟩

theorem LedBy.trans {n : Nat} {s t u : State} (h : LedBy n s t) (h' : LedBy n t u) : LedBy n s u :=
  ⟨by rw [h'.rest, h.rest], h'.own.trans h.own, fun m j => (h'.regs m j).trans (h.regs m j)⟩

theorem LedBy.ctx {n : Nat} {s t : State} (h : LedBy n s t) (j : Nat) : t.ctx n j = s.ctx n j := by
  simp only [State.ctx, h.own]

theorem LedBy.owedAtTrap {n : Nat} {s t : State} (h : LedBy n s t) (k : Nat) : t.owedAtTrap n k = s.owedAtTrap n k := by
  have hi : t.inflight = s.inflight := by rw [h.rest]
  simp only [State.owedAtTrap, State.owns, hi, h.ctx]

/-- The state in which a trap finds the module, its followers released. -/
def State.beforeTrap (s : State) (n k : Nat) (cause : BitVec 8) (val : Word) : State :=
  (if cause = causeBkpt ∧ val = 1 then s else s.engageFollowers n k).releaseFollowers n k

theorem State.beforeTrap_led (s : State) (n k : Nat) (cause : BitVec 8) (val : Word) : LedBy n s (s.beforeTrap n k cause val) := by
  have h : LedBy n s (if cause = causeBkpt ∧ val = 1 then s else s.engageFollowers n k) := by
    split
    · exact .refl ..
    · exact (s.engageFollowers_of n k).ledBy fun x => x.engage_sameRegs _
  exact h.trans ((State.releaseFollowers_of _ n k).ledBy Ctx.unfollow_sameRegs)

theorem State.takeTrap_eq (s : State) (n k : Nat) (cause : BitVec 8) (val : Word) : s.takeTrap n k cause val =
    if (s.beforeTrap n k cause val).owedAtTrap n k then
      (s.beforeTrap n k cause val).modCtx n k fun x => { x with pendingTrap := some (cause, val), stream := [], following := false }
    else (s.beforeTrap n k cause val).enterTrap n k cause val := rfl

theorem Cell.haltIfDue_ctxs (c : Cell) : c.haltIfDue.ctxs = c.ctxs := by
  unfold Cell.haltIfDue Cell.halt
  split
  · split <;> rfl
  · rfl

/-- Context (n, k) of `t` has entered a trap that `s` takes; what else of registers and memory is as it was (R243). -/
def EntersTrap (s : State) (n k : Nat) (cause : BitVec 8) (val : Word) (t : State) : Prop := let x := s.ctx n k
  (t.ctx n k) = { x with
      trapcause := cause, trappc := x.pc, trapval := val, trapstate := (t.ctx n k).trapstate, sys := true, inTrap := x.inTrap + 1
      pc := (s.cell n).trapvec, pendingTrap := none, parked := false, wait := .none, answers := [], stage := 0, stepping := false
      debugStep := false, saving := false, following := false, stream := [] } ∧
    (t.ctx n k).trapstate.toNat % 2 = (s.sysMode n k).toNat ∧
    (t.ctx n k).trapstate.toNat / 4 % 2 = (if (s.cell n).fetchHalf x x.pc.toNat % 2 = 1 then 1 else 0) ∧
    (∀ m j, ¬ (m = n ∧ j % 4 = k % 4) → (t.ctx m j).s = (s.ctx m j).s ∧ (t.ctx m j).v = (s.ctx m j).v ∧ (t.ctx m j).p = (s.ctx m j).p) ∧
    t.hbm = s.hbm ∧ t.pad = s.pad ∧ t.inflight = s.inflight

theorem State.trapOnce_enters (s : State) (n k : Nat) (cause : BitVec 8) (val : Word) :
    EntersTrap s n k cause val (s.trapOnce n k cause val) := by
  unfold State.trapOnce
  refine ⟨?_, ?_, ?_, fun m j hmj => ?_, rfl, rfl, rfl⟩
  · simp only [State.ctx_modCtx, and_self, if_true]
  · simp only [State.ctx_modCtx, and_self, if_true, trapState_psys]
  · simp only [State.ctx_modCtx, and_self, if_true, trapState_long, Bool.toNat, beq_iff_eq, Bool.cond_eq_ite]
  · simp only [State.ctx_modCtx, if_neg hmj, and_self]

/-- Entry of a context that is not under a single step; that its cell halts with it changes no context. -/
theorem State.enterTrap_enters {s : State} {n k : Nat} (cause : BitVec 8) (val : Word) (h : (s.ctx n k).stepping = false) :
    EntersTrap s n k cause val (s.enterTrap n k cause val) := by
  have hs : s.enterTrap n k cause val = if (s.cell n).halting then (s.trapOnce n k cause val).modCell n Cell.haltIfDue
      else s.trapOnce n k cause val := by
    unfold State.enterTrap
    rw [h]
    rfl
  rw [hs]
  have ht := s.trapOnce_enters n k cause val
  split
  · unfold EntersTrap
    simp only [State.ctx_modCell_of_ctxs _ _ _ _ Cell.haltIfDue_ctxs]
    exact ht
  · exact ht

theorem EntersTrap.of_led {s s' t : State} {n k : Nat} {cause : BitVec 8} {val : Word} (h : LedBy n s s')
    (he : EntersTrap s' n k cause val t) : EntersTrap s n k cause val t := by
  obtain ⟨hx, hp, hl, hr, hh, hpad, hi⟩ := he
  have hm : s'.sysMode n k = s.sysMode n k := by simp only [State.sysMode, h.ctx]
  simp only [h.ctx, h.own, hm] at hx hp hl
  exact ⟨hx, hp, hl, fun m j hmj => Ctx.SameRegs.trans (hr m j hmj) (h.regs m j),
    hh.trans (by rw [h.rest]), hpad.trans (by rw [h.rest]), hi.trans (by rw [h.rest])⟩

end Sys2Proof.Machine
end

section
open Sys2Proof Sys2Proof.Machine

/-- Settles O44: the trap finds the module with its followers released, and enters at once or is pending. -/
theorem trapEntry : Obligations.TrapEntry := by
  unfold Obligations.TrapEntry
  intro s n k cause val x entered hstep
  have hl := s.beforeTrap_led n k cause val
  refine ⟨fun ho => ?_, fun ho => ?_, ?_⟩
  · rw [State.takeTrap_eq, hl.owedAtTrap, ho]
    exact (State.enterTrap_enters cause val (by rw [hl.ctx]; exact hstep)).of_led hl
  · rw [State.takeTrap_eq, hl.owedAtTrap, if_pos ho, State.ctx_modCtx, if_pos ⟨rfl, rfl⟩, hl.ctx]
  · rintro rfl rfl hp ho
    refine ⟨s.enterTrap s.now.arg.a s.now.arg.b cause val, ?_, State.enterTrap_enters cause val hstep⟩
    show execTrapEntry s = _
    have hp' : (s.ctx s.now.arg.a s.now.arg.b).pendingTrap = some (cause, val) := hp
    simp only [execTrapEntry, event, hp', ho, Bool.false_eq_true, if_false, Option.getD_some]
end

section
/-! SUPPORT. The return from a trap, and the end of an UNBOUND activation (R245, R259). -/
namespace Sys2Proof.Machine

/-- Freeing a context leaves all of its cell but its contexts. -/
theorem State.freeCtx_cell (s : State) (n k : Nat) :
    (s.freeCtx n k).cell n = { s.cell n with ctxs := ((s.freeCtx n k).cell n).ctxs } := by
  unfold State.freeCtx State.modCtx
  rw [State.setCtx, State.cell_modCell, if_pos rfl, (s.releaseFollowers_of n k).own]
  rfl

theorem State.freeCtx_now (s : State) (n k : Nat) : (s.freeCtx n k).now = s.now := by rw [s.freeCtx_rest]

theorem State.freeCtx_here (s : State) (k : Nat) :
    (s.freeCtx s.now.cell k).here = { s.here with ctxs := (s.freeCtx s.now.cell k).here.ctxs } := by
  unfold State.here
  rw [s.freeCtx_now]
  exact s.freeCtx_cell _ _

theorem Retires.hbm {x t : State} {next : CodeAddr} {b : Bool} (h : Retires x next b t) : t.hbm = x.hbm := by rw [h.machine]

theorem Retires.pad {x t : State} {next : CodeAddr} {b : Bool} (h : Retires x next b t) : t.pad = x.pad := by rw [h.machine]

/-- The state that ERET leaves, where no single step is armed: the retirement, then the mode TRAPSTATE gives. -/
theorem State.trapReturn_unstepped {s : State} (h : s.cur.stepping = false) :
    ∃ t, Retires (s.modCur fun x => { x with stepping := false }) s.cur.trappc true t ∧
      s.trapReturn = t.modCur fun x => { x with
        sys := bit s.cur.trapstate.toNat 0
        inTrap := if bit s.cur.trapstate.toNat 0 then x.inTrap - 1 else 0
        stepping := bit s.cur.trapstate.toNat 1 } := by
  let s1 := s.modCur fun x => { x with stepping := false }
  refine ⟨_, State.retire_retires { s := s1, next := some s.cur.trappc, transfer := true } .eret s.cur.pc (by rw [State.cur_modCur]), ?_⟩
  unfold State.trapReturn
  rw [if_neg (by rw [h]; decide)]

/-- The message of an UNBOUND trap goes back to the head of its channel. -/
theorem Cell.returnUnbound_head {c : Cell} {slot : Nat} {m : Msg} (h : look? c.slots slot = some m) (hu : c.unbound = some slot) :
    (look [] (c.returnUnbound slot).queue m.chan.toNat).head? = some slot := by
  unfold Cell.returnUnbound
  simp only [h, hu, if_true, look_put, List.head?_cons]

theorem Cell.returnUnbound_unbound (c : Cell) (slot : Nat) : (c.returnUnbound slot).unbound = none := by
  unfold Cell.returnUnbound
  dsimp only
  split
  · split <;> rfl
  · rfl

/-- The cell once the activation of an UNBOUND trap is over: the message is back and no trap holds it. -/
theorem State.endUnbound_here (s : State) : ∃ c : Cell, c.slots = s.here.slots ∧ c.unbound = s.here.unbound ∧
    s.endUnbound.here.queue = (c.returnUnbound (bits s.cur.trapstate.toNat 16 6)).queue ∧ s.endUnbound.here.unbound = none := by
  let s1 := s.modCur fun x => { x with retired := x.retired + 1 }
  let s2 := s1.modHere fun c => c.returnUnbound (bits s.cur.trapstate.toNat 16 6)
  have he : s.endUnbound = s2.freeCtx s2.now.cell s.now.ctx := rfl
  have h2 : s2.here = s1.here.returnUnbound (bits s.cur.trapstate.toNat 16 6) := s1.here_modHere _
  have h1 : s1.here = s.here.setCtx s.now.ctx { s.cur with retired := s.cur.retired + 1 } := s.here_modCur _
  refine ⟨s1.here, by rw [h1]; rfl, by rw [h1]; rfl, ?_, ?_⟩
  · rw [he, s2.freeCtx_here, h2]
  · rw [he, s2.freeCtx_here, h2]
    exact s1.here.returnUnbound_unbound _

/-- Its context is free, and no update leaves. -/
theorem State.endUnbound_free (s : State) : s.endUnbound.cur.busy = false ∧ s.endUnbound.records = s.records := by
  let s2 := (s.modCur fun x => { x with retired := x.retired + 1 }).modHere fun c =>
    c.returnUnbound (bits s.cur.trapstate.toNat 16 6)
  have he : s.endUnbound = s2.freeCtx s2.now.cell s2.now.ctx := rfl
  rw [he]
  constructor
  · rw [State.cur, s2.freeCtx_now, s2.freeCtx_ctx]
  · rw [s2.freeCtx_rest]
    rfl

end Sys2Proof.Machine
end

section
open Sys2Proof Sys2Proof.Machine

/-- Settles O46: ERET's two kinds of return by TRAPSTATE's bit 3. -/
theorem trapForms : Obligations.TrapForms := by
  unfold Obligations.TrapForms
  intro a s st
  refine ⟨fun hx => ?_, fun hx => ?_, fun hx hb => ?_, fun hx hb => ⟨fun ho => ?_, fun ho => ?_⟩⟩
  · exact (exec_trap a s).trans (issue_trap (body := fun s => .error (.trap causeTrap (s.s a))) hx rfl)
  · exact (exec_bkpt s).trans (issue_trap (body := fun _ => .error (.trap causeBkpt 0)) hx rfl)
  · obtain ⟨t, hr, ht⟩ := State.trapReturn_unstepped hx.unstepped
    have hflow := hr.flow
    rw [if_pos (Or.inl rfl)] at hflow
    refine ⟨s.trapReturn, ?_, ?_⟩
    · exact issue_wait (body := eretBody) hx (if_neg (by rw [hb]; decide))
    · rw [ht, State.cur_modCur, State.modCur_hbm, State.modCur_pad, hr.hbm, hr.pad]
      obtain ⟨hpc, hlc⟩ := hflow
      rw [State.cur_modCur] at hlc
      have hx' := hr.context
      rw [State.cur_modCur] at hx'
      refine ⟨hpc, rfl, rfl, ?_, ?_, ?_, ?_, hlc, rfl, rfl⟩
      iterate 4
        dsimp only
        rw [hx']
  · exact issue_wait (body := eretBody) hx ((if_pos hb).trans (if_pos ho))
  · obtain ⟨c, hsl, hu, hq, hn⟩ := s.endUnbound_here
    refine ⟨s.endUnbound, issue_wait (body := eretBody) hx ((if_pos hb).trans (if_neg (by rw [ho]; decide))), s.endUnbound_free.1, hn,
      s.endUnbound_free.2, fun m hm hs => ?_⟩
    rw [hq]
    exact Cell.returnUnbound_head (hsl ▸ hm) (hu.trans hs)
end

section
/-! SUPPORT. Writes of a code store and of a routine table (R33, R36, R84). -/
namespace Sys2Proof.Machine

@[simp] theorem bits_zero (x n : Nat) : bits x 0 n = x % 2 ^ n := by
  rw [bits, Nat.pow_zero, Nat.div_one]

/-- The four contexts of a cell set one after another. -/
def Cell.setCtxs (c : Cell) (g : Nat → Ctx) : Cell := (List.range 4).foldl (fun c' k => c'.setCtx k (g k)) c

theorem Cell.setCtxs_ctx (c : Cell) (g : Nat → Ctx) (k : Nat) : (c.setCtxs g).ctx k = g (k % 4) := by
  have h : k % 4 = 0 ∨ k % 4 = 1 ∨ k % 4 = 2 ∨ k % 4 = 3 := by omega
  obtain h | h | h | h := h <;> simp [Cell.setCtxs, List.range, List.range.loop, h]

theorem Cell.setCtxs_rest (c : Cell) (g : Nat → Ctx) : c.setCtxs g = { c with ctxs := (c.setCtxs g).ctxs } := rfl

theorem Cell.ctx_mod (c : Cell) (k : Nat) : c.ctx (k % 4) = c.ctx k := by simp [Cell.ctx]

theorem mem_put {α : Type} {t : List (Nat × α)} {n : Nat} {x : α} {e : Nat × α} (h : e ∈ put t n x) : e = (n, x) ∨ e ∈ t := by
  induction t with
  | nil => exact .inl (by simpa [put] using h)
  | cons b r ih =>
    unfold put at h
    split at h
    · exact List.mem_cons.mp h
    · split at h
      · exact (List.mem_cons.mp h).imp_right (List.mem_cons_of_mem _)
      · obtain h | h := List.mem_cons.mp h
        · exact .inr (h ▸ List.mem_cons_self)
        · exact (ih h).imp_right (List.mem_cons_of_mem _)

/-- What context `x` has kept of two halfwords of `c` that are written at `at'`: no more than old bits from its window. -/
def Keeps (c : Cell) (at' : Nat) (x y : Ctx) : Prop :=
  y = { x with ahead := y.ahead } ∧
    ∀ e ∈ y.ahead, e ∈ x.ahead ∨ (e.1 = at' ∨ e.1 = at' + 1) ∧ e.2.toNat = c.half e.1 ∧ inWindow x.pc e.1 = true

theorem Cell.half_lt (c : Cell) (a : Nat) : c.half a < 2 ^ 16 := (look 0 c.code (a % 0x4000)).isLt

/-- A context that keeps one more halfword of its window. -/
theorem Keeps.keep {c : Cell} {at' h : Nat} {x y : Ctx} (hk : Keeps c at' x y) (hh : h = at' ∨ h = at' + 1) (hlt : h < 0x4000)
    {b : Bool} (hb : b = true → inWindow y.pc h = true) :
    Keeps c at' x (if b then { y with ahead := put y.ahead (h % 0x4000) (BitVec.ofNat 16 (c.half h)) } else y) := by
  obtain ⟨hy, ha⟩ := hk
  split
  · next hb' =>
    refine ⟨by rw [hy], fun e he => ?_⟩
    obtain rfl | he := mem_put he
    · refine .inr ⟨by rw [Nat.mod_eq_of_lt hlt]; exact hh, ?_, ?_⟩
      · rw [BitVec.toNat_ofNat, Nat.mod_eq_of_lt (c.half_lt h), Nat.mod_eq_of_lt hlt]
      · rw [Nat.mod_eq_of_lt hlt]
        have := hb hb'
        rw [hy] at this
        exact this
    · exact ha e he
  · exact ⟨hy, ha⟩

theorem Ctx.prefetched_keeps (x : Ctx) (c : Cell) (u : Nat) {at' : Nat} (hlt : at' + 1 < 0x4000) :
    Keeps c at' x (x.prefetched c u at') := by
  have h0 : Keeps c at' x x.sequel := ⟨rfl, fun e he => .inl (List.mem_of_mem_filter he)⟩
  have h1 := h0.keep (.inl rfl) (Nat.lt_of_succ_lt hlt) (b := x.sequel.busy && !x.sequel.following && x.sequel.stream.isEmpty &&
    inWindow x.sequel.pc at' && codeAhead (x.sequel.pc / 2 * 2) at' / 2 < u && (look? x.sequel.ahead (at' % 0x4000)).isNone)
    (by simp only [Bool.and_eq_true]; tauto)
  exact h1.keep (.inr rfl) hlt (by simp only [Bool.and_eq_true]; tauto)

theorem Ctx.prefetched_rest (x : Ctx) (c : Cell) (u at' : Nat) : x.prefetched c u at' = { x with ahead := (x.prefetched c u at').ahead } := by
  unfold Ctx.prefetched Ctx.sequel
  dsimp only
  split <;> split <;> rfl

/-- The cell after the two halfwords at `at'` have been written, of which its contexts have fetched as many units as `u` says. -/
def Cell.codeWritten (c : Cell) (u : Nat → Nat) (at' w : Nat) : Cell :=
  (c.setCtxs fun k => (c.ctx k).prefetched c (u k) at').writeCode at' w

theorem Cell.writeCode_ctxs (c : Cell) (a w : Nat) : (c.writeCode a w).ctxs = c.ctxs := rfl

theorem Cell.codeWritten_ctx (c : Cell) (u : Nat → Nat) (at' w k : Nat) :
    (c.codeWritten u at' w).ctx k = (c.ctx k).prefetched c (u (k % 4)) at' := by
  unfold Cell.codeWritten
  rw [Cell.ctx_congr (Cell.writeCode_ctxs _ _ _) k, Cell.setCtxs_ctx, Cell.ctx_mod]

theorem Cell.codeWritten_half (c : Cell) (u : Nat → Nat) {at' h : Nat} (w : Nat) (hlt : at' + 1 < 0x4000) (hh : h < 0x4000) :
    (c.codeWritten u at' w).half h =
      if h = at' then w % 2 ^ 16 else if h = at' + 1 then w / 2 ^ 16 % 2 ^ 16 else c.half h := by
  have e : (c.codeWritten u at' w).code = put (put c.code at' (BitVec.ofNat 16 w)) (at' + 1) (BitVec.ofNat 16 (w / 65536)) := by
    unfold Cell.codeWritten Cell.writeCode Cell.setHalf
    rw [Nat.mod_eq_of_lt hlt, Nat.mod_eq_of_lt (Nat.lt_of_succ_lt hlt)]
    rfl
  unfold Cell.half
  rw [e, look_put, look_put, Nat.mod_eq_of_lt hh]
  by_cases h0 : h = at'
  · rw [if_pos h0, if_pos h0, if_neg (by omega), BitVec.toNat_ofNat]
  · rw [if_neg h0, if_neg h0]
    split
    · exact BitVec.toNat_ofNat ..
    · rfl

theorem State.writeCode_eq (s : State) (n at' w : Nat) : s.writeCode n at' w =
    State.modCell { s with free := s.free + 1 } n fun _ => (s.cell n).codeWritten
      (fun k => (s.ctx n k).fetchedUnits (Config.freeWord s.free / 8 ^ k)) at' w := by
  unfold State.writeCode State.fresh Cell.codeWritten Cell.setCtxs
  rfl

theorem State.writeCode_ctx (s : State) (n at' w m j : Nat) : (s.writeCode n at' w).ctx m j = if m = n then
    ((s.cell n).codeWritten (fun k => (s.ctx n k).fetchedUnits (Config.freeWord s.free / 8 ^ k)) at' w).ctx j else s.ctx m j := by
  rw [s.writeCode_eq, State.ctx, State.cell_modCell]
  split <;> rfl

theorem State.writeCode_stepping (s : State) (n at' w : Nat) : (s.writeCode n at' w).cur.stepping = s.cur.stepping := by
  show ((s.writeCode n at' w).ctx s.now.cell s.now.ctx).stepping = _
  rw [s.writeCode_ctx]
  split
  · next h => rw [Cell.codeWritten_ctx, ← h, (Ctx.prefetched_rest ..)]; rfl
  · rfl

theorem codewBody_missing {a b : Reg} {s : State} (ho : bits (s.s a).toNat 0 14 % 2 = 0) (hn : s.targetCell (s.s a) = none) :
    codewBody a b s = .ok { s := s } := by
  simp only [codewBody, ho, hn, Nat.zero_ne_one, if_false]

theorem codewBody_found {a b : Reg} {s : State} {n : Nat} (ho : bits (s.s a).toNat 0 14 % 2 = 0)
    (hn : s.targetCell (s.s a) = some n) :
    codewBody a b s = .ok { s := s.writeCode n (bits (s.s a).toNat 0 14) (s.s b).toNat } := by
  simp only [codewBody, ho, hn, Nat.zero_ne_one, if_false]

theorem rtsetBody_nothing {a b : Reg} {s : State} (h : s.targetCell (s.s a) = none ∨ bits (s.s a).toNat 0 8 < 16) :
    rtsetBody a b s = .ok { s := s } := by
  unfold rtsetBody
  cases hn : s.targetCell (s.s a) with
  | none => rfl
  | some n => exact if_pos (h.resolve_left (by rw [hn]; exact Option.some_ne_none n))

theorem rtsetBody_found {a b : Reg} {s : State} {n : Nat} (hn : s.targetCell (s.s a) = some n) (hc : 16 ≤ bits (s.s a).toNat 0 8) :
    rtsetBody a b s = .ok { s := s.modCell n fun c => { c with routines := (put c.routines (bits (s.s a).toNat 0 8)
      { entry := BitVec.ofNat 14 (s.s b).toNat, chan := BitVec.ofNat 3 ((s.s b).toNat / 2 ^ 14), bound := bit (s.s b).toNat 17
        strict := bit (s.s b).toNat 18
        gen := (look {} (s.cell n).routines (bits (s.s a).toNat 0 8)).gen +
          if BitVec.ofNat 14 (s.s b).toNat = (look {} (s.cell n).routines (bits (s.s a).toNat 0 8)).entry then 0 else 1 }) } } := by
  have hc' : ¬ bits (s.s a).toNat 0 8 < 16 := Nat.not_lt.mpr hc
  simp only [rtsetBody, hn, State.modCell, Cell.bind, hc', if_false]
  have hg : ∀ (p : Prop) [Decidable p] (g : BitVec 8), (if p then g else g + 1) = g + if p then 0 else 1 := by
    intro p _ g
    split
    · exact (BitVec.add_zero g).symm
    · rfl
  rw [hg]

/-- What INBHEAD writes: the slot at the head of a channel, or −1. -/
def inbheadWord (a : Reg) (s : State) : Word :=
  match (look [] s.here.queue (bits (s.s a).toNat 0 3)).head? with
  | some i => BitVec.ofNat 64 i
  | none => BitVec.allOnes 64

/-- What INBRD writes: a doubleword of a slot, or 0. -/
def inbrdWord (a b : Reg) (s : State) : Word :=
  match look? s.here.slots (bits (s.s a).toNat 0 6) with
  | some m => BitVec.ofNat 64 (bits m.toNat (64 * bits (s.s b).toNat 0 3) 64)
  | none => 0

/-- The state in which INBFREE has freed slot `i` of the executing cell. -/
def State.inbfreed (s : State) (i : Nat) : State :=
  { s.modHere (fun c => c.freeInbox i) with unstarted := del s.unstarted (s.now.cell * 64 + i) }

theorem State.inbfreed_stepping (s : State) (i : Nat) : (s.inbfreed i).cur.stepping = s.cur.stepping :=
  congrArg Ctx.stepping (s.cur_modHere (f := fun c => c.freeInbox i) fun _ => rfl)

theorem inbfreeBody_free {a b : Reg} {s : State} (hn : look? s.here.slots (bits (s.s a).toNat 0 6) = none) :
    inbfreeBody a b s = .ok { s := s } := by
  simp only [inbfreeBody, hn]

theorem inbfreeBody_lost {a b : Reg} {s : State} {m : Msg} (hm : look? s.here.slots (bits (s.s a).toNat 0 6) = some m)
    (hb : (s.s b).toNat % 2 = 1) :
    inbfreeBody a b s = .ok { s := (s.inbfreed (bits (s.s a).toNat 0 6)).lostTask s.now.cell m } := by
  have : bit (s.s b).toNat 0 = true := by simp [bit, hb]
  simp only [inbfreeBody, hm, this]
  rfl

theorem inbfreeBody_kept {a b : Reg} {s : State} {m : Msg} (hm : look? s.here.slots (bits (s.s a).toNat 0 6) = some m)
    (hb : (s.s b).toNat % 2 = 0) : inbfreeBody a b s = .ok { s := s.inbfreed (bits (s.s a).toNat 0 6) } := by
  have : bit (s.s b).toNat 0 = false := by simp [bit, hb]
  simp only [inbfreeBody, hm, this]
  rfl

end Sys2Proof.Machine
end

section
open Sys2Proof Sys2Proof.Machine

/-- Settles O47: each form by whether its target is there. -/
theorem cellForms : Obligations.CellForms := by
  unfold Obligations.CellForms
  intro d a b s x w
  have hlt : (bits (s.s a).toNat 0 14) < 2 ^ 14 := Nat.mod_lt _ (by decide)
  refine ⟨?_, ?_, fun hx => ?_, fun hx => ?_, ?_⟩
  · rw [← bits_zero x 14]
    refine fun hx => ⟨fun ho => ?_, fun ho => ⟨fun hn => ?_, fun n hn => ?_⟩⟩
    · exact (exec_codew a b s).trans (issue_trap (body := codewBody a b) hx (if_pos ho))
    · exact issue_runs (body := codewBody a b) hx (codewBody_missing ho hn) rfl
    · have hin : bits x 0 14 + 1 < 0x4000 := by
        have : bits x 0 14 < 2 ^ 14 := hlt
        omega
      have hr := issue_runs hx (codewBody_found ho hn) (s.writeCode_stepping n _ w)
      rw [s.writeCode_eq] at hr
      refine ⟨_, hr, rfl, fun k => ?_, fun h hh => ?_⟩
      · rw [Cell.codeWritten_ctx]
        exact Ctx.prefetched_keeps _ _ _ hin
      · exact Cell.codeWritten_half _ _ w hin hh
  · have h8 : x % 256 = bits x 0 8 := (bits_zero x 8).symm
    rw [h8]
    refine fun hx => ⟨fun hn => ?_, fun n hn hc => ?_⟩
    · exact issue_runs (body := rtsetBody a b) hx (rtsetBody_nothing hn) rfl
    · exact issue_runs hx (rtsetBody_found hn hc) (congrArg Ctx.stepping (s.cur_modCell_of_ctxs n fun _ => rfl))
  · have h8 : x % 8 = bits x 0 3 := (bits_zero x 3).symm
    rw [h8]
    exact issue_runs (body := writes d (inbheadWord a)) hx rfl (s.cur_setS_stepping d _)
  · have h64 : x % 64 = bits x 0 6 := (bits_zero x 6).symm
    have h8 : w % 8 = bits w 0 3 := (bits_zero w 3).symm
    rw [h64, h8]
    exact issue_runs (body := writes d (inbrdWord a b)) hx rfl (s.cur_setS_stepping d _)
  · have h64 : x % 64 = bits x 0 6 := (bits_zero x 6).symm
    rw [h64]
    refine fun hx => ⟨fun hn => ?_, fun m hm => ⟨fun hb => ?_, fun hb => ?_⟩⟩
    · exact issue_runs (body := inbfreeBody a b) hx (inbfreeBody_free hn) rfl
    · exact issue_runs (body := inbfreeBody a b) hx (inbfreeBody_kept hm hb) (s.inbfreed_stepping _)
    · exact issue_runs (body := inbfreeBody a b) hx (inbfreeBody_lost hm hb) (s.inbfreed_stepping _)
end

section
/-! SUPPORT. SEND and REPLY: their operands, their checks and the message that leaves (R347-R351). -/
namespace Sys2Proof.Machine

theorem issue_hold {i : Instr} {s : State} {body : Body} (h : Executes i s) (hb : body s = .error .hold) : issue i s body = .next s := by
  have hp : (privileged i && !s.isSys) = false := by
    cases e : privileged i
    · rfl
    · simp [h.mode e]
  simp only [issue, h.decodes, hp, h.free, hb, Bool.false_eq_true, if_false]

/-- At its first step an instruction that is not ready has nothing to give back. -/
theorem State.notReady_first {s : State} (hk : s.cur.stage = 0) (ha : s.cur.answers = []) : s.notReady = .hold := by
  simp [State.notReady, Ctx.hasParked, Ctx.inside, hk, ha]

/-- The register operands of SEND and REPLY: the block's address, and above it the return address. -/
def State.sendOps (s : State) (a : Reg) : Option Reg → Nat
  | some r => (s.s a).toNat + 2 ^ 64 * (s.s r).toNat
  | none => (s.s a).toNat + 2 ^ 64 * 0

theorem bits_low (w : Word) (y : Nat) : bits (w.toNat + 2 ^ 64 * y) 0 64 = w.toNat := by
  have := w.isLt
  rw [bits_zero]
  omega

theorem ofNat_high (w v : Word) : BitVec.ofNat 64 ((w.toNat + 2 ^ 64 * v.toNat) / 2 ^ 64) = v := by
  have h := w.isLt
  have e : (w.toNat + 2 ^ 64 * v.toNat) / 2 ^ 64 = v.toNat := by omega
  rw [e, BitVec.ofNat_toNat, BitVec.setWidth_eq]

/-- Where SEND or REPLY sends. -/
def State.sendDst (s : State) (a : Reg) : Option Reg → Dst
  | some r => addressDst (s.s r)
  | none => s.blockDst (s.s a).toNat

/-- The message of the send block at `x` to `dv`. -/
def State.sendMsg (s : State) (x : Nat) (rel : Bool) (dv : Dst) : Msg :=
  { cls := BitVec.ofNat 8 (s.localRead (x + 36) 1), rel := rel, place := 3, launch := BitVec.ofNat 12 dv.launch
    dest := BitVec.ofNat 16 dv.cell, path := BitVec.ofNat 64 (s.localRead (x + 48) 8)
    payaddr := BitVec.ofNat 19 (s.localRead (x + 44) 4 % 2 ^ 19), paylen := BitVec.ofNat 13 (s.localRead (x + 38) 2)
    srcpcell := BitVec.ofNat 17 s.now.cell, srcdev := s.devidx
    args := argVec (s.localRead x 8) (s.localRead (x + 8) 8) (s.localRead (x + 16) 8)
      (if s.localRead (x + 37) 1 % 2 = 1 then s.returnAddress else s.localRead (x + 24) 8) }

/-- How a message leaves once its block and its payload are read: within the module, not at all, or by its flow. -/
def State.leaves (s : State) (m : Msg) (dv : Dst) (payload : List Byte) (pdst : Nat) (after : List Nat) : Except Stop Done :=
  if dv.dev = s.devidx.toNat then .ok { s := (s.sendHere m payload after).countSent }
  else if 320 ≤ dv.dev || !s.reaches dv.dev then
    .ok { s := s.recordError (s.cur.launch.map BitVec.toNat) 0x0B s.cur.lcell.toNat }
  else if s.dark dv.dev || !s.flowRoom s.cur.lcell.toNat dv.dev then .error s.notReady
  else .ok { s := (s.sendAway m dv.dev payload pdst after).countSent }

/-- The block of SEND and REPLY is in order, and is read at issue. -/
structure State.SendBlock (s : State) (a : Reg) : Prop where
  room : s.outFull = false
  block : s.BlockOk (s.s a).toNat 64 64
  first : s.cur.stage = 0
  fresh : s.cur.answers = []

theorem sendBody_full {s : State} (a : Reg) (rel : Bool) (reply : Option Reg) (ho : s.outFull = true) (hk : s.cur.stage = 0)
    (ha : s.cur.answers = []) : sendBody a rel reply s = .error .hold := by
  unfold sendBody
  simp only [ho, State.notReady_first hk ha, if_true]
  rfl

theorem sendBody_piece {s : State} {a : Reg} (rel : Bool) (reply : Option Reg) (h : s.SendBlock a) (hl : s.late.headD false = true) :
    sendBody a rel reply s = .error (.wait (s.tookPiece (s.sendOps a reply) (s.localBytes (s.s a).toNat 16))) := by
  have hg := State.gather_piece (s.sendOps a reply) 16 (s.s a).toNat 64 h.first h.fresh hl
  unfold sendBody
  cases reply <;>
  · simp only [State.sendOps] at hg ⊢
    simp only [State.kept_of_nil h.fresh, bits_low, h.room, State.block_ok h.block, h.block.good, hg, bind, Except.bind]
    rfl

theorem sendBody_class {s : State} {a : Reg} (rel : Bool) (reply : Option Reg) (h : s.SendBlock a) (hl : s.late.headD false = false)
    (hc : s.localRead ((s.s a).toNat + 36) 1 < 16) :
    sendBody a rel reply s = .error (.trap causePerm (BitVec.ofNat 64 (s.localRead ((s.s a).toNat + 36) 1))) := by
  have hg := State.gather_whole (s.sendOps a reply) 16 (s.s a).toNat 64 (by rw [h.first]) hl
  unfold sendBody
  cases reply <;>
  · simp only [State.sendOps] at hg
    simp only [State.kept_of_nil h.fresh, bits_low, h.room, State.block_ok h.block, h.block.good, hg, bind, Except.bind, pure, Except.pure]
    exact if_pos hc

theorem sendBody_long {s : State} {a : Reg} (rel : Bool) (reply : Option Reg) (h : s.SendBlock a) (hl : s.late.headD false = false)
    (hc : 16 ≤ s.localRead ((s.s a).toNat + 36) 1) (hn : 4096 < s.localRead ((s.s a).toNat + 38) 2) :
    sendBody a rel reply s = .error (.trap causePerm (BitVec.ofNat 64 (s.localRead ((s.s a).toNat + 38) 2))) := by
  have hg := State.gather_whole (s.sendOps a reply) 16 (s.s a).toNat 64 (by rw [h.first]) hl
  unfold sendBody
  cases reply <;>
  · simp only [State.sendOps] at hg
    simp only [State.kept_of_nil h.fresh, bits_low, h.room, State.block_ok h.block, h.block.good, hg, bind, Except.bind, pure, Except.pure]
    exact (if_neg (Nat.not_lt.mpr hc)).trans (if_pos hn)

theorem sendBody_leaves {s : State} {a : Reg} (rel : Bool) (reply : Option Reg) (h : s.SendBlock a) (hl : s.late.headD false = false)
    (hc : 16 ≤ s.localRead ((s.s a).toNat + 36) 1) (hn : s.localRead ((s.s a).toNat + 38) 2 ≤ 4096)
    (hp : s.localRead ((s.s a).toNat + 38) 2 = 0 ∨
      s.BlockOk (s.localRead ((s.s a).toNat + 40) 4 % 2 ^ 19) (s.localRead ((s.s a).toNat + 38) 2) 16 ∧
        s.localRead ((s.s a).toNat + 44) 4 % 2 ^ 19 % 16 = 0) :
    sendBody a rel reply s = s.tookBlock.leaves (s.sendMsg (s.s a).toNat rel (s.sendDst a reply)) (s.sendDst a reply)
      (s.localBytes (s.localRead ((s.s a).toNat + 40) 4 % 2 ^ 19) (s.localRead ((s.s a).toNat + 38) 2))
      (s.localRead ((s.s a).toNat + 44) 4 % 2 ^ 19) (if rel then s.openAccesses else []) := by
  have hg := State.gather_whole (s.sendOps a reply) 16 (s.s a).toNat 64 (by rw [h.first]) hl
  have hg2 : s.tookBlock.gather (s.sendOps a reply) 16 4 (s.localRead ((s.s a).toNat + 40) 4 % 2 ^ 19)
      (s.localRead ((s.s a).toNat + 38) 2) = .ok (s.tookBlock, s.tookBlock) :=
    State.gather_skip (by rw [State.tookBlock_cur, h.first]) (by decide)
  have hblk (h0 : s.localRead ((s.s a).toNat + 38) 2 ≠ 0) :
      s.tookBlock.BlockOk (s.localRead ((s.s a).toNat + 40) 4 % 2 ^ 19) (s.localRead ((s.s a).toNat + 38) 2) 16 := by
    obtain ⟨h1, h2, h3, h4⟩ := (hp.resolve_left h0).1
    exact ⟨h1, h2, h3, h4⟩
  have hmis : ¬ (s.localRead ((s.s a).toNat + 38) 2 ≠ 0 ∧ s.localRead ((s.s a).toNat + 44) 4 % 2 ^ 19 % 16 ≠ 0) :=
    fun h' => h'.2 (hp.resolve_left h'.1).2
  have hbad : (if s.localRead ((s.s a).toNat + 38) 2 = 0 then none else
      s.tookBlock.badLocal (s.localRead ((s.s a).toNat + 40) 4 % 2 ^ 19) (s.localRead ((s.s a).toNat + 38) 2)) = none := by
    split
    · rfl
    · next h0 => exact (hblk h0).good
  unfold sendBody
  cases reply <;>
  · simp only [State.sendOps] at hg hg2
    simp only [State.kept_of_nil h.fresh, bits_low, h.room, State.block_ok h.block, h.block.good, hg, bind, Except.bind, pure, Except.pure,
      State.tookBlock_localRead]
    refine (if_neg (Nat.not_lt.mpr hc)).trans ((if_neg (Nat.not_lt.mpr hn)).trans ?_)
    split
    · next h0 =>
      rw [State.block_ok (hblk h0)]
      simp only [(hblk h0).good, hg2, ofNat_high]
      rfl
    · simp only [hbad, hg2, ofNat_high]
      rfl

/-! ### Writes of HBM -/

/-- `t` is `s` but for its HBM and what is kept with it: check values, key indices and dirty bits of lines, a checkpoint's copies
in its host's memory. -/
def HbmOnly (s t : State) : Prop :=
  t = { s with
    hbm := t.hbm, badHbm := t.badHbm, lineKeys := t.lineKeys, cut := t.cut, dirty := t.dirty, hostOut := t.hostOut }

theorem HbmOnly.refl (s : State) : HbmOnly s s := rfl

theorem HbmOnly.trans {s t u : State} (h : HbmOnly s t) (h' : HbmOnly t u) : HbmOnly s u := by
  unfold HbmOnly at *
  rw [h', h]

theorem HbmOnly.write (s : State) (m : List Host.Cell) : HbmOnly s { s with hbm := m } := rfl

theorem State.hostPut_hbmOnly (s : State) (q off : Nat) (data : List Byte) : HbmOnly s (s.hostPut q off data) := by
  unfold State.hostPut
  split <;> rfl

theorem State.copyFrame_hbmOnly (s : State) (f : Nat) : HbmOnly s (s.copyFrame f) := by
  unfold State.copyFrame
  dsimp only
  split
  · exact .refl s
  · split
    · split
      · exact HbmOnly.trans (t := { s with cut := _ }) rfl (State.hostPut_hbmOnly ..)
      · rfl
    · rfl

theorem State.touchLine_hbmOnly (s : State) (line : Nat) : HbmOnly s (s.touchLine line) := by
  have h : HbmOnly s (if s.protectedLine line then s.copyFrame (line / 32) else s) := by
    split
    · exact s.copyFrame_hbmOnly _
    · exact .refl s
  refine h.trans ?_
  unfold State.touchLine
  generalize (if s.protectedLine line then s.copyFrame (line / 32) else s) = t
  dsimp only
  split
  · exact .refl t
  · rfl

theorem State.hbmSetByte_hbmOnly (s : State) (key a : Nat) (v : Byte) : HbmOnly s (s.hbmSetByte key a v) := by
  refine (s.touchLine_hbmOnly (a / 128)).trans ?_
  unfold State.hbmSetByte
  generalize s.touchLine (a / 128) = t
  dsimp only
  split
  · exact .write t _
  · exact .write t _

theorem State.hbmWriteMasked_hbmOnly (s : State) (key a mask n x : Nat) : HbmOnly s (s.hbmWriteMasked key a mask n x) := by
  induction n generalizing s a mask x with
  | zero => exact .refl s
  | succ n ih =>
    unfold State.hbmWriteMasked
    refine HbmOnly.trans ?_ (ih ..)
    split
    · exact s.hbmSetByte_hbmOnly ..
    · exact .refl s

theorem State.hbmStore_hbmOnly (s : State) (key a mask n x : Nat) : HbmOnly s (s.hbmStore key a mask n x) :=
  (s.hbmWriteMasked_hbmOnly key a mask n x).trans rfl

theorem State.vaWrite_hbmOnly {s t : State} {va n x : Nat} (h : s.vaWrite va n x = some t) : HbmOnly s t := by
  obtain ⟨p, -, rfl⟩ := Option.map_eq_some_iff.mp h
  exact s.hbmStore_hbmOnly ..

theorem State.recordError_hbmOnly (s : State) (launch : Option Nat) (cause lcell flags : Nat) :
    HbmOnly s (s.recordError launch cause lcell flags) := by
  unfold State.recordError
  cases launch with
  | none => exact .refl s
  | some l =>
    dsimp only
    split
    · exact .refl s
    · split
      · next e _ =>
        cases hv : s.vaWrite (s.levelVa l + 24) 8 (errsumAdd e cause lcell flags) with
        | none => exact .refl s
        | some t => exact State.vaWrite_hbmOnly hv
      · exact .refl s

theorem HbmOnly.cur {s t : State} (h : HbmOnly s t) : t.cur = s.cur := by rw [h]; rfl

/-! ### Flows (R305, R309, R351) -/

/-- `t` is `s` but for what has gone out to the links, the messages of the round, and the flows. -/
def FlowsOnly (s t : State) : Prop := t = { s with flows := t.flows, out := t.out, rounds := t.rounds }

theorem FlowsOnly.trans {s t u : State} (h : FlowsOnly s t) (h' : FlowsOnly t u) : FlowsOnly s u := by
  unfold FlowsOnly at *
  rw [h', h]

theorem State.setFlow_flowsOnly (s : State) (f : Flow) : FlowsOnly s (s.setFlow f) := by
  unfold State.setFlow
  split <;> rfl

theorem State.pumpBuf_flowsOnly (s : State) (l : List FlowMsg) : FlowsOnly s (s.pumpBuf l).1 := by
  induction l generalizing s with
  | nil => rfl
  | cons m r ih =>
    unfold State.pumpBuf
    split
    · exact ih s
    · split
      · rfl
      · exact FlowsOnly.trans (t := (s.transmit _).stamp _) rfl (ih _)

theorem State.pump_flowsOnly (s : State) (l dev : Nat) : FlowsOnly s (s.pump l dev) := by
  unfold State.pump
  split
  · rfl
  · split
    · rfl
    · exact (State.pumpBuf_flowsOnly ..).trans (State.setFlow_flowsOnly ..)

theorem State.sendOn_flowsOnly (s : State) (p : Packet) (access : Option Nat) (after : List Nat) (needsReply engine : Bool)
    (owner : Option (Option Nat × Nat)) : FlowsOnly s (s.sendOn p access after needsReply engine owner) :=
  (State.setFlow_flowsOnly ..).trans (State.pump_flowsOnly ..)

theorem FlowsOnly.cur {s t : State} (h : FlowsOnly s t) : t.cur = s.cur := by rw [h]; rfl

theorem find?_map_update {α : Type} (l : List α) (p : α → Bool) (y : α) (hy : p y = true) (h : l.any p = true) :
    (l.map fun x => if p x then y else x).find? p = some y := by
  induction l with
  | nil => exact absurd h (by simp)
  | cons a r ih =>
    rw [List.map_cons, List.find?_cons]
    by_cases ha : p a = true
    · rw [if_pos ha, hy]
    · rw [if_neg ha]
      simp only [Bool.not_eq_true] at ha
      rw [ha]
      exact ih (by simpa [ha] using h)

/-- A flow set is the one found. -/
theorem State.findFlow_setFlow (s : State) (f : Flow) : (s.setFlow f).findFlow f.scell f.ddev = some f := by
  have hf : (f.scell == f.scell && f.ddev == f.ddev) = true := by simp
  unfold State.setFlow State.findFlow
  split
  · next h =>
    have := find?_map_update s.flows (fun g => g.scell == f.scell && g.ddev == f.ddev) f hf h
    simp only [Bool.and_eq_true, beq_iff_eq] at this
    exact this
  · next h =>
    have hn : s.flows.find? (fun g => g.scell == f.scell && g.ddev == f.ddev) = none :=
      List.find?_eq_none.mpr fun g hg hp => h (List.any_eq_true.mpr ⟨g, hg, hp⟩)
    rw [List.find?_append, hn]
    simp

theorem FlowsOnly.pendingAccess {s t : State} (h : FlowsOnly s t) : t.pendingAccess = s.pendingAccess := by rw [h]; rfl

/-- A message that a pump has sent or left is the same but for that and its round. -/
def FlowMsg.Pumped (m e : FlowMsg) : Prop := e = { m with sent := e.sent, pkt := { m.pkt with rnd := e.pkt.rnd } }

/-- The message that goes out, stamped with the round. -/
def State.stamped (s : State) (m : FlowMsg) : FlowMsg := { m with sent := true, pkt := { m.pkt with rnd := s.rounds.send % 4096 } }

theorem State.pumpBuf_cons (s : State) (m : FlowMsg) (r : List FlowMsg) : s.pumpBuf (m :: r) =
    if m.sent then ((s.pumpBuf r).1, m :: (s.pumpBuf r).2)
    else if m.after.any s.pendingAccess then (s, m :: r)
    else ((((s.transmit (s.stamped m).pkt).stamp m.pkt.ddev).pumpBuf r).1,
      s.stamped m :: (((s.transmit (s.stamped m).pkt).stamp m.pkt.ddev).pumpBuf r).2) := rfl

theorem State.sent_flowsOnly (s : State) (m : FlowMsg) : FlowsOnly s ((s.transmit (s.stamped m).pkt).stamp m.pkt.ddev) := rfl

theorem getLast?_cons_of_some {α : Type} {a e : α} {l : List α} (h : l.getLast? = some e) : (a :: l).getLast? = some e := by
  rw [List.getLast?_cons, h, Option.getD_some]

theorem State.pumpBuf_length (s : State) (l : List FlowMsg) : (s.pumpBuf l).2.length = l.length := by
  induction l generalizing s with
  | nil => rfl
  | cons m r ih =>
    rw [State.pumpBuf_cons]
    split
    · exact congrArg (· + 1) (ih _)
    · split
      · rfl
      · exact congrArg (· + 1) (ih _)

/-- The last message of a buffer stays the last; while an access it waits for is open it stays unsent. -/
theorem State.pumpBuf_last (s : State) (l : List FlowMsg) (m : FlowMsg) : ∃ e, (s.pumpBuf (l ++ [m])).2.getLast? = some e ∧
    m.Pumped e ∧ (m.sent = false → m.after.any s.pendingAccess = true → e.sent = false) := by
  induction l generalizing s with
  | nil =>
    rw [List.nil_append, State.pumpBuf_cons]
    split
    · exact ⟨m, rfl, rfl, fun h' _ => h'⟩
    · split
      · exact ⟨m, rfl, rfl, fun h' _ => h'⟩
      · next h => exact ⟨s.stamped m, rfl, rfl, fun _ h' => absurd h' h⟩
  | cons a r ih =>
    rw [List.cons_append, State.pumpBuf_cons]
    split
    · obtain ⟨e, h1, h2, h3⟩ := ih s
      exact ⟨e, getLast?_cons_of_some h1, h2, h3⟩
    · split
      · exact ⟨m, getLast?_cons_of_some (by simp), rfl, fun h' _ => h'⟩
      · obtain ⟨e, h1, h2, h3⟩ := ih ((s.transmit (s.stamped a).pkt).stamp a.pkt.ddev)
        refine ⟨e, getLast?_cons_of_some h1, h2, fun h ha => h3 h ?_⟩
        rw [(s.sent_flowsOnly a).pendingAccess]
        exact ha

/-- With every message before it sent, the last one goes out. -/
theorem State.pumpBuf_next (s : State) (l : List FlowMsg) (m : FlowMsg) (hl : ∀ q ∈ l, q.sent = true) (hm : m.sent = false)
    (ha : m.after.any s.pendingAccess = false) :
    s.pumpBuf (l ++ [m]) = ((s.transmit (s.stamped m).pkt).stamp m.pkt.ddev, l ++ [s.stamped m]) := by
  induction l with
  | nil =>
    rw [List.nil_append, State.pumpBuf_cons, hm, ha]
    rfl
  | cons a r ih =>
    rw [List.cons_append, State.pumpBuf_cons, if_pos (hl a List.mem_cons_self), ih fun q hq => hl q (List.mem_cons_of_mem _ hq)]
    rfl

/-- What a flow holds for a sender and a module, or would begin with. -/
def State.flowTo (s : State) (l dev : Nat) : Flow := (s.findFlow l dev).getD { scell := l, ddev := dev }

theorem State.flowTo_names (s : State) (l dev : Nat) : (s.flowTo l dev).scell = l ∧ (s.flowTo l dev).ddev = dev := by
  unfold State.flowTo
  cases h : s.findFlow l dev with
  | none => exact ⟨rfl, rfl⟩
  | some f =>
    have := List.find?_some h
    simpa using this

theorem State.flowTo_room {s : State} {l dev : Nat} (h : s.flowRoom l dev = true) : (s.flowTo l dev).buf.length < 32 := by
  unfold State.flowRoom at h
  unfold State.flowTo
  cases hf : s.findFlow l dev with
  | none => exact Nat.zero_lt_succ 31
  | some f =>
    rw [hf] at h
    exact of_decide_eq_true h

/-- A flow whose last message has just entered, pumped. -/
theorem State.pump_entered {s : State} {f : Flow} {m : FlowMsg} {b : List FlowMsg} (hb : f.buf = b ++ [m]) (hl : b.length < 32)
    (hm : m.sent = false) : let u := (s.setFlow f).pump f.scell f.ddev
    ∃ g e, u.findFlow f.scell f.ddev = some g ∧ g.next = f.next ∧ g.buf.length = b.length + 1 ∧ g.buf.getLast? = some e ∧
      m.Pumped e ∧ (m.after.any s.pendingAccess = true → e.sent = false) ∧
      (s.dark f.ddev = false → (∀ q ∈ b, q.sent = true) → m.after.any s.pendingAccess = false →
        e.sent = true ∧ u.out = s.out ++ [e.pkt]) := by
  intro u
  have hs := s.setFlow_flowsOnly f
  have hp : (s.setFlow f).pendingAccess = s.pendingAccess := hs.pendingAccess
  have hd : (s.setFlow f).dark f.ddev = s.dark f.ddev := by rw [hs]; rfl
  have hu : u = if (s.setFlow f).dark f.ddev then s.setFlow f else
      ((s.setFlow f).pumpBuf f.buf).1.setFlow { f with buf := ((s.setFlow f).pumpBuf f.buf).2 } := by
    have ht : f.buf.take 32 = f.buf := List.take_of_length_le (by rw [hb, List.length_append]; exact hl)
    have hdr : f.buf.drop 32 = [] := List.drop_of_length_le (by rw [hb, List.length_append]; exact hl)
    simp only [u, State.pump, s.findFlow_setFlow f, ht, hdr, List.append_nil]
  by_cases hk : s.dark f.ddev = true
  · rw [hd, if_pos hk] at hu
    refine ⟨f, m, by rw [hu, s.findFlow_setFlow], rfl, ?_, ?_, rfl, fun _ => hm, fun h => absurd hk (by rw [h]; decide)⟩
    · rw [hb, List.length_append]; rfl
    · rw [hb]; simp
  · rw [hd, if_neg hk] at hu
    obtain ⟨e, h1, h2, h3⟩ := (s.setFlow f).pumpBuf_last b m
    rw [hp] at h3
    rw [hb] at hu
    refine ⟨{ f with buf := ((s.setFlow f).pumpBuf (b ++ [m])).2 }, e, ?_, rfl, ?_, h1, h2, h3 hm, fun _ hq ha => ?_⟩
    · rw [hu]
      exact State.findFlow_setFlow _ { f with buf := ((s.setFlow f).pumpBuf (b ++ [m])).2 }
    · show ((s.setFlow f).pumpBuf (b ++ [m])).2.length = _
      rw [State.pumpBuf_length, List.length_append]; rfl
    · have hn := (s.setFlow f).pumpBuf_next b m hq hm (by rw [hp]; exact ha)
      rw [hn] at h1 hu
      have he : e = (s.setFlow f).stamped m := by simpa using h1.symm
      have ho : (s.setFlow f).out = s.out := by
        unfold State.setFlow; split <;> rfl
      have hset : ∀ (t : State) (g : Flow), (t.setFlow g).out = t.out := by
        intro t g; unfold State.setFlow; split <;> rfl
      rw [he, hu, hset]
      exact ⟨rfl, congrArg (· ++ [((s.setFlow f).stamped m).pkt]) ho⟩

/-- The flow's entry for a message that `sendAway` sends. -/
def State.awayMsg (s : State) (m : Msg) (dev : Nat) (payload : List Byte) (pdst : Nat) (after : List Nat) : FlowMsg :=
  { pkt := { Packet.none with
      ddev := dev, dcell := m.dest.toNat, scell := s.cur.lcell.toNat, sdev := s.devidx.toNat, cls := m.cls.toNat
      rel := m.rel, launch := m.launch.toNat, paylen := payload.length, spcell := s.now.cell
      args := [m.args[0].toNat, m.args[1].toNat, m.args[2].toNat, m.args[3].toNat], path := m.path.toNat
      paddr := pdst, payload := payload.map BitVec.toNat
      seq := (s.flowTo s.cur.lcell.toNat dev).next % 65536, first := (s.findFlow s.cur.lcell.toNat dev).isNone }
    access := none, after := after, replied := true, engine := false
    owner := some (s.cur.launch.map BitVec.toNat, s.cur.lcell.toNat) }

theorem State.sendAway_eq (s : State) (m : Msg) (dev : Nat) (payload : List Byte) (pdst : Nat) (after : List Nat) :
    ∃ f : Flow, s.sendAway m dev payload pdst after = (s.setFlow f).pump f.scell f.ddev ∧ f.scell = s.cur.lcell.toNat ∧
      f.ddev = dev ∧ f.next = ((s.flowTo s.cur.lcell.toNat dev).next + 1) % 65536 ∧
      f.buf = (s.flowTo s.cur.lcell.toNat dev).buf ++ [s.awayMsg m dev payload pdst after] := by
  obtain ⟨h1, h2⟩ := s.flowTo_names s.cur.lcell.toNat dev
  let f := s.flowTo s.cur.lcell.toNat dev
  refine ⟨{ f with
    next := (f.next + 1) % 65536, buf := f.buf ++ [s.awayMsg m dev payload pdst after]
    bare := (match (some (s.cur.launch.map BitVec.toNat, s.cur.lcell.toNat) : Option (Option Nat × Nat)) with
      | some (none, _) => [f.next % 65536]
      | _ => []) ++ f.bare.filter (· != f.next % 65536)
    answered := f.answered.filter (· != f.next % 65536) }, ?_, h1, h2, rfl, rfl⟩
  refine Eq.trans ?_ (congrArg₂ (State.pump _) h1.symm h2.symm)
  rfl

theorem State.sendAway_flowsOnly (s : State) (m : Msg) (dev : Nat) (payload : List Byte) (pdst : Nat) (after : List Nat) :
    FlowsOnly s (s.sendAway m dev payload pdst after) := State.sendOn_flowsOnly ..

theorem State.post_cur (s : State) (p : Post) (adds : Bool) : (s.post p adds).cur = s.cur := by
  unfold State.post
  split <;> rfl

/-- A message within the module leaves the executing context. -/
theorem State.sendHere_cur (s : State) (m : Msg) (payload : List Byte) (after : List Nat) : (s.sendHere m payload after).cur = s.cur :=
  s.post_cur _ _

theorem foldl_range_four (g : Nat → Nat) : (List.range 4).foldl (fun x j => x + g j) 0 = g 0 + g 1 + g 2 + g 3 := by
  simp [List.range, List.range.loop]

theorem reg_add (a : Reg) (j : Fin 32) : Fin.ofNat 32 (a.val + j.val) = a + j := Fin.ext (Fin.val_add a j).symm

/-- The image of four vector registers, read as a sum. -/
theorem State.vecImage_eq (s : State) (a : Reg) : s.vecImage a =
    (s.v a).toNat + 2 ^ 128 * (s.v (a + 1)).toNat + 2 ^ 256 * (s.v (a + 2)).toNat + 2 ^ 384 * (s.v (a + 3)).toNat := by
  have h0 : Fin.ofNat 32 (a.val + 0) = a := Fin.ext (Nat.mod_eq_of_lt a.isLt)
  have h1 : Fin.ofNat 32 (a.val + 1) = a + 1 := reg_add a 1
  have h2 : Fin.ofNat 32 (a.val + 2) = a + 2 := reg_add a 2
  have h3 : Fin.ofNat 32 (a.val + 3) = a + 3 := reg_add a 3
  unfold State.vecImage
  rw [foldl_range_four fun j => (s.v (Fin.ofNat 32 (a.val + j))).toNat * 2 ^ (128 * j), h0, h1, h2, h3, Nat.mul_zero, Nat.pow_zero,
    Nat.mul_one, Nat.mul_comm _ (2 ^ (128 * 1)), Nat.mul_comm _ (2 ^ (128 * 2)), Nat.mul_comm _ (2 ^ (128 * 3))]

/-- What a form `i` that sends the block of register `a` to `dv`, with register operands `ops`, does once its block is in order (R347). -/
def SendsBlock (i : Instr) (rel : Bool) (dv : Dst) (ops : Nat) (a : Reg) (s : State) : Prop :=
  let x := (s.s a).toNat
  let rd := s.localRead; let cls := rd (x + 36) 1; let n := rd (x + 38) 2; let src := rd (x + 40) 4 % 2 ^ 19; let dst := rd (x + 44) 4 % 2 ^ 19
  (s.late.headD false = true → exec i s = .next (s.tookPiece ops (s.localBytes x 16))) ∧ (s.late.headD false = false →
    (cls < 16 → Traps i s causePerm (BitVec.ofNat 64 cls)) ∧
    (16 ≤ cls → 4096 < n → Traps i s causePerm (BitVec.ofNat 64 n)) ∧
    (16 ≤ cls → n ≤ 4096 → (n = 0 ∨ s.BlockOk src n 16 ∧ dst % 16 = 0) →
      let own := s.devidx.toNat
      let after := if rel = true then s.openAccesses else []
      (320 ≤ dv.dev ∨ s.reaches dv.dev = false → dv.dev ≠ own →
        Runs i s (s.tookBlock.recordError (s.cur.launch.map BitVec.toNat) 0x0B s.cur.lcell.toNat)) ∧
      ((dv.dev = own ∨
          dv.dev < 320 ∧ s.reaches dv.dev = true ∧ s.dark dv.dev = false ∧ s.flowRoom s.cur.lcell.toNat dv.dev = true) →
        ∃ m : Msg, m.cls = BitVec.ofNat 8 cls ∧ m.rel = rel ∧ m.dest = BitVec.ofNat 16 dv.cell ∧ m.launch = BitVec.ofNat 12 dv.launch ∧
          m.path = BitVec.ofNat 64 (rd (x + 48) 8) ∧ m.args[0] = BitVec.ofNat 64 (rd x 8) ∧ m.args[1] = BitVec.ofNat 64 (rd (x + 8) 8) ∧
          m.args[2] = BitVec.ofNat 64 (rd (x + 16) 8) ∧
          m.args[3] = BitVec.ofNat 64 (if rd (x + 37) 1 % 2 = 1 then s.returnAddress else rd (x + 24) 8) ∧
          m.paylen = BitVec.ofNat 13 n ∧ m.payaddr = BitVec.ofNat 19 dst ∧ m.srcdev = s.devidx ∧
          Runs i s (if dv.dev = own then (s.tookBlock.sendHere m (s.localBytes src n) after).countSent
            else (s.tookBlock.sendAway m dv.dev (s.localBytes src n) dst after).countSent))))

theorem sendsBlock {i : Instr} {s : State} {a : Reg} {rel : Bool} {reply : Option Reg} (he : exec i s = issue i s (sendBody a rel reply))
    (hx : Executes i s) (h : s.SendBlock a) : SendsBlock i rel (s.sendDst a reply) (s.sendOps a reply) a s := by
  refine ⟨fun hl => he.trans (issue_wait hx (sendBody_piece rel reply h hl)), fun hl => ⟨fun hc => ?_, fun hc hn => ?_, fun hc hn hp => ?_⟩⟩
  · exact he.trans (issue_trap hx (sendBody_class rel reply h hl hc))
  · exact he.trans (issue_trap hx (sendBody_long rel reply h hl hc hn))
  have runs {t : State} (ht : t.cur = s.cur) (hb : s.tookBlock.leaves (s.sendMsg (s.s a).toNat rel (s.sendDst a reply)) (s.sendDst a reply)
      (s.localBytes (s.localRead ((s.s a).toNat + 40) 4 % 2 ^ 19) (s.localRead ((s.s a).toNat + 38) 2))
      (s.localRead ((s.s a).toNat + 44) 4 % 2 ^ 19) (if rel then s.openAccesses else []) = .ok { s := t }) : Runs i s t := by
    rw [Runs, he]
    exact issue_runs hx ((sendBody_leaves rel reply h hl hc hn hp).trans hb) (congrArg Ctx.stepping ht)
  refine ⟨fun hr hne => runs (s.tookBlock.recordError_hbmOnly ..).cur ?_, fun hr => ⟨s.sendMsg (s.s a).toNat rel (s.sendDst a reply),
    rfl, rfl, rfl, rfl, rfl, rfl, rfl, rfl, rfl, rfl, rfl, rfl, ?_⟩⟩
  · have : (decide (320 ≤ (s.sendDst a reply).dev) || !s.reaches (s.sendDst a reply).dev) = true := by
      simpa using hr
    exact (if_neg hne).trans (if_pos this)
  · split
    · next hd => exact runs ((State.countSent_cur _).trans (State.sendHere_cur ..)) (if_pos hd)
    · next hd =>
      obtain ⟨h1, h2, h3, h4⟩ := hr.resolve_left hd
      have hn1 : ¬ (decide (320 ≤ (s.sendDst a reply).dev) || !s.reaches (s.sendDst a reply).dev) = true := by
        simp [h2, Nat.not_le.mpr h1]
      have hn2 : ¬ (s.dark (s.sendDst a reply).dev || !s.flowRoom s.cur.lcell.toNat (s.sendDst a reply).dev) = true := by
        simp [h3, h4]
      exact runs ((State.countSent_cur _).trans (State.sendAway_flowsOnly ..).cur)
        ((if_neg hd).trans ((if_neg hn1).trans (if_neg hn2)))

/-- A form at its first step: it waits for room in the outbound queue, then goes by its block (R113). -/
theorem sends_first {i : Instr} {s : State} {a : Reg} {rel : Bool} {reply : Option Reg} (he : exec i s = issue i s (sendBody a rel reply))
    (hx : Executes i s) (hk : s.cur.stage = 0) (ha : s.cur.answers = []) : (s.outFull = true → exec i s = .next s) ∧
      (s.outFull = false → s.BlockOk (s.s a).toNat 64 64 → SendsBlock i rel (s.sendDst a reply) (s.sendOps a reply) a s) :=
  ⟨fun ho => he.trans (issue_hold hx (sendBody_full a rel reply ho hk ha)), fun ho hb => sendsBlock he hx ⟨ho, hb, hk, ha⟩⟩

theorem Cell.enqueue_ctxs (c : Cell) (m : Msg) : (c.enqueue m).ctxs = c.ctxs := by
  unfold Cell.enqueue
  split <;> rfl

/-- The post of a message within the module. -/
def State.herePost (s : State) (m : Msg) (payload : List Byte) (after : List Nat) (sys : Bool) : Post :=
  { msg := m, target := .logical m.dest.toNat, payload := payload, out := true, after := after, placed := payload.isEmpty
    held := (look? s.l2p m.dest.toNat).isNone, flow := some (s.flowName, m.dest.toNat), system := sys
    det := if sys then none else s.window m, gate := if sys then .clear else .pending s.nextId }

theorem State.sendHere_eq (s : State) (m : Msg) (payload : List Byte) (after : List Nat) {sys : Bool}
    (h : (match look? s.l2p m.dest.toNat with | some c => kindOf c == some .system | none => false) = sys) :
    s.sendHere m payload after = { s with
      posts := s.posts ++ [s.herePost m payload after sys], nextId := if sys then s.nextId else s.nextId + 1
      records := s.records ++ if sys then [] else [RecOp.liveAdd (s.levelVa m.launch.toNat) s.nextId] } := by
  have e : s.sendHere m payload after = s.post { s.herePost m payload after sys with gate := .clear } true := by
    subst h
    rfl
  rw [e]
  clear e h
  cases sys
  · rfl
  · simp only [if_true, List.append_nil]
    rfl

end Sys2Proof.Machine
end

section
open Sys2Proof Sys2Proof.Machine

/-- Settles O40: the four forms by their block, and the two ways a message leaves. -/
theorem messageForms : Obligations.MessageForms := by
  unfold Obligations.MessageForms
  refine ⟨?_, ?_, ?_, ?_⟩
  · intro a b s x rd cls n src dst q hq hx hk ha
    simp only [List.mem_cons, List.not_mem_nil, or_false] at hq
    obtain rfl | rfl | rfl | rfl := hq
    · obtain ⟨h1, h2⟩ := sends_first (reply := none) (exec_send a s) hx hk ha
      refine ⟨h1, fun ho hb => ?_⟩
      rw [if_neg (by simp)]
      exact h2 ho hb
    · obtain ⟨h1, h2⟩ := sends_first (reply := none) (exec_sendRel a s) hx hk ha
      refine ⟨h1, fun ho hb => ?_⟩
      rw [if_neg (by simp)]
      exact h2 ho hb
    · obtain ⟨h1, h2⟩ := sends_first (reply := some b) (exec_reply a b s) hx hk ha
      refine ⟨h1, fun ho hb => ?_⟩
      rw [if_pos (.inl rfl)]
      exact h2 ho hb
    · obtain ⟨h1, h2⟩ := sends_first (reply := some b) (exec_replyRel a b s) hx hk ha
      refine ⟨h1, fun ho hb => ?_⟩
      rw [if_pos (.inr rfl)]
      exact h2 ho hb
  · intro s m payload after u sys
    exact ⟨s.herePost m payload after sys, s.sendHere_eq m payload after rfl, rfl, rfl, rfl, rfl, rfl, rfl, rfl, rfl, rfl⟩
  · intro s m dev dst payload after u l hroom f
    obtain ⟨f1, hu, hs, hd, hnext, hbuf⟩ := s.sendAway_eq m dev payload dst after
    obtain ⟨g, e, hg, hgn, hgl, hge, hpump, hwait, hgo⟩ := State.pump_entered (s := s) hbuf (State.flowTo_room hroom) rfl
    rw [← hu] at hg hgo
    rw [hs, hd] at hg
    rw [hd] at hgo
    have hf : FlowsOnly s u := s.sendAway_flowsOnly m dev payload dst after
    refine ⟨g, e, hg, hgn.trans hnext, hgl, hge, ?_, ?_, ?_, ?_, ?_, ?_, ?_, ?_, ?_, ?_, ?_, ?_, ?_, ?_, ?_, ?_, by rw [hf], by rw [hf], by rw [hf],
      hwait, hgo⟩
    all_goals rw [hpump]; rfl
  · intro a s hx img
    have hi : s.vecImage a = img := s.vecImage_eq a
    have hc : ({ Msg.ofNat (s.vecImage a) with lb := true } : Msg).cls.toNat = img % 256 := by
      rw [hi]; exact BitVec.toNat_ofNat img 8
    refine ⟨fun h0 => (exec_sendlb a s).trans (issue_hold hx (if_pos h0)), fun h0 h1 => ?_, fun h0 h1 => ?_⟩
    · exact issue_runs (body := sendlbBody a) hx ((if_neg h0).trans (if_pos (by rw [hc]; exact h1))) rfl
    · have hb : sendlbBody a s = .ok { s := s.modHere fun c => c.enqueue { Msg.ofNat (s.vecImage a) with lb := true } } :=
        (if_neg h0).trans (if_neg (by rw [hc]; exact Nat.not_lt.mpr h1))
      rw [hi] at hb
      exact issue_runs hx hb (congrArg Ctx.stepping (s.cur_modHere fun c => c.enqueue_ctxs _))
end

section
/-! SUPPORT. Searches of a range, and the channel that dispatches (R37, R38). -/
namespace Sys2Proof.Machine

theorem findSome?_range {α : Type} {f : Nat → Option α} {n j : Nat} {t : α} (hj : j < n) (hf : f j = some t) (hn : ∀ i, i < j → f i = none) :
    (List.range n).findSome? f = some t := by
  induction n with
  | zero => exact absurd hj (Nat.not_lt_zero j)
  | succ n ih =>
    rw [List.range_succ, List.findSome?_append]
    by_cases h : j < n
    · rw [ih h, Option.some_or]
    · have e : j = n := by omega
      subst e
      have h0 : (List.range j).findSome? f = none := List.findSome?_eq_none_iff.mpr fun i hi => hn i (List.mem_range.mp hi)
      simp [h0, hf]

theorem find?_range {p : Nat → Bool} {n k : Nat} : (List.range n).find? p = some k ↔ k < n ∧ p k = true ∧ ∀ j, j < k → p j = false := by
  rw [List.find?_range_eq_some]
  simp only [List.mem_range, Bool.not_eq_true', and_left_comm]

theorem getLast?_filter_range {p : Nat → Bool} {n ch : Nat} :
    ((List.range n).filter p).getLast? = some ch ↔ ch < n ∧ p ch = true ∧ ∀ j, ch < j → j < n → p j = false := by
  induction n with
  | zero => simp
  | succ n ih =>
    rw [List.range_succ, List.filter_append, List.getLast?_append]
    cases hn : p n with
    | true =>
      simp only [List.filter_cons, hn, if_true, List.filter_nil, List.getLast?_singleton, Option.some_or, Option.some.injEq]
      refine ⟨fun h => ?_, fun ⟨h1, _, h3⟩ => ?_⟩
      · subst h
        exact ⟨Nat.lt_succ_self _, hn, fun j h1 h2 => absurd h1 (by omega)⟩
      · by_contra hne
        have := h3 n (by omega) (Nat.lt_succ_self n)
        rw [hn] at this
        exact Bool.noConfusion this
    | false =>
      simp only [List.filter_cons, hn, Bool.false_eq_true, if_false, List.filter_nil, List.getLast?_nil, Option.none_or, ih]
      refine ⟨fun ⟨h1, h2, h3⟩ => ⟨by omega, h2, fun j hj hj' => ?_⟩, fun ⟨h1, h2, h3⟩ => ⟨?_, h2, fun j hj hj' => h3 j hj (by omega)⟩⟩
      · by_cases e : j = n
        · rw [e, hn]
        · exact h3 j hj (by omega)
      · by_contra hne
        have e : ch = n := by omega
        rw [e, hn] at h2
        exact Bool.noConfusion h2

/-- A channel has been passed over 4,096 times (R38). -/
def Cell.aged (c : Cell) (j : Nat) : Prop := 4096 ≤ (c.passed[j % 8]'(Nat.mod_lt _ (by decide))).toNat


theorem State.pick_iff (s : State) (n ch : Nat) : s.pick n = some ch ↔ ch < 8 ∧ s.eligible n ch = true ∧
    (((s.cell n).aged ch ∧ ∀ j, j < ch → s.eligible n j = true → ¬ (s.cell n).aged j) ∨
      ((∀ j, j < 8 → s.eligible n j = true → ¬ (s.cell n).aged j) ∧ ∀ j, ch < j → j < 8 → s.eligible n j = false)) := by
  have hf : ∀ c, ((List.range 8).filter (s.eligible n)).find? (fun ch =>
      decide (4096 ≤ ((s.cell n).passed[ch % 8]'(Nat.mod_lt _ (by decide))).toNat)) = some c ↔
      c < 8 ∧ (s.eligible n c = true ∧ (s.cell n).aged c) ∧ ∀ j, j < c → s.eligible n j = true → ¬ (s.cell n).aged j := by
    intro c
    rw [List.find?_filter, find?_range]
    simp only [decide_eq_true_eq, decide_eq_false_iff_not, Cell.aged, not_and]
  unfold State.pick
  cases h : ((List.range 8).filter (s.eligible n)).find? (fun ch =>
      decide (4096 ≤ ((s.cell n).passed[ch % 8]'(Nat.mod_lt _ (by decide))).toNat)) with
  | some c =>
    obtain ⟨h1, ⟨h2, h3⟩, h4⟩ := (hf c).mp h
    simp only [h, Option.some.injEq]
    refine ⟨fun e => e ▸ ⟨h1, h2, .inl ⟨h3, h4⟩⟩, fun ⟨g1, g2, g3⟩ => ?_⟩
    obtain ⟨g4, g5⟩ | ⟨g4, -⟩ := g3
    · exact Option.some.inj (h.symm.trans ((hf ch).mpr ⟨g1, ⟨g2, g4⟩, g5⟩))
    · exact absurd h3 (g4 c h1 h2)
  | none =>
    have hn : ∀ j, j < 8 → s.eligible n j = true → ¬ (s.cell n).aged j := by
      intro j hj he ha
      have := List.find?_eq_none.mp h j (List.mem_filter.mpr ⟨List.mem_range.mpr hj, he⟩)
      exact this (decide_eq_true ha)
    simp only [h, getLast?_filter_range]
    refine ⟨fun ⟨h1, h2, h3⟩ => ⟨h1, h2, .inr ⟨hn, h3⟩⟩, fun ⟨h1, h2, h3⟩ => ⟨h1, h2, ?_⟩⟩
    obtain ⟨h4, -⟩ | ⟨-, h4⟩ := h3
    · exact absurd h4 (hn ch h1 h2)
    · exact h4

/-- The entry of a table at a key is the first with it. -/
theorem look?_eq_some_iff {α : Type} (t : List (Nat × α)) (k : Nat) (x : α) :
    look? t k = some x ↔ ∃ pre post, t = pre ++ (k, x) :: post ∧ ∀ e ∈ pre, e.1 ≠ k := by
  induction t with
  | nil => simp [look?]
  | cons b r ih =>
    obtain ⟨k', y⟩ := b
    unfold look?
    split
    · next h =>
      subst h
      refine ⟨fun e => ⟨[], r, by rw [Option.some.inj e]; rfl, by simp⟩, fun ⟨pre, post, e, hp⟩ => ?_⟩
      cases pre with
      | nil => exact congrArg some (Prod.mk.inj (List.cons.inj e).1).2
      | cons a l => exact absurd (congrArg Prod.fst (List.cons.inj e).1.symm) (hp a List.mem_cons_self)
    · next h =>
      rw [ih]
      refine ⟨fun ⟨pre, post, e, hp⟩ => ⟨(k', y) :: pre, post, by rw [e]; rfl, ?_⟩, fun ⟨pre, post, e, hp⟩ => ?_⟩
      · intro a ha
        obtain rfl | ha := List.mem_cons.mp ha
        · exact h
        · exact hp a ha
      · cases pre with
        | nil => exact absurd (congrArg Prod.fst (List.cons.inj e).1) h
        | cons a l => exact ⟨l, post, (List.cons.inj e).2, fun x hx => hp x (List.mem_cons_of_mem a hx)⟩

theorem takeWhile_before {α : Type} {pre post : List (Nat × α)} {k : Nat} {x : α} (h : ∀ e ∈ pre, e.1 ≠ k) :
    (pre ++ (k, x) :: post).takeWhile (fun e => e.1 != k) = pre := by
  rw [List.takeWhile_append_of_pos (by simpa using h)]
  simp

theorem State.startTurn_iff (s : State) (n i : Nat) : s.startTurn n i = true ↔
    ∀ pre keys post, s.unstarted = pre ++ (n * 64 + i, keys) :: post → (∀ e ∈ pre, e.1 ≠ n * 64 + i) → ∀ e ∈ pre, ∀ k ∈ e.2, k ∉ keys := by
  unfold State.startTurn
  cases h : look? s.unstarted (n * 64 + i) with
  | none =>
    refine ⟨fun _ pre keys post e hp => ?_, fun _ => rfl⟩
    have := (look?_eq_some_iff s.unstarted (n * 64 + i) keys).mpr ⟨pre, post, e, hp⟩
    rw [h] at this
    exact absurd this (Option.some_ne_none keys).symm
  | some keys =>
    obtain ⟨pre, post, e, hp⟩ := (look?_eq_some_iff s.unstarted (n * 64 + i) keys).mp h
    simp only [e, takeWhile_before hp]
    refine ⟨fun ht pre' keys' post' e' hp' => ?_, fun ht => ?_⟩
    · have h1 : pre' = pre := by rw [← takeWhile_before hp', ← e', takeWhile_before hp]
      have h2 : keys' = keys := by
        have := (look?_eq_some_iff _ _ _).mpr ⟨pre', post', e', hp'⟩
        rw [← e, h] at this
        exact (Option.some.inj this).symm
      subst h1 h2
      simpa using ht
    · simpa using ht pre keys post rfl hp

theorem State.eligible_iff (s : State) (n ch : Nat) : s.eligible n ch = true ↔ ∃ slot m, Cell.head s (s.cell n) ch = some (slot, m) ∧
    ((s.cell n).routine m.cls.toNat).bound = true ∧ s.doomed n m = false ∧ ∀ i, slot = some i → s.startTurn n i = true := by
  unfold State.eligible
  cases h : Cell.head s (s.cell n) ch with
  | none => simp
  | some x =>
    obtain ⟨slot, m⟩ := x
    cases slot <;> simp [and_assoc]

end Sys2Proof.Machine
end

section
/-! SUPPORT. Channel heads, admission, placement of a payload, and writes that enter a bounce ring (R30, R31, R37, R58, R255). -/
namespace Sys2Proof.Machine

/-- An event that is enabled. -/
theorem event_some {s t : State} {r : Option State} (h : r = some t) : event s r = .next t := by rw [h]; rfl

theorem Cell.head_bottom {s : State} {c : Cell} {p : Post} {r : List Post} (hd : c.deque = p :: r) (hg : p.gate = .clear)
    (ha : p.after.any s.pendingAccess = false) : Cell.head s c (c.routine p.msg.cls.toNat).chan.toNat = some (none, p.msg) := by
  have hb : Cell.bottom s c = some p.msg := by
    simp only [Cell.bottom, hd, hg, ha, decide_true, Bool.not_false, Bool.and_self, if_true]
  simp only [Cell.head, hb, if_true]

theorem Cell.head_slot {s : State} {c : Cell} (ch : Nat) (hd : c.deque = []) : Cell.head s c ch =
    match look [] c.queue ch with
    | i :: _ => (look? c.slots i).map fun m => (some i, m)
    | [] => none := by
  have hb : Cell.bottom s c = none := by simp only [Cell.bottom, hd]
  simp only [Cell.head, hb, Cell.head.slotHead] <;> rfl

/-- The lowest free slot. -/
theorem Cell.freeSlot_eq {c : Cell} {i : Nat} (hi : i < 64) (hn : look? c.slots i = none) (hl : ∀ j, j < i → look? c.slots j ≠ none) :
    c.freeSlot = some i := by
  refine find?_range.mpr ⟨hi, by rw [hn]; rfl, fun j hj => ?_⟩
  obtain ⟨m, hm⟩ := Option.ne_none_iff_exists'.mp (hl j hj)
  rw [hm]; rfl

/-- A post whose path is clear enters the lowest free slot of its cell (R31). -/
theorem State.takeIn_admits {s : State} {n k i : Nat} {p : Post} (hp : s.posts[k]? = some p) (hc : s.pathClear k p = true)
    (hg : p.gate = .clear) (hd : s.destCell p.target = some n) (hpl : p.placed = true ∨ p.payload = []) (hr : s.detReady k p = true)
    (hroom : (s.cell n).slots.length + (if p.msg.lb then 1 else 5) ≤ 64) (hf : (s.cell n).freeSlot = some i) :
    s.takeIn n k = some (State.dropPost { s.setCell n { (s.cell n).enqueue p.msg with received := (s.cell n).received + 1 } with
      unstarted := s.unstarted ++ if s.startKeys n p = [] then [] else [(n * 64 + i, s.startKeys n p)] } k p) := by
  have hplace : (!p.placed && !p.payload.isEmpty) = false := by
    obtain h | h := hpl <;> simp [h]
  have hfree : ¬ (s.cell n).freeSlots < (if p.msg.lb then 1 else 5) := by
    unfold Cell.freeSlots
    have : Config.inboxSlots = 64 := rfl
    omega
  unfold State.takeIn
  simp only [hp, hc, hg, hd, hplace, hr, hfree, hf, bind, Option.bind, Bool.not_true, Bool.false_eq_true, if_false, ne_eq, not_true_eq_false]
  cases hk : s.startKeys n p with
  | nil => simp only [List.isEmpty_nil, if_true, List.append_nil] <;> rfl
  | cons a l => simp only [List.isEmpty_cons, Bool.false_eq_true, if_false, reduceCtorEq] <;> rfl

/-- The bytes of a payload that go in now, all that are left where the event gives no number (R207). -/
def State.partOf (s : State) (p : Post) : List Byte := if s.now.arg.c = 0 then p.payload.drop p.count else (p.payload.drop p.count).take s.now.arg.c

/-- A payload for a mapped cell without a bounce ring is written to its rows. -/
theorem State.placePost_rows {s : State} {k l c : Nat} {p : Post} (ht : p.target = .logical l) (hl : look? s.l2p l = some c)
    (he : (s.cell c).evac = none) (hok : s.payloadOk l p.msg.payaddr.toNat p.payload.length = true) (hb : look? s.bounce l = none) :
    s.placePost k p = some (State.rowBytes { s with posts := replaceAt s.posts k { p with
        placed := (p.payload.drop p.count).length == (s.partOf p).length, count := p.count + (s.partOf p).length, held := false } }
      l false (p.msg.payaddr.toNat + p.count) (s.partOf p)) := by
  unfold State.placePost
  simp only [ht, hl, he, hok, hb, Option.isSome_none, Option.any_none, Bool.false_eq_true, if_false, Bool.not_true]
  rfl

/-- A held post whose destination is mapped goes on to its placement (R58). -/
theorem State.delivery_place {s t : State} {p : Post} (hp : s.posts[s.now.arg.a]? = some p) (hh : p.held = true)
    (hd : s.destCell p.target ≠ none) (hc : s.pathClear s.now.arg.a p = true) (hpl : p.placed = false) (hne : p.payload ≠ [])
    (h : s.placePost s.now.arg.a p = some t) : execMappingValidDelivery s = .next t := by
  have hd' : (s.destCell p.target).isNone = false := by simpa [Option.isSome_iff_ne_none] using hd
  have hne' : p.payload.isEmpty = false := by simpa using hne
  refine event_some ?_
  simp only [hp, hh, hd', hc, hpl, hne', h, bind, Option.bind, Bool.not_true, Bool.or_false, Bool.false_eq_true, if_false]

theorem State.delivery_held {s : State} {p : Post} (hp : s.posts[s.now.arg.a]? = some p) (hh : p.held = true)
    (hd : s.destCell p.target ≠ none) (hc : s.pathClear s.now.arg.a p = true) (hpl : p.placed = true ∨ p.payload = []) :
    execMappingValidDelivery s = .next { s with posts := replaceAt s.posts s.now.arg.a { p with held := false, placed := true } } := by
  have hd' : (s.destCell p.target).isNone = false := by simpa [Option.isSome_iff_ne_none] using hd
  have hpl' : (p.placed || p.payload.isEmpty) = true := by
    obtain h | h := hpl <;> simp [h]
  refine event_some ?_
  simp only [hp, hh, hd', hc, hpl', bind, Option.bind, Bool.not_true, Bool.or_false, Bool.false_eq_true, if_false, if_true]

theorem State.access_id {s : State} {n : Nat} {x : Access} (h : s.access n = some x) : x.id = n := by
  simpa using List.find?_some h

/-- A plain store to an absent cell's rows enters a ring of this module whole. -/
theorem State.bounceReceive_here {s u : State} {x : Access} {l addr m data : Nat} {w : Bool} (hx : s.access s.now.arg.a = some x)
    (hp : x.place = .away l w addr) (hi : x.phase = .issued) (ho : x.op = .store m data) (ht : s.homeTurn x = true)
    (hr : (look? s.bounce l).any s.ringAway = false) (hw : s.bounceWrite l w addr (toBytes m data) = some u) :
    execBounceReceive s = .next (State.pumpAll { u with inflight := u.inflight.filter (·.id != s.now.arg.a) }) := by
  refine event_some ?_
  simp only [hx, hp, hi, ho, ht, hr, hw, bind, Option.bind, if_true, Bool.false_eq_true, if_false, List.foldlM, Nat.add_zero, pure,
    State.access_id hx]

/-- To a ring in another module's memory it takes a step. -/
theorem State.bounceReceive_away {s u : State} {x : Access} {l addr m data j : Nat} {w : Bool} (hx : s.access s.now.arg.a = some x)
    (hp : x.place = .away l w addr) (hi : x.phase = .issued) (ho : x.op = .store m data) (ht : s.homeTurn x = true)
    (hr : (look? s.bounce l).any s.ringAway = true) (hw : s.bounceAway l w addr (toBytes m data) = some (u, j)) :
    execBounceReceive s = .next (if j = 0 then u else State.pumpAll { u with inflight := u.inflight.filter (·.id != s.now.arg.a) }) := by
  refine event_some ?_
  simp only [hx, hp, hi, ho, ht, hr, hw, bind, Option.bind, if_true, Nat.add_zero, pure, State.access_id hx, AccOp.rest]
  split <;> rfl

end Sys2Proof.Machine
end

section
/-! SUPPORT. DISPATCH, the entry of a task, and context 3's own starts (R29, R31, R35, R37, R246, R254). -/
namespace Sys2Proof.Machine

theorem find?_free {s : State} {n k : Nat} (hk : k < 3) (hf : (s.ctx n k).busy = false) (hb : ∀ j, j < k → (s.ctx n j).busy = true) :
    (List.range 3).find? (fun j => !(s.ctx n j).busy) = some k :=
  find?_range.mpr ⟨hk, by rw [hf]; rfl, fun j hj => by rw [hb j hj]; rfl⟩

theorem findSome?_none {s : State} {n : Nat} (h : ∀ j, j < 3 → s.goOnRestoring n j = none) :
    (List.range 3).findSome? (fun k => s.goOnRestoring n k) = none :=
  List.findSome?_eq_none_iff.mpr fun j hj => h j (List.mem_range.mp hj)

/-- A restored context goes on first. -/
theorem dispatch_goesOn {s t : State} {j : Nat} (hs : (s.cell s.now.arg.a).still = false) (hj : j < 3)
    (ht : s.goOnRestoring s.now.arg.a j = some t) (hl : ∀ i, i < j → s.goOnRestoring s.now.arg.a i = none) : execDispatch s = .next t := by
  refine event_some ?_
  simp only [hs, Bool.false_eq_true, if_false, findSome?_range (f := fun k => s.goOnRestoring s.now.arg.a k) hj ht hl]

/-- Then a record is restored. -/
theorem dispatch_restores {s : State} {k : Nat} {r : Restore} (hs : (s.cell s.now.arg.a).still = false)
    (hn : ∀ j, j < 3 → s.goOnRestoring s.now.arg.a j = none) (hr : s.nextRestore s.now.arg.a = some r) (hk : k < 3)
    (hf : (s.ctx s.now.arg.a k).busy = false) (hb : ∀ j, j < k → (s.ctx s.now.arg.a j).busy = true) :
    execDispatch s = event s (match s.bounceStep (bits r.image (8 * 0x008) 16) with
      | .got _ t => some (t.restoreOn s.now.arg.a k r)
      | .wait t => t
      | _ => none) := by
  unfold execDispatch
  simp only [hs, Bool.false_eq_true, if_false, findSome?_none hn, hr, find?_free hk hf hb] <;> rfl

/-- Then a message starts. -/
theorem dispatch_message {s : State} (hs : (s.cell s.now.arg.a).still = false) (hn : ∀ j, j < 3 → s.goOnRestoring s.now.arg.a j = none)
    (hr : s.nextRestore s.now.arg.a = none) : execDispatch s = event s (s.dispatch s.now.arg.a) := by
  unfold execDispatch
  simp only [hs, Bool.false_eq_true, if_false, findSome?_none hn, hr]

/-- With no head to discard none is. -/
theorem State.discardHeads_none {s : State} {n : Nat} (h : ∀ c x, Cell.head s (s.cell n) c = some x → s.doomed n x.2 = false) (f : Nat) :
    s.discardHeads n f = s := by
  cases f with
  | zero => rfl
  | succ f =>
    unfold State.discardHeads
    split
    · next ch slot m hd =>
      obtain ⟨c, -, hc⟩ := List.exists_of_findSome?_eq_some hd
      split at hc
      · next x y hh =>
        rw [h c _ hh] at hc
        exact absurd hc (by simp)
      · exact absurd hc (by simp)
    · rfl

/-- The state in which cell `n` has taken the message of slot `i` from channel `ch`. -/
def State.tookMsg (s : State) (n ch i : Nat) : State :=
  s.takeHead n ((s.cell n).pass ((List.range 8).filter (s.eligible n)) ch) ch (some i)

/-- DISPATCH from an inbox channel, nothing to discard. -/
theorem State.dispatch_starts {s : State} {n k ch i : Nat} {m : Msg} (hs : (s.cell n).still = false) (hd : (s.cell n).deque = [])
    (hc : ∀ c x, Cell.head s (s.cell n) c = some x → s.doomed n x.2 = false) (hp : s.pick n = some ch)
    (hh : Cell.head s (s.cell n) ch = some (some i, m)) (hk : k < 3) (hf : (s.ctx n k).busy = false)
    (hb : ∀ j, j < k → (s.ctx n j).busy = true) :
    s.dispatch n = some ((s.tookMsg n ch i).startTask n k { m with chan := BitVec.ofNat 3 ch }) := by
  unfold State.dispatch
  simp only [hs, hd, List.isEmpty_nil, Bool.false_eq_true, if_false, if_true, State.discardHeads_none hc, find?_free hk hf hb, hp, hh]
  rfl

/-- A change of a context leaves all of its cell but the contexts. -/
theorem State.cell_modCtx_own (s : State) (n k : Nat) (f : Ctx → Ctx) :
    (s.modCtx n k f).cell n = { s.cell n with ctxs := ((s.modCtx n k f).cell n).ctxs } := by
  unfold State.modCtx State.setCtx
  rw [State.cell_modCell, if_pos rfl]
  rfl

theorem foldl_keeps {α β γ : Type} (g : β → γ) (f : β → α → β) (h : ∀ b a, g (f b a) = g b) (l : List α) (b : β) :
    g (l.foldl f b) = g b := by
  induction l generalizing b with
  | nil => rfl
  | cons a r ih => exact (ih (f b a)).trans (h b a)

theorem Ctx.unpromised_acts (x : Ctx) (same : Bool) (f : Nat) : (x.unpromised same f).acts = x.acts := by
  unfold Ctx.unpromised
  refine (foldl_keeps Ctx.acts _ ?_ _ _).trans (foldl_keeps Ctx.acts _ ?_ _ _)
  · exact fun _ _ => rfl
  · exact fun _ _ => rfl

/-- What R29 gives a value at entry: s0, s1, the arguments in s4 to s7, and the loop counts. -/
theorem Ctx.entered {x y : Ctx} {w : Word} {args : Vector Word 4} (hs : y.s = (x.enter w args).s) (hl : y.lc = (x.enter w args).lc) :
    y.getS 0 = 0 ∧ y.getS 1 = 0 ∧ y.getS 4 = args[0] ∧ y.getS 5 = args[1] ∧ y.getS 6 = args[2] ∧ y.getS 7 = args[3] ∧
      y.lc[0] = 0 ∧ y.lc[1] = 0 ∧ y.lc[2] = 0 := by
  simp [Ctx.getS, hs, hl, Ctx.enter]

/-- What a task that starts on context (n, k) finds there (R29). -/
theorem State.startTask_entry (s : State) (n k : Nat) (m : Msg) : let x := (s.startTask n k m).ctx n k
    x.busy = true ∧ x.pc = ((s.cell n).routine m.cls.toNat).entry ∧ x.sys = false ∧ x.fflags = 0 ∧ x.path = m.path ∧
      x.acts = (s.ctx n k).acts + 1 ∧ x.jrec = m.jrec ∧ x.launch = (if launchless n then none else some m.launch) ∧
      x.getS 0 = 0 ∧ x.getS 1 = 0 ∧ x.getS 4 = m.args[0] ∧ x.getS 5 = m.args[1] ∧ x.getS 6 = m.args[2] ∧ x.getS 7 = m.args[3] ∧
      x.lc[0] = 0 ∧ x.lc[1] = 0 ∧ x.lc[2] = 0 := by
  unfold State.startTask
  dsimp only
  rw [State.ctx_modCtx, if_pos ⟨rfl, rfl⟩]
  exact ⟨rfl, rfl, rfl, rfl, rfl, congrArg (· + 1) (Ctx.unpromised_acts ..), rfl, rfl, Ctx.entered rfl rfl⟩

/-- It changes cells, the free values and the numbers given out alone. -/
theorem State.startTask_rest (s : State) (n k : Nat) (m : Msg) : s.startTask n k m =
    { s with cells := (s.startTask n k m).cells, free := s.free + 1, nextId := s.nextId + 1 } := rfl

/-- It leaves all of its cell but the context. -/
theorem State.startTask_cell (s : State) (n k : Nat) (m : Msg) : (s.startTask n k m).cell n =
    { s.cell n with ctxs := ((s.startTask n k m).cell n).ctxs } := by
  unfold State.startTask
  dsimp only
  exact State.cell_modCtx_own _ n k _

theorem Cell.pass_keeps {γ : Type} (g : Cell → γ) (h : ∀ (c : Cell) p, g { c with passed := p } = g c) (c : Cell) (el : List Nat) (ch : Nat) :
    g (c.pass el ch) = g c :=
  foldl_keeps g _ (fun b _ => h b _) _ c

theorem Cell.take_slots (c : Cell) (ch i : Nat) : (c.take ch (some i)).slots = del c.slots i := rfl

theorem Cell.take_routines (c : Cell) (ch i : Nat) : (c.take ch (some i)).routines = c.routines := rfl

theorem Cell.take_ctxs (c : Cell) (ch i : Nat) : (c.take ch (some i)).ctxs = c.ctxs := rfl

theorem look?_del {α : Type} (t : List (Nat × α)) (n m : Nat) : look? (del t n) m = if m = n then none else look? t m := by
  induction t with
  | nil => simp [del, look?]
  | cons b r ih =>
    obtain ⟨k, y⟩ := b
    have hd : del ((k, y) :: r) n = if k = n then del r n else (k, y) :: del r n := by
      by_cases h : k = n <;> simp [del, h]
    rw [hd]
    by_cases h : k = n
    · rw [if_pos h, ih]
      by_cases hm : m = n
      · rw [if_pos hm, if_pos hm]
      · rw [if_neg hm, if_neg hm, look?, if_neg fun e => hm (e.symm.trans h)]
    · rw [if_neg h, look?, look?, ih]
      by_cases hm : k = m
      · rw [if_pos hm, if_pos hm, if_neg fun e => h (hm.trans e)]
      · rw [if_neg hm, if_neg hm]

/-- The message has left the inbox and its channel; the rest of the cell's tables is as it was. -/
theorem State.tookMsg_cell (s : State) (n ch i : Nat) : ((s.tookMsg n ch i).cell n).slots = del (s.cell n).slots i ∧
    ((s.tookMsg n ch i).cell n).routines = (s.cell n).routines ∧ ((s.tookMsg n ch i).cell n).ctxs = (s.cell n).ctxs := by
  have h : (s.tookMsg n ch i).cell n = ((s.cell n).pass ((List.range 8).filter (s.eligible n)) ch).take ch (some i) := by
    show (s.setCell n _).cell n = _
    rw [State.cell_setCell, if_pos rfl]
  rw [h, Cell.take_slots, Cell.take_routines, Cell.take_ctxs, Cell.pass_keeps Cell.slots fun _ _ => rfl,
    Cell.pass_keeps Cell.routines fun _ _ => rfl, Cell.pass_keeps Cell.ctxs fun _ _ => rfl]
  exact ⟨rfl, rfl, rfl⟩

/-- A task that DISPATCH starts from slot `i` (R29, R37, R39). -/
theorem State.dispatch_task {s : State} {n k ch i : Nat} {m : Msg} :
    let t := (s.tookMsg n ch i).startTask n k { m with chan := BitVec.ofNat 3 ch }
    let x := t.ctx n k
    x.busy = true ∧ x.pc = ((s.cell n).routine m.cls.toNat).entry ∧ x.sys = false ∧ x.fflags = 0 ∧ x.path = m.path ∧
      x.acts = (s.ctx n k).acts + 1 ∧ x.jrec = m.jrec ∧ x.launch = (if launchless n then none else some m.launch) ∧
      x.getS 0 = 0 ∧ x.getS 1 = 0 ∧ x.getS 4 = m.args[0] ∧ x.getS 5 = m.args[1] ∧ x.getS 6 = m.args[2] ∧ x.getS 7 = m.args[3] ∧
      x.lc[0] = 0 ∧ x.lc[1] = 0 ∧ x.lc[2] = 0 ∧ look? (t.cell n).slots i = none ∧ t.hbm = s.hbm ∧ t.pad = s.pad := by
  intro t x
  obtain ⟨hsl, hr, hc⟩ := s.tookMsg_cell n ch i
  obtain ⟨x0, x1, x2, x3, x4, x5, x6, x7, r0, r1, r4, r5, r6, r7, l0, l1, l2⟩ :=
    (s.tookMsg n ch i).startTask_entry n k { m with chan := BitVec.ofNat 3 ch }
  have hpc : ((s.tookMsg n ch i).cell n).routine m.cls.toNat = (s.cell n).routine m.cls.toNat := by
    simp only [Cell.routine, hr]
  have hctx : (s.tookMsg n ch i).ctx n k = s.ctx n k := Cell.ctx_congr hc k
  have hslots : look? (t.cell n).slots i = none := by
    have : (t.cell n).slots = del (s.cell n).slots i := by
      rw [show t.cell n = _ from State.startTask_cell ..]
      exact hsl
    rw [this, look?_del, if_pos rfl]
  exact ⟨x0, x1.trans (congrArg Routine.entry hpc), x2, x3, x4, x5.trans (by rw [hctx]), x6, x7, r0, r1, r4, r5, r6, r7,
    l0, l1, l2, hslots, rfl, rfl⟩

/-- Context 3 at the start of a system activation: the rest of its registers as it was (log 17). -/
theorem State.startSystem_ctx (s : State) (n : Nat) (pc : CodeAddr) : let x := (s.startSystem n pc).ctx n 3
    x.busy = true ∧ x.pc = pc ∧ x.launch = none ∧ x.v = (s.ctx n 3).v ∧ x.s = (s.ctx n 3).s := by
  unfold State.startSystem
  dsimp only
  rw [State.ctx_modCtx, if_pos ⟨rfl, rfl⟩]
  exact ⟨rfl, rfl, rfl, rfl, rfl⟩

theorem State.startSystem_others (s : State) (n : Nat) (pc : CodeAddr) {k : Nat} (hk : k < 3) : (s.startSystem n pc).ctx n k = s.ctx n k := by
  unfold State.startSystem
  dsimp only
  rw [State.ctx_modCtx, if_neg (by omega)]
  rfl

theorem State.startSystem_cell (s : State) (n : Nat) (pc : CodeAddr) : (s.startSystem n pc).cell n =
    { s.cell n with ctxs := ((s.startSystem n pc).cell n).ctxs } := by
  unfold State.startSystem
  dsimp only
  exact State.cell_modCtx_own _ n 3 _

/-- Context 3 traps UNBOUND for the message of slot `i` (R35, R246). -/
theorem State.trapUnbound_ctx (s : State) (n : Nat) (c : Cell) (i : Nat) (m : Msg) : let t := s.trapUnbound n c i m
    (t.ctx n 3).busy = true ∧ (t.ctx n 3).pc = c.trapvec ∧ (t.ctx n 3).sys = true ∧ (t.ctx n 3).trapcause = causeUnbound ∧
      (t.ctx n 3).trapval = m.cls.zeroExtend 64 ∧ (t.ctx n 3).trappc = (c.ctx 3).pc ∧
      (t.ctx n 3).trapstate = trapState true false true 0 i := by
  unfold State.trapUnbound
  dsimp only
  rw [State.ctx_modCtx, if_pos ⟨rfl, rfl⟩]
  obtain ⟨hb, hpc, -⟩ := (s.setCell n { c with unbound := some i }).startSystem_ctx n c.trapvec
  exact ⟨hb, hpc, rfl, rfl, rfl, rfl, rfl⟩

theorem State.trapUnbound_cell (s : State) (n : Nat) (c : Cell) (i : Nat) (m : Msg) : (s.trapUnbound n c i m).cell n =
    { c with unbound := some i, ctxs := ((s.trapUnbound n c i m).cell n).ctxs } := by
  unfold State.trapUnbound
  dsimp only
  refine (State.cell_modCtx_own _ n 3 _).trans ?_
  rw [State.startSystem_cell, State.cell_setCell, if_pos rfl]

theorem trapState_noact (psys long : Bool) (cls slot : Nat) : bit (trapState psys long true cls slot).toNat 3 = true := by
  have := psys.toNat_lt
  have := long.toNat_lt
  rw [bit, trapState_toNat, Bool.toNat_true]
  exact decide_eq_true (by omega)

theorem trapState_slot (psys long noact : Bool) (cls slot : Nat) :
    (trapState psys long noact cls slot).toNat / 2 ^ 16 % 2 ^ 6 = slot % 2 ^ 6 := by
  have := psys.toNat_lt
  have := long.toNat_lt
  have := noact.toNat_lt
  rw [trapState_toNat]; omega

theorem Cell.enqueue_received {c : Cell} {i : Nat} {m : Msg} (h : c.freeSlot = some i) :
    let chan : BitVec 3 := if m.cls.toNat < 16 then 7 else (look {} c.routines m.cls.toNat).chan
    { c.enqueue m with received := c.received + 1 } = { c with
      slots := put c.slots i { m with chan := chan }
      queue := put c.queue chan.toNat (look [] c.queue chan.toNat ++ [i]), received := c.received + 1 } := by
  simp only [Cell.enqueue, h]

theorem overflowStart {s : State} (hs : (s.cell s.now.arg.a).still = false) (hb : (s.ctx s.now.arg.a 3).busy = false)
    (hf : 56 ≤ (s.cell s.now.arg.a).slots.length) :
    execOverflowRoutineStart s = .next (s.startSystem s.now.arg.a (s.cell s.now.arg.a).ovfvec) := by
  have hfree : ¬ 8 < (s.cell s.now.arg.a).freeSlots := by
    unfold Cell.freeSlots
    have : Config.inboxSlots = 64 := rfl
    omega
  refine event_some (if_neg ?_)
  have hb' : ((s.cell s.now.arg.a).ctx 3).busy = false := hb
  simp [hs, hb', hfree]

/-- UNBOUND_TRAP for the head of a channel, and for the deque's bottom where no head traps. -/
theorem unboundTrap_head {s : State} {ch i : Nat} {m : Msg} (hs : (s.cell s.now.arg.a).still = false)
    (hb : (s.ctx s.now.arg.a 3).busy = false) (hh : s.strictHead s.now.arg.a = some (ch, i, m)) :
    execUnboundTrap s = .next (s.trapUnbound s.now.arg.a { s.cell s.now.arg.a with
      queue := put (s.cell s.now.arg.a).queue ch ((look [] (s.cell s.now.arg.a).queue ch).filter (· != i)) } i m) := by
  have hb' : ((s.cell s.now.arg.a).ctx 3).busy = false := hb
  refine event_some ((if_neg (by simp [hs, hb'])).trans ?_)
  simp only [hh]

theorem unboundTrap_bottom {s : State} {i : Nat} {m : Msg} (hs : (s.cell s.now.arg.a).still = false)
    (hb : (s.ctx s.now.arg.a 3).busy = false) (hh : s.strictHead s.now.arg.a = none) (hm : s.strictBottom s.now.arg.a = some (i, m)) :
    execUnboundTrap s = .next (s.trapUnbound s.now.arg.a { s.cell s.now.arg.a with
      deque := (s.cell s.now.arg.a).deque.tail, slots := put (s.cell s.now.arg.a).slots i m } i m) := by
  have hb' : ((s.cell s.now.arg.a).ctx 3).busy = false := hb
  refine event_some ((if_neg (by simp [hs, hb'])).trans ?_)
  simp only [hh, hm]

end Sys2Proof.Machine
end

section
open Sys2Proof Sys2Proof.Machine

/-- Settles O50: selection, admission and placement, dispatch, and context 3's starts. -/
theorem taskDeliveryEvents : Obligations.TaskDeliveryEvents := by
  unfold Obligations.TaskDeliveryEvents
  refine ⟨fun s n ch => ⟨s.pick_iff n ch, ?_, ?_, ?_⟩, ?_, ?_, ?_⟩
  · simp only [s.eligible_iff n ch, s.startTurn_iff]
  · rintro p r hd hg ha rfl
    exact Cell.head_bottom hd hg ha
  · intro hd
    refine ⟨fun hq => by rw [Cell.head_slot ch hd, hq], fun i r hq => by rw [Cell.head_slot ch hd, hq]⟩
  · intro s p n k freed
    refine ⟨?_, ?_, ?_⟩
    · intro i hp hc hg hd hpl hr hroom hi hn hl chan keys
      have hf := Cell.freeSlot_eq hi hn hl
      refine (event_some (State.takeIn_admits hp hc hg hd hpl hr hroom hf)).trans ?_
      rw [Cell.enqueue_received hf]
      simp only [freed, State.dropPost]
      cases p.serai <;> rfl
    · intro hp hh hd hc
      refine ⟨State.delivery_held hp hh hd hc, fun l c hpl hne ht hm he hok hb => ?_⟩
      intro left part
      exact State.delivery_place hp hh hd hc hpl hne (State.placePost_rows ht hm he hok hb)
    · intro x l w addr m data u hx hp hi ho ht
      exact ⟨fun hr hw => State.bounceReceive_here hx hp hi ho ht hr hw, fun hr j hw => State.bounceReceive_away hx hp hi ho ht hr hw⟩
  · intro s k n
    refine ⟨fun j t hs hj ht hl => dispatch_goesOn hs hj ht hl, fun hs hk hf hb hn => ⟨fun r t hr => ⟨fun hg => ?_, fun hw => ?_⟩, ?_⟩⟩
    · refine (dispatch_restores hs hn hr hk hf hb).trans ?_
      simp only [hg] <;> rfl
    · refine (dispatch_restores hs hn hr hk hf hb).trans ?_
      simp only [hw] <;> rfl
    · intro ch i m hr hd hc hp hh
      refine ⟨_, (dispatch_message hs hn hr).trans (event_some (State.dispatch_starts hs hd hc hp hh hk hf hb)), State.dispatch_task⟩
  · intro s n x hs hb
    refine ⟨fun hf => ?_, fun ch i m hh => ?_, fun i m hh hm => ?_⟩
    · obtain ⟨h1, h2, h3, h4, h5⟩ := s.startSystem_ctx n (s.cell n).ovfvec
      exact ⟨_, overflowStart hs hb hf, h1, h2, h3, h4, h5, fun k hk => s.startSystem_others n _ hk, rfl, rfl⟩
    · obtain ⟨h1, h2, h3, h4, h5, h6, h7⟩ := s.trapUnbound_ctx n { s.cell n with
        queue := put (s.cell n).queue ch ((look [] (s.cell n).queue ch).filter (· != i)) } i m
      refine ⟨_, unboundTrap_head hs hb hh, h1, h2, h3, h4, h5, h6, ?_, ?_, ?_, ?_, ?_⟩
      · rw [h7]; exact trapState_noact ..
      · rw [h7]; exact trapState_slot ..
      all_goals rw [State.trapUnbound_cell]
      rw [look_put, if_pos rfl]
    · obtain ⟨h1, h2, h3, h4, h5, -, -⟩ := s.trapUnbound_ctx n { s.cell n with
        deque := (s.cell n).deque.tail, slots := put (s.cell n).slots i m } i m
      refine ⟨_, unboundTrap_bottom hs hb hh hm, h1, h2, h3, h4, h5, ?_, ?_, ?_, ?_⟩
      all_goals rw [State.trapUnbound_cell]
      rw [look?_put, if_pos rfl]
end

section
/-! SUPPORT. Level and join records at their home; deadlines, saves and kills (R46, R49, R57, R203, R248-R253). -/
namespace Sys2Proof.Machine

/-! ### LIVE and joins (R46, R57, R116) -/

theorem State.liveUp_void {s : State} {va t n ph : Nat} (h1 : s.vaRead (va + 16) 4 = some n) (h2 : s.vaRead va 16 = some ph)
    (hn : n = 0) (hf : (PhaseWord.ofNat ph).gen ≠ 0) (ht : t ≠ 0) : s.liveUp va t = some (s.gate t .void) := by
  have h : n = 0 ∧ (PhaseWord.ofNat ph).gen ≠ 0 ∧ t ≠ 0 := ⟨hn, hf, ht⟩
  simp only [State.liveUp, h1, h2, h, bind, Option.bind, pure, ne_eq, not_false_eq_true, and_self, if_true]

theorem State.liveUp_clear {s u : State} {va t n ph : Nat} (h1 : s.vaRead (va + 16) 4 = some n) (h2 : s.vaRead va 16 = some ph)
    (h : n ≠ 0 ∨ ¬ (PhaseWord.ofNat ph).gen ≠ 0 ∨ t = 0) (hw : s.vaWrite (va + 16) 4 ((n + 1) % 2 ^ 32) = some u) :
    s.liveUp va t = some (u.gate t .clear) := by
  have h' : ¬ (n = 0 ∧ (PhaseWord.ofNat ph).gen ≠ 0 ∧ t ≠ 0) := by tauto
  simp only [State.liveUp, h1, h2, h', hw, bind, Option.bind, pure, if_false]

theorem State.liveDown_above {s u : State} {va n : Nat} (h1 : s.vaRead (va + 16) 4 = some n)
    (hw : s.vaWrite (va + 16) 4 ((n + 2 ^ 32 - 1) % 2 ^ 32) = some u) (hn : n ≠ 1) : s.liveDown va = some u := by
  simp only [State.liveDown, h1, hw, hn, bind, Option.bind, pure, ne_eq, not_false_eq_true, if_true]

/-- LIVE falls to 0: PHASE takes its arrival, and the record's parent loses one (R46). -/
theorem State.liveDown_zero {s u v : State} {va ph parent : Nat} {w : PhaseWord} (h1 : s.vaRead (va + 16) 4 = some 1)
    (hw : s.vaWrite (va + 16) 4 ((1 + 2 ^ 32 - 1) % 2 ^ 32) = some u) (hp : u.vaRead va 16 = some ph)
    (hu : (PhaseWord.ofNat ph).update 1 0 = some w) (hv : u.vaWrite va 16 w.toNat = some v) (hr : v.vaRead (va + 40) 8 = some parent) :
    s.liveDown va = some (State.jobDone (if parent = 0 then v else { v with records := v.records ++ [RecOp.liveSub parent] }) va) := by
  unfold State.liveDown
  simp only [h1, hw, hp, hu, hv, hr, bind, Option.bind, pure, ne_eq, not_true_eq_false, if_false]

theorem State.joinChild_eq {s u v : State} {va slot x j : Nat} {err : Bool} (h1 : s.vaRead va 8 = some j)
    (hu : s.vaWrite (va + 16 + 8 * slot) 8 x = some u)
    (hv : u.vaWrite va 8 (if err then (j - bits j 16 16 * 2 ^ 16 + (bits j 16 16 + 1) % 2 ^ 16 * 2 ^ 16) ||| 2 ^ 40
      else j - bits j 16 16 * 2 ^ 16 + (bits j 16 16 + 1) % 2 ^ 16 * 2 ^ 16) = some v) :
    s.joinChild va slot x err = some (State.joinFire (match v.joins.find? (·.va == va) with
      | some h => if err then { v with joins := replaceAt v.joins (v.joins.idxOf h) { h with errs := h.errs + 1 } } else v
      | none => v) va) := by
  simp only [State.joinChild, h1, hu, hv, bind, Option.bind, pure] <;> rfl

theorem State.joinClose_eq {s u : State} {va count j : Nat} (h1 : s.vaRead va 8 = some j)
    (hu : s.vaWrite va 8 (j - bits j 0 16 + count % 2 ^ 16) = some u) : s.joinClose va count = some (u.joinFire va) := by
  simp only [State.joinClose, h1, hu, bind, Option.bind, pure]

/-! ### Saves (R251-R253) -/

theorem State.ctx_haltIfDue (s : State) (n m k : Nat) : (s.modCell n Cell.haltIfDue).ctx m k = s.ctx m k :=
  s.ctx_modCell_of_ctxs n m k Cell.haltIfDue_ctxs

/-- What a save takes back: of its context it changes what it had read of its operands. -/
theorem State.withdraw_ctx (s : State) (n k : Nat) : (s.withdraw n k).ctx n k = { s.ctx n k with answers := [], stage := 0 } := by
  show (s.giveBack n k).ctx n k = _
  show (s.modCtx n k fun x => { x with answers := [], stage := 0 }).ctx n k = _
  rw [State.ctx_modCtx, if_pos ⟨rfl, rfl⟩]

theorem State.withdraw_rest (s : State) (n k : Nat) : (s.withdraw n k).hbm = s.hbm ∧ (s.withdraw n k).pad = s.pad ∧
    (s.withdraw n k).records = s.records ∧ (s.withdraw n k).savedTasks = s.savedTasks := ⟨rfl, rfl, rfl, rfl⟩

/-- A context whose save was lost is free, and marked (R253). -/
theorem State.saveLost_ctx (s : State) (n k : Nat) : ((s.saveLost n k).ctx n k).busy = false ∧ ((s.saveLost n k).ctx n k).saving = false ∧
    ((s.saveLost n k).ctx n k).lost = true := by
  unfold State.saveLost
  dsimp only
  rw [State.ctx_modCtx, if_pos ⟨rfl, rfl⟩, State.freeCtx_ctx]
  exact ⟨rfl, rfl, rfl⟩

theorem State.freeCtx_hbm (s : State) (n k : Nat) : (s.freeCtx n k).hbm = s.hbm := by rw [s.freeCtx_rest]

theorem State.freeCtx_records (s : State) (n k : Nat) : (s.freeCtx n k).records = s.records := by rw [s.freeCtx_rest]

theorem State.freeCtx_savedTasks (s : State) (n k : Nat) : (s.freeCtx n k).savedTasks = s.savedTasks := by rw [s.freeCtx_rest]

theorem State.areaLine_hbmOnly {s t : State} {x : Ctx} {va : Nat} (h : s.areaLine x va = some t) : HbmOnly s t := by
  unfold State.areaLine at h
  split at h
  · split at h
    · exact Option.some.inj h ▸ HbmOnly.refl s
    · split at h
      · exact Option.some.inj h ▸ s.recordError_hbmOnly ..
      · exact absurd h (by simp)
  · exact absurd h (by simp)

theorem State.allocRecord_hbmOnly {s t : State} {x : Ctx} {area j : Nat} (h : s.allocRecord x area = some (j, t)) : HbmOnly s t := by
  unfold State.allocRecord at h
  split at h
  · exact absurd h (by simp)
  · simp only [bind, Option.bind_eq_some_iff] at h
    obtain ⟨s1, h1, nrec, -, next, -, s2, h2, h3⟩ := h
    split at h3
    · exact absurd h3 (by simp)
    · obtain ⟨-, rfl⟩ := Prod.mk.inj (Option.some.inj h3)
      exact (State.areaLine_hbmOnly h1).trans (State.vaWrite_hbmOnly h2)

theorem State.writeRecord_hbmOnly {s u : State} {n k va : Nat} {pend : List PendEntry} {pcw : CodeAddr}
    (h : s.writeRecord n k pend pcw = some (va, u)) : HbmOnly s u := by
  unfold State.writeRecord at h
  simp only [bind, Option.bind_eq_some_iff] at h
  obtain ⟨area, -, ⟨j, s1⟩, h1, s2, h2, s3, h3, h4⟩ := h
  obtain ⟨-, rfl⟩ := Prod.mk.inj (Option.some.inj h4)
  exact ((State.allocRecord_hbmOnly h1).trans (State.vaWrite_hbmOnly h2)).trans (State.vaWrite_hbmOnly h3)

/-- The storing of a record in another module's memory, at its first access. -/
def State.storingAt (s : State) (n k area : Nat) : Storing :=
  { id := s.nextId, area := area, body := (s.ctx n k).record k (s.pendEntries n k).2.toNat (s.pendEntries n k).1, task := s.savedTask n k }

/-- A save that may begin, by where its area lies. -/
theorem State.forcedSave_begin {s : State} {n k : Nat} (hb : (s.ctx n k).busy = true) (hr : s.saveReady n k = true) :
    s.forcedSave n k = (match s.areaAway (s.ctx n k).level.toNat with
      | some area => some ((State.withdraw { s with nextId := s.nextId + 1 } n k).modCtx n k fun x => { x with storing := some (s.storingAt n k area) })
      | none => match s.writeRecord n k (s.pendEntries n k).1 (s.pendEntries n k).2 with
        | none => some (s.saveAbort n k)
        | some (va, s1) =>
          some ((State.withdraw { s1 with savedTasks := put s1.savedTasks va (s.savedTask n k) } n k).freeCtx n k)).map
      fun (t : State) => t.modCell n Cell.haltIfDue := by
  have hst : (s.ctx n k).storing = none := by
    simp only [State.saveReady, Bool.and_eq_true, Option.isNone_iff_eq_none] at hr
    exact hr.1.1.1.2
  unfold State.forcedSave
  simp only [hst, hb, hr, Bool.not_true, Bool.or_self, Bool.false_eq_true, if_false] <;> rfl

theorem State.forcedSave_store {s : State} {n k : Nat} {st : Storing} (hb : (s.ctx n k).busy = true) (hst : (s.ctx n k).storing = some st) :
    s.forcedSave n k = (s.storeStep n k st).map fun (t : State) => t.modCell n Cell.haltIfDue := by
  unfold State.forcedSave
  simp only [hst, hb, if_true]

theorem State.storeStep_failed {s : State} {n k : Nat} {st : Storing} (h : s.unitFailed st.id ≠ none) :
    s.storeStep n k st = some ((s.unitClear st.id).saveLost n k) := by
  unfold State.storeStep
  exact if_pos (Option.isSome_iff_ne_none.mpr h)

theorem State.storeStep_body {s : State} {n k : Nat} {st : Storing} (hf : s.unitFailed st.id = none) (hp : 2 ≤ st.pos) :
    (s.unitOpen st.id = true → s.storeStep n k st = none) ∧
      (s.unitOpen st.id = false → 515 ≤ st.pos → s.storeStep n k st = some (State.freeCtx { s.unitClear st.id with
        savedTasks := put s.savedTasks (st.area + 4096 * (st.num + 1)) st.task } n k)) := by
  obtain ⟨p, hp⟩ : ∃ p, st.pos = p + 2 := ⟨st.pos - 2, by omega⟩
  have hs : ¬ (s.unitFailed st.id).isSome = true := by simp [hf]
  unfold State.storeStep
  simp only [if_neg hs, hp]
  refine ⟨fun ho => if_pos ho, fun ho hl => ?_⟩
  exact (if_neg (by simp [ho])).trans (if_pos (by omega))

/-- The state in which record operation `k` is taken up. -/
def State.takeRecordOp (s : State) (k : Nat) : State := { s with records := removeAt s.records k }

theorem liveUpdate_add {s : State} {va t : Nat} (hk : s.records[s.now.arg.a]? = some (.liveAdd va t))
    (ht : s.recordTurn s.now.arg.a va = true) : execLiveUpdate s = event s ((s.takeRecordOp s.now.arg.a).liveUp va t) := by
  simp only [execLiveUpdate, hk, ht, if_true] <;> rfl

theorem liveUpdate_sub {s : State} {va : Nat} (hk : s.records[s.now.arg.a]? = some (.liveSub va))
    (ht : s.recordTurn s.now.arg.a va = true) : execLiveUpdate s = event s ((s.takeRecordOp s.now.arg.a).liveDown va) := by
  simp only [execLiveUpdate, hk, ht, if_true] <;> rfl

theorem joinChildUpdate_eq {s : State} {va slot x st : Nat} {err : Bool} (hk : s.records[s.now.arg.a]? = some (.joinChild va slot x err st))
    (ht : s.recordTurn s.now.arg.a va = true) :
    execJoinChildUpdate s = event s ((s.takeRecordOp s.now.arg.a).joinChild va slot x err) := by
  simp only [execJoinChildUpdate, hk, ht, if_true] <;> rfl

theorem joinCloseUpdate_eq {s : State} {va count st : Nat} (hk : s.records[s.now.arg.a]? = some (.joinClose va count st))
    (ht : s.recordTurn s.now.arg.a va = true) :
    execJoinCloseUpdate s = event s ((s.takeRecordOp s.now.arg.a).joinClose va count) := by
  simp only [execJoinCloseUpdate, hk, ht, if_true] <;> rfl

/-- FORCED_SAVE leaves what the save leaves, and the cell halts where that was due. -/
theorem forcedSave_storing {s t : State} {st : Storing} (hb : (s.ctx s.now.arg.a s.now.arg.b).busy = true)
    (hst : (s.ctx s.now.arg.a s.now.arg.b).storing = some st) (h : s.storeStep s.now.arg.a s.now.arg.b st = some t) :
    execForcedSave s = .next (t.modCell s.now.arg.a Cell.haltIfDue) :=
  event_some (by rw [State.forcedSave_store hb hst, h]; rfl)

/-- A save that writes its record in this module, one that finds no record, and one whose area is in another module. -/
theorem forcedSave_writes {s u : State} {va : Nat} (hb : (s.ctx s.now.arg.a s.now.arg.b).busy = true)
    (hr : s.saveReady s.now.arg.a s.now.arg.b = true) (ha : s.areaAway (s.ctx s.now.arg.a s.now.arg.b).level.toNat = none)
    (hw : s.writeRecord s.now.arg.a s.now.arg.b (s.pendEntries s.now.arg.a s.now.arg.b).1 (s.pendEntries s.now.arg.a s.now.arg.b).2 =
      some (va, u)) : execForcedSave s = .next (State.modCell (State.freeCtx (State.withdraw { u with
        savedTasks := put u.savedTasks va (s.savedTask s.now.arg.a s.now.arg.b) } s.now.arg.a s.now.arg.b) s.now.arg.a s.now.arg.b)
          s.now.arg.a Cell.haltIfDue) :=
  event_some (by rw [State.forcedSave_begin hb hr]; simp only [ha, hw]; rfl)

theorem forcedSave_aborts {s : State} (hb : (s.ctx s.now.arg.a s.now.arg.b).busy = true)
    (hr : s.saveReady s.now.arg.a s.now.arg.b = true) (ha : s.areaAway (s.ctx s.now.arg.a s.now.arg.b).level.toNat = none)
    (hw : s.writeRecord s.now.arg.a s.now.arg.b (s.pendEntries s.now.arg.a s.now.arg.b).1 (s.pendEntries s.now.arg.a s.now.arg.b).2 =
      none) : execForcedSave s = .next ((s.saveAbort s.now.arg.a s.now.arg.b).modCell s.now.arg.a Cell.haltIfDue) :=
  event_some (by rw [State.forcedSave_begin hb hr]; simp only [ha, hw]; rfl)

theorem forcedSave_away {s : State} {area : Nat} (hb : (s.ctx s.now.arg.a s.now.arg.b).busy = true)
    (hr : s.saveReady s.now.arg.a s.now.arg.b = true) (ha : s.areaAway (s.ctx s.now.arg.a s.now.arg.b).level.toNat = some area) :
    execForcedSave s = .next (State.modCell ((State.withdraw { s with nextId := s.nextId + 1 } s.now.arg.a s.now.arg.b).modCtx s.now.arg.a
      s.now.arg.b fun x => { x with storing := some (s.storingAt s.now.arg.a s.now.arg.b area) }) s.now.arg.a Cell.haltIfDue) :=
  event_some (by rw [State.forcedSave_begin hb hr]; simp only [ha]; rfl)

theorem State.kill_retained {s : State} {n k : Nat} {m : Msg} (h : (s.ctx n k).retained = some m) : s.kill n k =
    let t := (s.freeCtx n k).post
      { msg := m, target := if (s.ctx n k).launch = none then .physical n else .logical (s.ctx n k).lcell.toNat } false
    if (s.cell n).halting then t.modCell n Cell.haltIfDue else t := by
  simp only [State.kill, h]

theorem State.kill_ends {s : State} {n k : Nat} (h : (s.ctx n k).retained = none) : s.kill n k =
    let t := (s.endUpdates n k 0 true).freeCtx n k
    if (s.cell n).halting then t.modCell n Cell.haltIfDue else t := by
  simp only [State.kill, h]

/-- A save that a deadline asks for is raised on its context alone (R249). -/
def State.savesSoon (s : State) (n k : Nat) : State :=
  (s.releaseFollowers n k).modCtx n k fun x =>
    { x with saving := true, following := false, stream := [], wait := match x.wait with | .follow _ => .none | w => w }

theorem State.savesSoon_ctx (s : State) (n k : Nat) : ((s.savesSoon n k).ctx n k).saving = true ∧
    ((s.savesSoon n k).ctx n k).busy = (s.ctx n k).busy ∧ ((s.savesSoon n k).ctx n k).s = (s.ctx n k).s ∧
    ((s.savesSoon n k).ctx n k).pc = (s.ctx n k).pc := by
  unfold State.savesSoon
  rw [State.ctx_modCtx, if_pos ⟨rfl, rfl⟩, (s.releaseFollowers_of n k).ctx_own]
  exact ⟨rfl, rfl, rfl, rfl⟩

theorem State.savesSoon_rest (s : State) (n k : Nat) : (s.savesSoon n k).records = s.records ∧ (s.savesSoon n k).hbm = s.hbm ∧
    (s.savesSoon n k).pad = s.pad := by
  have h := (s.releaseFollowers_of n k).rest
  unfold State.savesSoon
  refine ⟨?_, ?_, ?_⟩
  · show (s.releaseFollowers n k).records = _; rw [h]
  · show (s.releaseFollowers n k).hbm = _; rw [h]
  · show (s.releaseFollowers n k).pad = _; rw [h]

/-- DLINE_EXPIRY on a task that it may end or save (R50, R249). -/
theorem dlineExpiry_eq {s : State} (hb : (s.ctx s.now.arg.a s.now.arg.b).busy = true) (hp : (s.ctx s.now.arg.a s.now.arg.b).prq ≠ 0)
    (hd : (s.ctx s.now.arg.a s.now.arg.b).dline = 0) (he : (s.ctx s.now.arg.a s.now.arg.b).ending = false)
    (hv : (s.ctx s.now.arg.a s.now.arg.b).saving = false) (hs : (s.cell s.now.arg.a).still = false)
    (hm : s.sysMode s.now.arg.a s.now.arg.b = false) : execDlineExpiry s = .next
      (if bit (s.ctx s.now.arg.a s.now.arg.b).prq.toNat 1 then (s.endUpdates s.now.arg.a s.now.arg.b 0 true).freeCtx s.now.arg.a s.now.arg.b
        else s.savesSoon s.now.arg.a s.now.arg.b) := by
  have hp' : ¬ (s.ctx s.now.arg.a s.now.arg.b).prq = 0#2 := hp
  refine event_some ((if_neg (by simp [hb, hp', hd, he, hv, hs, hm])).trans ?_)
  split <;> rfl

end Sys2Proof.Machine
end

section
open Sys2Proof Sys2Proof.Machine

/-- Settles O51: the updates at their home, then what ends or moves a task. -/
theorem endingAndRecordEvents : Obligations.EndingAndRecordEvents := by
  unfold Obligations.EndingAndRecordEvents
  refine ⟨?_, ?_⟩
  · intro s va k s0 hturn
    refine ⟨?_, ?_, ?_, ?_⟩
    · intro t n ph u hk h1 h2 flipped
      have he := liveUpdate_add hk hturn
      exact ⟨fun hn hf ht => he.trans (event_some (State.liveUp_void h1 h2 hn hf ht)),
        fun h hw => he.trans (event_some (State.liveUp_clear h1 h2 h hw))⟩
    · intro n u hk h1 hw
      have he := liveUpdate_sub hk hturn
      refine ⟨fun hn => he.trans (event_some (State.liveDown_above h1 hw hn)), ?_⟩
      rintro ph w v parent rfl hp hu hv hr
      exact he.trans (event_some (State.liveDown_zero h1 hw hp hu hv hr))
    · intro slot x err st j u v hk h1 hu done j' hv
      exact (joinChildUpdate_eq hk hturn).trans (event_some (State.joinChild_eq h1 hu hv))
    · intro count st j u hk h1 hu
      rw [← bits_zero j 16] at hu
      exact (joinCloseUpdate_eq hk hturn).trans (event_some (State.joinClose_eq h1 hu))
  · intro s n k x
    refine ⟨fun va rest hc => ?_, ?_, ?_, ?_, ?_⟩
    · show execCancelPropagate s = _
      simp only [execCancelPropagate, hc] <;> rfl
    · intro hb hp hd hen hv hs hm
      have he := dlineExpiry_eq hb hp hd hen hv hs hm
      refine ⟨fun h1 => he.trans (congrArg _ (if_pos h1)), fun h0 => ⟨s.savesSoon n k, he.trans (congrArg _ (if_neg ?_)), ?_⟩⟩
      · exact Bool.eq_false_iff.mp h0
      · obtain ⟨c1, c2, c3, c4⟩ := s.savesSoon_ctx n k
        exact ⟨c1, c2.trans hb, c3, c4, s.savesSoon_rest n k⟩
    · intro hb hr e
      refine ⟨fun ha => ?_, fun area ha => ⟨_, forcedSave_away hb hr ha, ?_⟩⟩
      · cases hw : s.writeRecord n k e.1 e.2 with
        | none =>
          obtain ⟨h1, h2, h3⟩ := State.saveLost_ctx ((s.takeNext x).withdraw n k) n k
          refine ⟨_, forcedSave_aborts hb hr ha hw, ?_⟩
          rw [State.ctx_haltIfDue]
          exact ⟨h1, h2, fun _ => h3, fun va u h => absurd h (by simp)⟩
        | some r =>
          obtain ⟨va, u⟩ := r
          refine ⟨_, forcedSave_writes hb hr ha hw, ?_⟩
          rw [State.ctx_haltIfDue, State.freeCtx_ctx]
          refine ⟨rfl, rfl, fun h => absurd h (by simp), fun va' u' h => ?_⟩
          obtain ⟨rfl, rfl⟩ := Prod.mk.inj (Option.some.inj h)
          refine ⟨?_, ?_, ?_⟩
          · show (look? (State.freeCtx _ n k).savedTasks va).isSome = true
            rw [State.freeCtx_savedTasks, (State.withdraw_rest _ n k).2.2.2, look?_put, if_pos rfl]
            rfl
          · show (State.freeCtx _ n k).hbm = _
            rw [State.freeCtx_hbm, (State.withdraw_rest _ n k).1]
          · show (State.freeCtx _ n k).records = _
            rw [State.freeCtx_records, (State.withdraw_rest _ n k).2.2.1, State.writeRecord_hbmOnly hw]
      · rw [State.ctx_haltIfDue, State.ctx_modCtx, if_pos ⟨rfl, rfl⟩, State.withdraw_ctx]
        exact ⟨hb, rfl, rfl, rfl⟩
    · intro st hb hst
      refine ⟨fun hf => ?_, fun hf ho hp => ?_, fun hf ho hp => ?_⟩
      · obtain ⟨h1, -, h3⟩ := (s.unitClear st.id).saveLost_ctx n k
        refine ⟨_, forcedSave_storing hb hst (State.storeStep_failed hf), ?_⟩
        rw [State.ctx_haltIfDue]
        exact ⟨h1, h3⟩
      · show event s _ = _
        rw [State.forcedSave_store hb hst, (State.storeStep_body hf hp).1 ho]
        rfl
      · refine ⟨_, forcedSave_storing hb hst ((State.storeStep_body hf (by omega)).2 ho hp), ?_, ?_, ?_⟩
        · rw [State.ctx_haltIfDue, State.freeCtx_ctx]
        · show look? (State.freeCtx _ n k).savedTasks _ = _
          rw [State.freeCtx_savedTasks, look?_put, if_pos rfl]
        · show (State.freeCtx _ n k).hbm = _
          rw [State.freeCtx_hbm]
          rfl
    · intro hb halt
      have he : exec .hardwareFaultKill s = .next (s.kill n k) := event_some (if_pos hb)
      exact ⟨fun m hm => he.trans (congrArg _ (State.kill_retained hm)), fun hm => he.trans (congrArg _ (State.kill_ends hm))⟩
end

section
/-! SUPPORT. NEAR walks, steals and the start of a follower (R43, R54, R56). -/
namespace Sys2Proof.Machine

/-- One hop towards the hint, x first. -/
def nearHop (x y hx hy r : Nat) : Target :=
  .near (if x < hx then x + 1 else if hx < x then x - 1 else x) (if x ≠ hx then y else if y < hy then y + 1 else y - 1) hx hy r

/-- A NEAR task that stands at (x, y), its path clear: placed, queued or moved on (R54). -/
theorem nearPlacement_eq {s : State} {p : Post} {x y hx hy r : Nat} (hp : s.posts[s.now.arg.a]? = some p)
    (ht : p.target = .near x y hx hy r) (hg : p.gate = .clear) (hc : s.pathClear s.now.arg.a p = true) :
    execNearPlacement s = event s
      (match (if (max x hx - min x hx) + (max y hy - min y hy) ≤ r then s.nearCell x y p.msg.launch.toNat else none) with
        | some (_, l) => some { s with posts := replaceAt s.posts s.now.arg.a (p.settle l s.rounds.next) }
        | none =>
          if x = hx ∧ y = hy then
            if (look [] s.near (64 * y + x)).length < 32 then
              some { s with posts := removeAt s.posts s.now.arg.a, near := put s.near (64 * y + x) (look [] s.near (64 * y + x) ++ [p]) }
            else none
          else some { s with posts := replaceAt s.posts s.now.arg.a { p with target := nearHop x y hx hy r } }) := by
  unfold execNearPlacement
  simp only [hp, ht, hg, hc, bind, Option.bind, Bool.not_true, Bool.false_eq_true, if_false] <;> rfl

/-- A cell of the cluster's queue takes its first fitting task. -/
theorem nearQueueTake_eq {s : State} {p : Post} {j l : Nat}
    (hq : (look [] s.near (64 * (s.clusterXY s.now.arg.a).2 + (s.clusterXY s.now.arg.a).1))[j]? = some p)
    (hl : s.nearFit s.now.arg.a p.msg.launch.toNat = some l)
    (hb : ∀ i e, i < j → (look [] s.near (64 * (s.clusterXY s.now.arg.a).2 + (s.clusterXY s.now.arg.a).1))[i]? = some e →
      s.nearFit s.now.arg.a e.msg.launch.toNat = none) :
    execNearQueueTake s = .next { s with
      near := put s.near (64 * (s.clusterXY s.now.arg.a).2 + (s.clusterXY s.now.arg.a).1)
        (removeAt (look [] s.near (64 * (s.clusterXY s.now.arg.a).2 + (s.clusterXY s.now.arg.a).1)) j)
      posts := s.posts ++ [p.settle l s.rounds.next] } := by
  unfold execNearQueueTake
  dsimp only
  generalize s.clusterXY s.now.arg.a = xy at hq hb ⊢
  obtain ⟨x, y⟩ := xy
  dsimp only at hq hb ⊢
  generalize look [] s.near (64 * y + x) = q at hq hb ⊢
  have hj := (List.getElem?_eq_some_iff.mp hq).1
  refine event_some (Option.bind_eq_some_iff.mpr ⟨j, find?_range.mpr ⟨hj, by simp only [hq, hl]; rfl, fun i hi => ?_⟩, ?_⟩)
  · have he := List.getElem?_eq_getElem (Nat.lt_trans hi hj)
    have hn := hb i _ hi he
    simp only [he, hn]
    rfl
  · simp only [hq, hl, bind, Option.bind]
    rfl

/-- An idle cell asks the next victim. -/
theorem stealRequest_eq {s : State} {h : Hosted} (hh : (s.cell s.now.arg.a).hosted[s.now.arg.b]? = some h)
    (hs : (s.cell s.now.arg.a).still = false) (ha : (s.cell s.now.arg.a).steal.asked = none)
    (hw : (s.cell s.now.arg.a).steal.waiting = false) (hf : ∃ k, k < 3 ∧ (s.ctx s.now.arg.a k).busy = false)
    (hn : s.noneEligible s.now.arg.a = true) :
    execStealRequest s = .next (s.setCell s.now.arg.a { s.cell s.now.arg.a with steal := { (s.cell s.now.arg.a).steal with
      asked := some (victim (look {} s.launches h.launch) s.now.arg.a (s.cell s.now.arg.a).steal.attempt)
      launch := h.launch, attempt := (s.cell s.now.arg.a).steal.attempt + 1 } }) := by
  obtain ⟨k, hk, hf⟩ := hf
  have hany : ((List.range 3).any fun k => !((s.cell s.now.arg.a).ctx k).busy) = true :=
    List.any_eq_true.mpr ⟨k, List.mem_range.mpr hk, by simp [show ((s.cell s.now.arg.a).ctx k).busy = false from hf]⟩
  refine event_some ?_
  simp only [hh, hs, ha, hw, hany, hn, bind, Option.bind, Option.isSome_none, Bool.or_self, Bool.not_true, Bool.false_eq_true, if_false]
  rfl

/-- A thief whose victim holds nothing waits. -/
theorem stealReply_empty {s : State} {v : Nat} (hv : (s.cell s.now.arg.a).steal.asked = some v)
    (hd : ∀ cell, look? s.l2p v = some cell → (s.cell cell).deque = []) : execStealVictimReply s = .next (s.setCell s.now.arg.a
      { s.cell s.now.arg.a with steal := { (s.cell s.now.arg.a).steal with asked := none, waiting := true } }) := by
  have htop : ((look? s.l2p v).bind fun vc => ((s.cell vc).deque.getLast?).map fun p => (vc, p)) = none := by
    cases hl : look? s.l2p v with
    | none => rfl
    | some cell => simp [hd cell hl]
  refine event_some ?_
  simp only [hv, bind, Option.bind_some, htop]

/-! The part's own reads depend on no cell. -/

theorem hbmByte_cells (s : State) (f) (key a : Nat) : ({ s with cells := f } : State).hbmByte key a = s.hbmByte key a := by
  simp only [State.hbmByte, State.linePlain]

theorem hbmRead_cells (s : State) (f) (key n : Nat) : ∀ a, ({ s with cells := f } : State).hbmRead key a n = s.hbmRead key a n := by
  induction n with
  | zero => intro a; rfl
  | succ n ih => intro a; simp only [State.hbmRead, hbmByte_cells, ih]

theorem walkFrom_cells (s : State) (f) (va n : Nat) : ∀ t, ({ s with cells := f } : State).walkFrom va n t = s.walkFrom va n t := by
  induction n with
  | zero => intro t; rfl
  | succ n ih => intro t; simp only [State.walkFrom, hbmRead_cells, ih]

theorem locate_cells (s : State) (f) (size pte va : Nat) (w sys : Bool) :
    ({ s with cells := f } : State).locate size pte va w sys = s.locate size pte va w sys := rfl

theorem engine_cells (s : State) (f) (va : Nat) (w : Bool) : ({ s with cells := f } : State).engine va w = s.engine va w := by
  unfold State.engine State.walk
  rw [walkFrom_cells]
  cases State.walkFrom s va 5 (s.xroot.toNat / 32768 * 32768) <;> rfl

theorem vaRead_cells (s : State) (f) (va n : Nat) : ({ s with cells := f } : State).vaRead va n = s.vaRead va n := by
  unfold State.vaRead State.engineHome
  simp only [hbmRead_cells, engine_cells]

theorem doomed_cells (s : State) (f) (n : Nat) (m : Msg) : ({ s with cells := f } : State).doomed n m = s.doomed n m := by
  unfold State.doomed State.cancelled State.levelVa
  rw [vaRead_cells]

/-- The state in which thief `n` has taken the oldest entry of `vc`'s deque. -/
def State.stole (s : State) (n vc : Nat) : State :=
  (s.modCell vc fun c => { c with deque := c.deque.dropLast }).modCell n fun c =>
    { c with steal := { (s.cell n).steal with asked := none, backoff := 64 } }

theorem State.stole_cells (s : State) {n vc : Nat} (h : vc ≠ n) : ((s.stole n vc).cell vc).deque = (s.cell vc).deque.dropLast ∧
    ((s.stole n vc).cell n).steal = { (s.cell n).steal with asked := none, backoff := 64 } := by
  unfold State.stole
  rw [State.cell_modCell, if_neg h, State.cell_modCell, if_pos rfl, State.cell_modCell, if_pos rfl]
  exact ⟨rfl, rfl⟩

theorem State.stole_doomed (s : State) (n vc k : Nat) (m : Msg) : (s.stole n vc).doomed k m = s.doomed k m :=
  (doomed_cells _ _ k m).trans (doomed_cells s _ k m)

/-- A thief whose victim's oldest entry is of its launch and free to go takes it. -/
theorem stealReply_takes {s : State} {v cell : Nat} {p : Post} {h : Hosted} (hv : (s.cell s.now.arg.a).steal.asked = some v)
    (hl : look? s.l2p v = some cell) (hd : (s.cell cell).deque.getLast? = some p)
    (hh : (s.cell s.now.arg.a).hosted.find? (·.launch == (s.cell s.now.arg.a).steal.launch) = some h)
    (hm : p.msg.launch.toNat = (s.cell s.now.arg.a).steal.launch) (hg : p.gate = .clear) (ha : p.after = [])
    (hdo : s.doomed cell p.msg = false) : execStealVictimReply s = .next { s.stole s.now.arg.a cell with
      posts := s.posts ++ [p.settle h.lcell s.rounds.next] } := by
  have hdo' := (s.stole_doomed s.now.arg.a cell cell p.msg).trans hdo
  refine event_some ?_
  simp only [hv, hl, hd, hh, hm, hg, ha, bind, Option.bind, Option.map, ne_eq, not_true_eq_false, decide_false, List.any_nil, Bool.or_self,
    Bool.false_eq_true, if_false]
  exact (if_neg (by rw [Bool.and_eq_true]; exact fun e => absurd e.1 (by rw [Bool.not_eq_true]; exact hdo'))).trans rfl

end Sys2Proof.Machine
end

section
open Sys2Proof Sys2Proof.Machine

/-- Settles O52: each event by its case. -/
theorem placementEvents : Obligations.PlacementEvents := by
  unfold Obligations.PlacementEvents
  intro s p n c st placed
  refine ⟨?_, ?_, ?_, ?_, ?_, ?_⟩
  · intro x y hx hy r hp ht hg hc near
    have he : exec .nearPlacement s = _ := nearPlacement_eq hp ht hg hc
    refine ⟨fun cell l hn hl => ?_, fun hno => ?_⟩
    · rw [if_pos hn, hl] at he
      exact he
    · have hnone : (if (max x hx - min x hx) + (max y hy - min y hy) ≤ r then s.nearCell x y p.msg.launch.toNat else none) = none := by
        split
        · next hn => exact hno.resolve_left (not_not.mpr hn)
        · rfl
      rw [hnone] at he
      refine ⟨fun hx' hy' hq => he.trans ?_, fun hxy => he.trans ?_⟩
      · exact event_some ((if_pos ⟨hx', hy'⟩).trans (if_pos hq))
      · exact event_some (if_neg (by tauto))
  · intro j l key q hq hl hb
    exact nearQueueTake_eq hq hl hb
  · intro h hh hs ha hw hf hn
    exact stealRequest_eq hh hs ha hw hf hn
  · intro v hv
    refine ⟨fun hd => stealReply_empty hv hd, fun cell h hl hne hd hh hm hg ha hdo => ⟨_, stealReply_takes hv hl hd hh hm hg ha hdo, ?_⟩⟩
    obtain ⟨h1, h2⟩ := s.stole_cells hne
    exact ⟨h1, h2, rfl⟩
  · intro hw
    exact event_some (if_pos hw)
  · intro addr k hw hf
    refine event_some ?_
    simp only [show (s.ctx s.now.arg.a s.now.arg.b).wait = _ from hw]
    exact if_pos hf
end

section
/-! SUPPORT. Accesses at their home and on their way back (R41, R187, R206, R234). -/
namespace Sys2Proof.Machine

/-- The state in which a performed access is finished: an OR that set CANCEL goes on to the launches below (R49). -/
def State.spreads (u : State) (a : Access) : State :=
  match a.op with
  | .orBits .. => u.spreadCancel (a.va - 20)
  | _ => u

theorem resolve_home (s : State) {p : Place} (h : ∀ l w x, p ≠ .away l w x) : s.resolve p = p := by
  cases p with
  | away l w x => exact absurd rfl (h l w x)
  | _ => rfl

/-- An access to a good line is performed whole. -/
theorem applyAccess_good {s u : State} {a : Access} {v : Nat} {fl : BitVec 5} {ok : Bool} (hr : s.resolve a.place = a.place)
    (hb : s.homeBad a = false) (hp : s.perform a.place a.key a.op = some (u, v, fl, ok))
    (hj : ∀ n x, a.op = .record n x → (u.joins.filter fun h => h.va == a.va).length ≤ 1) :
    s.applyAccess a = some ((u.spreads a).finish a v fl ok) := by
  have hs : ({ a with place := s.resolve a.place } : Access) = a := by rw [hr]
  unfold State.applyAccess
  rw [hs]
  simp only [hb, Bool.and_false, Bool.false_and, Bool.false_eq_true, if_false, hp, Option.some.injEq]
  unfold State.spreads
  cases hop : a.op with
  | record n x =>
    have hl := hj n x hop
    dsimp only
    split
    · next h' t' e => rw [e] at hl; simp at hl
    · rfl
  | _ => rfl

theorem State.mayApply_home {s : State} {a : Access} (hr : s.resolve a.place = a.place) (ht : s.homeTurn a = true)
    (hj : s.joinHolds a = false) (hh : s.rowsHeld a.place = false) : s.mayApply a = (!s.cutHolds a && !s.writeWaits a) := by
  unfold State.mayApply
  rw [hr, ht, hj, hh]
  cases s.cutHolds a <;> rfl

/-- The event that applies an access of its kind at its home on this module. -/
theorem homeEvent_here {s : State} {a : Access} {id : Nat} (ha : s.access id = some a) (hi : a.phase = .issued)
    (hf : ∀ dev x, a.place ≠ .remote dev x) : s.homeEvent id a.op.event = if s.mayApply a then s.applyAccess a else none := by
  unfold State.homeEvent
  simp only [ha, hi, bind, Option.bind, ne_eq, not_true_eq_false, decide_false, Bool.or_self, Bool.false_eq_true, if_false]

/-- A home that takes an update in replies, and the update stays to be applied (R171). -/
theorem acceptUpdate_eq {s u : State} {a : Access} {id v : Nat} {fl : BitVec 5} (ha : s.access id = some a) (hi : a.phase = .issued)
    (hop : a.op.replies = true) (hac : a.accepted = false) (hr : s.resolve a.place = a.place) (hm : s.mayApply a = true)
    (hb : s.homeBad a = false) (hp : s.perform a.place a.key a.op = some (u, v, fl, true)) :
    s.acceptUpdate id = some ((s.setAccess { a with accepted := true }).replyTo a true) := by
  have hs : ({ a with place := s.resolve a.place } : Access) = a := by rw [hr]
  unfold State.acceptUpdate
  simp only [ha, bind, Option.bind]
  rw [hs, hr]
  simp only [hi, hop, hac, hm, hb, hp, ne_eq, not_true_eq_false, decide_false, Bool.not_true, Bool.or_self,
    Bool.false_eq_true, if_false]

/-- A reply reaches the context that waits for it, and no other. -/
theorem replyTo_eq (t s : State) (a : Access) (ok : Bool) (ho : t.owns a.cell a.ctx a = s.owns a.cell a.ctx a)
    (hc : t.ctx a.cell a.ctx = s.ctx a.cell a.ctx) : t.replyTo a ok =
      if s.owns a.cell a.ctx a = true ∧ (s.ctx a.cell a.ctx).busy = true ∧ (s.ctx a.cell a.ctx).wait = .home a.id
        then t.modCtx a.cell a.ctx fun x => { x with wait := .none, answers := x.answers ++ [.value 0 ok] } else t := by
  unfold State.replyTo
  rw [ho, hc]
  simp only [Bool.and_eq_true, beq_iff_eq, and_assoc]

/-- A PHWAIT of a row is performed only where GEN differs (R235). -/
theorem perform_phwait_pad (s : State) (c x key g : Nat) : s.perform (.pad c x) key (.phwait g) =
    if (PhaseWord.ofNat (s.padRead c x 16)).gen = g % 2 ^ 15 then none
    else some (s, (PhaseWord.ofNat (s.padRead c x 16)).gen + 2 ^ 15 * (PhaseWord.ofNat (s.padRead c x 16)).err.toNat, 0, true) := rfl

/-- The protected write's frames are copied before it. -/
theorem protectedWriteCopy_eq {s t : State} {a : Access} (ha : s.access s.now.arg.a = some a) (hi : a.phase = .issued)
    (ht : s.homeTurn a = true) (hc : s.cutHolds a = true)
    (h : (((s.homesOf a).filterMap fun p => match p with | .hbm pa => some (pa / 128 / 32) | _ => none).foldl State.copyFrame s).applyAccess a = some t) :
    execProtectedWriteCopy s = .next t := by
  refine event_some ?_
  simp only [ha, hi, ht, hc, bind, Option.bind, ne_eq, not_true_eq_false, decide_false, Bool.not_true, Bool.or_self,
    Bool.false_eq_true, if_false]
  exact h

/-! ### Masks of lanes -/

theorem packElems_digit (w : Nat) : ∀ (l : List Nat) (j : Nat) (hj : j < l.length), packElems w l / 2 ^ (w * j) % 2 ^ w = l[j] % 2 ^ w
  | x :: r, 0, _ => by
    simp [packElems]
  | x :: r, j + 1, hj => by
    have hx : x % 2 ^ w < 2 ^ w := Nat.mod_lt _ (Nat.two_pow_pos w)
    rw [packElems, Nat.mul_succ, Nat.add_comm (w * j), Nat.pow_add, ← Nat.div_div_eq_div_mul, Nat.add_mul_div_left _ _ (Nat.two_pow_pos w),
      Nat.div_eq_of_lt hx, Nat.zero_add, packElems_digit w r j (Nat.lt_of_succ_lt_succ hj)]
    rfl

/-- The mask of the 16 lanes that a test selects. -/
def laneMask (f : Nat → Bool) : Nat := packElems 1 ((List.range 16).map fun j => (f j).toNat)

theorem bit_laneMask (f : Nat → Bool) {j : Nat} (hj : j < 16) : bit (laneMask f) j = f j := by
  have h := packElems_digit 1 ((List.range 16).map fun j => (f j).toNat) j (by simpa using hj)
  simp only [Nat.one_mul, Nat.pow_one, List.getElem_map, List.getElem_range] at h
  unfold bit laneMask
  rw [h]
  cases f j <;> rfl

theorem laneMask_eq_zero (f : Nat → Bool) : laneMask f = 0 ↔ ∀ j, j < 16 → f j = false := by
  refine ⟨fun h j hj => ?_, fun h => ?_⟩
  · rw [← bit_laneMask f hj, h]
    simp [bit]
  · have hz : (List.range 16).map (fun j => (f j).toNat) = List.replicate 16 0 :=
      List.eq_replicate_iff.mpr ⟨by simp, fun x hx => by
        obtain ⟨j, hj, rfl⟩ := List.mem_map.mp hx
        rw [h j (List.mem_range.mp hj)]
        rfl⟩
    unfold laneMask
    rw [hz]
    rfl

theorem bit_allLanes {j : Nat} (hj : j < 16) : bit 0xFFFF j = true := by
  interval_cases j <;> rfl

theorem bit_byLane (a : Access) (m : Nat) {j : Nat} (hj : j < 16) : bit (a.byLane m) j = bit m (j - j % a.grain) :=
  bit_laneMask (fun j => bit m (j - j % a.grain)) hj

/-! ### Results that return (R41, R42) -/

/-- A result whose task has ended is dropped. -/
theorem resultReturn_dropped {s : State} {a : Access} {v : Nat} {fl : BitVec 5} (ha : s.access s.now.arg.a = some a)
    (hp : a.phase = .done v fl) (hu : a.unit = none) (ho : s.owns a.cell a.ctx a = false ∨ (s.ctx a.cell a.ctx).busy = false) :
    execResultReturn s = .next (s.dropAccess a.id) := by
  have hg : (!s.owns a.cell a.ctx a || !(s.ctx a.cell a.ctx).busy) = true := by
    obtain h | h := ho <;> simp [h]
  refine event_some ?_
  simp only [ha, hp, hu, bind, Option.bind, Option.isSome_none, Bool.false_eq_true, if_false]
  exact if_pos hg

/-- A home's reply goes to its context. -/
theorem resultReturn_replies {s : State} {a : Access} {v : Nat} {fl : BitVec 5} (ha : s.access s.now.arg.a = some a)
    (hp : a.phase = .done v fl) (hu : a.unit = none) (ho : s.owns a.cell a.ctx a = true) (hb : (s.ctx a.cell a.ctx).busy = true)
    (hr : a.op.replies = true) : execResultReturn s = .next ((s.dropAccess a.id).replyTo a (v == 1)) := by
  refine event_some ?_
  simp only [ha, hp, hu, ho, hb, hr, bind, Option.bind, Option.isSome_none, Bool.not_true, Bool.or_self, Bool.false_eq_true, if_false, if_true]

/-- The lanes that a result has still to reach, of those in `all`. -/
def Access.due (a : Access) (all : Nat) : Nat := laneMask fun j => bit all j && !bit a.landed j

/-- The lanes that a result writes in all: a vector's own, and a whole register of the other files. -/
def Access.lanes (a : Access) : Nat := match a.dest with | .v _ => a.op.lanes | _ => 0xFFFF

/-- The lanes that it reaches now: `c` holds lanes of a vector back. -/
def Access.arriving (a : Access) (c : Nat) : Nat :=
  match a.dest with
  | .v _ => laneMask fun j => bit (a.due a.lanes) j && !bit (a.byLane c) j
  | _ => 0xFFFF

/-- The lanes that are left then. -/
def Access.left (a : Access) (c : Nat) : Nat := laneMask fun j => bit (a.due a.lanes) j && !bit (a.arriving c) j

/-- The other results owed to the register of `a` know that the lanes of `now` are written. -/
def Access.written (a : Access) (now : Nat) (l : List Access) : List Access :=
  l.map fun b => if b.id ≠ a.id ∧ b.cell = a.cell ∧ b.ctx = a.ctx ∧ b.dest = a.dest then { b with clobber := b.clobber ||| now } else b

/-- A result that lands leaves the flight, or stays in it for the lanes that are left. -/
def State.landing (s : State) (a : Access) (c : Nat) : State :=
  if a.left c = 0 || a.dest == .s 0 then s.dropAccess a.id else s.setAccess { a with landed := a.landed ||| a.arriving c }

def State.landed (s : State) (a : Access) (v keep now : Nat) (fl : BitVec 5) : State :=
  State.modCtx { s with inflight := a.written now s.inflight } a.cell a.ctx fun x => x.land a v keep fl now

/-- A result for a register lands on the lanes that the event names (R41, R170). -/
theorem resultReturn_lands {s : State} {a : Access} {v : Nat} {fl : BitVec 5} (ha : s.access s.now.arg.a = some a)
    (hp : a.phase = .done v fl) (hu : a.unit = none) (ho : s.owns a.cell a.ctx a = true) (hb : (s.ctx a.cell a.ctx).busy = true)
    (hr : a.op.replies = false) (hd : a.dest ≠ .none) : execResultReturn s = .next
      ((s.landing a s.now.arg.c).landed a v (a.byLane s.now.arg.b) (a.arriving s.now.arg.c) fl) := by
  refine event_some (Option.bind_eq_some_iff.mpr ⟨a, ha, ?_⟩)
  rw [hp]
  refine (if_neg (by rw [hu]; decide)).trans ((if_neg (by rw [ho, hb]; decide)).trans ((if_neg (by rw [hr]; decide)).trans ((if_neg hd).trans ?_)))
  change some (State.landed _ a v _ _ fl) = _
  cases hd' : a.dest with
  | none => exact absurd hd' hd
  | s r => simp only [State.landing, Access.left, Access.arriving, Access.due, Access.lanes, laneMask, hd', hp]
  | v r => simp only [State.landing, Access.left, Access.arriving, Access.due, Access.lanes, laneMask, hd', hp]
theorem Access.ids_written (a : Access) (now n : Nat) (l : List Access) : (∃ b ∈ a.written now l, b.id = n) ↔ ∃ b ∈ l, b.id = n := by
  have hid : ∀ b : Access, (if b.id ≠ a.id ∧ b.cell = a.cell ∧ b.ctx = a.ctx ∧ b.dest = a.dest
      then ({ b with clobber := b.clobber ||| now } : Access) else b).id = b.id := fun b => by split <;> rfl
  unfold Access.written
  simp only [List.mem_map, exists_exists_and_eq_and, hid]

/-- An access in flight is in flight after its landing exactly when lanes are left. -/
theorem State.landing_ids {s : State} {a : Access} {k c : Nat} (ha : s.access k = some a) (hs : a.dest ≠ .s 0) :
    (∃ b ∈ (s.landing a c).inflight, b.id = a.id) ↔ a.left c ≠ 0 := by
  have hs' : (a.dest == Dest.s 0) = false := beq_eq_false_iff_ne.mpr hs
  unfold State.landing
  rw [hs', Bool.or_false]
  by_cases h0 : a.left c = 0
  · rw [decide_eq_true h0, if_pos rfl]
    simp only [State.dropAccess, List.mem_filter, bne_iff_ne, ne_eq]
    exact ⟨fun ⟨b, hb, e⟩ => absurd e hb.2, fun h => absurd h0 h⟩
  · rw [decide_eq_false h0, if_neg Bool.false_ne_true]
    refine ⟨fun _ => h0, fun _ => ⟨{ a with landed := a.landed ||| a.arriving c }, ?_, rfl⟩⟩
    exact List.mem_map.mpr ⟨a, List.mem_of_find?_eq_some ha, if_pos rfl⟩

theorem State.landing_rest (s : State) (a : Access) (c : Nat) : s.landing a c = { s with inflight := (s.landing a c).inflight } := by
  unfold State.landing
  split <;> rfl

theorem State.modCtx_congr {s : State} {n k : Nat} {f g : Ctx → Ctx} (h : f (s.ctx n k) = g (s.ctx n k)) :
    s.modCtx n k f = s.modCtx n k g := by
  unfold State.modCtx
  rw [h]

/-- A number of 16 bytes, byte by byte. -/
theorem extract_packBytes (f : Nat → Nat) {j : Nat} (hj : j < 16) :
    (BitVec.ofNat 128 (packElems 8 ((List.range 16).map f))).extractLsb' (8 * j) 8 = BitVec.ofNat 8 (f j) := by
  have h := packElems_digit 8 ((List.range 16).map f) j (by simpa using hj)
  simp only [List.getElem_map, List.getElem_range] at h
  apply BitVec.eq_of_toNat_eq
  rw [BitVec.extractLsb'_toNat, BitVec.toNat_ofNat, BitVec.toNat_ofNat, Nat.shiftRight_eq_div_pow, ← h,
    show 2 ^ 128 = 2 ^ (8 * j) * 2 ^ (128 - 8 * j) by rw [← Nat.pow_add]; congr 1; omega, Nat.mod_mul_right_div_self]
  exact Nat.mod_mod_of_dvd _ (Nat.pow_dvd_pow 2 (by omega))

/-- The value of v[r] once the lanes of `now`, but for those of `keep` that were written since, have their bytes of `v`. -/
def Ctx.mixed (x : Ctx) (a : Access) (r : Reg) (v keep now : Nat) : Vec :=
  BitVec.ofNat 128 (packElems 8 ((List.range 16).map fun j =>
    if bit a.op.lanes j && bit now j && !(bit keep j && bit a.clobber j) then bits v (8 * j) 8 else bits (x.getV r).toNat (8 * j) 8))

theorem Ctx.land_vector {a : Access} {r : Reg} (hd : a.dest = .v r) (x : Ctx) (v keep now : Nat) (fl : BitVec 5) :
    x.land a v keep fl now = ({ x with fflags := x.fflags ||| fl } : Ctx).setV r (x.mixed a r v keep now) := by
  unfold Ctx.land
  rw [hd]
  rfl

theorem Ctx.extract_mixed (x : Ctx) (a : Access) (r : Reg) (v keep now : Nat) {j : Nat} (hj : j < 16) :
    (x.mixed a r v keep now).extractLsb' (8 * j) 8 =
      if bit a.op.lanes j && bit now j && !(bit keep j && bit a.clobber j) then BitVec.ofNat 8 (v / 256 ^ j)
      else (x.getV r).extractLsb' (8 * j) 8 := by
  have hpow : 2 ^ (8 * j) = 256 ^ j := by rw [Nat.pow_mul]
  refine (extract_packBytes _ hj).trans ?_
  split
  · apply BitVec.eq_of_toNat_eq
    rw [BitVec.toNat_ofNat, BitVec.toNat_ofNat, bits, hpow, Nat.mod_mod]
  · apply BitVec.eq_of_toNat_eq
    rw [BitVec.extractLsb'_toNat, BitVec.toNat_ofNat, bits, Nat.mod_mod, Nat.shiftRight_eq_div_pow]

/-- A result for a general register lands whole: over a later write only where the event says so. -/
theorem resultReturn_scalar {s : State} {a : Access} {v : Nat} {fl : BitVec 5} {r : Reg} (ha : s.access s.now.arg.a = some a)
    (hp : a.phase = .done v fl) (hu : a.unit = none) (ho : s.owns a.cell a.ctx a = true) (hb : (s.ctx a.cell a.ctx).busy = true)
    (hr : a.op.replies = false) (hd : a.dest = .s r) : execResultReturn s = .next (State.modCtx
      { s.dropAccess a.id with inflight := (s.dropAccess a.id).inflight.map fun b =>
          if b.cell = a.cell ∧ b.ctx = a.ctx ∧ b.dest = a.dest then { b with clobber := b.clobber ||| 0xFFFF } else b }
      a.cell a.ctx fun x => if a.clobber ≠ 0 ∧ bit s.now.arg.b 0 = true then { x with fflags := x.fflags ||| fl }
        else ({ x with fflags := x.fflags ||| fl } : Ctx).setS r (BitVec.ofNat 64 v)) := by
  have hn : a.arriving s.now.arg.c = 0xFFFF := by unfold Access.arriving; rw [hd]
  have hleft : a.left s.now.arg.c = 0 := (laneMask_eq_zero _).mpr fun j hj => by rw [hn, bit_allLanes hj]; simp
  have hland : s.landing a s.now.arg.c = s.dropAccess a.id := by
    unfold State.landing
    rw [hleft]
    exact if_pos rfl
  have hw : a.written 0xFFFF (s.dropAccess a.id).inflight = (s.dropAccess a.id).inflight.map fun b =>
      if b.cell = a.cell ∧ b.ctx = a.ctx ∧ b.dest = a.dest then { b with clobber := b.clobber ||| 0xFFFF } else b := by
    refine List.map_congr_left fun b hb => ?_
    have hne : b.id ≠ a.id := by simpa using (List.mem_filter.mp hb).2
    simp only [ne_eq, hne, not_false_eq_true, true_and]
  rw [resultReturn_lands ha hp hu ho hb hr (by rw [hd]; exact Dest.noConfusion), hland, hn]
  unfold State.landed
  rw [hw]
  refine congrArg _ (State.modCtx_congr ?_)
  unfold Ctx.land
  rw [hd, bit_byLane a _ (by decide : 0 < 16)]
  simp only [Nat.zero_mod, Nat.sub_zero, Bool.and_eq_true, bne_iff_ne]

/-- A locked access has nothing to ask for again. -/
theorem checkRefetch_locked {s : State} {a : Access} {v : Nat} {fl : BitVec 5} (ha : s.access s.now.arg.a = some a)
    (hp : a.phase = .done v fl) (hl : a.locked = true) : execCheckRefetch s = .next s := by
  unfold execCheckRefetch
  simp only [ha, hp, hl, Bool.or_true, if_true]
  rfl

/-- A bad line is asked for again, and after the third request it stays bad (R203). -/
theorem checkRefetch_eq {s : State} {a : Access} {v : Nat} {fl : BitVec 5} (ha : s.access s.now.arg.a = some a)
    (hp : a.phase = .done v fl) (hl : a.locked = false) (ht : a.tries < 3) (hr : a.op.returns = true ∨ a.op.replies = true) :
    execCheckRefetch s = .next (if s.now.arg.flag = true ∨ a.tries < 2 then s.setAccess { a with tries := a.tries + 1 }
      else (s.setAccess { a with tries := 3 }).badLine { a with tries := 3 }) := by
  have hg : (decide (3 ≤ a.tries) || !(a.op.returns || a.op.replies) || a.locked) = false := by
    rw [decide_eq_false (by omega), hl]
    obtain h | h := hr <;> simp [h]
  unfold execCheckRefetch
  refine event_some ?_
  simp only [ha, hp]
  refine (if_neg (by rw [hg]; exact Bool.false_ne_true)).trans ?_
  simp only [Bool.or_eq_true, decide_eq_true_eq]
  split <;> rfl

end Sys2Proof.Machine
end

section
/-! SUPPORT. Bytes of HBM under a key index: what a write changes (R5, R201, R206). -/
namespace Sys2Proof.Machine

/-! ### One digit of a number in base 256 -/

/-- The number with byte `j` replaced. -/
def setDigit (x j v : Nat) : Nat := x - x / 256 ^ j % 256 * 256 ^ j + v * 256 ^ j

theorem setDigit_eq (x j v : Nat) : setDigit x j v = x % 256 ^ j + 256 ^ j * (v + 256 * (x / 256 ^ j / 256)) := by
  have h1 := Nat.mod_add_div x (256 ^ j)
  have h2 := Nat.mod_add_div (x / 256 ^ j) 256
  unfold setDigit
  generalize 256 ^ j = P at *
  generalize x / P % 256 = d at *
  generalize x / P / 256 = q at *
  generalize x % P = r at *
  rw [← h2, Nat.mul_add, Nat.mul_comm P d] at h1
  rw [Nat.mul_add, Nat.mul_comm P v]
  omega

theorem setDigit_lt {x j v n : Nat} (hx : x < 256 ^ n) (hv : v < 256) (hj : j < n) : setDigit x j v < 256 ^ n := by
  have hn : 256 ^ n = 256 ^ j * (256 * 256 ^ (n - j - 1)) := by
    rw [← Nat.pow_succ', ← Nat.pow_add]
    congr 1
    omega
  have hr : x % 256 ^ j < 256 ^ j := Nat.mod_lt _ (Nat.pow_pos (by decide))
  have hq : x / 256 ^ j / 256 < 256 ^ (n - j - 1) := by
    rw [Nat.div_div_eq_div_mul]
    refine Nat.div_lt_of_lt_mul ?_
    rw [Nat.mul_assoc, ← hn]
    exact hx
  rw [setDigit_eq, hn]
  calc x % 256 ^ j + 256 ^ j * (v + 256 * (x / 256 ^ j / 256))
      < 256 ^ j * (v + 256 * (x / 256 ^ j / 256) + 1) := by rw [Nat.mul_succ]; omega
    _ ≤ 256 ^ j * (256 * 256 ^ (n - j - 1)) := Nat.mul_le_mul_left _ (by omega)

/-- Replacing byte `j` leaves every other byte. -/
theorem digit_setDigit (x j i : Nat) {v : Nat} (hv : v < 256) :
    setDigit x j v / 256 ^ i % 256 = if i = j then v else x / 256 ^ i % 256 := by
  have hpos : ∀ k, 0 < 256 ^ k := fun k => Nat.pow_pos (by decide)
  rw [setDigit_eq]
  obtain h | h | h := Nat.lt_trichotomy i j
  · have hj : 256 ^ j = 256 ^ i * (256 * 256 ^ (j - i - 1)) := by
      rw [← Nat.pow_succ', ← Nat.pow_add]
      congr 1
      omega
    have hx : x % 256 ^ j / 256 ^ i % 256 = x / 256 ^ i % 256 := by
      rw [hj, Nat.mod_mul_right_div_self, Nat.mod_mul_right_mod]
    rw [if_neg (Nat.ne_of_lt h), ← hx]
    conv_lhs => rw [hj, Nat.mul_assoc, Nat.add_mul_div_left _ _ (hpos i), Nat.mul_assoc, Nat.add_mul_mod_self_left, ← hj]
  · rw [if_pos h, h, Nat.add_mul_div_left _ _ (hpos j), Nat.div_eq_of_lt (Nat.mod_lt _ (hpos j)), Nat.zero_add,
      Nat.add_mul_mod_self_left, Nat.mod_eq_of_lt hv]
  · have hi : 256 ^ i = 256 ^ j * (256 * 256 ^ (i - j - 1)) := by
      rw [← Nat.pow_succ', ← Nat.pow_add]
      congr 1
      omega
    rw [if_neg (Nat.ne_of_gt h), hi, ← Nat.div_div_eq_div_mul, Nat.add_mul_div_left _ _ (hpos j), Nat.div_eq_of_lt (Nat.mod_lt _ (hpos j)),
      Nat.zero_add, ← Nat.div_div_eq_div_mul, Nat.add_mul_div_left _ _ (by decide : 0 < 256), Nat.div_eq_of_lt hv, Nat.zero_add,
      ← Nat.div_div_eq_div_mul x, ← Nat.div_div_eq_div_mul]

/-! ### Memory under a key -/

theorem Memory.read_congr {m m' : List Host.Cell} {n : Nat} : ∀ {a : Nat}, (∀ j, j < n → Memory.get m' (a + j) = Memory.get m (a + j)) →
    Memory.read m' a n = Memory.read m a n := by
  induction n with
  | zero => intro a h; rfl
  | succ n ih =>
    intro a h
    have h0 := h 0 (Nat.succ_pos n)
    have hr := ih (a := a + 1) fun j hj => by
      have := h (j + 1) (Nat.succ_lt_succ hj)
      rwa [Nat.add_comm j 1, ← Nat.add_assoc] at this
    rw [Memory.read, Memory.read, hr, ← Nat.add_zero a, h0]

/-- Bytes of HBM that software under a key reads depend on the memory of their line and on the keys alone. -/
theorem State.linePlain_congr {s t : State} {key line : Nat} (hk : t.keys = s.keys)
    (hm : ∀ j, j < 128 → Memory.get t.hbm (line * 128 + j) = Memory.get s.hbm (line * 128 + j)) : t.linePlain key line = s.linePlain key line := by
  unfold State.linePlain
  rw [Memory.read_congr hm, hk]

theorem State.hbmByte_key0 (s : State) (a : Nat) : s.hbmByte 0 a = Memory.get s.hbm a := if_pos rfl

theorem State.hbmByte_of_key {s : State} {key : Nat} (h : key ≠ 0) (a : Nat) :
    s.hbmByte key a = BitVec.ofNat 8 (s.linePlain key (a / 128) / 256 ^ (a % 128)) := if_neg h

theorem State.hbmByte_congr {s t : State} (hk : t.keys = s.keys) (hm : t.hbm = s.hbm) (key a : Nat) : t.hbmByte key a = s.hbmByte key a := by
  unfold State.hbmByte State.linePlain
  rw [hm, hk]

/-- The ciphertext of a line with one plain byte replaced. -/
def State.lineWith (s : State) (key a : Nat) (v : Byte) : Nat :=
  (xts (look 0 s.keys key) (a / 128) (BitVec.ofNat 1024 (setDigit (s.linePlain key (a / 128)) (a % 128) v.toNat))).toNat

theorem HbmOnly.keys {s t : State} (h : HbmOnly s t) : t.keys = s.keys := by rw [h]

theorem State.hbmSetByte_key0 (s : State) (a : Nat) (v : Byte) : (s.hbmSetByte 0 a v).hbm = Memory.set s.hbm a v := by
  unfold State.hbmSetByte
  rw [if_pos rfl, State.touchLine_hbm]

theorem State.hbmSetByte_of_key (s : State) {key : Nat} (h : key ≠ 0) (a : Nat) (v : Byte) :
    (s.hbmSetByte key a v).hbm = Memory.write s.hbm (a / 128 * 128) 128 (s.lineWith key a v) := by
  unfold State.hbmSetByte State.lineWith setDigit State.linePlain
  rw [if_neg h]
  dsimp only
  rw [State.touchLine_hbm, (s.touchLine_hbmOnly (a / 128)).keys]

/-- A byte written leaves the memory of every other line. -/
theorem State.hbmSetByte_get {s : State} (key : Nat) {a b : Nat} (v : Byte) (h : Memory.wf s.hbm = true) (hb : b / 128 ≠ a / 128) :
    Memory.get (s.hbmSetByte key a v).hbm b = Memory.get s.hbm b := by
  by_cases hk : key = 0
  · subst hk
    rw [State.hbmSetByte_key0, Memory.get_set _ _ _ h, if_neg (by rintro rfl; exact hb rfl)]
  · rw [State.hbmSetByte_of_key s hk, Memory.get_write _ _ _ _ h, if_neg (by omega)]

/-- The line of a byte that was written decrypts to its plaintext with that byte replaced. -/
theorem State.linePlain_setByte {s : State} {key : Nat} (hk : key ≠ 0) (a : Nat) (v : Byte) (h : Memory.wf s.hbm = true) :
    (s.hbmSetByte key a v).linePlain key (a / 128) = setDigit (s.linePlain key (a / 128)) (a % 128) v.toNat := by
  have hw : (256 : Nat) ^ 128 = 2 ^ 1024 := by rw [show (1024 : Nat) = 8 * 128 by rfl, Nat.pow_mul]
  have hlt : setDigit (s.linePlain key (a / 128)) (a % 128) v.toNat < 2 ^ 1024 := by
    rw [← hw]
    exact setDigit_lt (Nat.lt_of_lt_of_eq (BitVec.isLt _) hw.symm) v.isLt (Nat.mod_lt _ (by decide))
  have hc : s.lineWith key a v < 2 ^ 1024 := BitVec.isLt _
  unfold State.linePlain
  rw [State.hbmSetByte_of_key s hk, Memory.read_write _ _ _ h, hw, Nat.mod_eq_of_lt hc, (s.hbmSetByte_hbmOnly key a v).keys]
  unfold State.lineWith
  dsimp only
  rw [BitVec.ofNat_toNat, BitVec.setWidth_eq, Equiv.symm_apply_apply, BitVec.toNat_ofNat, Nat.mod_eq_of_lt hlt]
  rfl

theorem ofNat8_mod (x : Nat) : BitVec.ofNat 8 (x % 256) = BitVec.ofNat 8 x := by
  apply BitVec.eq_of_toNat_eq
  simp

/-- A byte written under a key reads back under it, and every other byte reads as before. -/
theorem State.hbmByte_setByte {s : State} (key a b : Nat) (v : Byte) (h : Memory.wf s.hbm = true) :
    (s.hbmSetByte key a v).hbmByte key b = if b = a then v else s.hbmByte key b := by
  by_cases hk : key = 0
  · subst hk
    rw [State.hbmByte_key0, State.hbmByte_key0, State.hbmSetByte_key0, Memory.get_set _ _ _ h]
  · rw [State.hbmByte_of_key hk, State.hbmByte_of_key hk]
    by_cases hl : b / 128 = a / 128
    · rw [hl, State.linePlain_setByte hk a v h, ← ofNat8_mod, digit_setDigit _ _ _ v.isLt]
      by_cases hb : b = a
      · subst hb
        rw [if_pos rfl, if_pos rfl, BitVec.ofNat_toNat, BitVec.setWidth_eq]
      · rw [if_neg (by omega), if_neg hb, ofNat8_mod]
    · rw [if_neg (by rintro rfl; exact hl rfl), State.linePlain_congr (s.hbmSetByte_hbmOnly key a v).keys fun j hj =>
        State.hbmSetByte_get key v h (by omega)]

theorem bit_zero_iff (m : Nat) : bit m 0 = decide (m % 2 = 1) := by simp [bit]

theorem bit_half (m i : Nat) : bit (m / 2) i = bit m (i + 1) := by
  unfold bit
  rw [Nat.pow_succ', Nat.div_div_eq_div_mul]

theorem State.hbmSetByte_wf {s : State} (key a : Nat) (v : Byte) (h : Memory.wf s.hbm = true) : Memory.wf (s.hbmSetByte key a v).hbm = true := by
  obtain e | ⟨n, raw, e⟩ := s.hbmSetByte_hbm key a v
  · rw [e]; exact Memory.wf_set _ _ h
  · rw [e]; exact Memory.wf_write _ _ _ h

/-- Bytes written under a mask read back, and every other byte reads as before. -/
theorem State.hbmByte_writeMasked (key b n : Nat) : ∀ {s : State} (a mask x : Nat), Memory.wf s.hbm = true →
    (s.hbmWriteMasked key a mask n x).hbmByte key b =
      if a ≤ b ∧ b < a + n ∧ bit mask (b - a) = true then BitVec.ofNat 8 (x / 256 ^ (b - a)) else s.hbmByte key b := by
  induction n with
  | zero => intro s a mask x _; rw [if_neg (by omega)]; rfl
  | succ n ih =>
    intro s a mask x h
    unfold State.hbmWriteMasked
    have hwf : Memory.wf (if mask % 2 = 1 then s.hbmSetByte key a (BitVec.ofNat 8 x) else s).hbm = true := by
      split
      · exact (State.hbmSetByte_wf key a _ h)
      · exact h
    have hfirst : (if mask % 2 = 1 then s.hbmSetByte key a (BitVec.ofNat 8 x) else s).hbmByte key b =
        if b = a ∧ mask % 2 = 1 then BitVec.ofNat 8 x else s.hbmByte key b := by
      split
      · next hm => rw [State.hbmByte_setByte key a b _ h]; simp [hm]
      · next hm => simp [hm]
    dsimp only
    rw [ih _ _ _ hwf, hfirst]
    obtain hb | hb | hb := Nat.lt_trichotomy b a
    · rw [if_neg (by omega), if_neg (by omega), if_neg (by omega)]
    · subst hb
      rw [if_neg (by omega)]
      simp [bit_zero_iff]
    · obtain ⟨i, rfl⟩ : ∃ i, b = a + 1 + i := ⟨b - a - 1, by omega⟩
      rw [show a + 1 + i - (a + 1) = i by omega, show a + 1 + i - a = i + 1 by omega, bit_half, Nat.pow_succ',
        ← Nat.div_div_eq_div_mul, if_neg (by omega : ¬ (a + 1 + i = a ∧ mask % 2 = 1))]
      exact if_congr (and_congr (by omega) (and_congr (by omega) Iff.rfl)) rfl rfl

/-- A write leaves the memory of every line outside it. -/
theorem State.hbmWriteMasked_get (key b n : Nat) : ∀ {s : State} (a mask x : Nat), Memory.wf s.hbm = true →
    b / 128 < a / 128 ∨ (a + n - 1) / 128 < b / 128 → Memory.get (s.hbmWriteMasked key a mask n x).hbm b = Memory.get s.hbm b := by
  induction n with
  | zero => intro s a mask x _ _; rfl
  | succ n ih =>
    intro s a mask x h hb
    have hfirst : Memory.get (s.hbmSetByte key a (BitVec.ofNat 8 x)).hbm b = Memory.get s.hbm b :=
      State.hbmSetByte_get key _ h (by omega)
    unfold State.hbmWriteMasked
    split
    · exact (ih _ _ _ (State.hbmSetByte_wf key a _ h) (by omega)).trans hfirst
    · exact ih _ _ _ h (by omega)

/-- What a write of the bytes that `sel` names changes: those bytes under its key, no other byte under it, and the memory of no other
line; neither the rows, the accesses in flight nor the cells. -/
def State.Changed (s u : State) (key pa n : Nat) (sel : Nat → Bool) (x : Nat) : Prop :=
  (∀ j, j < n → u.hbmByte key (pa + j) = if sel j = true then BitVec.ofNat 8 (x / 256 ^ j) else s.hbmByte key (pa + j)) ∧
  (∀ b, b < pa ∨ pa + n ≤ b → u.hbmByte key b = s.hbmByte key b) ∧
  (∀ b, b / 128 < pa / 128 ∨ (pa + n - 1) / 128 < b / 128 → Memory.get u.hbm b = Memory.get s.hbm b) ∧
  u.pad = s.pad ∧ u.inflight = s.inflight ∧ u.cells = s.cells

theorem State.Changed.congr {s u : State} {key pa n x y : Nat} {sel sel' : Nat → Bool} (h : s.Changed u key pa n sel x)
    (hs : ∀ j, j < n → sel j = sel' j) (hx : ∀ j, j < n → BitVec.ofNat 8 (x / 256 ^ j) = BitVec.ofNat 8 (y / 256 ^ j)) :
    s.Changed u key pa n sel' y := by
  obtain ⟨h1, h2⟩ := h
  exact ⟨fun j hj => by rw [h1 j hj, hs j hj, hx j hj], h2⟩

theorem State.hbmStore_changed {s : State} (key pa mask n x : Nat) (h : s.MemoryOk) :
    s.Changed (s.hbmStore key pa mask n x) key pa n (bit mask) x := by
  have hbyte : ∀ b, (s.hbmStore key pa mask n x).hbmByte key b = (s.hbmWriteMasked key pa mask n x).hbmByte key b := fun b =>
    State.hbmByte_congr (by rfl) (by rfl) key b
  have hrest := s.hbmStore_hbmOnly key pa mask n x
  refine ⟨fun j hj => ?_, fun b hb => ?_, fun b hb => State.hbmWriteMasked_get key b n pa mask x h.1 hb, ?_, ?_, ?_⟩
  · rw [hbyte, State.hbmByte_writeMasked key _ n pa mask x h.1, show pa + j - pa = j by omega]
    exact if_congr ⟨fun h => h.2.2, fun h => ⟨by omega, by omega, h⟩⟩ rfl rfl
  · rw [hbyte, State.hbmByte_writeMasked key _ n pa mask x h.1, if_neg (by omega)]
  all_goals rw [hrest]

theorem bit_full {n j : Nat} (h : j < n) : bit (2 ^ n - 1) j = true := by
  have := Nat.testBit_two_pow_sub_one n j
  rw [Nat.testBit_eq_decide_div_mod_eq] at this
  exact this.trans (decide_eq_true h)

/-- A whole write. -/
theorem State.hbmWrite_changed {s : State} (key pa n x : Nat) (h : s.MemoryOk) :
    s.Changed (s.hbmWrite key pa n x) key pa n (fun _ => true) x :=
  (State.hbmStore_changed key pa (2 ^ n - 1) n x h).congr (fun _ hj => bit_full hj) fun _ _ => rfl

theorem State.placeWrite_hbm (s : State) (pa key n mask x : Nat) :
    s.placeWrite (.hbm pa) key n mask x = some (s.hbmStore key pa mask n x) := by
  unfold State.placeWrite
  dsimp only
  split
  · next h => rw [h]; rfl
  · rfl

/-- Bytes read are the bytes of the number read. -/
theorem State.hbmRead_digit (s : State) (key n : Nat) : ∀ (a j : Nat), j < n → s.hbmRead key a n / 256 ^ j % 256 = (s.hbmByte key (a + j)).toNat := by
  induction n with
  | zero => intro a j hj; omega
  | succ n ih =>
    intro a j hj
    have hb : (s.hbmByte key a).toNat < 256 := (s.hbmByte key a).isLt
    unfold State.hbmRead
    cases j with
    | zero => rw [Nat.pow_zero, Nat.div_one, Nat.add_mul_mod_self_left, Nat.mod_eq_of_lt hb, Nat.add_zero]
    | succ j =>
      rw [Nat.pow_succ', ← Nat.div_div_eq_div_mul, Nat.add_mul_div_left _ _ (by decide : 0 < 256), Nat.div_eq_of_lt hb, Nat.zero_add,
        ih (a + 1) j (by omega), show a + 1 + j = a + (j + 1) by omega]

/-! ### Operations at their home in HBM (R224-R229) -/

theorem sext_eq_toInt (x : Nat) {n : Nat} (hn : n ≠ 0) : sext x n = (BitVec.ofNat n x).toInt := by
  have hp : 2 ^ n = 2 * 2 ^ (n - 1) := by rw [← Nat.pow_succ']; congr 1; omega
  unfold sext
  rw [BitVec.toInt_eq_toNat_cond, BitVec.toNat_ofNat]
  dsimp only
  by_cases h : 2 ^ (n - 1) ≤ x % 2 ^ n
  · rw [if_pos ⟨hn, h⟩, if_neg (by omega), Nat.cast_pow]
    rfl
  · rw [if_neg (fun e => h e.2), if_pos (by omega)]

theorem extend_eq_loaded (z : BitVec 3) (x : Nat) : extend z x = loaded z x := by
  unfold extend loaded sizeOf
  split
  · rw [sext_eq_toInt x (Nat.mul_ne_zero (by decide) (Nat.two_pow_pos _).ne')]
    rfl
  · apply BitVec.eq_of_toNat_eq
    rw [BitVec.toNat_setWidth, BitVec.toNat_ofNat, BitVec.toNat_ofNat]

theorem State.perform_load_hbm (s : State) (key pa : Nat) (z : BitVec 3) : s.perform (.hbm pa) key (.load z) =
    some (s, (loaded z (s.hbmRead key pa (2 ^ (z.toNat / 2)))).toNat, 0, true) := by
  rw [← extend_eq_loaded]
  rfl

theorem State.perform_store_hbm (s : State) (key pa n d : Nat) : s.perform (.hbm pa) key (.store n d) =
    some (s.hbmWrite key pa n d, 0, 0, true) := by
  unfold State.perform
  dsimp only
  rw [State.placeWrite_hbm]
  rfl

theorem State.perform_vstore_hbm (s : State) (key pa off n mask d : Nat) : s.perform (.hbm pa) key (.vstore off n mask d) =
    some (s.hbmStore key pa (mask / 2 ^ off % 2 ^ n) n (d / 256 ^ off % 256 ^ n), 0, 0, true) := by
  unfold State.perform
  dsimp only
  rw [State.placeWrite_hbm]
  rfl

/-- The active bytes of a vector, and no other, are written (R226). -/
theorem State.vstore_changed {s : State} (key pa off n mask d : Nat) (h : s.MemoryOk) :
    s.Changed (s.hbmStore key pa (mask / 2 ^ off % 2 ^ n) n (d / 256 ^ off % 256 ^ n)) key pa n (fun j => bit mask (off + j)) (d / 256 ^ off) := by
  refine (State.hbmStore_changed key pa _ n _ h).congr (fun j hj => ?_) fun j hj => ?_
  · unfold bit
    rw [show 2 ^ n = 2 ^ j * (2 * 2 ^ (n - j - 1)) by rw [← Nat.pow_succ', ← Nat.pow_add]; congr 1; omega, Nat.mod_mul_right_div_self,
      Nat.mod_mul_right_mod, Nat.div_div_eq_div_mul, ← Nat.pow_add]
  · rw [← ofNat8_mod, ← ofNat8_mod (d / 256 ^ off / 256 ^ j),
      show 256 ^ n = 256 ^ j * (256 * 256 ^ (n - j - 1)) by rw [← Nat.pow_succ', ← Nat.pow_add]; congr 1; omega,
      Nat.mod_mul_right_div_self, Nat.mod_mul_right_mod]

/-- An AMO reads the old value and writes what its function gives (R228, R229). -/
theorem State.perform_amo_hbm (s : State) (key pa fn size b cmp : Nat) : s.perform (.hbm pa) key (.amo fn size b cmp) =
    some (((amoNew fn size (s.hbmRead key pa size) b cmp).1.map (s.hbmWrite key pa size)).getD s,
      amoOld fn size (s.hbmRead key pa size), (amoNew fn size (s.hbmRead key pa size) b cmp).2, true) := by
  unfold State.perform State.placeRead
  simp only [bind, Option.bind, State.placeWrite_hbm]
  cases (amoNew fn size (s.hbmRead key pa size) b cmp).1 <;> rfl

end Sys2Proof.Machine
end

section
/-! SUPPORT. Misses and slices (R193-R200). -/
namespace Sys2Proof.Machine

theorem State.slice_setSlice (s : State) (k j : Nat) (q : Slice) : (s.setSlice k q).slice j = if j = k then q else s.slice j := by
  unfold State.slice State.setSlice
  exact look_put ..

/-- A miss whose turn it is at its port enters its slice. -/
theorem missPortEntry_eq {s : State} {m : Miss} (hp : s.ports[s.now.arg.b]? = some (s.now.arg.a, m))
    (hf : ∀ j e, j < s.now.arg.b → s.ports[j]? = some e → e.1 = s.now.arg.a → sliceOf (e.2.vpn * 4096) ≠ sliceOf (m.vpn * 4096))
    (hr : (s.slice (sliceOf (m.vpn * 4096))).replay.length + (s.slice (sliceOf (m.vpn * 4096))).misses.length < 4096) (hu : m.unit = none) :
    execMissPortEntry s = .next { s with
      ports := removeAt s.ports s.now.arg.b
      slices := put s.slices (sliceOf (m.vpn * 4096))
        { s.slice (sliceOf (m.vpn * 4096)) with misses := (s.slice (sliceOf (m.vpn * 4096))).misses ++ [m] } } := by
  have hfirst : ((s.ports.take s.now.arg.b).any fun e => e.1 == s.now.arg.a && sliceOf (e.2.vpn * 4096) == sliceOf (m.vpn * 4096)) = false := by
    refine List.any_eq_false.mpr fun e he => ?_
    obtain ⟨j, hj, rfl⟩ := List.mem_iff_getElem.mp he
    have hjb : j < s.now.arg.b := by simp at hj; omega
    simp only [Bool.and_eq_true, beq_iff_eq, not_and]
    exact hf j _ hjb (by simp)
  have hroom : (s.slice (sliceOf (m.vpn * 4096))).full 1 = false := by
    unfold Slice.full
    exact decide_eq_false (by omega)
  refine event_some ?_
  simp only [hp, hfirst, hroom, hu, bind, Option.bind, ne_eq, not_true_eq_false, decide_false, Option.isSome_none, Bool.or_self,
    Bool.false_eq_true, if_false]
  rfl

/-- The miss of a part's work waits at its port while its slice is full (R200). -/
theorem unitTranslate_full {s : State} {key who va : Nat} {w : Bool} (hv : va < 2 ^ 60)
    (ht : tlbFind (look [] s.l1 key) (va / 4096) = none)
    (hf : 4096 ≤ (s.slice (sliceOf va)).replay.length + (s.slice (sliceOf va)).misses.length) :
    s.unitTranslate key who va w = (some .miss, s.waitAtPort key who va w) := by
  have hfull : (s.slice (sliceOf va)).full 1 = true := by
    unfold Slice.full
    exact decide_eq_true (by omega)
  unfold State.unitTranslate
  rw [if_neg (by omega)]
  dsimp only
  rw [ht]
  exact if_pos (by rw [show (look {} s.slices (sliceOf va)).full 1 = true from hfull]; rfl)

theorem recordPending_eq {s : State} {k : Nat} {e : FaultEntry} (hc : s.now.arg.c = k + 2)
    (he : (s.slice s.now.arg.a).unrecorded[k]? = some e) : execSliceWalk s = .next
      ((s.setSlice s.now.arg.a { s.slice s.now.arg.a with unrecorded := removeAt (s.slice s.now.arg.a).unrecorded k }).recordFault
        s.now.arg.a e.vpn e.write e.mal e.eng) := by
  unfold execSliceWalk
  refine event_some ((if_pos (by omega)).trans ?_)
  unfold State.recordPending
  rw [hc, Nat.add_sub_cancel]
  simp only [he, bind, Option.bind]
  rfl

theorem State.waitsFor_iff (s : State) (m : Miss) : s.waitsFor m = true ↔
    (s.ctx m.cell m.ctx).wait = .walk m.vpn ∧ (s.ctx m.cell m.ctx).busy = true := by
  unfold State.waitsFor
  simp only [Bool.and_eq_true, beq_iff_eq]

/-- The slice with its oldest miss taken out. -/
def State.missTaken (s : State) (sl : Nat) (rest : List Miss) : State := s.setSlice sl { s.slice sl with misses := rest }

theorem State.missTaken_slice (s : State) (sl : Nat) (rest : List Miss) :
    (s.missTaken sl rest).slice sl = { s.slice sl with misses := rest } := (s.slice_setSlice sl sl _).trans (if_pos rfl)

/-- A miss whose walk faults parks, and its fault is recorded at once or waits to be (R199, R171). -/
theorem sliceWalk_fault {s : State} {m : Miss} {rest : List Miss} {mal : Bool} (hm : (s.slice s.now.arg.a).misses = m :: rest)
    (ht : tlbFind (s.slice s.now.arg.a).tlb m.vpn = none) (hw : s.waitsFor m = true)
    (hf : (s.missTaken s.now.arg.a rest).walk (m.vpn * 4096) = .fault mal) (hc : s.now.arg.c < 2) {t : State}
    (h : t = if s.now.arg.c = 0 then (s.missTaken s.now.arg.a rest).recordFault s.now.arg.a m.vpn m.write mal false
      else (s.missTaken s.now.arg.a rest).setSlice s.now.arg.a { (s.missTaken s.now.arg.a rest).slice s.now.arg.a with
        unrecorded := ((s.missTaken s.now.arg.a rest).slice s.now.arg.a).unrecorded ++ [⟨m.vpn, m.write, mal, false⟩] }) :
    execSliceWalk s = .next ((t.setSlice s.now.arg.a { t.slice s.now.arg.a with replay := (t.slice s.now.arg.a).replay ++ [.miss m] }).answer m
      (.parkIn m.vpn)) := by
  have ht' : tlbFind ((s.missTaken s.now.arg.a rest).slice s.now.arg.a).tlb m.vpn = none := by rw [State.missTaken_slice]; exact ht
  have hsplit : t = if s.now.arg.c = 1 then (s.missTaken s.now.arg.a rest).setSlice s.now.arg.a { (s.missTaken s.now.arg.a rest).slice s.now.arg.a with
        unrecorded := ((s.missTaken s.now.arg.a rest).slice s.now.arg.a).unrecorded ++ [⟨m.vpn, m.write, mal, false⟩] }
      else (s.missTaken s.now.arg.a rest).recordFault s.now.arg.a m.vpn m.write mal false := by
    rw [h]
    obtain h0 | h1 : s.now.arg.c = 0 ∨ s.now.arg.c = 1 := by omega
    · rw [if_pos h0, if_neg (by omega)]
    · rw [if_neg (by omega), if_pos h1]
  unfold execSliceWalk
  refine event_some ((if_neg (by omega)).trans ?_)
  rw [hm]
  dsimp only
  rw [show tlbFind ((s.setSlice s.now.arg.a { s.slice s.now.arg.a with misses := rest }).slice s.now.arg.a).tlb m.vpn = none from ht']
  dsimp only
  rw [show (s.setSlice s.now.arg.a { s.slice s.now.arg.a with misses := rest }).walk (m.vpn * 4096) = _ from hf]
  dsimp only
  rw [hsplit]
  exact if_pos hw

/-- Both TLBs with a walk's leaf (R193). -/
def State.filled (s : State) (sl : Nat) (m : Miss) (e : TlbEntry) : State :=
  { s with
    slices := put s.slices sl { s.slice sl with tlb := tlbFill (s.slice sl).tlb 8192 s.now.arg.b e }
    l1 := put s.l1 (l1Key m.cell) (tlbFill (look [] s.l1 (l1Key m.cell)) 256 s.now.arg.b e) }

/-- A miss whose walk finds a leaf is answered, and both TLBs take it. -/
theorem sliceWalk_leaf {s : State} {m : Miss} {rest : List Miss} {size pte : Nat} (hm : (s.slice s.now.arg.a).misses = m :: rest)
    (ht : tlbFind (s.slice s.now.arg.a).tlb m.vpn = none)
    (hf : (s.missTaken s.now.arg.a rest).walk (m.vpn * 4096) = .leaf size pte) (hc : s.now.arg.c < 2) :
    execSliceWalk s = .next (((s.missTaken s.now.arg.a rest).filled s.now.arg.a m ⟨m.vpn, size, pte⟩).answer m
      (if (s.missTaken s.now.arg.a rest).denied pte size (m.vpn * 4096) m.write m.sys then .perm m.vpn else .page m.vpn size pte)) := by
  have ht' : tlbFind ((s.missTaken s.now.arg.a rest).slice s.now.arg.a).tlb m.vpn = none := by rw [State.missTaken_slice]; exact ht
  unfold execSliceWalk
  refine event_some ((if_neg (by omega)).trans ?_)
  rw [hm]
  dsimp only
  rw [show tlbFind ((s.setSlice s.now.arg.a { s.slice s.now.arg.a with misses := rest }).slice s.now.arg.a).tlb m.vpn = none from ht']
  dsimp only
  rw [show (s.setSlice s.now.arg.a { s.slice s.now.arg.a with misses := rest }).walk (m.vpn * 4096) = _ from hf]
  dsimp only
  rfl

theorem tlbFind_fill (t : List TlbEntry) (cap victim : Nat) (e : TlbEntry) : tlbFind (tlbFill t cap victim e) e.vpn = some e := by
  have hcov : e.covers e.vpn = true := by
    unfold TlbEntry.covers
    exact beq_self_eq_true _
  unfold tlbFind tlbFill
  exact List.find?_cons_of_pos hcov

theorem State.answer_eq {s : State} {m : Miss} (h : s.waitsFor m = true) (x : Answer) : s.answer m x =
    s.modCtx m.cell m.ctx fun c => { c with wait := .none, answers := c.answers ++ [x] } := if_pos h

theorem State.landed_vector (s : State) (l : List Access) {a : Access} {r : Reg} (hd : a.dest = .v r) (v keep now : Nat) (fl : BitVec 5) :
    ({ s with inflight := l } : State).landed a v keep now fl = State.modCtx { s with inflight := a.written now l } a.cell a.ctx fun x =>
      ({ x with fflags := x.fflags ||| fl } : Ctx).setV r ((s.ctx a.cell a.ctx).mixed a r v keep now) := by
  unfold State.landed
  exact State.modCtx_congr (Ctx.land_vector hd (s.ctx a.cell a.ctx) v keep now fl)

/-- A vector's result on its lanes: the register it leaves, and what stays in flight. -/
theorem State.landing_vector (s : State) {a : Access} {r : Reg} (hd : a.dest = .v r) (v keep c : Nat) (fl : BitVec 5) :
    (s.landing a c).landed a v keep (a.arriving c) fl = State.modCtx { s with
        inflight := a.written (a.arriving c) (s.landing a c).inflight } a.cell a.ctx fun x =>
      ({ x with fflags := x.fflags ||| fl } : Ctx).setV r ((s.ctx a.cell a.ctx).mixed a r v keep (a.arriving c)) :=
  (congrArg (fun t : State => t.landed a v keep (a.arriving c) fl) (s.landing_rest a c)).trans (s.landed_vector _ hd v keep _ fl)

theorem Access.bit_due (a : Access) (all : Nat) {j : Nat} (hj : j < 16) : bit (a.due all) j = (bit all j && !bit a.landed j) :=
  bit_laneMask (fun j => bit all j && !bit a.landed j) hj

theorem Access.bit_arriving {a : Access} {r : Reg} (hd : a.dest = .v r) (c : Nat) {j : Nat} (hj : j < 16) :
    bit (a.arriving c) j = (bit a.op.lanes j && !bit a.landed j && !bit c (j - j % a.grain)) := by
  have hl : a.lanes = a.op.lanes := by unfold Access.lanes; rw [hd]
  unfold Access.arriving
  rw [hd, hl]
  dsimp only
  rw [bit_laneMask _ hj, bit_byLane a c hj]
  rw [a.bit_due _ hj]

theorem Access.left_ne_zero {a : Access} {r : Reg} (hd : a.dest = .v r) (c : Nat) : a.left c ≠ 0 ↔
    ∃ j, j < 16 ∧ bit a.op.lanes j = true ∧ bit a.landed j = false ∧ bit c (j - j % a.grain) = true := by
  have hl : a.lanes = a.op.lanes := by unfold Access.lanes; rw [hd]
  have hbit : ∀ j, j < 16 → ((bit (a.due a.lanes) j && !bit (a.arriving c) j) = false ↔
      ¬ (bit a.op.lanes j = true ∧ bit a.landed j = false ∧ bit c (j - j % a.grain) = true)) := fun j hj => by
    rw [a.bit_due _ hj, Access.bit_arriving hd c hj, hl]
    cases bit a.op.lanes j <;> cases bit a.landed j <;> cases bit c (j - j % a.grain) <;> decide
  unfold Access.left
  rw [ne_eq, laneMask_eq_zero]
  constructor
  · intro h
    by_contra hno
    exact h fun j hj => (hbit j hj).mpr fun e => hno ⟨j, hj, e⟩
  · rintro ⟨j, hj, e⟩ h
    exact (hbit j hj).mp (h j hj) e

/-- What answering a miss from a leaf leaves: the entry in both TLBs, and the answer with its context. -/
theorem State.answer_filled {s : State} {sl : Nat} {m : Miss} {size pte : Nat} (h : s.waitsFor m = true) (x : Answer) :
    let t := (s.filled sl m ⟨m.vpn, size, pte⟩).answer m x
    tlbFind (t.slice sl).tlb m.vpn = some ⟨m.vpn, size, pte⟩ ∧ tlbFind (look [] t.l1 (l1Key m.cell)) m.vpn = some ⟨m.vpn, size, pte⟩ ∧
      (t.ctx m.cell m.ctx).wait = .none ∧ (t.ctx m.cell m.ctx).answers = (s.ctx m.cell m.ctx).answers ++ [x] := by
  have hw : (s.filled sl m ⟨m.vpn, size, pte⟩).waitsFor m = true := h
  have hslice : ∀ u : State, u.slices = (s.filled sl m ⟨m.vpn, size, pte⟩).slices →
      (u.slice sl).tlb = tlbFill (s.slice sl).tlb 8192 s.now.arg.b ⟨m.vpn, size, pte⟩ := fun u hu => by
    unfold State.slice
    rw [hu]
    exact congrArg Slice.tlb ((look_put ..).trans (if_pos rfl))
  have hl1 : ∀ u : State, u.l1 = (s.filled sl m ⟨m.vpn, size, pte⟩).l1 →
      look [] u.l1 (l1Key m.cell) = tlbFill (look [] s.l1 (l1Key m.cell)) 256 s.now.arg.b ⟨m.vpn, size, pte⟩ := fun u hu => by
    rw [hu]
    exact (look_put ..).trans (if_pos rfl)
  intro t
  have hs : t = _ := State.answer_eq hw x
  rw [hs]
  refine ⟨?_, ?_, ?_⟩
  · exact (congrArg (tlbFind · m.vpn) (hslice _ rfl)).trans (tlbFind_fill _ 8192 _ ⟨m.vpn, size, pte⟩)
  · exact (congrArg (tlbFind · m.vpn) (hl1 _ rfl)).trans (tlbFind_fill _ 256 _ ⟨m.vpn, size, pte⟩)
  · rw [State.ctx_modCtx, if_pos ⟨rfl, rfl⟩]
    exact ⟨rfl, rfl⟩

end Sys2Proof.Machine
end

section
open Sys2Proof Sys2Proof.Machine

/-- Settles O53: accesses by event, bytes of HBM by the write of one byte under a key, misses by the outcome of the walk. -/
theorem accessAndMissEvents : Obligations.AccessAndMissEvents := by
  unfold Obligations.AccessAndMissEvents
  refine ⟨?_, ?_, ?_⟩
  · intro s a ha dropped home
    have home_holds : ∀ (ev : Instr) (kind : Nat), (kind = 1 → s.now.arg.b ≠ 1 → exec ev s = event s (s.homeEvent s.now.arg.a kind)) →
        (kind ≠ 1 → exec ev s = event s (s.homeEvent s.now.arg.a kind)) → home ev kind := by
      intro ev kind h1 h2 hi haw hrm ht hh hj hb hk u v fl ok hp hrec hb1
      have hev : exec ev s = event s (s.homeEvent s.now.arg.a kind) := by
        by_cases hk1 : kind = 1
        · exact h1 hk1 (hb1 hk1)
        · exact h2 hk1
      have hr := resolve_home s haw
      rw [hev, ← hk, homeEvent_here ha hi hrm, State.mayApply_home hr ht hj hh]
      refine ⟨fun hw => ?_, fun hw => ⟨fun hc => ?_, fun pa _ hc => ?_⟩⟩
      · rw [hw]; simp [event]
      · rw [hw, hc]
        refine event_some ((if_pos rfl).trans ((applyAccess_good hr hb hp hrec).trans ?_))
        rfl
      · rw [hc]; simp [event]
    refine ⟨home_holds _ _ (by omega) fun _ => rfl, home_holds _ _ (fun _ hb => ?_) (by omega), home_holds _ _ (by omega) fun _ => rfl, ?_, ?_, ?_, ?_, ?_, ?_⟩
    · exact congrArg (event s) (if_neg hb)
    · intro u v fl hi hop hac haw hm hb hp hb1 taken
      have hr := resolve_home s haw
      refine (congrArg (event s) (if_pos hb1)).trans (event_some ((acceptUpdate_eq ha hi hop hac hr hm hb hp).trans ?_))
      exact congrArg some (replyTo_eq taken s a true rfl rfl)
    · intro c x hpl g hg
      rw [hpl, hg]
      exact perform_phwait_pad s c x a.key g
    · intro hi ht hc frames t h
      exact protectedWriteCopy_eq ha hi ht hc h
    · intro v fl hp hu
      refine ⟨fun ho => resultReturn_dropped ha hp hu ho, fun ho hb => ⟨fun hr => ?_, fun r hr hd hl => ?_, fun r hr hd => ?_⟩⟩
      · refine (resultReturn_replies ha hp hu ho hb hr).trans (congrArg _ ((replyTo_eq dropped s a _ rfl rfl).trans ?_))
        exact if_congr (by rw [ho, hb]; simp) rfl rfl
      · exact resultReturn_scalar ha hp hu ho hb hr hd
      · refine ⟨_, _, (resultReturn_lands ha hp hu ho hb hr (by rw [hd]; exact Dest.noConfusion)).trans (congrArg _ (s.landing_vector hd v _ _ fl)), ?_, ?_⟩
        · intro j hj
          refine (Ctx.extract_mixed _ a r v _ _ hj).trans (if_congr ?_ rfl rfl)
          rw [Access.bit_arriving hd _ hj, bit_byLane a _ hj, ← Bool.and_assoc, ← Bool.and_assoc, Bool.and_self, Bool.and_comm (bit s.now.arg.b _)]
        · exact (a.ids_written _ a.id _).trans ((State.landing_ids ha (by rw [hd]; exact Dest.noConfusion)).trans (Access.left_ne_zero hd _))
    · intro v fl hp hl
      exact checkRefetch_locked ha hp hl
    · intro v fl hp hl ht hr tried
      refine ⟨fun h => ?_, fun hf h2 => ?_⟩
      · exact (checkRefetch_eq ha hp hl ht hr).trans (congrArg _ (if_pos h))
      · exact (checkRefetch_eq ha hp hl ht hr).trans (congrArg _ (if_neg (by rw [hf, h2]; simp)))
  · intro s key pa h changed
    refine ⟨fun n j hj => s.hbmRead_digit key n pa j hj, fun hk => by rw [hk, State.hbmByte_key0], s.perform_load_hbm key pa,
      fun n d => ⟨_, s.perform_store_hbm key pa n d, State.hbmWrite_changed key pa n d h⟩, fun off n mask => rfl,
      fun off n mask d => ⟨_, s.perform_vstore_hbm key pa off n mask d, State.vstore_changed key pa off n mask d h⟩,
      fun fn size b cmp => ⟨_, s.perform_amo_hbm key pa fn size b cmp, ?_⟩⟩
    cases hn : (amoNew fn size (s.hbmRead key pa size) b cmp).1 with
    | none => rfl
    | some x => exact State.hbmWrite_changed key pa size x h
  · intro s
    refine ⟨fun m hp hf hr hu => missPortEntry_eq hp hf hr hu, fun key who va w hv ht hf => unitTranslate_full hv ht hf, ?_,
      fun k e hc he => recordPending_eq hc he⟩
    intro m rest sl hm ht hw hb s1
    have hwaits : s.waitsFor m = true := (s.waitsFor_iff m).mpr ⟨hw, hb⟩
    refine ⟨fun mal hf hc => sliceWalk_fault hm ht hwaits hf hc rfl, fun size pte hf hc => ⟨_, sliceWalk_leaf hm ht hf hc, ?_⟩⟩
    exact State.answer_filled (s := s1) hwaits _
end

section
/-! SUPPORT. Operating points, limits, the governor and ballast (R389-R398). -/
namespace Sys2Proof.Machine

theorem State.modCell_congr {s : State} {n : Nat} {f g : Cell → Cell} (h : f (s.cell n) = g (s.cell n)) : s.modCell n f = s.modCell n g := by
  unfold State.modCell
  rw [h]

/-- The answered state of a cell whose head request is `r`. -/
theorem State.opDone_eq {u : State} {n : Nat} {r : OpRequest} {rest : List OpRequest} (h : (u.cell n).opq = r :: rest) (v : Nat) :
    u.opDone n r v = (u.modCell n fun c => { c with opq := rest, evac := none }).deliver r.id v := by
  unfold State.opDone
  rw [State.modCell_congr (g := fun c => { c with opq := rest, evac := none }) (by rw [h]; rfl)]

/-- A unit's step: no check of capacity (R390). -/
theorem opStep_unit {s : State} {r : OpRequest} {rest : List OpRequest} (hb : s.now.arg.b = 1)
    (hq : look [] s.unitOpq (s.now.arg.a / 16) = r :: rest) : execOpStep s = .next (if 5 < r.op
      then State.deliver { s with unitOpq := put s.unitOpq (s.now.arg.a / 16) rest } r.id 2
      else State.deliver { s with
        unitOpq := put s.unitOpq (s.now.arg.a / 16) rest
        unitOps := put s.unitOps (s.now.arg.a / 16) (BitVec.ofNat 3 r.op) } r.id 0) := by
  refine event_some ((if_pos hb).trans ?_)
  unfold State.opUnit
  rw [hq]
  simp only [List.head?_cons, List.tail_cons, bind, Option.bind, pure]
  split <;> rfl

section
variable {s : State} {r : OpRequest} {rest : List OpRequest} (hb : s.now.arg.b ≠ 1) (hq : (s.cell s.now.arg.a).opq = r :: rest)
include hb hq

/-- A question about rows is answered in its turn. -/
theorem opStep_query {x : Nat} (hx : r.query = some x) :
    execOpStep s = .next (s.opDone s.now.arg.a r (s.rowq s.now.arg.a (bits x 62 2) x)) := by
  refine event_some ((if_neg hb).trans ?_)
  unfold State.opCell
  simp only [hq, hx, List.head?_cons, bind, Option.bind, pure]

/-- The cases of a cell's step that has not begun (R389, R390). -/
theorem opStep_cases (hx : r.query = none) (he : (s.cell s.now.arg.a).evac = none) : execOpStep s = event s
    (if 5 < r.op then some (s.opDone s.now.arg.a r 2)
      else if r.op = (s.cell s.now.arg.a).opcur.toNat then some (s.opDone s.now.arg.a r 0)
      else if r.op < (s.cell s.now.arg.a).opcur.toNat then
        if (s.cell s.now.arg.a).rowsAt r.op < s.rowPin s.now.arg.a then some (s.opDone s.now.arg.a r 1)
        else if !s.stepReady s.now.arg.a then none
        else some (s.modCell s.now.arg.a fun c => { c with evac := some (0, 0) })
      else if s.thermalLimit < s.now.arg.c then some (s.opDone s.now.arg.a r 4)
      else if !s.stepReady s.now.arg.a then none
      else some (((s.zeroRows s.now.arg.a ((s.cell s.now.arg.a).rowsAt (s.cell s.now.arg.a).opcur.toNat) ((s.cell s.now.arg.a).rowsAt r.op)).modCell
        s.now.arg.a fun c => { c with opcur := BitVec.ofNat 3 r.op }).opDone s.now.arg.a r 0)) := by
  refine congrArg (event s) ((if_neg hb).trans ?_)
  unfold State.opCell
  simp only [hq, hx, he, List.head?_cons, bind, Option.bind, pure]

end

/-- A cell above the limit hands an idle logical cell to the cell that the event names. -/
theorem thermalMigration_eq {s : State} {h : Hosted} (hh : (s.cell s.now.arg.a).hosted[s.now.arg.b]? = some h)
    (hk : kindOf s.now.arg.a = some .compute) (ht : s.thermalLimit < s.now.arg.data.getD (s.now.arg.a % 16) 0)
    (hi : s.lcellIdle s.now.arg.a h.lcell = true) (hr : s.rowsQuiet s.now.arg.a = true) : execThermalMigration s = event s
      (if s.now.arg.c < 16 && s.takesMoved (s.now.arg.a / 16 * 16 + s.now.arg.c) s.now.arg.a h (s.now.arg.data.getD s.now.arg.c 0) then
        (if ((s.cell s.now.arg.a).messagesOf h.lcell).length ≤ (s.cell (s.now.arg.a / 16 * 16 + s.now.arg.c)).freeSlots
          then some (s.migrate s.now.arg.a (s.now.arg.a / 16 * 16 + s.now.arg.c) s.now.arg.b h) else none)
      else if (List.range 16).any fun j => s.takesMoved (s.now.arg.a / 16 * 16 + j) s.now.arg.a h (s.now.arg.data.getD j 0) then none
      else some (s.modCell s.now.arg.a fun c => { c with stretched := true })) := by
  have ht' : decide (s.now.arg.data.getD (s.now.arg.a % 16) 0 ≤ s.thermalLimit) = false := decide_eq_false (by omega)
  unfold execThermalMigration
  simp only [hh, hk, ht', hi, hr, bind, Option.bind, ne_eq, not_true_eq_false, decide_false, Bool.not_true, Bool.or_self, Bool.false_eq_true,
    if_false, decide_eq_true_eq]

/-- A cell that cools runs at its rate again. -/
theorem readingFalls_eq {s : State} (hb : s.now.arg.b < s.thermalLimit) (hs : (s.cell s.now.arg.a).stretched = true) :
    execReadingFallsBelowLimit s = .next (s.modCell s.now.arg.a fun c => { c with stretched := false }) :=
  event_some (if_pos (by rw [hs, decide_eq_true hb]; rfl))

/-- What the governor holds is not ready. -/
theorem State.ready_held {s : State} {n : Nat} (k : Nat) (h : s.governor.holds.contains n = true) : s.ready n k = false := by
  unfold State.ready
  dsimp only
  rw [h]
  simp

/-- The governor admits a current within its limits (R396). -/
theorem currentGovernor_eq {s : State} (h1 : s.now.arg.a ≤ s.governor.current.toNat + 1500 * s.now.arg.b)
    (h2 : s.governor.current.toNat ≤ s.now.arg.a + 1500 * s.now.arg.b) (h3 : s.now.arg.a ≤ 30000)
    (h4 : ((s.governor.elapse s.now.arg.b).filter id).length ≤ 10)
    (h5 : s.now.arg.a ≤ 16000 ∨ (((s.governor.elapse s.now.arg.b).drop ((s.governor.elapse s.now.arg.b).length - 99)).filter id).length < 10) :
    execCurrentGovernor s = .next { s with governor := { s.governor with
      current := BitVec.ofNat 32 s.now.arg.a
      recent := s.governor.elapse s.now.arg.b
      holds := s.now.arg.data
      holding := !s.now.arg.data.isEmpty
      excursions := if 16000 < s.now.arg.a ∧ s.governor.current.toNat ≤ 16000 then
        (if s.governor.excursions = 0xFFFF then 0xFFFF else s.governor.excursions + 1) else s.governor.excursions } } := by
  have hallows : s.governor.allows s.now.arg.a s.now.arg.b = true := by
    unfold Governor.allows
    simp only [Bool.and_eq_true, Bool.or_eq_true, decide_eq_true_eq]
    exact ⟨⟨⟨⟨h1, h2⟩, h3⟩, h4⟩, h5⟩
  have hcount : (if s.governor.excursions = 0xFFFF then s.governor.excursions else s.governor.excursions + 1) =
      if s.governor.excursions = 0xFFFF then 0xFFFF else s.governor.excursions + 1 := by
    split
    · next h => exact h
    · rfl
  refine event_some ((if_neg (by rw [hallows]; exact Bool.false_ne_true)).trans ?_)
  rw [hcount]

end Sys2Proof.Machine
end

section
/-! SUPPORT. Jobs, nodes and the release of logical cells (R45, R60, R388, R401-R403). -/
namespace Sys2Proof.Machine

theorem bits_from_zero (x n : Nat) : bits x 0 n = x % 2 ^ n := by
  unfold bits
  rw [Nat.pow_zero, Nat.div_one]

/-- A job that passes its checks gets its three records and is in progress (R403). -/
theorem jobStart_eq {s u v w : State} {job head : Nat} (hjob : s.vaNum s.now.arg.a 64 = some job)
    (hnew : ∀ j ∈ s.jobs, j.jrec ≠ bits job 64 64) (h0 : s.now.arg.data.getD 0 0 % 64 = 0) (h1 : s.now.arg.data.getD 1 0 % 64 = 0)
    (hc : s.jobChecks s.now.arg.a job = some true) (hh : s.vaNum (job % 2 ^ 64) 16 = some head)
    (hu : s.vaWrite (bits job 64 64) 64 (levelRecord freshPhase.toNat 1 3 0 (bits job 192 64) 0 (s.now.arg.data.getD 2 0)) = some u)
    (hv : u.vaWrite (s.now.arg.data.getD 0 0) 64
      (levelRecord freshPhase.toNat 1 2 0 (bits job 192 64) (bits job 64 64) (s.now.arg.data.getD 3 0)) = some v)
    (hw : v.vaWrite (s.now.arg.data.getD 1 0) 64
      (levelRecord freshPhase.toNat (head % 2 ^ 16) 1 0 (bits job 192 64) (s.now.arg.data.getD 0 0) (s.now.arg.data.getD 4 0)) = some w) :
    execJobStart s = .next { w with
      jobs := w.jobs ++ [{ va := s.now.arg.a, jrec := bits job 64 64, graphRec := s.now.arg.data.getD 1 0, port := s.now.arg.b % 4 }] } := by
  have hany : (s.jobs.any fun j => j.jrec == bits job 64 64) = false :=
    List.any_eq_false.mpr fun j hj => by simpa using hnew j hj
  refine event_some (Option.bind_eq_some_iff.mpr ⟨job, hjob, ?_⟩)
  dsimp only
  refine (if_neg (by rw [hany, h0, h1]; decide)).trans (Option.bind_eq_some_iff.mpr ⟨true, hc, ?_⟩)
  rw [if_pos rfl, bits_from_zero]
  refine Option.bind_eq_some_iff.mpr ⟨head, hh, Option.bind_eq_some_iff.mpr ⟨u, hu, Option.bind_eq_some_iff.mpr ⟨v, hv, ?_⟩⟩⟩
  rw [bits_from_zero head]
  exact Option.bind_eq_some_iff.mpr ⟨w, hw, rfl⟩

/-- The cases of a node's start (R403). -/
theorem nodeStart_cases {s : State} {j : Job} {job head : Nat} {preds : List Nat} (hj : s.jobs.find? (·.va == s.now.arg.a) = some j)
    (hjob : s.vaNum j.va 64 = some job) (hh : s.vaNum (job % 2 ^ 64) 16 = some head) (hn : s.now.arg.b < head % 2 ^ 16)
    (hp : s.predecessors job (head % 2 ^ 16) s.now.arg.b = some preds) (hnew : look? j.nodes s.now.arg.b = none) : execNodeStart s = event s
      (if (preds.map (s.nodeEnd j)).any (· == some false) then
        some { s.setNode j.va s.now.arg.b { launch := none, recva := 0 } with
          records := (s.setNode j.va s.now.arg.b { launch := none, recva := 0 }).records ++ [RecOp.liveSub j.graphRec] }
      else if (preds.map (s.nodeEnd j)).all (· == some true) then s.startNode j job s.now.arg.b s.now.arg.data
      else none) := by
  unfold execNodeStart
  simp only [hj, hjob, bits_from_zero, hh, hp, hnew, bind, Option.bind, Option.isSome_none, Bool.or_false, decide_eq_true_eq, pure]
  rw [if_neg (by omega)]

/-- A logical cell leaves its cell, and no memory but the rows changes. -/
theorem State.unhost_eq (s : State) (cell k : Nat) (h : Hosted) :
    ((s.unhost cell k h).cell cell).hosted = removeAt (s.cell cell).hosted k ∧ (s.unhost cell k h).hbm = s.hbm := by
  have hcopy : ∀ (u : State) a b n, (u.copyRows cell a b n).hbm = u.hbm := fun u a b n => by
    unfold State.copyRows
    dsimp only
    split <;> rfl
  unfold State.unhost
  dsimp only
  rw [State.cell_setCell, if_pos rfl]
  refine ⟨?_, hcopy ..⟩
  split <;> rfl

/-- A logical cell whose launch is over leaves its cell (R60, R388). -/
theorem rowCompaction_eq {s : State} {h : Hosted} {e : LaunchEntry} {err : Bool}
    (hh : (s.cell s.now.arg.a).hosted[s.now.arg.b]? = some h) (he : look? s.launches h.launch = some e)
    (hf : s.flipped e.recva.toNat = some (true, err)) (hq : s.rowsQuiet s.now.arg.a = true) : execRowCompaction s = .next
      { s.unhost s.now.arg.a s.now.arg.b h with
        l2p := del (s.unhost s.now.arg.a s.now.arg.b h).l2p h.lcell
        tags := (s.unhost s.now.arg.a s.now.arg.b h).tags.filter fun t => t.1 / 256 ≠ h.lcell } := by
  refine event_some ?_
  simp only [hh, he, hf, hq, bind, Option.bind, Bool.not_true, Bool.or_self, Bool.false_eq_true, if_false, pure]

end Sys2Proof.Machine
end

section
open Sys2Proof Sys2Proof.Machine

/-- Settles O59: each event by the conditions it tests, in their order. -/
theorem powerAndPlannerEvents : Obligations.PowerAndPlannerEvents := by
  unfold Obligations.PowerAndPlannerEvents
  refine ⟨fun s => ⟨?_, ?_, ?_, ?_, ?_, ?_, ?_, ?_⟩, fun s => ⟨?_, ?_, ?_⟩⟩
  · intro r rest g u hb hq
    exact opStep_unit hb hq
  · intro r rest hb hq answer
    have answers : ∀ (u : State) v, (u.cell s.now.arg.a).opq = r :: rest → execOpStep s = .next (u.opDone s.now.arg.a r v) → answer u v :=
      fun u v hu h => h.trans (congrArg _ (State.opDone_eq hu v))
    refine ⟨fun x hx => answers _ _ hq (opStep_query hb hq hx), fun hx he => ?_⟩
    have hc : execOpStep s = _ := opStep_cases hb hq hx he
    refine ⟨fun h5 => ?_, fun hk h5 => ?_, fun hk h5 hp => ?_, fun hk h5 hp => ?_, fun hk h5 ht => ?_, fun hk h5 ht hr => ?_, fun hk h5 ht hr => ?_⟩
    · exact answers _ _ hq (hc.trans (event_some (if_pos h5)))
    · rw [if_neg (by omega), if_pos hk] at hc
      exact answers _ _ hq hc
    · rw [if_neg (by omega), if_neg (by omega), if_pos hk, if_pos hp] at hc
      exact answers _ _ hq hc
    · rw [if_neg (by omega), if_neg (by omega), if_pos hk, if_neg (by omega)] at hc
      refine hc.trans ?_
      cases s.stepReady s.now.arg.a <;> rfl
    · rw [if_neg (by omega), if_neg (by omega), if_neg (by omega), if_pos ht] at hc
      exact answers _ _ hq hc
    · rw [if_neg (by omega), if_neg (by omega), if_neg (by omega), if_neg (by omega), hr] at hc
      exact hc
    · rw [if_neg (by omega), if_neg (by omega), if_neg (by omega), if_neg (by omega), hr] at hc
      refine answers _ _ ?_ hc
      rw [State.cell_modCell, if_pos rfl]
      exact hq
  · intro h hh hk ht hi hr takes
    have hc : execThermalMigration s = _ := thermalMigration_eq hh hk ht hi hr
    refine ⟨fun hlt htk hfree => ?_, fun hno => ?_⟩
    · exact hc.trans (event_some ((if_pos (by rw [decide_eq_true hlt]; exact htk)).trans (if_pos hfree)))
    · have htk : (decide (s.now.arg.c < 16) && s.takesMoved (s.now.arg.a / 16 * 16 + s.now.arg.c) s.now.arg.a h (s.now.arg.data.getD s.now.arg.c 0)) = false := by
        by_cases hlt : s.now.arg.c < 16
        · rw [show s.takesMoved _ _ h _ = false from hno _ hlt, Bool.and_false]
        · rw [decide_eq_false hlt, Bool.false_and]
      have hany : ((List.range 16).any fun j => s.takesMoved (s.now.arg.a / 16 * 16 + j) s.now.arg.a h (s.now.arg.data.getD j 0)) = false :=
        List.any_eq_false.mpr fun j hj => by
          rw [show s.takesMoved _ _ h _ = false from hno j (List.mem_range.mp hj)]
          exact Bool.false_ne_true
      rw [htk, hany] at hc
      exact hc
  · intro hb hs
    exact readingFalls_eq hb hs
  · intro hn
    exact ⟨_, event_some (if_neg (by omega)), rfl, rfl, rfl, rfl⟩
  · intro g l h1 h2 h3 h4 h5
    exact currentGovernor_eq h1 h2 h3 h4 h5
  · intro m k h
    exact State.ready_held k h
  · rfl
  · intro job hjob jrec save hnew h0 h1 hc head u v w hh hu hv hw
    exact jobStart_eq hjob hnew h0 h1 hc hh hu hv hw
  · intro j job head preds node hj hjob hh hn hp hnew
    have hc : execNodeStart s = _ := nodeStart_cases hj hjob hh hn hp hnew
    refine ⟨fun ⟨m, hm, hf⟩ => ⟨_, hc.trans (event_some (if_pos ?_)), rfl, rfl, rfl⟩,
      fun t hall hs => hc.trans (event_some ((if_neg ?_).trans ((if_pos ?_).trans hs)))⟩
    · exact List.any_eq_true.mpr ⟨_, List.mem_map_of_mem hm, by rw [hf]; rfl⟩
    · rw [List.any_eq_true]
      rintro ⟨x, hx, hf⟩
      obtain ⟨m, hm, rfl⟩ := List.mem_map.mp hx
      rw [hall m hm] at hf
      exact absurd hf (by decide)
    · rw [List.all_map, List.all_eq_true]
      intro m hm
      exact beq_iff_eq.mpr (hall m hm)
  · intro h e err hh he hf hq
    obtain ⟨h1, h2⟩ := s.unhost_eq s.now.arg.a s.now.arg.b h
    exact ⟨_, rowCompaction_eq hh he hf hq, (look?_del ..).trans (if_pos rfl), h1, h2⟩
end

section
/-! SUPPORT. The round trip of every instruction, from the lemma of each (R66-R79). -/
namespace Sys2Proof.Laws

theorem roundTrip (i : Instr) : RoundTrip.Statement i := by
  cases i with
  | add => exact RoundTrip.add _ _ _ | sub => exact RoundTrip.sub _ _ _ | and => exact RoundTrip.and _ _ _ | or => exact RoundTrip.or _ _ _
  | xor => exact RoundTrip.xor _ _ _ | andn => exact RoundTrip.andn _ _ _ | orn => exact RoundTrip.orn _ _ _ | sll => exact RoundTrip.sll _ _ _
  | srl => exact RoundTrip.srl _ _ _ | sra => exact RoundTrip.sra _ _ _ | slt => exact RoundTrip.slt _ _ _ | sltu => exact RoundTrip.sltu _ _ _
  | min => exact RoundTrip.min _ _ _ | max => exact RoundTrip.max _ _ _ | minu => exact RoundTrip.minu _ _ _ | maxu => exact RoundTrip.maxu _ _ _
  | seq => exact RoundTrip.seq _ _ _ | addi => exact RoundTrip.addi _ _ _ | andi => exact RoundTrip.andi _ _ _ | ori => exact RoundTrip.ori _ _ _
  | xori => exact RoundTrip.xori _ _ _ | slti => exact RoundTrip.slti _ _ _ | sltiu => exact RoundTrip.sltiu _ _ _
  | slli => exact RoundTrip.slli _ _ _ | srli => exact RoundTrip.srli _ _ _ | srai => exact RoundTrip.srai _ _ _ | li => exact RoundTrip.li _ _
  | lih => exact RoundTrip.lih _ _ _ | mul => exact RoundTrip.mul _ _ _ | mulh => exact RoundTrip.mulh _ _ _ | mulhsu => exact RoundTrip.mulhsu _ _ _
  | mulhu => exact RoundTrip.mulhu _ _ _ | div => exact RoundTrip.div _ _ _ | divu => exact RoundTrip.divu _ _ _ | rem => exact RoundTrip.rem _ _ _
  | remu => exact RoundTrip.remu _ _ _ | clz => exact RoundTrip.clz _ _ | ctz => exact RoundTrip.ctz _ _ | popc => exact RoundTrip.popc _ _
  | bswap => exact RoundTrip.bswap _ _ | brev => exact RoundTrip.brev _ _ | rol => exact RoundTrip.rol _ _ _ | ror => exact RoundTrip.ror _ _ _
  | rand => exact RoundTrip.rand _ | beq => exact RoundTrip.beq _ _ _ | bne => exact RoundTrip.bne _ _ _ | blt => exact RoundTrip.blt _ _ _
  | bge => exact RoundTrip.bge _ _ _ | bltu => exact RoundTrip.bltu _ _ _ | bgeu => exact RoundTrip.bgeu _ _ _ | jmp => exact RoundTrip.jmp _
  | call => exact RoundTrip.call _ | jreg => exact RoundTrip.jreg _ _ _ | loop => exact RoundTrip.loop _ _ | endtask => exact RoundTrip.endtask _
  | spawnPath => exact RoundTrip.spawnPath _ _ _ _ | spawnNear => exact RoundTrip.spawnNear _ _ _ _ | spawnSteal => exact RoundTrip.spawnSteal _ _ _ _
  | join => exact RoundTrip.join _ _ _ | yieldchk => exact RoundTrip.yieldchk _ | follow => exact RoundTrip.follow _ _
  | cancel => exact RoundTrip.cancel _ | rtquiet => exact RoundTrip.rtquiet _ _ _ | csrrw => exact RoundTrip.csrrw _ _ _
  | csrrs => exact RoundTrip.csrrs _ _ _ | csrrc => exact RoundTrip.csrrc _ _ _ | ld => exact RoundTrip.ld _ _ _ _ | st => exact RoundTrip.st _ _ _ _
  | ldl => exact RoundTrip.ldl _ _ _ _ | stl => exact RoundTrip.stl _ _ _ _ | ldc => exact RoundTrip.ldc _ _ _ _ | stc => exact RoundTrip.stc _ _ _ _
  | ldv => exact RoundTrip.ldv _ _ _ _ _ _ | stv => exact RoundTrip.stv _ _ _ _ _ _ | amoswap => exact RoundTrip.amoswap _ _ _ _ _
  | amoadd => exact RoundTrip.amoadd _ _ _ _ _ | amoand => exact RoundTrip.amoand _ _ _ _ _ | amoor => exact RoundTrip.amoor _ _ _ _ _
  | amoxor => exact RoundTrip.amoxor _ _ _ _ _ | amomin => exact RoundTrip.amomin _ _ _ _ _ | amomax => exact RoundTrip.amomax _ _ _ _ _
  | amominu => exact RoundTrip.amominu _ _ _ _ _ | amomaxu => exact RoundTrip.amomaxu _ _ _ _ _ | amocas => exact RoundTrip.amocas _ _ _ _ _
  | amofadd => exact RoundTrip.amofadd _ _ _ _ | amobfpadd => exact RoundTrip.amobfpadd _ _ _ | fence => exact RoundTrip.fence _
  | phinit => exact RoundTrip.phinit _ _ _ | pharr => exact RoundTrip.pharr _ _ | phadd => exact RoundTrip.phadd _ _ _
  | phwait => exact RoundTrip.phwait _ _ _ _ | phread => exact RoundTrip.phread _ _ _ _ | taglk => exact RoundTrip.taglk _ _
  | tagset => exact RoundTrip.tagset _ _ _ | taginv => exact RoundTrip.taginv _ | tagstat => exact RoundTrip.tagstat _ _ _
  | xfer => exact RoundTrip.xfer _ | xfern => exact RoundTrip.xfern _ | send => exact RoundTrip.send _ | sendRel => exact RoundTrip.sendRel _
  | reply => exact RoundTrip.reply _ _ | replyRel => exact RoundTrip.replyRel _ _ | sendlb => exact RoundTrip.sendlb _
  | gqcreate => exact RoundTrip.gqcreate _ _ | gqpush => exact RoundTrip.gqpush _ _ _ | gqpop => exact RoundTrip.gqpop _ _ _
  | gqpopDrop => exact RoundTrip.gqpopDrop _ _ _ | gqstat => exact RoundTrip.gqstat _ _ _ | mixcfg => exact RoundTrip.mixcfg _ _
  | mixjoin => exact RoundTrip.mixjoin _ _ | mixpeer => exact RoundTrip.mixpeer _ _ | mixadd => exact RoundTrip.mixadd _ _ _
  | mixtick => exact RoundTrip.mixtick _ | mixread => exact RoundTrip.mixread _ _ _ | mixstat => exact RoundTrip.mixstat _ _ _
  | mixleave => exact RoundTrip.mixleave _ | mixhold => exact RoundTrip.mixhold _ _ | mfmt => exact RoundTrip.mfmt _ _ | mma => exact RoundTrip.mma _
  | mmas => exact RoundTrip.mmas _ | mwait => exact RoundTrip.mwait _ _ | mar => exact RoundTrip.mar _ _ | maw => exact RoundTrip.maw _ _
  | mstat => exact RoundTrip.mstat _ | msrec => exact RoundTrip.msrec _ | mtout => exact RoundTrip.mtout _ | mrem => exact RoundTrip.mrem _ _
  | mkey => exact RoundTrip.mkey _ _ | mcap => exact RoundTrip.mcap _ _ | mnorm => exact RoundTrip.mnorm _ | mxs => exact RoundTrip.mxs _ _
  | mxsrd => exact RoundTrip.mxsrd _ _ | stgcfg => exact RoundTrip.stgcfg _ _ | stgdone => exact RoundTrip.stgdone _
  | stgtmpl => exact RoundTrip.stgtmpl _ _ | stgsrec => exact RoundTrip.stgsrec _ | stgstat => exact RoundTrip.stgstat _ _
  | vadd => exact RoundTrip.vadd _ _ _ _ _ | vsub => exact RoundTrip.vsub _ _ _ _ _ | vmul => exact RoundTrip.vmul _ _ _ _ _
  | vmin => exact RoundTrip.vmin _ _ _ _ _ | vmax => exact RoundTrip.vmax _ _ _ _ _ | vminu => exact RoundTrip.vminu _ _ _ _ _
  | vmaxu => exact RoundTrip.vmaxu _ _ _ _ _ | vfma => exact RoundTrip.vfma _ _ _ _ _ | vfms => exact RoundTrip.vfms _ _ _ _ _
  | vfnma => exact RoundTrip.vfnma _ _ _ _ _ | vfnms => exact RoundTrip.vfnms _ _ _ _ _ | vdot => exact RoundTrip.vdot _ _ _ _ _
  | vdotu => exact RoundTrip.vdotu _ _ _ _ _ | vadds => exact RoundTrip.vadds _ _ _ _ _ | vaddsu => exact RoundTrip.vaddsu _ _ _ _ _
  | vsubs => exact RoundTrip.vsubs _ _ _ _ _ | vsubsu => exact RoundTrip.vsubsu _ _ _ _ _ | vnegs => exact RoundTrip.vnegs _ _ _ _
  | vand => exact RoundTrip.vand _ _ _ _ _ | vor => exact RoundTrip.vor _ _ _ _ _ | vxor => exact RoundTrip.vxor _ _ _ _ _
  | vandn => exact RoundTrip.vandn _ _ _ _ _ | vsll => exact RoundTrip.vsll _ _ _ _ _ | vsrl => exact RoundTrip.vsrl _ _ _ _ _
  | vsra => exact RoundTrip.vsra _ _ _ _ _ | vcmpeq => exact RoundTrip.vcmpeq _ _ _ _ _ | vcmpne => exact RoundTrip.vcmpne _ _ _ _ _
  | vcmplt => exact RoundTrip.vcmplt _ _ _ _ _ | vcmple => exact RoundTrip.vcmple _ _ _ _ _ | vcmpltu => exact RoundTrip.vcmpltu _ _ _ _ _
  | vcmpleu => exact RoundTrip.vcmpleu _ _ _ _ _ | vmv => exact RoundTrip.vmv _ _ _ _ | vbcast => exact RoundTrip.vbcast _ _ _ _
  | vins => exact RoundTrip.vins _ _ _ _ | vext => exact RoundTrip.vext _ _ _ _ | vextu => exact RoundTrip.vextu _ _ _ _
  | vrsum => exact RoundTrip.vrsum _ _ _ _ | vrsumu => exact RoundTrip.vrsumu _ _ _ _ | vrmin => exact RoundTrip.vrmin _ _ _ _
  | vrmax => exact RoundTrip.vrmax _ _ _ _ | vrminu => exact RoundTrip.vrminu _ _ _ _ | vrmaxu => exact RoundTrip.vrmaxu _ _ _ _
  | vabs => exact RoundTrip.vabs _ _ _ _ | vneg => exact RoundTrip.vneg _ _ _ _ | vclz => exact RoundTrip.vclz _ _ _ _
  | vpopc => exact RoundTrip.vpopc _ _ _ _ | vcvt => exact RoundTrip.vcvt _ _ _ _ _ _ | vrcp => exact RoundTrip.vrcp _ _ _ _
  | vrsqrt => exact RoundTrip.vrsqrt _ _ _ _ | vsqrt => exact RoundTrip.vsqrt _ _ _ _ | vexp2 => exact RoundTrip.vexp2 _ _ _ _
  | vlog2 => exact RoundTrip.vlog2 _ _ _ _ | vdiv => exact RoundTrip.vdiv _ _ _ _ _ | vtie => exact RoundTrip.vtie _ _ _ _ _
  | vtload => exact RoundTrip.vtload _ _ _ | vshuf => exact RoundTrip.vshuf _ _ _ _ _ | vsplat => exact RoundTrip.vsplat _ _ _ _ _
  | vslidedn => exact RoundTrip.vslidedn _ _ _ _ _ | vslideup => exact RoundTrip.vslideup _ _ _ _ _ | plen => exact RoundTrip.plen _ _ _
  | pand => exact RoundTrip.pand _ _ _ _ | por => exact RoundTrip.por _ _ _ _ | pxor => exact RoundTrip.pxor _ _ _ _
  | pandn => exact RoundTrip.pandn _ _ _ _ | pget => exact RoundTrip.pget _ _ | pset => exact RoundTrip.pset _ _ | pcnt => exact RoundTrip.pcnt _ _ _
  | trap => exact RoundTrip.trap _ | codew => exact RoundTrip.codew _ _ | rtset => exact RoundTrip.rtset _ _ | inbhead => exact RoundTrip.inbhead _ _
  | inbrd => exact RoundTrip.inbrd _ _ _ | inbfree => exact RoundTrip.inbfree _ _ | fbstat => exact RoundTrip.fbstat _ _
  | fbread => exact RoundTrip.fbread _ _ _ | fbclr => exact RoundTrip.fbclr _ _ | replayall => exact RoundTrip.replayall _
  | tlbinv => exact RoundTrip.tlbinv _ _ | sgload => exact RoundTrip.sgload _ _ | keyw => exact RoundTrip.keyw _ _
  | preempt => exact RoundTrip.preempt _ _ | ctxrest => exact RoundTrip.ctxrest _ _ | bncset => exact RoundTrip.bncset _ _ _
  | bncclr => exact RoundTrip.bncclr _ | dbgrd => exact RoundTrip.dbgrd _ _ _ | dbgwr => exact RoundTrip.dbgwr _ _
  | dbgstep => exact RoundTrip.dbgstep _ | opset => exact RoundTrip.opset _ _ _ | rowq => exact RoundTrip.rowq _ _ _ | cMv => exact RoundTrip.cMv _ _
  | cAdd => exact RoundTrip.cAdd _ _ | cSub => exact RoundTrip.cSub _ _ | cAnd => exact RoundTrip.cAnd _ _ | cOr => exact RoundTrip.cOr _ _
  | cXor => exact RoundTrip.cXor _ _ | cAddi => exact RoundTrip.cAddi _ _ | cLi => exact RoundTrip.cLi _ _ | cSlli => exact RoundTrip.cSlli _ _
  | cSrli => exact RoundTrip.cSrli _ _ | cSrai => exact RoundTrip.cSrai _ _ | cLdl => exact RoundTrip.cLdl _ _ | cStl => exact RoundTrip.cStl _ _
  | cBnez => exact RoundTrip.cBnez _ _ | cJreg => exact RoundTrip.cJreg _ | lexit => exact RoundTrip.lexit | unfollow => exact RoundTrip.unfollow
  | eret => exact RoundTrip.eret | bkpt => exact RoundTrip.bkpt | halt => exact RoundTrip.halt | resume => exact RoundTrip.resume
  | cEndtask => exact RoundTrip.cEndtask
  | _ => exact roundTrip_event rfl

end Sys2Proof.Laws
end

section
open Sys2Proof

/-- Settles O4: the round trip of each instruction, gathered. -/
theorem decodeOfEncode : Obligations.DecodeOfEncode :=
  fun i hl hw sw rest => Laws.roundTrip i hl sw rest hw
end

section
/-! SUPPORT. Bytes that decode are an encoding: the rows of the opcode map leave no bit of a word out (R66-R79). -/
namespace Sys2Proof.Laws

/-! ### The bits of a word that a number stands for -/

theorem or_eq_add {a b : Nat} (h : a &&& b = 0) : a ||| b = a + b := by
  have hb : ∀ x, x ≤ a + b → (BitVec.ofNat (a + b) x).toNat = x := fun x hx =>
    (BitVec.toNat_ofNat ..).trans (Nat.mod_eq_of_lt (Nat.lt_of_le_of_lt hx Nat.lt_two_pow_self))
  have he := congrArg BitVec.toNat (BitVec.add_eq_or_of_and_eq_zero (BitVec.ofNat (a + b) a) (BitVec.ofNat (a + b) b)
    (BitVec.eq_of_toNat_eq (by rw [BitVec.toNat_and, hb a (by omega), hb b (by omega), h]; rfl)))
  rw [BitVec.toNat_or, ← BitVec.ofNat_add, hb a (by omega), hb b (by omega), hb _ (Nat.le_refl _)] at he
  exact he.symm

/-- The `n` bits from bit `lo`. -/
def fieldMask (lo n : Nat) : Nat := (2 ^ n - 1) <<< lo

/-- `x` is what `w` holds in the bits of `S`. -/
def Part (w S x : Nat) : Prop := w &&& S = x

theorem Part.field (w lo n : Nat) : Part w (fieldMask lo n) (2 ^ lo * (w / 2 ^ lo % 2 ^ n)) := by
  unfold Part fieldMask
  refine Nat.eq_of_testBit_eq fun i => ?_
  rw [Nat.mul_comm, Nat.testBit_mul_two_pow, Nat.testBit_and, Nat.testBit_shiftLeft, Nat.testBit_two_pow_sub_one,
    Nat.testBit_mod_two_pow, Nat.testBit_div_two_pow]
  by_cases h : lo ≤ i
  · simp [h, Bool.and_comm]
  · simp [h]

/-- Parts with no bit in common add up. -/
theorem Part.add {w S T x y : Nat} (hx : Part w S x) (hy : Part w T y) (hd : S &&& T = 0) : Part w (S ||| T) (x + y) := by
  unfold Part at *
  rw [Nat.and_or_distrib_left, or_eq_add, hx, hy]
  rw [Nat.and_assoc, Nat.and_left_comm S, hd, Nat.and_zero, Nat.and_zero]

theorem Part.reg (w lo : Nat) {k : Nat} (hk : k = 2 ^ lo) : Part w (fieldMask lo 5) (k * (regAt w lo).val) :=
  hk ▸ .field w lo 5

theorem Part.pred (w lo : Nat) {k : Nat} (hk : k = 2 ^ lo) : Part w (fieldMask lo 3) (k * (predAt w lo).val) :=
  hk ▸ .field w lo 3

theorem Part.bits (w lo n : Nat) {k : Nat} (hk : k = 2 ^ lo) : Part w (fieldMask lo n) (k * (fieldAt w lo n).toNat) := by
  rw [fieldAt, BitVec.toNat_ofNat, hk]
  exact .field w lo n

theorem Part.fixed {w lo n v : Nat} (h : holds w lo n v = true) : Part w (fieldMask lo n) (2 ^ lo * v) :=
  eq_of_beq h ▸ .field w lo n

/-- Bit 0 and the major or OP4 from bit 2 on (R66, R77). -/
theorem Part.head {w e m : Nat} (n : Nat) (he : w % 2 = e) (hm : w / 4 % 2 ^ n = m) :
    Part w (fieldMask 0 1 ||| fieldMask 2 n) (e + 4 * m) := by
  have h0 := Part.field w 0 1
  rw [Nat.pow_zero, Nat.div_one, Nat.pow_one, he, Nat.one_mul] at h0
  refine h0.add (hm ▸ Part.field w 2 n) (Nat.eq_of_testBit_eq fun i => ?_)
  simp only [fieldMask, Nat.testBit_and, Nat.testBit_shiftLeft, Nat.testBit_two_pow_sub_one, Nat.zero_testBit]
  by_cases hi : i < 1
  · simp [show ¬ 2 ≤ i by omega]
  · simp [hi]

/-! ### Every row of the opcode map -/

/-- `r` is no instruction, or one of `n` halfwords to whose value, with the switch marker, every bit of `w` counts. -/
def Coded (n w : Nat) : Except DecodeError Instr → Prop
  | .ok i => width i = n ∧ Part w (2 ^ (16 * n) - 1) (valueS0 i + 2 * (w / 2 % 2))
  | .error _ => True

theorem coded_error (n w : Nat) (e : DecodeError) : Coded n w (.error e) := trivial

theorem coded_ite {n w : Nat} {c : Bool} {i : Instr} {r : Except DecodeError Instr} (h : c = true → Coded n w (.ok i))
    (hr : Coded n w r) : Coded n w (if c = true then .ok i else r) := by
  split
  · exact h ‹_›
  · exact hr

theorem coded_row {n w S : Nat} {i : Instr} (h : Part w S (valueS0 i)) (hd : S &&& 2 = 0) (hS : S ||| 2 = 2 ^ (16 * n) - 1)
    (hw : width i = n) : Coded n w (.ok i) :=
  ⟨hw, hS ▸ h.add (.field w 1 1) hd⟩

/-- Row by row, the fixed bits and the fields add up to the word. -/
theorem coded_decode (w : Nat) : (w % 2 = 1 → Coded 2 w (decode32 w)) ∧ (w % 2 = 0 → Coded 1 w (decode16 w)) := by
  refine ⟨fun ho => ?long, fun ho => ?short⟩
  case' long =>
    unfold decode32
    split
    any_goals exact coded_error ..
    all_goals
      rename_i hm
      have head := Part.head 6 ho hm
  case' short =>
    unfold decode16
    split
    any_goals exact coded_error ..
    all_goals
      rename_i hm
      have head := Part.head 4 ho hm
  all_goals repeat' first | exact coded_error .. | apply coded_ite
  all_goals
    try intro hc
    apply coded_row
    case h =>
      try apply Part.add
      repeat' with_reducible first | apply Part.add | apply Part.reg | apply Part.bits | apply Part.pred
      -- the constant of the row: the head, and the one or two fields that the decoder has compared
      first
        | exact (head.add (.fixed (by with_reducible exact Bool.and_elim_left hc)) rfl).add (.fixed (Bool.and_elim_right hc)) rfl
        | exact head.add (.fixed hc) rfl
        | exact head
      all_goals rfl
    all_goals rfl

/-! ### The bytes of a word -/

theorem coded_value {n w : Nat} {i : Instr} (h : Coded n w (.ok i)) (hw : w < 2 ^ (16 * n)) (sw : Bool) (hs : sw.toNat = w / 2 % 2) :
    width i = n ∧ value i sw = w := by
  obtain ⟨hn, hp⟩ := h
  exact ⟨hn, by rw [value, hs]; exact hp.symm.trans (Nat.and_two_pow_sub_one_of_lt_two_pow hw)⟩

theorem swAt_toNat (w : Nat) : (swAt w).toNat = w / 2 % 2 := by
  unfold swAt
  rcases Nat.mod_two_eq_zero_or_one (w / 2) with h | h <;> rw [h] <;> rfl

theorem byte_ofNat {x : Nat} {b : Byte} (h : x % 256 = b.toNat) : BitVec.ofNat 8 x = b :=
  BitVec.eq_of_toNat_eq ((BitVec.toNat_ofNat ..).trans h)

theorem encode_one {i : Instr} {sw : Bool} {b0 b1 : Byte} (hw : width i = 1) (hv : value i sw = b0.toNat + 256 * b1.toNat) :
    encode i sw = [b0, b1] := by
  have e : encode i sw = [BitVec.ofNat 8 (value i sw), BitVec.ofNat 8 (value i sw / 256)] := by
    simp [encode, hw, List.range, List.range.loop]
  rw [e, byte_ofNat (b := b0) (by omega), byte_ofNat (b := b1) (by omega)]

theorem encode_two {i : Instr} {sw : Bool} {b0 b1 b2 b3 : Byte} (hw : width i = 2)
    (hv : value i sw = b0.toNat + 256 * b1.toNat + 65536 * (b2.toNat + 256 * b3.toNat)) : encode i sw = [b0, b1, b2, b3] := by
  have e : encode i sw = [BitVec.ofNat 8 (value i sw), BitVec.ofNat 8 (value i sw / 256),
      BitVec.ofNat 8 (value i sw / 65536), BitVec.ofNat 8 (value i sw / 16777216)] := by
    simp [encode, hw, List.range, List.range.loop]
  rw [e, byte_ofNat (b := b0) (by omega), byte_ofNat (b := b1) (by omega), byte_ofNat (b := b2) (by omega), byte_ofNat (b := b3) (by omega)]

theorem map_ok {ε α β : Type} {r : Except ε α} {f : α → β} {y : β} (h : r.map f = .ok y) : ∃ x, r = .ok x ∧ f x = y := by
  cases r with
  | error e => exact nomatch h
  | ok x => exact ⟨x, rfl, Except.ok.inj h⟩

end Sys2Proof.Laws
end

section
open Sys2Proof Sys2Proof.Laws

/-- Settles O5: the parts that the decoder reads make up the whole word, of one halfword or of two. -/
theorem encodeOfDecode : Obligations.EncodeOfDecode := by
  unfold Obligations.EncodeOfDecode
  intro l rest i sw h
  match l with
  | [] | [_] => exact nomatch h
  | b0 :: b1 :: tl =>
    simp only [decode] at h
    split at h
    · next h0 =>
      obtain ⟨_, hd, hy⟩ := map_ok h
      cases hy
      obtain ⟨hw, hv⟩ := coded_value (hd ▸ (coded_decode _).2 h0) (by omega) (swAt _) (swAt_toNat _)
      rw [encode_one hw hv]; rfl
    · next h0 =>
      match tl with
      | [] | [_] => exact nomatch h
      | b2 :: b3 :: tl =>
        obtain ⟨_, hd, hy⟩ := map_ok h
        cases hy
        obtain ⟨hw, hv⟩ := coded_value (hd ▸ (coded_decode _).1 (by omega)) (by omega) (swAt (b0.toNat + 256 * b1.toNat)) (by rw [swAt_toNat]; omega)
        rw [encode_two hw hv]; rfl
end

section
/-! SUPPORT. What a retirement leaves of the accesses in flight. -/
namespace Sys2Proof.Machine

theorem Retires.inflight {x t : State} {next : CodeAddr} {transfer : Bool} (h : Retires x next transfer t) : t.inflight = x.inflight := by
  rw [h.machine]

theorem after_of_exec {i : Instr} {s t : State} (h : exec i s = .next t) : Tests.after i s = t := by
  rw [Tests.after, h]

end Sys2Proof.Machine
end

section
open Sys2Proof Sys2Proof.Machine

/-- Refutes O17 by its clause on c.jreg.  The equivalent's link goes to s0, and `State.setS` marks a result for s0 that is on its way
as overtaken, though the write of s0 itself is discarded (R41, R70).  So after an LD into s0 whose result is still owed, c.jreg leaves
another `clobber` in the access, where the statement has the state unchanged but for the transfer of control. -/
theorem not_compactForms : ¬ Obligations.CompactForms := by
  unfold Obligations.CompactForms
  rintro ⟨-, -, -, cJregJumps⟩
  have hx : Executes (.cJreg 1) (Tests.after (.ld 0 2 6 0) (Tests.with2 Tests.user 2 0x1000 3 0)) :=
    Tests.ready_executes (by decide)
  obtain ⟨t, ht, hr⟩ := cJregJumps 1 _ hx
  have same := hr.inflight
  rw [← after_of_exec ht] at same
  exact absurd (congrArg (List.map Access.clobber) same) (by decide)

end

section
/-! SUPPORT. Near loads and stores (R78, R222-R225): how each form issues, and what its access answers. -/
namespace Sys2Proof.Machine

/-! ### Issue with an answer -/

/-- `exec i s` issues `i` with a body that answers `r`, control then going on in sequence. -/
def Issues (i : Instr) (s : State) (r : Except Stop State) : Prop :=
  ∃ body : Body, exec i s = issue i s body ∧ body s = r.map fun t => { s := t }

theorem Issues.runs {i : Instr} {s x : State} (h : Issues i s (.ok x)) (hx : Executes i s)
    (hs : x.cur.stepping = s.cur.stepping) : Runs i s x := by
  obtain ⟨body, he, hb⟩ := h
  obtain ⟨t, ht, hr⟩ := issue_runs hx hb hs
  exact ⟨t, he.trans ht, hr⟩

theorem Issues.traps {i : Instr} {s : State} {c : BitVec 8} {v : Word} (h : Issues i s (.error (.trap c v)))
    (hx : Executes i s) : Traps i s c v := by
  obtain ⟨body, he, hb⟩ := h
  exact he.trans (issue_trap hx hb)

/-! ### The alignment of an access, and a compact form's answer -/

theorem eaOf_zero (base : Word) (z : BitVec 3) : eaOf base 0 z = base.toNat := by
  simp [eaOf, wrap]

/-- `r` where `ea` is a multiple of `n`, else MISALIGN (R222). -/
def whenAligned (ea n : Nat) (r : Except Stop State) : Except Stop State :=
  if ea % n = 0 then r else .error (.trap causeMisalign (BitVec.ofNat 64 ea))

theorem whenAligned_of_aligned {ea n : Nat} {r : Except Stop State} (h : ea % n = 0) : whenAligned ea n r = r := if_pos h

theorem whenAligned_of_misaligned {ea n : Nat} {r : Except Stop State} (h : ea % n ≠ 0) :
    whenAligned ea n r = .error (.trap causeMisalign (BitVec.ofNat 64 ea)) := if_neg h

/-- What the compact form `i` answers where its equivalent answers `r`: a trap reports the 16-bit instruction (R78). -/
def State.compacted (s : State) (i : Instr) : Except Stop State → Except Stop State
  | .error (.trap c _) => .error (.trap c (s.instrValue i))
  | r => r

theorem bind_aligned (ea n : Nat) (r : Except Stop State) :
    (do aligned ea n; let t ← r; pure ({ s := t } : Done)) = (whenAligned ea n r).map fun t => { s := t } := by
  unfold aligned whenAligned
  split
  · cases r <;> rfl
  · rfl

/-- The body of a scalar near load (R224). -/
theorem loadNear_eq (window : Bool) (d a : Reg) (z : BitVec 3) (o : BitVec 11) (s : State) :
    loadNear window d a z o s = (whenAligned (eaOf (s.s a) o z) (sizeOf z)
      (s.nearResult (if window then s.windowPlace (eaOf (s.s a) o z) else s.localPlace (eaOf (s.s a) o z)) (eaOf (s.s a) o z)
        (.load z) d)).map fun t => { s := t } :=
  bind_aligned ..

/-- The body of a scalar near store (R225). -/
theorem storeNear_eq (window : Bool) (d a : Reg) (z : BitVec 3) (o : BitVec 11) (s : State) :
    storeNear window d a z o s = (whenAligned (eaOf (s.s a) o z) (sizeOf z)
      (s.nearStore (if window then s.windowPlace (eaOf (s.s a) o z) else s.localPlace (eaOf (s.s a) o z)) (eaOf (s.s a) o z)
        (.store (sizeOf z) ((s.s d).toNat % 2 ^ (8 * sizeOf z))))).map fun t => { s := t } :=
  bind_aligned ..

/-- A 16-bit instruction is its own value for a trap. -/
theorem State.instrValue_compact {s : State} {i : Instr} (hw : width i = 1) (hv : valueS0 i < 2 ^ 16 - 2) :
    s.instrValue i = BitVec.ofNat 64 (value i s.now.sw % 2 ^ 16) := by
  have short : value i s.now.sw < 2 ^ 16 := by
    have := Bool.toNat_le s.now.sw
    unfold value
    omega
  rw [Nat.mod_eq_of_lt short, State.instrValue, hw]
  rfl

theorem compactTrap_eq {i : Instr} {s : State} {body : Body} {r : Except Stop State} (hw : width i = 1)
    (hv : valueS0 i < 2 ^ 16 - 2) (hb : body s = r.map fun t => { s := t }) :
    compactTrap i body s = (s.compacted i r).map fun t => { s := t } := by
  unfold compactTrap
  rw [hb]
  match r with
  | .ok t => rfl
  | .error (.trap c v) => rw [State.compacted, State.instrValue_compact hw hv]; rfl
  | .error (.wait t) => rfl
  | .error .hold => rfl

/-! ### The six forms -/

section
variable (d a : Reg) (z : BitVec 3) (o : BitVec 11) (s : State)

theorem issues_ldl : Issues (.ldl d a z o) s (whenAligned (s.address a z o) (2 ^ (z.toNat / 2))
    (s.nearResult (s.localPlace (s.address a z o)) (s.address a z o) (.load z) d)) :=
  ⟨loadNear false d a z o, exec_ldl .., loadNear_eq ..⟩

theorem issues_ldc : Issues (.ldc d a z o) s (whenAligned (s.address a z o) (2 ^ (z.toNat / 2))
    (s.nearResult (s.windowPlace (s.address a z o)) (s.address a z o) (.load z) d)) :=
  ⟨loadNear true d a z o, exec_ldc .., loadNear_eq ..⟩

theorem issues_stl : Issues (.stl d a z o) s (whenAligned (s.address a z o) (2 ^ (z.toNat / 2))
    (s.nearStore (s.localPlace (s.address a z o)) (s.address a z o)
      (.store (2 ^ (z.toNat / 2)) ((s.s d).toNat % 2 ^ (8 * 2 ^ (z.toNat / 2)))))) :=
  ⟨storeNear false d a z o, exec_stl .., storeNear_eq ..⟩

theorem issues_stc : Issues (.stc d a z o) s (whenAligned (s.address a z o) (2 ^ (z.toNat / 2))
    (s.nearStore (s.windowPlace (s.address a z o)) (s.address a z o)
      (.store (2 ^ (z.toNat / 2)) ((s.s d).toNat % 2 ^ (8 * 2 ^ (z.toNat / 2)))))) :=
  ⟨storeNear true d a z o, exec_stc .., storeNear_eq ..⟩

theorem issues_cLdl : Issues (.cLdl d a) s (s.compacted (.cLdl d a) (whenAligned (s.s a).toNat 8
    (s.nearResult (s.localPlace (s.s a).toNat) (s.s a).toNat (.load 6) d))) :=
  ⟨_, exec_cLdl .., compactTrap_eq rfl
    (show 48 + 64 * d.val + 2048 * a.val < 2 ^ 16 - 2 by omega)
    (by have h := loadNear_eq false d a 6 0 s; rw [eaOf_zero] at h; exact h)⟩

theorem issues_cStl : Issues (.cStl d a) s (s.compacted (.cStl d a) (whenAligned (s.s a).toNat 8
    (s.nearStore (s.localPlace (s.s a).toNat) (s.s a).toNat (.store 8 ((s.s d).toNat % 2 ^ (8 * 8)))))) :=
  ⟨_, exec_cStl .., compactTrap_eq rfl
    (show 52 + 64 * d.val + 2048 * a.val < 2 ^ 16 - 2 by omega)
    (by have h := storeNear_eq false d a 6 0 s; rw [eaOf_zero] at h; exact h)⟩

end

/-! ### What the access answers -/

theorem State.LocalReady.localPlace {s : State} {a n : Nat} (h : s.LocalReady a n) (hn : 0 < n) :
    s.localPlace a = some (.pad s.now.cell (s.localAddr s.now.cell s.cur a)) := by
  have first : s.localOk s.now.cell s.cur a 1 = true := by
    have hr := h.inRows
    simp only [State.localOk, Bool.or_eq_true, beq_iff_eq, Bool.and_eq_true, decide_eq_true_eq] at hr ⊢
    have : (a + 1 - 1) / 128 ≤ (a + n - 1) / 128 := Nat.div_le_div_right (by omega)
    omega
  exact if_pos first

theorem State.LocalReady.rowsFree {s : State} {a n : Nat} (h : s.LocalReady a n) (x : Nat) :
    s.rowsHeld (.pad s.now.cell x) = false :=
  congrArg Option.isSome h.running

/-- What a load from rows that can be read now leaves: its bytes in s[D], or where `late` says so itself on its way
(R217, R223, log 16). -/
def State.loadedFrom (s : State) (c x ea : Nat) (z : BitVec 3) (d : Reg) : State :=
  if s.late.headD false then
    s.timed.launched (s.lockedTo ea (.pad c x) (.load z) d (some (loaded z (s.padRead c x (2 ^ (z.toNat / 2)))).toNat))
  else s.timed.setS d (loaded z (s.padRead c x (2 ^ (z.toNat / 2))))

theorem State.nearResult_load {s : State} {c x : Nat} (ea : Nat) (z : BitVec 3) (d : Reg) (hb : s.homeBusy (.pad c x) = false)
    (hr : s.rowsHeld (.pad c x) = false) (hg : s.placeBad (.pad c x) = false) :
    s.nearResult (some (.pad c x)) ea (.load z) d = .ok (s.loadedFrom c x ea z d) := by
  have hl : s.nearLoad (some (.pad c x)) ea true (.load z) =
      .ok (s, (loaded z (s.padRead c x (2 ^ (z.toNat / 2)))).toNat, 0, true) := by
    rw [← extend_eq_loaded]
    simp only [State.nearLoad, hb, hr, hg]
    rfl
  unfold State.nearResult State.loadedFrom
  rw [hl]
  cases s.late.headD false
  · simp only [bind, Except.bind, pure, Except.pure, BitVec.ofNat_toNat, BitVec.setWidth_eq]
    rfl
  · rfl

theorem State.nearResult_outside (s : State) (ea : Nat) (op : AccOp) (d : Reg) :
    s.nearResult none ea op d = .error (.trap causeLocalrange (BitVec.ofNat 64 ea)) := rfl

theorem State.nearStore_outside (s : State) (ea : Nat) (op : AccOp) :
    s.nearStore none ea op = .error (.trap causeLocalrange (BitVec.ofNat 64 ea)) := rfl

/-- A load of a bad line traps CHECK (R203). -/
theorem State.nearResult_bad {s : State} {c x : Nat} (ea : Nat) (z : BitVec 3) (d : Reg) (hb : s.homeBusy (.pad c x) = false)
    (hr : s.rowsHeld (.pad c x) = false) (hg : s.placeBad (.pad c x) = true) :
    s.nearResult (some (.pad c x)) ea (.load z) d = .error (.trap causeCheck (BitVec.ofNat 64 ea)) := by
  have hl : s.nearLoad (some (.pad c x)) ea true (.load z) = .error (.trap causeCheck (BitVec.ofNat 64 ea)) := by
    simp only [State.nearLoad, hb, hr, hg]
    rfl
  unfold State.nearResult
  rw [hl]
  rfl

/-- The executing cell's own rows take `n` bytes of `v` now. -/
def State.storedAt (s : State) (c x n v : Nat) : State :=
  { s.timed with pad := Memory.writeMasked s.pad (padKey c x) (2 ^ n - 1) n v, badPad := healed s.badPad (padKey c x) n }

theorem State.nearStore_here {s : State} {c x n : Nat} (ea v : Nat) (hc : c = s.now.cell) (hb : s.homeBusy (.pad c x) = false)
    (hl : s.late.headD false = false) (hw : s.wordTaken (.pad c x) n = false) :
    s.nearStore (some (.pad c x)) ea (.store n v) = .ok (s.storedAt c x n v) := by
  have now : (decide (c = s.now.cell) && !s.homeBusy (.pad c x) && !s.late.headD false && !s.wordTaken (.pad c x) n) = true := by
    rw [hb, hl, hw, decide_eq_true hc]
    rfl
  exact if_pos now

/-- A store that cannot be made now leaves the cell as an access (R223, R225, logs 9 and 13). -/
theorem State.nearStore_leaves {s : State} {c x n : Nat} (ea v : Nat)
    (h : c ≠ s.now.cell ∨ s.homeBusy (.pad c x) = true ∨ s.late.headD false = true ∨ s.wordTaken (.pad c x) n = true)
    (hs : s.storesOut < 32) :
    s.nearStore (some (.pad c x)) ea (.store n v) =
      .ok (s.timed.launched { s.owing (.store n v) .none with va := ea, place := .pad c x }) := by
  have later : ¬ (decide (c = s.now.cell) && !s.homeBusy (.pad c x) && !s.late.headD false && !s.wordTaken (.pad c x) n) = true := by
    simp only [Bool.and_eq_true, decide_eq_true_eq, Bool.not_eq_true']
    rintro ⟨⟨⟨hc, hb⟩, hl⟩, hw⟩
    rw [hb, hl, hw] at h
    exact absurd hc (by simpa using h)
  have room : ¬ (decide (32 ≤ s.storesOut) && !s.ownRows (.pad c x)) = true := by
    simp [Nat.not_le.mpr hs]
  exact (if_neg later).trans (if_neg room)

/-! ### The bytes a store leaves -/

theorem Stored.of_mod {m m' : List Host.Cell} {key n x : Nat} (h : Stored m m' key n (x % 2 ^ (8 * n))) : Stored m m' key n x := by
  refine ⟨fun j hj => ?_, h.2⟩
  rw [h.1 j hj, ← ofNat8_mod, ← ofNat8_mod (x / 256 ^ j),
    show 2 ^ (8 * n) = 256 ^ j * (256 * 256 ^ (n - j - 1)) by
      rw [← Nat.pow_succ', ← Nat.pow_add, Nat.pow_mul]; congr 1; omega,
    Nat.mod_mul_right_div_self, Nat.mod_mul_right_mod]

theorem State.storedAt_stored {s : State} (c x n v : Nat) (h : s.MemoryOk) :
    Stored s.pad (s.storedAt c x n (v % 2 ^ (8 * n))).pad (padKey c x) n v :=
  (Memory.stored_writeMasked _ _ _ _ h.2 fun j hj => by simpa [Nat.testBit_two_pow_sub_one] using hj).of_mod

end Sys2Proof.Machine
end

section
/-! SUPPORT. How near loads and stores run, and what they trap on (R203, R222-R225). -/
namespace Sys2Proof.Machine

theorem loaded_word (x : Nat) : loaded 6 x = BitVec.ofNat 64 x := BitVec.signExtend_eq _

/-- A load from rows that can be read now writes s[D], or goes on its way. -/
theorem Issues.loads {i : Instr} {s : State} {c x ea : Nat} {z : BitVec 3} {d : Reg}
    (h : Issues i s (.ok (s.loadedFrom c x ea z d))) (hx : Executes i s) :
    let v := loaded z (s.padRead c x (2 ^ (z.toNat / 2)))
    (s.late.headD false = false → Runs i s (s.timed.setS d v)) ∧
    (s.late.headD false = true → Runs i s (s.timed.launched (s.lockedTo ea (.pad c x) (.load z) d (some v.toNat)))) := by
  unfold State.loadedFrom at h
  constructor <;> intro hl <;> rw [hl] at h
  · exact Issues.runs h hx (s.timed.cur_setS_stepping d _)
  · exact Issues.runs h hx rfl

section
variable {i : Instr} {s : State} {ea n : Nat} {p : Option Place}

theorem Issues.misaligned {r : Except Stop State} (h : Issues i s (whenAligned ea n r)) (hx : Executes i s) (ha : ea % n ≠ 0) :
    Traps i s causeMisalign (BitVec.ofNat 64 ea) := by
  rw [whenAligned_of_misaligned ha] at h
  exact h.traps hx

theorem Issues.load_traps {z : BitVec 3} {d : Reg} (h : Issues i s (whenAligned ea n (s.nearResult p ea (.load z) d)))
    (hx : Executes i s) (ha : ea % n = 0) :
    (p = none → Traps i s causeLocalrange (BitVec.ofNat 64 ea)) ∧
    ∀ c x, p = some (.pad c x) → s.homeBusy (.pad c x) = false → s.rowsHeld (.pad c x) = false → s.placeBad (.pad c x) = true →
      Traps i s causeCheck (BitVec.ofNat 64 ea) := by
  rw [whenAligned_of_aligned ha] at h
  constructor
  · rintro rfl
    exact Issues.traps h hx
  · rintro c x rfl hb hr hg
    rw [State.nearResult_bad ea z d hb hr hg] at h
    exact h.traps hx

theorem Issues.store_traps {op : AccOp} (h : Issues i s (whenAligned ea n (s.nearStore p ea op)))
    (hx : Executes i s) (ha : ea % n = 0) (hp : p = none) : Traps i s causeLocalrange (BitVec.ofNat 64 ea) := by
  rw [whenAligned_of_aligned ha, hp] at h
  exact h.traps hx

end

/-- A compact form traps where its equivalent does, with its 16 bits for the value (R78). -/
theorem Issues.compact_traps {i : Instr} {s : State} {ea n : Nat} {p : Option Place} {access : Option Place → Except Stop State}
    (h : Issues i s (s.compacted i (whenAligned ea n (access p)))) (hx : Executes i s)
    (hout : access none = .error (.trap causeLocalrange (BitVec.ofNat 64 ea))) :
    (ea % n ≠ 0 → Traps i s causeMisalign (s.instrValue i)) ∧
    (ea % n = 0 → p = none → Traps i s causeLocalrange (s.instrValue i)) := by
  constructor
  · intro ha
    rw [whenAligned_of_misaligned ha] at h
    exact Issues.traps h hx
  · intro ha hp
    rw [whenAligned_of_aligned ha, hp, hout] at h
    exact Issues.traps h hx

/-- Each of the three stores issues with the state that its access answers. -/
theorem issues_store (d a : Reg) (z : BitVec 3) (o : BitVec 11) (s : State) :
    let ea := s.address a z o; let n := 2 ^ (z.toNat / 2)
    ∀ p ∈ [(Instr.stl d a z o, ea, n, s.localPlace ea), (.stc d a z o, ea, n, s.windowPlace ea),
      (.cStl d a, (s.s a).toNat, 8, s.localPlace (s.s a).toNat)], p.2.1 % p.2.2.1 = 0 →
    ∀ t, s.nearStore p.2.2.2 p.2.1 (.store p.2.2.1 ((s.s d).toNat % 2 ^ (8 * p.2.2.1))) = .ok t → Issues p.1 s (.ok t) := by
  intro ea n p hp ha t ht
  simp only [List.mem_cons, List.not_mem_nil, or_false] at hp
  obtain rfl | rfl | rfl := hp
  · have form := issues_stl d a z o s
    rw [whenAligned_of_aligned ha, ht] at form
    exact form
  · have form := issues_stc d a z o s
    rw [whenAligned_of_aligned ha, ht] at form
    exact form
  · have form := issues_cStl d a s
    rw [whenAligned_of_aligned ha, ht] at form
    exact form

end Sys2Proof.Machine
end

section
open Sys2Proof Sys2Proof.Machine

/-- Settles O22: each form issues one load from rows that can be read now, and `late` says which of the two it does. -/
theorem nearLoads : Obligations.NearLoads := by
  unfold Obligations.NearLoads
  intro d a z o s ea n loads
  refine ⟨fun hx ha hr => ?_, fun hx ha hr => ?_, fun c x hx ha hp hb hr hg => ?_⟩
  · have form := issues_ldl d a z o s
    rw [whenAligned_of_aligned ha, hr.localPlace (Nat.two_pow_pos _),
      State.nearResult_load _ z d hr.quiet (hr.rowsFree _) hr.good] at form
    exact form.loads hx
  · have form := issues_cLdl d a s
    rw [whenAligned_of_aligned ha, hr.localPlace (by decide),
      State.nearResult_load _ 6 d hr.quiet (hr.rowsFree _) hr.good] at form
    have runs := Issues.loads form hx
    rw [loaded_word] at runs
    exact runs
  · have form := issues_ldc d a z o s
    rw [whenAligned_of_aligned ha, hp, State.nearResult_load _ z d hb hr hg] at form
    exact form.loads hx

/-- Settles O23: where each form traps, and what its store leaves, at once or as an access. -/
theorem nearStoresAndTraps : Obligations.NearStoresAndTraps := by
  unfold Obligations.NearStoresAndTraps
  refine ⟨fun d a z o s => ?_, fun d a s => ?_, fun d a z o s => ?_⟩
  · intro ea n i hi hx place
    simp only [List.mem_cons, List.not_mem_nil, or_false] at hi
    obtain rfl | rfl | rfl | rfl := hi
    · rw [show place = s.localPlace ea from if_pos (.inl rfl)]
      have form := issues_ldl d a z o s
      exact ⟨form.misaligned hx, fun ha => (form.load_traps hx ha).1, fun c x ha hp hb hr hg _ => (form.load_traps hx ha).2 c x hp hb hr hg⟩
    · rw [show place = s.localPlace ea from if_pos (.inr rfl)]
      have form := issues_stl d a z o s
      exact ⟨form.misaligned hx, form.store_traps hx, fun c x _ _ _ _ _ hi => by simp at hi⟩
    · rw [show place = s.windowPlace ea from if_neg (by simp)]
      have form := issues_ldc d a z o s
      exact ⟨form.misaligned hx, fun ha => (form.load_traps hx ha).1, fun c x ha hp hb hr hg _ => (form.load_traps hx ha).2 c x hp hb hr hg⟩
    · rw [show place = s.windowPlace ea from if_neg (by simp)]
      have form := issues_stc d a z o s
      exact ⟨form.misaligned hx, form.store_traps hx, fun c x _ _ _ _ _ hi => by simp at hi⟩
  · intro ea i hi hx
    simp only [List.mem_cons, List.not_mem_nil, or_false] at hi
    obtain rfl | rfl := hi
    · exact Issues.compact_traps (access := fun p => s.nearResult p ea (.load 6) d) (issues_cLdl d a s) hx rfl
    · exact Issues.compact_traps (access := fun p => s.nearStore p ea (.store 8 ((s.s d).toNat % 2 ^ (8 * 8)))) (issues_cStl d a s) hx rfl
  · intro ea n p hp hx ha c x hplace
    have form := issues_store d a z o s p hp ha
    rw [hplace] at form
    constructor
    · intro hm hc hb hl hw
      exact ⟨_, (form _ (State.nearStore_here _ _ hc hb hl hw)).runs hx rfl, rfl, State.storedAt_stored c x _ _ hm⟩
    · intro hleaves hs
      exact ⟨_, (form _ (State.nearStore_leaves _ _ hleaves hs)).runs hx rfl, rfl, rfl⟩

end

section
/-! SUPPORT. Scalar forms that write one register, and the values of the arithmetic forms (R90-R97). -/
namespace Sys2Proof.Machine

/-! ### One register result -/

/-- A form whose body writes one register runs in sequence, with that result. -/
theorem runs_of_writes {i : Instr} {s : State} {d : Reg} {f : State → Word} {w : Word} (he : exec i s = issue i s (writes d f))
    (hw : f s = w) (hx : Executes i s) : Runs i s (s.setS d w) :=
  Issues.runs ⟨_, he, by rw [← hw]; rfl⟩ hx (s.cur_setS_stepping d w)

theorem ofBool_decide (p : Prop) [Decidable p] : ofBool (decide p) = if p then 1 else 0 := by
  simp [ofBool]

theorem smax_eq (a b : Word) : smax a b = if a.toInt ≤ b.toInt then b else a := by
  obtain h | h | h := Int.lt_trichotomy a.toInt b.toInt
  · rw [smax, if_neg (by omega), if_pos (by omega)]
  · rw [BitVec.eq_of_toInt_eq h, smax]
  · rw [smax, if_pos (by omega), if_neg (by omega)]

theorem umax_eq (a b : Word) : umax a b = if a.toNat ≤ b.toNat then b else a := by
  obtain h | h | h := Nat.lt_trichotomy a.toNat b.toNat
  · rw [umax, if_neg (by omega), if_pos (by omega)]
  · rw [BitVec.eq_of_toNat_eq h, umax]
  · rw [umax, if_pos (by omega), if_neg (by omega)]

/-! ### One quarter of a word (R94) -/

theorem getLsbD_putQuarter (w : Word) (h : BitVec 16) {q j i : Nat} (hj : j < 4) (hi : i < 16) :
    (putQuarter w q h).getLsbD (16 * j + i) = if j = q then h.getLsbD i else w.getLsbD (16 * j + i) := by
  have mask : ∀ n, (0xFFFF : Word).getLsbD n = decide (n < 16) := fun n => by
    rw [show (0xFFFF : Word) = BitVec.ofNat 64 (2 ^ 16 - 1) from rfl, BitVec.getLsbD_ofNat, Nat.testBit_two_pow_sub_one]
    exact Bool.eq_iff_iff.mpr (by simp; omega)
  have hm : 16 * j + i < 64 := by omega
  simp only [putQuarter, BitVec.getLsbD_or, BitVec.getLsbD_and, BitVec.getLsbD_not, BitVec.getLsbD_shiftLeft, mask,
    BitVec.zeroExtend, BitVec.getLsbD_setWidth, hm, decide_true, Bool.true_and]
  obtain hlt | rfl | hgt := Nat.lt_trichotomy j q
  · have below : 16 * j + i < 16 * q := by omega
    simp [below, Nat.ne_of_lt hlt]
  · simp [hi, Nat.lt_of_lt_of_le hi]
  · have above : ¬ 16 * j + i < 16 * q := by omega
    have past : 16 ≤ 16 * j + i - 16 * q := by omega
    simp [above, past, Nat.ne_of_gt hgt, Nat.not_lt.mpr past]

theorem extractLsb'_putQuarter (w : Word) (h : BitVec 16) {q j : Nat} (hj : j < 4) :
    (putQuarter w q h).extractLsb' (16 * j) 16 = if j = q then h else w.extractLsb' (16 * j) 16 := by
  refine BitVec.eq_of_getLsbD_eq fun i hi => ?_
  rw [BitVec.getLsbD_extractLsb', getLsbD_putQuarter w h hj hi]
  split
  · simp [hi]
  · rw [BitVec.getLsbD_extractLsb']

/-! ### Division (R95) -/

/-- The one quotient that does not fit wraps round to the dividend, so `divS` needs no case for it. -/
theorem divS_eq (a b : Word) : divS a b = if b = 0 then BitVec.allOnes 64 else BitVec.ofInt 64 (a.toInt.tdiv b.toInt) := by
  unfold divS
  split
  · rfl
  · split
    · next h =>
      obtain ⟨ha, hb⟩ := h
      have : a = BitVec.ofInt 64 (-(2 ^ 63)) := by rw [← ha, BitVec.ofInt_toInt]
      rw [ha, hb, this]
      decide
    · rfl

theorem remS_eq (a b : Word) : remS a b = if b = 0 then a else BitVec.ofInt 64 (a.toInt - b.toInt * a.toInt.tdiv b.toInt) := by
  unfold remS
  split
  · rfl
  · split
    · next h =>
      obtain ⟨ha, hb⟩ := h
      rw [ha, hb]
      decide
    · rfl

theorem mul_eq_ofInt (a b : Word) : a * b = BitVec.ofInt 64 (a.toInt * b.toInt) := by
  rw [BitVec.ofInt_mul, BitVec.ofInt_toInt, BitVec.ofInt_toInt]

/-! ### Bits of a word (R96) -/

theorem leadingZeros_spec (x n : Nat) : leadingZeros x n ≤ n ∧ (∀ j, j < leadingZeros x n → x.testBit (n - 1 - j) = false) ∧
    (leadingZeros x n < n → x.testBit (n - 1 - leadingZeros x n) = true) := by
  induction n with
  | zero => simp [leadingZeros]
  | succ n ih =>
    obtain ⟨hle, hzero, hone⟩ := ih
    unfold leadingZeros
    split
    · next h => simp [Nat.testBit_eq_decide_div_mod_eq, h]
    · next h =>
      refine ⟨by omega, fun j hj => ?_, fun hlt => ?_⟩
      · cases j with
        | zero => simpa [Nat.testBit_eq_decide_div_mod_eq] using h
        | succ j =>
          rw [show n + 1 - 1 - (j + 1) = n - 1 - j by omega]
          exact hzero j (by omega)
      · rw [show n + 1 - 1 - (1 + leadingZeros x n) = n - 1 - leadingZeros x n by omega]
        exact hone (by omega)

theorem trailingZeros_spec (x n : Nat) : trailingZeros x n ≤ n ∧ (∀ j, j < trailingZeros x n → x.testBit j = false) ∧
    (trailingZeros x n < n → x.testBit (trailingZeros x n) = true) := by
  induction n generalizing x with
  | zero => simp [trailingZeros]
  | succ n ih =>
    obtain ⟨hle, hzero, hone⟩ := ih (x / 2)
    unfold trailingZeros
    split
    · next h => simp [Nat.testBit_zero, h]
    · next h =>
      refine ⟨by omega, fun j hj => ?_, fun hlt => ?_⟩
      · cases j with
        | zero => simpa [Nat.testBit_zero] using h
        | succ j => rw [Nat.testBit_succ]; exact hzero j (by omega)
      · rw [Nat.add_comm, Nat.testBit_succ]
        exact hone (by omega)

theorem popCount_eq (x n : Nat) : popCount x n = ((List.range n).filter x.testBit).length := by
  induction n generalizing x with
  | zero => rfl
  | succ n ih =>
    have tail : (x.testBit ∘ Nat.succ) = (x / 2).testBit := funext fun j => Nat.testBit_succ x j
    rw [popCount, ih, List.range_succ_eq_map, List.filter_cons, List.filter_map, tail, Nat.testBit_zero]
    obtain h | h := Nat.mod_two_eq_zero_or_one x
    · simp [h]
    · simp [h]; omega

theorem reverseDigits_lt {base : Nat} (hb : 0 < base) (x n : Nat) : reverseDigits base x n < base ^ n := by
  induction n generalizing x with
  | zero => simp [reverseDigits]
  | succ n ih =>
    have hd : x % base + 1 ≤ base := Nat.mod_lt x hb
    calc reverseDigits base x (n + 1) = x % base * base ^ n + reverseDigits base (x / base) n := rfl
      _ < (x % base + 1) * base ^ n := by rw [Nat.add_one_mul]; exact Nat.add_lt_add_left (ih _) _
      _ ≤ base * base ^ n := Nat.mul_le_mul_right _ hd
      _ = base ^ (n + 1) := (Nat.pow_succ').symm

/-- Digit `k` of the reversal is digit `n - 1 - k` of the number. -/
theorem digit_reverseDigits {base : Nat} (hb : 0 < base) (x : Nat) {n k : Nat} (hk : k < n) :
    reverseDigits base x n / base ^ k % base = x / base ^ (n - 1 - k) % base := by
  induction n generalizing x with
  | zero => omega
  | succ n ih =>
    rw [reverseDigits]
    obtain h | h := Nat.lt_or_eq_of_le (Nat.le_of_lt_succ hk)
    · have split : base ^ n = base ^ k * (base * base ^ (n - k - 1)) := by
        rw [← Nat.pow_succ', ← Nat.pow_add]; congr 1; omega
      rw [split, Nat.mul_left_comm, Nat.mul_add_div (Nat.pow_pos hb), Nat.mul_left_comm, Nat.mul_add_mod, ih _ h, Nat.div_div_eq_div_mul,
        ← Nat.pow_succ', Nat.succ_eq_add_one, show n - 1 - k + 1 = n + 1 - 1 - k by omega]
    · subst h
      rw [Nat.mul_comm, Nat.mul_add_div (Nat.pow_pos hb), Nat.div_eq_of_lt (reverseDigits_lt hb _ _)]
      simp

theorem extractLsb'_bswap (x : Word) {k : Nat} (hk : k < 8) : (bswap x).extractLsb' (8 * k) 8 = x.extractLsb' (8 * (7 - k)) 8 := by
  have lt := reverseDigits_lt (base := 256) (by decide) x.toNat 8
  have digit := digit_reverseDigits (base := 256) (by decide) x.toNat hk
  have pow : ∀ j, 256 ^ j = 2 ^ (8 * j) := fun j => (Nat.pow_mul 2 8 j).symm
  rw [pow] at lt
  rw [pow, pow, show 8 - 1 - k = 7 - k by omega] at digit
  refine BitVec.eq_of_toNat_eq ?_
  rw [bswap, BitVec.extractLsb'_toNat, BitVec.extractLsb'_toNat, BitVec.toNat_ofNat, Nat.mod_eq_of_lt lt, Nat.shiftRight_eq_div_pow,
    Nat.shiftRight_eq_div_pow]
  exact digit

theorem getLsbD_brev (x : Word) {k : Nat} (hk : k < 64) : (brev x).getLsbD k = x.getLsbD (63 - k) := by
  have lt := reverseDigits_lt (base := 2) (by decide) x.toNat 64
  have digit := digit_reverseDigits (base := 2) (by decide) x.toNat hk
  rw [brev, BitVec.getLsbD_ofNat, decide_eq_true hk, Bool.true_and, Nat.testBit_eq_decide_div_mod_eq, digit]
  exact (Nat.testBit_eq_decide_div_mod_eq).symm

/-! ### The draw of RAND (R97) -/

@[simp] theorem Ctx.setS_srctr (x : Ctx) (d : Reg) (w : Word) : (x.setS d w).srctr = x.srctr := by
  unfold Ctx.setS; split <;> rfl

/-- A write of s0 is the same whatever it writes (R70). -/
theorem State.setS_readable (s : State) (d : Reg) (w : Word) : s.setS d (if d = 0 then 0 else w) = s.setS d w := by
  split
  · next h => subst h; rfl
  · rfl

/-- The state after a draw: s[D] written and SRCTR advanced. -/
def State.drawn (s : State) (d : Reg) : State := (s.setS d (mix s.cur.randKey s.cur.srctr)).advance 1

theorem rand_runs {s : State} {d : Reg} (hx : Executes (.rand d) s) : Runs (.rand d) s (s.drawn d) :=
  Issues.runs ⟨randBody d, exec_rand d s, rfl⟩ hx (by rw [State.drawn, State.advance, State.cur_modCur]; exact s.cur_setS_stepping d _)

theorem State.s_drawn (s : State) (d : Reg) : (s.drawn d).s d = if d = 0 then 0 else mix s.cur.randKey s.cur.srctr := by
  have hs : (s.drawn d).s d = (s.setS d (mix s.cur.randKey s.cur.srctr)).cur.getS d := by
    rw [State.s, State.drawn, State.advance, State.cur_modCur]; rfl
  rw [hs, State.setS_cur, Ctx.getS_setS]
  by_cases h : d = 0
  · subst h; simp
  · simp [h]

theorem State.drawn_eq (s : State) (d : Reg) :
    s.drawn d = (s.setS d ((s.drawn d).s d)).modCur fun x => { x with srctr := s.cur.srctr + 1 } := by
  rw [State.s_drawn, State.setS_readable]
  rw [State.drawn, State.advance]
  refine State.modCur_congr ?_
  rw [State.setS_cur, Ctx.setS_srctr]
  rfl

end Sys2Proof.Machine
end

section
open Sys2Proof Sys2Proof.Machine

/-- Settles O6: each word is decoded. -/
theorem decodeWords : Obligations.DecodeWords := by
  unfold Obligations.DecodeWords
  decide

/-- Settles O10: every operation writes its one result. -/
theorem aluResults : Obligations.AluResults := by
  unfold Obligations.AluResults
  intro d a b s x y
  simp only [List.forall_mem_cons, List.not_mem_nil, false_implies, implies_true, and_true]
  exact ⟨runs_of_writes (exec_add d a b s) rfl, runs_of_writes (exec_sub d a b s) rfl, runs_of_writes (exec_and d a b s) rfl,
    runs_of_writes (exec_or d a b s) rfl, runs_of_writes (exec_xor d a b s) rfl, runs_of_writes (exec_andn d a b s) rfl,
    runs_of_writes (exec_orn d a b s) rfl, runs_of_writes (exec_sll d a b s) rfl, runs_of_writes (exec_srl d a b s) rfl,
    runs_of_writes (exec_sra d a b s) rfl, runs_of_writes (exec_slt d a b s) (ofBool_decide _),
    runs_of_writes (exec_sltu d a b s) (ofBool_decide _), runs_of_writes (exec_min d a b s) rfl,
    runs_of_writes (exec_max d a b s) (smax_eq _ _), runs_of_writes (exec_minu d a b s) rfl, runs_of_writes (exec_maxu d a b s) (umax_eq _ _),
    runs_of_writes (exec_seq d a b s) (ofBool_decide _)⟩

/-- Settles O11: an immediate is an operand like a register; LIH replaces one quarter. -/
theorem immediateResults : Obligations.ImmediateResults := by
  unfold Obligations.ImmediateResults
  refine ⟨fun d a imm s => ?_, fun d a h s => ?_, fun d h q s hx => ?_⟩
  · simp only [List.forall_mem_cons, List.not_mem_nil, false_implies, implies_true, and_true]
    exact ⟨runs_of_writes (exec_addi d a imm s) rfl, runs_of_writes (exec_andi d a imm s) rfl,
      runs_of_writes (exec_ori d a imm s) rfl, runs_of_writes (exec_xori d a imm s) rfl,
      runs_of_writes (exec_slti d a imm s) (ofBool_decide _), runs_of_writes (exec_sltiu d a imm s) (ofBool_decide _)⟩
  · simp only [List.forall_mem_cons, List.not_mem_nil, false_implies, implies_true, and_true]
    exact ⟨runs_of_writes (exec_slli d a h s) rfl, runs_of_writes (exec_srli d a h s) rfl,
      runs_of_writes (exec_srai d a h s) rfl⟩
  · exact ⟨_, runs_of_writes (exec_lih d h q s) rfl hx, fun j hj => extractLsb'_putQuarter _ h hj⟩

/-- Settles O12: sign extension keeps the value of the immediate. -/
theorem liResult : Obligations.LiResult := by
  unfold Obligations.LiResult
  intro d imm s
  exact runs_of_writes (exec_li d imm s) rfl

/-- Settles O13: products and quotients as integers, the bit forms by the bits of their results, RAND by its draw. -/
theorem mulDivBitResults : Obligations.MulDivBitResults := by
  unfold Obligations.MulDivBitResults
  refine ⟨fun d a b s => ?_, fun d a b s => ⟨fun hx => ?_, fun hx => ?_, ?_, fun hx => ?_, fun hx => ?_, ?_, ?_, fun hx => ?_⟩⟩
  · simp only [List.forall_mem_cons, List.not_mem_nil, false_implies, implies_true, and_true]
    exact ⟨runs_of_writes (exec_mul d a b s) (mul_eq_ofInt _ _), runs_of_writes (exec_mulh d a b s) rfl,
      runs_of_writes (exec_mulhsu d a b s) rfl, runs_of_writes (exec_mulhu d a b s) rfl,
      runs_of_writes (exec_div d a b s) (divS_eq _ _), runs_of_writes (exec_divu d a b s) rfl,
      runs_of_writes (exec_rem d a b s) (remS_eq _ _), runs_of_writes (exec_remu d a b s) rfl⟩
  · obtain ⟨hle, hzero, hone⟩ := leadingZeros_spec (s.s a).toNat 64
    exact ⟨_, hle, runs_of_writes (exec_clz d a s) rfl hx, hzero, hone⟩
  · obtain ⟨hle, hzero, hone⟩ := trailingZeros_spec (s.s a).toNat 64
    exact ⟨_, hle, runs_of_writes (exec_ctz d a s) rfl hx, hzero, hone⟩
  · exact runs_of_writes (exec_popc d a s) (congrArg (BitVec.ofNat 64) (popCount_eq _ _))
  · exact ⟨_, runs_of_writes (exec_bswap d a s) rfl hx, fun k hk => extractLsb'_bswap _ hk⟩
  · exact ⟨_, runs_of_writes (exec_brev d a s) rfl hx, fun k hk => getLsbD_brev _ hk⟩
  · exact runs_of_writes (exec_rol d a b s) rfl
  · exact runs_of_writes (exec_ror d a b s) rfl
  · exact ⟨_, rand_runs hx, State.s_drawn s d, State.drawn_eq s d⟩
end

section
/-! SUPPORT. Transfers of control, hardware loops and FENCE (R98-R107, R215, R232). -/
namespace Sys2Proof.Machine

/-! ### Transfers of control (R98-R100) -/

theorem jumps_of_issue {i : Instr} {s x : State} {body : Body} {next : CodeAddr} (he : exec i s = issue i s body)
    (hb : body s = .ok { s := x, next := some next, transfer := true }) (hs : x.cur.stepping = s.cur.stepping)
    (hx : Executes i s) : Jumps i s x next := by
  obtain ⟨t, ht, hr⟩ := issue_jumps hx hb hs
  exact ⟨t, he.trans ht, hr⟩

/-- A branch transfers where its condition holds, and falls through elsewhere. -/
theorem branch_goes {i : Instr} {s : State} {a b : Reg} {o : BitVec 11} {taken : Word → Word → Bool} {c : Bool}
    (he : exec i s = issue i s (branch a b o taken)) (hc : taken (s.s a) (s.s b) = c) (hx : Executes i s) :
    if c = true then Jumps i s s (target s.cur.pc o) else Runs i s s := by
  split
  · next h => exact jumps_of_issue he (if_pos (hc.trans h)) rfl hx
  · next h => exact Issues.runs ⟨_, he, if_neg (fun ht => h (hc.symm.trans ht))⟩ hx rfl

/-! ### The loop depth and the back-edge (R103, R105) -/

theorem Ctx.depth_le (x : Ctx) : x.depth ≤ 3 := by
  unfold Ctx.depth
  repeat' split
  all_goals decide

theorem Ctx.backEdge_outside {x : Ctx} (h : x.depth = 0) (next : CodeAddr) : x.backEdge next = { x with pc := next } := by
  unfold Ctx.backEdge
  rw [h]

/-- Inside `j + 1` loops the innermost is loop `j`. -/
theorem Ctx.backEdge_inside {x : Ctx} {j : Fin 3} (h : x.depth = j.val + 1) (next : CodeAddr) :
    x.backEdge next = if next = x.le[j] then
      { x with lc := x.lc.set j.val (x.lc[j] - 1), pc := if x.lc[j] - 1 = 0 then next else x.ls[j] } else { x with pc := next } := by
  unfold Ctx.backEdge
  rw [h]
  simp only [Nat.mod_eq_of_lt j.isLt]
  rfl

/-! ### LOOP and LEXIT (R104, R106) -/

/-- LOOP's opening of loop `k`. -/
def Ctx.openLoop (x : Ctx) (k : Nat) (hk : k < 3) (le : CodeAddr) (n : Word) : Ctx :=
  { x with ls := x.ls.set k (x.pc + 2), le := x.le.set k le, lc := x.lc.set k n }

theorem loopBody_full {a : Reg} {imm : BitVec 14} {s : State} (h : s.cur.depth = 3) :
    loopBody a imm s = .error (.trap causeLoopnest (s.s a)) := if_pos h

theorem loopBody_open {a : Reg} {imm : BitVec 14} {s : State} (h : s.cur.depth < 3) :
    loopBody a imm s = .ok
      { s := s.modCur fun _ => s.cur.openLoop s.cur.depth h (target s.cur.pc imm) (s.s a)
        next := some (if s.s a = 0 then target s.cur.pc imm else s.cur.pc + 2) } := by
  have open' : (s.modCur fun x => x.openLoop (s.cur.depth % 3) (Nat.mod_lt _ (by decide)) (target s.cur.pc imm) (s.s a)) =
      s.modCur fun _ => s.cur.openLoop s.cur.depth h (target s.cur.pc imm) (s.s a) :=
    State.modCur_congr (by simp only [Nat.mod_eq_of_lt h])
  rw [← open']
  exact if_neg (Nat.ne_of_lt h)

theorem getElem_set_fin {α : Type} (v : Vector α 3) {k : Nat} (hk : k < 3) (x : α) (j : Fin 3) :
    (v.set k x)[j] = if j.val = k then x else v[j] := by
  simp only [Fin.getElem_fin, Vector.getElem_set, eq_comm (a := k)]

/-- LEXIT's end of the innermost active loop; outside every loop nothing changes. -/
def Ctx.exitLoop (x : Ctx) : Ctx :=
  match x.depth with
  | 0 => x
  | k + 1 => { x with lc := x.lc.set (k % 3) 0 (Nat.mod_lt _ (by decide)) }

theorem Ctx.exitLoop_lc (x : Ctx) (j : Fin 3) : x.exitLoop.lc[j] = if j.val + 1 = x.depth then 0 else x.lc[j] := by
  have le := x.depth_le
  unfold Ctx.exitLoop
  split
  · next h => rw [h, if_neg (by omega)]
  · next k h =>
    rw [h] at le ⊢
    rw [getElem_set_fin, Nat.mod_eq_of_lt (by omega)]
    simp

theorem Ctx.exitLoop_rest (x : Ctx) : x.exitLoop = { x with lc := x.exitLoop.lc } := by
  unfold Ctx.exitLoop
  split <;> rfl

@[simp] theorem Ctx.exitLoop_stepping (x : Ctx) : x.exitLoop.stepping = x.stepping := by
  rw [Ctx.exitLoop_rest]

/-- LOOP with a loop free goes on, by a back-edge check, at the body or past it. -/
theorem loop_opens {a : Reg} {imm : BitVec 14} {s : State} (hx : Executes (.loop a imm) s) (h : s.cur.depth < 3) :
    ∃ t, exec (.loop a imm) s = .next t ∧
      Retires (s.modCur fun _ => s.cur.openLoop s.cur.depth h (target s.cur.pc imm) (s.s a))
        (if s.s a = 0 then target s.cur.pc imm else s.cur.pc + 2) false t := by
  have unstepped : (s.modCur fun _ => s.cur.openLoop s.cur.depth h (target s.cur.pc imm) (s.s a)).cur.stepping = false := by
    rw [State.cur_modCur]
    exact hx.unstepped
  exact ⟨_, (exec_loop a imm s).trans (issue_ok (body := loopBody a imm) hx (loopBody_open h)),
    State.retire_retires { s := _, next := some _ } _ _ unstepped⟩

@[simp] theorem Cell.setCtx_ctx (c : Cell) (k : Nat) : c.setCtx k (c.ctx k) = c := by
  simp [Cell.setCtx, Cell.ctx]

/-- Writing the executing context back as it is changes no cell. -/
theorem State.cell_modCur_same (s : State) (n : Nat) : (s.modCur fun _ => s.cur).cell n = s.cell n := by
  unfold State.modCur State.modCtx State.setCtx
  rw [State.cell_modCell]
  split
  · next h => rw [h]; exact Cell.setCtx_ctx _ _
  · rfl

/-- A retirement is told by the cells that can be read, whatever the table that holds them. -/
theorem Retires.congr {x y t : State} {next : CodeAddr} {tr : Bool} (h : Retires x next tr t) (he : y = { x with cells := y.cells })
    (hc : ∀ n, y.cell n = x.cell n) : Retires y next tr t := by
  have hnow : y.now = x.now := by rw [he]
  have hctx : ∀ n k, y.ctx n k = x.ctx n k := fun n k => congrArg (·.ctx k) (hc n)
  have hcur : y.cur = x.cur := by rw [State.cur, State.cur, hnow, hctx]
  refine ⟨?_, fun n => ?_, fun n k => ?_, ?_, ?_, ?_⟩
  · rw [he]; exact h.machine
  · rw [hc]; exact h.cells n
  · rw [hnow, hctx]; exact h.others n k
  · rw [hnow, hcur]; exact h.context
  · rw [hcur]; exact h.window
  · rw [hcur]; exact h.flow

theorem lexit_runs {s : State} (hx : Executes .lexit s) : Runs .lexit s (s.modCur fun _ => s.cur.exitLoop) := by
  cases h : s.cur.depth with
  | zero =>
    have body : lexitBody s = .ok { s := s } := by unfold lexitBody; rw [h]
    obtain ⟨t, ht, hr⟩ := issue_runs hx body rfl
    have same : s.cur.exitLoop = s.cur := by unfold Ctx.exitLoop; rw [h]
    rw [same]
    exact ⟨t, (exec_lexit s).trans ht, hr.congr rfl s.cell_modCur_same⟩
  | succ k =>
    have body : lexitBody s = .ok { s := s.modCur fun _ => s.cur.exitLoop } := by
      unfold lexitBody Ctx.exitLoop
      rw [h]
      exact congrArg (fun u => (.ok { s := u } : Except Stop Done)) (State.modCur_congr rfl)
    exact Issues.runs ⟨lexitBody, exec_lexit s, body⟩ hx (by rw [State.cur_modCur, Ctx.exitLoop_stepping])

/-! ### FENCE (R119, R215, R232) -/

/-- The OR of a CANCEL (R119). -/
def AccOp.ofCancel : AccOp → Bool
  | .orBits .. => true
  | _ => false

/-- The homes that a scope covers (R215). -/
def coversPlace (dev t : Nat) (cancel : Bool) : Place → Bool
  | .pad .. | .away .. => true
  | .hbm _ | .host .. => t != 0
  | .remote d _ => t == 2 || (t == 1 && (d == dev || cancel))

/-- A FENCE covers an access by what it does and by where its home is, each by itself but for a CANCEL. -/
theorem covers_eq (dev t : Nat) (a : Access) : covers dev t a = (a.op.isAccess && coversPlace dev t a.op.ofCancel a.place) := by
  unfold covers
  cases a.op <;> cases a.place <;> rfl

/-- An instruction that a FENCE can hold back is held back by the accesses the FENCE waits for, when nothing else does (R217). -/
theorem State.heldBack_iff_fenced {s : State} {i : Instr} (hh : holdable i = true) (hi : s.interlocked i = false)
    (hm : s.cur.mixreads = []) (hp : s.waitsPhase s.now.cell s.now.ctx = false) :
    s.heldBack i = true ↔ ∃ f ∈ s.cur.fence, ∃ a ∈ s.inflight, a.id = f.2 ∧ covers s.devidx.toNat f.1 a = true := by
  simp only [State.heldBack, hh, hi, hm, hp, List.any_nil, Bool.false_or, Bool.or_false, Bool.true_and, Bool.or_eq_true,
    Bool.and_eq_true, List.any_eq_true, beq_iff_eq]
  exact or_iff_left_of_imp And.right

/-- A FENCE of scope `t` by the executing context waits for the access, or has it hold back what follows (R232). -/
def State.FenceWaits (s : State) (t : Nat) (a : Access) : Prop :=
  s.owns s.now.cell s.now.ctx a = true ∧ covers s.devidx.toNat t a = true

theorem State.mem_fenced {s : State} {t id : Nat} : id ∈ s.fenced t ↔
    ∃ a ∈ s.inflight, a.id = id ∧ s.FenceWaits t a := by
  simp only [State.fenced, List.mem_map, List.mem_filter, Bool.and_eq_true]
  exact exists_congr fun a => ⟨fun ⟨⟨ha, hw⟩, hid⟩ => ⟨ha, hid, hw⟩, fun ⟨ha, hid, hw⟩ => ⟨⟨ha, hw⟩, hid⟩⟩

/-- With nothing to wait for, the list of a FENCE's accesses is empty. -/
theorem State.fenced_isEmpty {s : State} {t : Nat} : (s.fenced t).isEmpty = true ↔
    ∀ a ∈ s.inflight, ¬ s.FenceWaits t a := by
  simp [State.fenced, State.FenceWaits]

/-- What holds back after a FENCE without S: its own accesses, and what earlier ones still wait for. -/
def State.heldAfter (s : State) (t : Nat) : List (Nat × Nat) :=
  s.cur.fence.filter (fun f => s.inflight.any (·.id == f.2)) ++ (s.fenced t).map fun id => (t, id)

theorem State.mem_heldAfter {s : State} {t scope id : Nat} : (scope, id) ∈ s.heldAfter t ↔
    ∃ a ∈ s.inflight, a.id = id ∧ (s.FenceWaits t a ∧ scope = t ∨ (scope, id) ∈ s.cur.fence) := by
  simp only [State.heldAfter, List.mem_append, List.mem_filter, List.any_eq_true, beq_iff_eq, List.mem_map, Prod.mk.injEq,
    State.mem_fenced]
  constructor
  · rintro (⟨hf, a, ha, hid⟩ | ⟨_, ⟨a, ha, hid, hw⟩, rfl, rfl⟩)
    · exact ⟨a, ha, hid, .inr hf⟩
    · exact ⟨a, ha, hid, .inl ⟨hw, rfl⟩⟩
  · rintro ⟨a, ha, hid, ⟨hw, rfl⟩ | hf⟩
    · exact .inr ⟨id, ⟨a, ha, hid, hw⟩, rfl, rfl⟩
    · exact .inl ⟨hf, a, ha, hid⟩

theorem fenceBody_marked_passes {s : State} {t : BitVec 4} (hs : s.now.sw = true)
    (hn : ∀ a ∈ s.inflight, ¬ s.FenceWaits t.toNat a) :
    fenceBody t s = .ok { s := s } :=
  (if_pos hs).trans (if_pos (State.fenced_isEmpty.mpr hn))

theorem fenceBody_marked_waits {s : State} {t : BitVec 4} (hs : s.now.sw = true)
    (hw : ∃ a ∈ s.inflight, s.FenceWaits t.toNat a) :
    fenceBody t s = .error .hold := by
  obtain ⟨a, ha, hw⟩ := hw
  exact (if_pos hs).trans (if_neg fun he => State.fenced_isEmpty.mp he a ha hw)

theorem fenceBody_unmarked {s : State} {t : BitVec 4} (hs : s.now.sw = false) :
    fenceBody t s = .ok { s := s.modCur fun x => { x with fence := s.heldAfter t.toNat } } := by
  have held : fenceBody t s = .ok { s := s.modCur fun x => { x with
      fence := x.fence.filter (fun f => s.inflight.any (·.id == f.2)) ++ (s.fenced t.toNat).map fun id => (t.toNat, id) } } :=
    if_neg (by rw [hs]; decide)
  rw [held]
  exact congrArg (fun u => (.ok { s := u } : Except Stop Done)) (State.modCur_congr rfl)

end Sys2Proof.Machine
end

section
open Sys2Proof Sys2Proof.Machine

/-- Settles O14: a branch by its condition; the link is written to the state whose registers gave the target. -/
theorem branchesAndJumps : Obligations.BranchesAndJumps := by
  unfold Obligations.BranchesAndJumps
  refine ⟨fun a b o s => ?_, fun d a o imm s => ⟨?_, ?_, ?_⟩⟩
  · simp only [List.forall_mem_cons, List.not_mem_nil, false_implies, implies_true, and_true]
    exact ⟨branch_goes (exec_beq a b o s) rfl, branch_goes (exec_bne a b o s) (by simp [bne, beq_eq_decide]),
      branch_goes (exec_blt a b o s) rfl, branch_goes (exec_bge a b o s) rfl, branch_goes (exec_bltu a b o s) rfl,
      branch_goes (exec_bgeu a b o s) rfl⟩
  · exact jumps_of_issue (exec_jmp o s) rfl rfl
  · exact jumps_of_issue (exec_call o s) rfl (s.cur_setS_stepping 1 _)
  · exact jumps_of_issue (exec_jreg d a imm s) rfl (s.cur_setS_stepping d _)

/-- Settles O15: LOOP by whether a loop is free; LEXIT changes one count. -/
theorem loopForms : Obligations.LoopForms := by
  unfold Obligations.LoopForms
  refine ⟨fun a imm s hx => ?_, fun s hx => ?_⟩
  · intro x n le
    split
    · next h => exact (exec_loop a imm s).trans (issue_trap (body := loopBody a imm) hx (loopBody_full h))
    · next h =>
      have free : s.cur.depth < 3 := Nat.lt_of_le_of_ne s.cur.depth_le h
      obtain ⟨t, ht, hr⟩ := loop_opens hx free
      exact ⟨t, ht, _, hr, rfl, fun j => ⟨getElem_set_fin _ free _ j, getElem_set_fin _ free _ j, getElem_set_fin _ free _ j⟩⟩
  · exact ⟨s.cur.exitLoop, lexit_runs hx, s.cur.exitLoop_rest, s.cur.exitLoop_lc⟩

/-- Settles O16: the depth count by count, the back-edge by the innermost loop. -/
theorem loopBackEdge : Obligations.LoopBackEdge := by
  unfold Obligations.LoopBackEdge
  refine ⟨fun x => ⟨fun h0 => if_pos h0, fun h0 h1 => ?_, fun h0 h1 h2 => ?_, fun h0 h1 h2 => ?_⟩,
    fun x next => ⟨fun h => x.backEdge_outside h next, fun j hj => ⟨fun hne => ?_, fun he => ?_⟩⟩⟩
  · rw [Ctx.depth, if_neg h0, if_pos h1]
  · rw [Ctx.depth, if_neg h0, if_neg h1, if_pos h2]
  · rw [Ctx.depth, if_neg h0, if_neg h1, if_neg h2]
  · rw [Ctx.backEdge_inside hj, if_neg hne]
  · rw [Ctx.backEdge_inside hj, if_pos he]
    simp only [sub_eq_zero]

/-- Settles O36: the table of scopes by operation and home; what is held back; FENCE with S and without. -/
theorem fenceForms : Obligations.FenceForms := by
  unfold Obligations.FenceForms
  refine ⟨fun dev t a ht => ?_, fun i s hh hi hm hp => State.heldBack_iff_fenced hh hi hm hp, fun t s hx => ?_⟩
  · rw [covers_eq, Bool.and_eq_true]
    refine and_congr ?_ ?_
    · cases a.op <;> simp [AccOp.isAccess]
    · cases a.place with
      | pad | away => simp [coversPlace]
      | hbm | host => simp [coversPlace]; omega
      | remote => cases a.op <;> simp [coversPlace, AccOp.ofCancel]
  · intro waits
    refine ⟨fun hs hn => ?_, fun hs hw => ?_, fun hs => ?_⟩
    · exact Issues.runs ⟨fenceBody t, exec_fence t s, fenceBody_marked_passes hs hn⟩ hx rfl
    · exact (exec_fence t s).trans (issue_hold hx (fenceBody_marked_waits hs hw))
    · exact ⟨_, Issues.runs ⟨fenceBody t, exec_fence t s, fenceBody_unmarked hs⟩ hx (s.cur_modCur_stepping _ fun _ => rfl),
        fun scope id => State.mem_heldAfter⟩
end

section
/-! SUPPORT. Exact values as rationals, the grid of a format, and what rounding to it gives (R125, R131, R132). -/
namespace Sys2Proof.Machine

/-! ### Magnitudes and dyadics as rationals -/

/-- The rational that a magnitude stands for. -/
noncomputable def Mag.val (x : Mag) : ℚ := x.num / x.den

theorem two_zpow_pos (e : ℤ) : (0 : ℚ) < 2 ^ e := zpow_pos (by norm_num) e

/-- A power of two with a non-negative exponent is a number. -/
theorem natCast_two_pow_toNat {e : ℤ} (h : 0 ≤ e) : ((2 ^ e.toNat : ℕ) : ℚ) = 2 ^ e := by
  rw [Nat.cast_pow, Nat.cast_ofNat, ← zpow_natCast, Int.toNat_of_nonneg h]

@[simp] theorem Mag.val_ofDyadic (m : ℕ) (e : ℤ) : (Mag.ofDyadic m e).val = m * 2 ^ e := by
  unfold Mag.ofDyadic Mag.val
  split
  · next h => rw [Nat.cast_mul, natCast_two_pow_toNat h, Nat.cast_one, div_one]
  · next h => rw [natCast_two_pow_toNat (by omega), zpow_neg, div_inv_eq_mul]

theorem Mag.den_ofDyadic_pos (m : ℕ) (e : ℤ) : 0 < (Mag.ofDyadic m e).den := by
  unfold Mag.ofDyadic
  split
  · exact Nat.one_pos
  · exact Nat.two_pow_pos _

theorem Mag.num_ofDyadic_ne_zero {m : ℕ} (h : m ≠ 0) (e : ℤ) : (Mag.ofDyadic m e).num ≠ 0 := by
  unfold Mag.ofDyadic
  split
  · exact Nat.mul_ne_zero h (Nat.two_pow_pos _).ne'
  · exact h

/-- The rational that a dyadic stands for. -/
noncomputable def Dyadic.val (x : Dyadic) : ℚ := x.z * 2 ^ x.e

theorem Dyadic.val_eq_zero {x : Dyadic} : x.val = 0 ↔ x.z = 0 := by
  rw [Dyadic.val, mul_eq_zero, Int.cast_eq_zero, or_iff_left (two_zpow_pos _).ne']

theorem Dyadic.val_neg {x : Dyadic} : x.val < 0 ↔ x.z < 0 := by
  have hp := two_zpow_pos x.e
  rw [Dyadic.val, mul_neg_iff, and_iff_left hp, Int.cast_lt_zero, or_iff_right fun h => hp.not_gt h.2]

theorem Dyadic.abs_val (x : Dyadic) : |x.val| = x.z.natAbs * 2 ^ x.e := by
  rw [Dyadic.val, abs_mul, abs_of_pos (two_zpow_pos _), Nat.cast_natAbs, Int.cast_abs]

/-- A dyadic written on a finer grid. -/
theorem Dyadic.val_refine (x : Dyadic) {e : ℤ} (h : e ≤ x.e) : ((x.z * 2 ^ (x.e - e).toNat : ℤ) : ℚ) * 2 ^ e = x.val := by
  have hp : ((2 ^ (x.e - e).toNat : ℤ) : ℚ) = 2 ^ (x.e - e) := by
    rw [← natCast_two_pow_toNat (by omega : 0 ≤ x.e - e)]; push_cast; rfl
  rw [Int.cast_mul, hp, mul_assoc, ← zpow_add₀ two_ne_zero, sub_add_cancel, Dyadic.val]

@[simp] theorem Dyadic.val_add (x y : Dyadic) : (x.add y).val = x.val + y.val := by
  unfold Dyadic.add
  rw [← x.val_refine (min_le_left x.e y.e), ← y.val_refine (min_le_right x.e y.e), ← add_mul, ← Int.cast_add]
  rfl

/-- The comparison by which `Mag.log2` decides. -/
theorem Mag.two_zpow_le_val {x : Mag} (hd : 0 < x.den) (e : ℤ) :
    (if 0 ≤ e then x.den * 2 ^ e.toNat ≤ x.num else x.den ≤ x.num * 2 ^ (-e).toNat) ↔ (2 : ℚ) ^ e ≤ x.val := by
  rw [Mag.val, le_div_iff₀ (by exact_mod_cast hd)]
  split
  · next h => rw [← Nat.cast_le (α := ℚ), Nat.cast_mul, natCast_two_pow_toNat h, mul_comm]
  · next h =>
    rw [← Nat.cast_le (α := ℚ), Nat.cast_mul, natCast_two_pow_toNat (by omega), zpow_neg, ← div_eq_mul_inv,
      le_div_iff₀ (two_zpow_pos _), mul_comm]

theorem natLog2_spec {n : ℕ} (h : n ≠ 0) : (2 : ℚ) ^ (n.log2 : ℤ) ≤ n ∧ (n : ℚ) < 2 ^ ((n.log2 : ℤ) + 1) := by
  constructor
  · rw [zpow_natCast]; exact_mod_cast Nat.log2_self_le h
  · rw [← Nat.cast_succ, zpow_natCast]; exact_mod_cast Nat.lt_log2_self (n := n)

/-- The binary exponent of a magnitude. -/
theorem Mag.log2_spec {x : Mag} (hn : x.num ≠ 0) (hd : 0 < x.den) : (2 : ℚ) ^ x.log2 ≤ x.val ∧ x.val < 2 ^ (x.log2 + 1) := by
  have hd' : (0 : ℚ) < x.den := by exact_mod_cast hd
  obtain ⟨n1, n2⟩ := natLog2_spec hn
  obtain ⟨d1, d2⟩ := natLog2_spec hd.ne'
  obtain ⟨e, he⟩ : ∃ e : ℤ, e = (x.num.log2 : ℤ) - x.den.log2 := ⟨_, rfl⟩
  have below : (2 : ℚ) ^ (e - 1) ≤ x.val := by
    rw [Mag.val, le_div_iff₀ hd']
    calc (2 : ℚ) ^ (e - 1) * x.den ≤ 2 ^ (e - 1) * 2 ^ ((x.den.log2 : ℤ) + 1) := mul_le_mul_of_nonneg_left d2.le (two_zpow_pos _).le
      _ = 2 ^ (x.num.log2 : ℤ) := by rw [← zpow_add₀ two_ne_zero]; congr 1; omega
      _ ≤ x.num := n1
  have above : x.val < (2 : ℚ) ^ (e + 1) := by
    rw [Mag.val, div_lt_iff₀ hd']
    calc (x.num : ℚ) < 2 ^ ((x.num.log2 : ℤ) + 1) := n2
      _ = 2 ^ (e + 1) * 2 ^ (x.den.log2 : ℤ) := by rw [← zpow_add₀ two_ne_zero]; congr 1; omega
      _ ≤ _ := mul_le_mul_of_nonneg_left d1 (two_zpow_pos _).le
  have hl : x.log2 = if (2 : ℚ) ^ e ≤ x.val then e else e - 1 := by
    simp only [Mag.log2, ← he, Mag.two_zpow_le_val hd]
  rw [hl]
  split
  · next h => exact ⟨h, above⟩
  · next h => exact ⟨below, by rw [sub_add_cancel]; exact lt_of_not_ge h⟩

/-- A magnitude in units of 2^q: a whole number of them and a proper fraction. -/
theorem Mag.scaled_spec {x : Mag} (hd : 0 < x.den) (q : ℤ) : ∃ m rem d : ℕ, x.scaled q = (m, rem, d) ∧ rem < d ∧
    x.val = (m + rem / d : ℚ) * 2 ^ q := by
  refine ⟨_, _, _, rfl, ?_, ?_⟩
  · apply Nat.mod_lt
    split
    · exact hd
    · exact Nat.mul_pos hd (Nat.two_pow_pos _)
  · have hdiv : ∀ n d : ℕ, 0 < d → ((n / d : ℕ) + (n % d : ℕ) / d : ℚ) = n / d := by
      intro n d h
      have h' : (d : ℚ) ≠ 0 := by exact_mod_cast h.ne'
      rw [eq_div_iff h', add_mul, div_mul_cancel₀ _ h', ← Nat.cast_mul, ← Nat.cast_add, mul_comm, Nat.div_add_mod]
    have hd' : (x.den : ℚ) ≠ 0 := by exact_mod_cast hd.ne'
    rw [hdiv _ _ (by split; exacts [hd, Nat.mul_pos hd (Nat.two_pow_pos _)]), Mag.val]
    split
    · next h =>
      rw [Nat.cast_mul, natCast_two_pow_toNat (by omega), zpow_neg, mul_div_right_comm, mul_assoc, inv_mul_cancel₀ (two_zpow_pos _).ne', mul_one]
    · next h =>
      rw [Nat.cast_mul, natCast_two_pow_toNat (by omega), div_mul_eq_div_div, div_mul_cancel₀ _ (two_zpow_pos _).ne']

/-! ### The grid of a format -/

theorem Fmt.mag_normal (t : Fmt) (k : ℕ) {r : ℕ} (hr : r < 2 ^ t.fb) :
    t.mag ((k + 1) * 2 ^ t.fb + r) = (2 ^ t.fb + r : ℕ) * 2 ^ (t.minExp + k) := by
  have hp : 0 < 2 ^ t.fb := Nat.two_pow_pos _
  unfold Fmt.mag
  rw [Nat.mul_comm, Nat.mul_add_div hp, Nat.mul_add_mod, Nat.div_eq_of_lt hr, Nat.mod_eq_of_lt hr, if_neg (Nat.succ_ne_zero k), Nat.add_zero,
    Nat.cast_succ, ← add_assoc, add_sub_cancel_right]

/-- The magnitudes with the exponent of their last place in force: `m` units of 2^(minExp + k). -/
theorem Fmt.mag_grid (t : Fmt) {k m : ℕ} (hm : m ≤ 2 ^ (t.fb + 1)) (hk : k = 0 ∨ 2 ^ t.fb ≤ m) :
    t.mag (k * 2 ^ t.fb + m) = m * 2 ^ (t.minExp + k) := by
  obtain h | h := Nat.lt_or_ge m (2 ^ t.fb)
  · obtain rfl := hk.resolve_right h.not_ge
    rw [Nat.zero_mul, Nat.zero_add, Fmt.mag, if_pos (Nat.div_eq_of_lt h), Nat.cast_zero, add_zero]
  · obtain ⟨r, rfl⟩ := Nat.exists_eq_add_of_le h
    rw [← Nat.add_assoc, ← Nat.succ_mul]
    rw [Nat.pow_succ, Nat.mul_two] at hm
    obtain h | rfl := Nat.lt_or_eq_of_le (Nat.le_of_add_le_add_left hm)
    · exact t.mag_normal k h
    · have next := t.mag_normal (k + 1) (Nat.two_pow_pos t.fb)
      rw [Nat.add_zero, Nat.add_zero, Nat.succ_mul] at next
      rw [next, Nat.cast_succ, ← add_assoc, zpow_add_one₀ two_ne_zero, ← Nat.mul_two, Nat.cast_mul, Nat.cast_ofNat, mul_assoc,
        mul_comm 2]
      rfl

/-- Every encoding of a magnitude is on the grid. -/
theorem Fmt.exists_grid (t : Fmt) (b : ℕ) : ∃ k m : ℕ, b = k * 2 ^ t.fb + m ∧ m < 2 ^ (t.fb + 1) ∧ (k = 0 ∨ 2 ^ t.fb ≤ m) := by
  have hp : 0 < 2 ^ t.fb := Nat.two_pow_pos _
  cases h : b / 2 ^ t.fb with
  | zero =>
    have hb : b < 2 ^ t.fb := Nat.lt_of_div_eq_zero hp h
    exact ⟨0, b, by rw [Nat.zero_mul, Nat.zero_add], hb.trans (Nat.pow_lt_pow_succ Nat.one_lt_two), .inl rfl⟩
  | succ k =>
    refine ⟨k, 2 ^ t.fb + b % 2 ^ t.fb, ?_, ?_, .inr (Nat.le_add_right _ _)⟩
    · rw [← Nat.add_assoc, ← Nat.succ_mul, Nat.succ_eq_add_one, ← h, Nat.div_add_mod']
    · rw [Nat.pow_succ, Nat.mul_two]
      exact Nat.add_lt_add_left (Nat.mod_lt b hp) _

theorem Fmt.mag_strictMono (t : Fmt) : StrictMono t.mag := by
  refine strictMono_nat_of_lt_succ fun b => ?_
  obtain ⟨k, m, rfl, hm, hk⟩ := t.exists_grid b
  rw [Nat.add_assoc, t.mag_grid hm.le hk, t.mag_grid hm (hk.imp_right Nat.le_succ_of_le)]
  exact mul_lt_mul_of_pos_right (Nat.cast_lt.mpr m.lt_succ_self) (two_zpow_pos _)

/-! ### Rounding -/

/-- The exponent of the last place to which a magnitude is rounded (R131). -/
noncomputable def Fmt.lastPlace (t : Fmt) (x : Mag) : ℤ := max (x.log2 - t.fb) t.minExp

/-- A value with a binary exponent of at most that of 2^n units is of fewer than 2^(n + 1) of them. -/
theorem units_lt {m rem d n : ℕ} {q l : ℤ} {v : ℚ} (hv : v = (m + rem / d) * 2 ^ q) (h : v < 2 ^ (l + 1)) (hl : l ≤ n + q) :
    m < 2 ^ (n + 1) := by
  have hq := two_zpow_pos q
  have part : (0 : ℚ) ≤ rem / d := div_nonneg (Nat.cast_nonneg _) (Nat.cast_nonneg _)
  have units : (m : ℚ) * 2 ^ q < (2 ^ (n + 1) : ℕ) * 2 ^ q := calc
    (m : ℚ) * 2 ^ q ≤ v := hv ▸ mul_le_mul_of_nonneg_right (le_add_of_nonneg_right part) hq.le
    _ < 2 ^ (l + 1) := h
    _ ≤ 2 ^ ((n + 1 : ℕ) + q) := zpow_le_zpow_right₀ one_le_two (by omega)
    _ = (2 ^ (n + 1) : ℕ) * 2 ^ q := by rw [zpow_add₀ two_ne_zero, zpow_natCast, Nat.cast_pow, Nat.cast_ofNat]
  exact Nat.cast_lt.mp (lt_of_mul_lt_mul_right units hq.le)

theorem le_units {m rem d n : ℕ} {q : ℤ} {v : ℚ} (hv : v = (m + rem / d) * 2 ^ q) (hr : rem < d) (h : 2 ^ (n + q) ≤ v) : 2 ^ n ≤ m := by
  have part : (rem / d : ℚ) < 1 := (div_lt_one (Nat.cast_pos.mpr (Nat.zero_lt_of_lt hr))).mpr (Nat.cast_lt.mpr hr)
  rw [hv, zpow_add₀ two_ne_zero, zpow_natCast] at h
  have units : ((2 ^ n : ℕ) : ℚ) < (m + 1 : ℕ) := by
    rw [Nat.cast_pow, Nat.cast_ofNat, Nat.cast_succ]
    exact (le_of_mul_le_mul_right h (two_zpow_pos q)).trans_lt (add_lt_add_right part _)
  exact Nat.le_of_lt_succ (Nat.cast_lt.mp units)

/-- A magnitude stands between two neighbours of the grid. -/
theorem Fmt.scaled_lastPlace (t : Fmt) {x : Mag} (hn : x.num ≠ 0) (hd : 0 < x.den) :
    ∃ k m rem d : ℕ, t.lastPlace x = t.minExp + k ∧ x.scaled (t.lastPlace x) = (m, rem, d) ∧ rem < d ∧
      x.val = (m + rem / d : ℚ) * 2 ^ t.lastPlace x ∧ m < 2 ^ (t.fb + 1) ∧ (k = 0 ∨ 2 ^ t.fb ≤ m) := by
  obtain ⟨m, rem, d, hs, hr, hv⟩ := Mag.scaled_spec hd (t.lastPlace x)
  obtain ⟨l1, l2⟩ := Mag.log2_spec hn hd
  obtain ⟨k, hk⟩ := Int.le.dest (le_max_right (x.log2 - t.fb) t.minExp)
  refine ⟨k, m, rem, d, hk.symm, hs, hr, hv, units_lt hv l2 (sub_le_iff_le_add'.mp (le_max_left _ _)), ?_⟩
  obtain h | h := le_total (x.log2 - t.fb) t.minExp
  · rw [max_eq_right h, add_eq_left] at hk
    exact .inl (Int.natCast_eq_zero.mp hk)
  · refine .inr (le_units hv hr ?_)
    rwa [Fmt.lastPlace, max_eq_left h, add_sub_cancel]

/-- The choice of the larger neighbour, for a value `v` compares with, between `lo` and `hi` (R131). -/
def Rnd.Up (r : Rnd) (neg : Bool) (v : ℚ → Ordering) (b : ℕ) (lo hi : ℚ) : Prop :=
  let part : ℚ := (r.draw + 1) / 65536 * (hi - lo)
  match r.mode with
  | 0 => v ((lo + hi) / 2) = .lt ∨ (v ((lo + hi) / 2) = .eq ∧ b % 2 = 1)
  | 1 => False
  | 2 => neg = false
  | 3 => neg = true
  | _ => if neg then v (hi - part) = .lt else v (lo + part) ≠ .gt

/-- A comparison that agrees with that of `x` on the multiples of `u`; below 0 it need only do so for a negative value. -/
def CutsAt (v : ℚ → Ordering) (x u : ℚ) (neg : Bool) : Prop := ∀ k : ℤ, 0 ≤ k ∨ neg = true → v (k * u) = Ord.compare (k * u) x

theorem cutsAt_compare (x u : ℚ) (neg : Bool) : CutsAt (Ord.compare · x) x u neg := fun _ _ => rfl

/-- A comparison that agrees, at every 2^-16 of the step from `lo` to `hi`, with that of `rem / d` of the step. -/
def CutsStep (v : ℚ → Ordering) (lo hi : ℚ) (rem d : ℕ) (neg : Bool) : Prop :=
  ∀ j : ℤ, 0 ≤ j ∨ neg = true → v (lo + j / 65536 * (hi - lo)) = Ord.compare (j * d) (65536 * rem : ℤ)

theorem compare_frac (j : ℤ) (rem : ℕ) {d : ℕ} (hd : 0 < d) :
    Ord.compare (j / 65536 : ℚ) (rem / d) = Ord.compare (j * d) (65536 * rem : ℤ) := by
  have hd' : (0 : ℚ) < d := Nat.cast_pos.mpr hd
  have h16 : (0 : ℚ) < 65536 := Nat.ofNat_pos
  rw [← cmp_eq_compare, ← cmp_eq_compare, ← cmp_mul_pos_right (mul_pos h16 hd'), ← mul_assoc, div_mul_cancel₀ _ h16.ne', mul_left_comm,
    div_mul_cancel₀ _ hd'.ne', ← Int.cast_natCast d, ← Int.cast_mul, ← Int.cast_natCast rem, ← Int.cast_ofNat, ← Int.cast_mul,
    Int.cast_strictMono.cmp_map_eq]

theorem sub_mul_lt_iff {d rem n : ℕ} (h : rem < d) : (d - rem) * 65536 < n ↔ (65536 * d - n : ℤ) < 65536 * rem := by
  rw [Nat.sub_mul, Nat.sub_lt_iff_lt_add (Nat.mul_le_mul_right _ h.le), sub_lt_iff_lt_add', Nat.mul_comm d, Nat.mul_comm rem]
  exact Int.ofNat_lt.symm

theorem two_zpow_fine (q : ℤ) : (2 : ℚ) ^ q = 65536 * 2 ^ (q - 16) := by
  rw [← sub_add_cancel q 16, zpow_add₀ two_ne_zero, add_sub_cancel_right, mul_comm]
  rfl

theorem CutsAt.step {v : ℚ → Ordering} {m rem d : ℕ} {q : ℤ} {neg : Bool} (hd : 0 < d)
    (hv : CutsAt v ((m + rem / d) * 2 ^ q) (2 ^ (q - 16)) neg) : CutsStep v (m * 2 ^ q) ((m + 1 : ℕ) * 2 ^ q) rem d neg := by
  intro j hj
  have e : (m * 2 ^ q + j / 65536 * ((m + 1 : ℕ) * 2 ^ q - m * 2 ^ q) : ℚ) = (m + j / 65536) * 2 ^ q := by
    rw [← sub_mul, Nat.cast_succ, add_sub_cancel_left, one_mul, ← add_mul]
  have grid : ((m + j / 65536) * 2 ^ q : ℚ) = ((m * 65536 + j : ℤ) : ℚ) * 2 ^ (q - 16) := by
    rw [two_zpow_fine, ← mul_assoc, add_mul, div_mul_cancel₀ _ (OfNat.ofNat_ne_zero _), Int.cast_add, Int.cast_mul]; rfl
  rw [e, grid, hv _ (hj.imp_left (add_nonneg (mul_nonneg (Int.natCast_nonneg m) (by decide)))), ← grid, ← compare_frac j rem hd,
    ← cmp_eq_compare, ← cmp_eq_compare, cmp_mul_pos_right (two_zpow_pos q), cmp_add_left]

section
variable {v : ℚ → Ordering} {lo hi : ℚ} {rem d : ℕ} {neg : Bool} (hv : CutsStep v lo hi rem d neg)
include hv

theorem CutsStep.at_lo : v lo = Ord.compare 0 (65536 * rem : ℤ) := by
  have h := hv 0 (.inl le_rfl)
  rwa [Int.cast_zero, zero_div, zero_mul, zero_mul, add_zero] at h

theorem CutsStep.at_hi : v hi = Ord.compare (65536 * d : ℤ) (65536 * rem) := by
  have h := hv 65536 (.inl (by decide))
  rwa [Int.cast_ofNat, div_self (OfNat.ofNat_ne_zero _), one_mul, add_sub_cancel] at h

theorem CutsStep.at_mid : v ((lo + hi) / 2) = Ord.compare (32768 * d : ℤ) (65536 * rem) := by
  have half : (2⁻¹ : ℚ) = (32768 : ℤ) / 65536 := by norm_num
  rw [← hv 32768 (.inl (by decide)), ← half, ← div_eq_inv_mul]
  refine congrArg v (div_eq_of_eq_mul two_ne_zero ?_)
  rw [add_mul, div_mul_cancel₀ _ two_ne_zero, mul_two, add_assoc, add_sub_cancel]

theorem CutsStep.above (n : ℕ) : v (lo + (n + 1) / 65536 * (hi - lo)) = Ord.compare ((n + 1 : ℕ) * d : ℤ) (65536 * rem) := by
  rw [← hv (n + 1 : ℕ) (.inl (Int.natCast_nonneg _)), Int.cast_natCast, Nat.cast_succ]

theorem CutsStep.below (hneg : neg = true) (n : ℕ) :
    v (hi - (n + 1) / 65536 * (hi - lo)) = Ord.compare ((65536 - (n + 1 : ℕ)) * d : ℤ) (65536 * rem) := by
  rw [← hv (65536 - (n + 1 : ℕ)) (.inr hneg), Int.cast_sub, Int.cast_natCast, Nat.cast_succ, Int.cast_ofNat, sub_div,
    div_self (OfNat.ofNat_ne_zero _), sub_mul, one_mul, ← add_sub_assoc, add_sub_cancel]

/-- The model's choice is the one of R131. -/
theorem Rnd.up_iff (r : Rnd) {b m : ℕ} (hb : b % 2 = m % 2) (hd : rem < d) : r.up neg m rem d = true ↔ r.Up neg v b lo hi := by
  have hd0 : 0 < d := Nat.zero_lt_of_lt hd
  obtain ⟨mode, draw⟩ := r
  match mode with
  | 0 =>
    change (decide (d < 2 * rem) || 2 * rem == d && m % 2 == 1) = true ↔ v _ = _ ∨ v _ = _ ∧ _
    rw [hv.at_mid, compare_lt_iff_lt, compare_eq_iff_eq, hb, Bool.or_eq_true, Bool.and_eq_true, decide_eq_true_iff, beq_iff_eq, beq_iff_eq]
    exact or_congr (by omega) (and_congr_left fun _ => by omega)
  | 1 => exact iff_of_false Bool.false_ne_true id
  | 2 => exact Bool.not_eq_true' neg ▸ Iff.rfl
  | 3 => exact Iff.rfl
  | n + 4 =>
    cases neg
    · change decide (draw < rem * 65536 / d) = true ↔ v _ ≠ _
      rw [hv.above, decide_eq_true_iff, ← Nat.succ_le_iff, Nat.le_div_iff_mul_le hd0, Nat.mul_comm rem, Ne, compare_gt_iff_gt, not_lt]
      exact Int.ofNat_le.symm
    · change (!decide (draw < (d - rem) * 65536 / d)) = true ↔ v _ = _
      rw [hv.below rfl, Bool.not_eq_true', decide_eq_false_iff_not, not_lt, ← Nat.lt_succ_iff, Nat.div_lt_iff_lt_mul hd0, compare_lt_iff_lt,
        Int.sub_mul, ← Nat.cast_mul]
      exact sub_mul_lt_iff hd

end

/-- What rounding to the neighbour `c` gives: its encoding, or an overflow, and the flags (R132). -/
noncomputable def Fmt.result (t : Fmt) (r : Rnd) (neg inexact : Bool) (c : ℕ) : ℕ × BitVec 5 :=
  if (2 ^ t.eb - 1) * 2 ^ t.fb ≤ c then
    (if r.mode = 1 ∨ (r.mode = 2 ∧ neg = true) ∨ (r.mode = 3 ∧ neg = false) then t.maxBits neg else t.infBits neg, flagOF ||| flagNX)
  else (t.zero neg + c, flagIf inexact flagNX ||| flagIf (inexact && c < 2 ^ t.fb) flagUF)

/-- The choice of a neighbour is all that a rounding has to show. -/
theorem Fmt.rounds_result {t : Fmt} {r : Rnd} {neg inexact up : Bool} {v : ℚ → Ordering} {b : ℕ} (lo : v (t.mag b) ≠ .gt)
    (hi : v (t.mag (b + 1)) = .gt) (he : inexact = true ↔ v (t.mag b) ≠ .eq) (hup : up = true ↔ r.Up neg v b (t.mag b) (t.mag (b + 1))) :
    t.Rounds r neg v (t.result r neg inexact (b + (inexact && up).toNat)) := by
  refine ⟨b, lo, hi, _, fun h => ?_, fun h (u : r.Up ..) => ?_, fun h => if_pos h, fun h => (if_neg (Nat.not_le.mpr h)).trans ?_⟩
  · obtain e | n := h
    · rw [(Bool.eq_false_iff (b := inexact)).mpr fun i => he.mp i e]; rfl
    · rw [(Bool.eq_false_iff (b := up)).mpr fun u => n (hup.mp u), Bool.and_false]; rfl
  · rw [hup.mpr u, he.mpr h]; rfl
  · cases inexact
    · rw [if_pos (not_not.mp fun n => Bool.false_ne_true (he.mpr n)), if_neg fun n => Bool.false_ne_true (he.mpr n.1)]; rfl
    · have n := he.mp rfl
      rw [if_neg n]
      exact congrArg (fun f => (_, flagNX ||| f)) (if_congr (decide_eq_true_iff.trans (and_iff_right n).symm) rfl rfl)

/-- The rounding of the model is the result of one choice. -/
theorem Fmt.round_eq_result (t : Fmt) (r : Rnd) (neg : Bool) {x : Mag} {m rem d : ℕ} (h : x.scaled (t.lastPlace x) = (m, rem, d)) :
    t.round r neg x = t.result r neg (rem != 0)
      ((t.lastPlace x - t.minExp).toNat * 2 ^ t.fb + if (rem != 0) = true then m + (r.up neg m rem d).toNat else m) := by
  unfold Fmt.lastPlace at h
  rw [Fmt.round, h]
  refine if_congr Iff.rfl (congrArg (·, _) ?_) rfl
  obtain ⟨mode, draw⟩ := r
  match mode, neg with
  | 0, _ => rfl
  | 1, _ => rfl
  | 2, true => rfl
  | 2, false => rfl
  | 3, true => rfl
  | 3, false => rfl
  | n + 4, _ => rfl

/-- Rounding a magnitude is Round, for every comparison that agrees with the magnitude's 2^16 to a place (R131, R132). -/
theorem Fmt.round_rounds (t : Fmt) (hfb : 0 < t.fb) (r : Rnd) {neg : Bool} {x : Mag} {v : ℚ → Ordering} (hn : x.num ≠ 0) (hd : 0 < x.den)
    (hv : CutsAt v x.val (2 ^ (t.lastPlace x - 16)) neg) : t.Rounds r neg v (t.round r neg x) := by
  obtain ⟨k, m, rem, d, hk, hs, hrd, hx, hm, hmin⟩ := t.scaled_lastPlace hn hd
  rw [hx] at hv
  have step := hv.step (Nat.zero_lt_of_lt hrd)
  have lo : t.mag (k * 2 ^ t.fb + m) = m * 2 ^ t.lastPlace x := by rw [t.mag_grid hm.le hmin, hk]
  have hi : t.mag (k * 2 ^ t.fb + m + 1) = (m + 1 : ℕ) * 2 ^ t.lastPlace x := by
    rw [Nat.add_assoc, t.mag_grid hm (hmin.imp_right Nat.le_succ_of_le), hk]
  have even : (k * 2 ^ t.fb + m) % 2 = m % 2 := by
    obtain ⟨f, hf⟩ := Nat.exists_eq_succ_of_ne_zero hfb.ne'
    rw [hf, Nat.pow_succ', Nat.mul_left_comm, Nat.mul_add_mod]
  have choice : k * 2 ^ t.fb + (if (rem != 0) = true then m + (r.up neg m rem d).toNat else m) =
      k * 2 ^ t.fb + m + ((rem != 0) && r.up neg m rem d).toNat := by
    rw [Nat.add_assoc]
    cases rem <;> rfl
  rw [t.round_eq_result r neg hs, hk, add_sub_cancel_left, Int.toNat_natCast, choice]
  refine Fmt.rounds_result ?_ ?_ ?_ ?_
  · rw [lo, step.at_lo, Ne, compare_gt_iff_gt, not_lt]; exact Int.natCast_nonneg (65536 * rem)
  · rw [hi, step.at_hi, compare_gt_iff_gt]; exact mul_lt_mul_of_pos_left (Int.ofNat_lt.mpr hrd) (by decide)
  · rw [lo, step.at_lo, Ne, compare_eq_iff_eq, bne_iff_ne]; omega
  · rw [lo, hi]; exact Rnd.up_iff step r even hrd

end Sys2Proof.Machine
end

section
/-! SUPPORT. Numbers of a format, exact sums, products and quotients, each rounded once (R126-R128, R149, R166). -/
namespace Sys2Proof.Machine

/-! ### A number of the format -/

/-- A magnitude that compares as an encoding does is rounded to it, with no flag (R131). -/
theorem Fmt.Rounds.exact {t : Fmt} {r : Rnd} {neg : Bool} {b : ℕ} {out : ℕ × BitVec 5}
    (h : t.Rounds r neg (Ord.compare · (t.mag b)) out) (hb : b < (2 ^ t.eb - 1) * 2 ^ t.fb) : out = (t.zero neg + b, 0) := by
  obtain ⟨b', lo, hi, c, stay, -, -, fits⟩ := h
  have le : b' ≤ b := t.mag_strictMono.le_iff_le.mp (not_lt.mp (mt compare_gt_iff_gt.mpr lo))
  have lt : b < b' + 1 := t.mag_strictMono.lt_iff_lt.mp (compare_gt_iff_gt.mp hi)
  have eq : b' = b := le_antisymm le (Nat.le_of_lt_succ lt)
  have cut : Ord.compare (t.mag b') (t.mag b) = .eq := compare_eq_iff_eq.mpr (congrArg t.mag eq)
  have chosen : c = b := (stay (.inl cut)).trans eq
  rw [fits (chosen.trans_lt hb), if_pos cut, if_neg fun n => n.1 cut, chosen]
  rfl

/-- What the proofs need of a format; the three formats of the part have it (R125). -/
structure Fmt.Normal (t : Fmt) : Prop where
  fb_pos : 0 < t.fb
  fb_le : t.fb ≤ 23
  bias_pos : 0 < t.bias
  bias_lt : t.bias < 2 ^ t.eb - 1
  bias_le : t.bias ≤ 127
  top_le : 2 ^ t.eb ≤ 256

theorem Fmt.normal_of_mem {t : Fmt} (h : t ∈ [bf16, f16, f32]) : t.Normal := by
  obtain rfl | h := List.mem_cons.mp h
  · exact ⟨by decide, by decide, by decide, by decide, by decide, by decide⟩
  obtain rfl | h := List.mem_cons.mp h
  · exact ⟨by decide, by decide, by decide, by decide, by decide, by decide⟩
  obtain rfl := List.mem_singleton.mp h
  exact ⟨by decide, by decide, by decide, by decide, by decide, by decide⟩

@[simp] theorem Fp.value_fin (n : Bool) (m : ℕ) (e : ℤ) : (Fp.fin n m e).value = (if n then -1 else 1) * m * 2 ^ e := rfl

/-- Rounding an exact magnitude (R131, R132). -/
theorem Fmt.round_exact {t : Fmt} (ht : t.Normal) (r : Rnd) {neg : Bool} {x : Mag} {q : ℚ} (hn : x.num ≠ 0) (hd : 0 < x.den) (hx : x.val = q) :
    t.Rounds r neg (Ord.compare · q) (t.round r neg x) :=
  t.round_rounds ht.fb_pos r hn hd (hx ▸ cutsAt_compare _ _ _)

theorem Fmt.ofFp_rounds {t : Fmt} (ht : t.Normal) (r : Rnd) (n : Bool) {m : ℕ} (e : ℤ) (hm : m ≠ 0) :
    t.Rounds r n (Ord.compare · ((m : ℚ) * 2 ^ e)) (t.ofFp r (.fin n m e)) := by
  rw [Fmt.ofFp, if_neg hm]
  exact Fmt.round_exact ht r (Mag.num_ofDyadic_ne_zero hm e) (Mag.den_ofDyadic_pos m e) (Mag.val_ofDyadic m e)

/-- The fields of an encoding, and the encoding as their sum (R125). -/
theorem Fmt.encoding_eq (t : Fmt) {x : ℕ} (hx : x < 2 ^ t.width) :
    x = t.zero (bit x (t.eb + t.fb)) + (bits x t.fb t.eb * 2 ^ t.fb + x % 2 ^ t.fb) := by
  have top : x / 2 ^ (t.eb + t.fb) < 2 := by
    refine Nat.div_lt_of_lt_mul ?_
    rwa [← Nat.pow_succ, Nat.succ_eq_one_add, ← Nat.add_assoc]
  have hs : (bit x (t.eb + t.fb)).toNat = x / 2 ^ (t.eb + t.fb) := by
    rw [bit]
    obtain h | h := Nat.le_one_iff_eq_zero_or_eq_one.mp (Nat.le_of_lt_succ top) <;> rw [h] <;> rfl
  rw [Fmt.zero, hs, bits, Nat.mul_comm _ (2 ^ t.fb), Nat.add_comm (2 ^ t.fb * _), ← Nat.mod_mul, ← Nat.pow_add, Nat.add_comm t.fb,
    Nat.div_add_mod']

/-- A finite encoding stands for its magnitude. -/
theorem Fmt.decode_finite (t : Fmt) {x : ℕ} (h : bits x t.fb t.eb ≠ 2 ^ t.eb - 1) : ∃ m e, t.decode x = .fin (bit x (t.eb + t.fb)) m e ∧
    (m : ℚ) * 2 ^ e = t.mag (bits x t.fb t.eb * 2 ^ t.fb + x % 2 ^ t.fb) := by
  have hf : x % 2 ^ t.fb < 2 ^ t.fb := Nat.mod_lt _ (Nat.two_pow_pos _)
  unfold Fmt.decode
  dsimp only
  rw [if_neg h]
  split
  · next h0 =>
    refine ⟨_, _, rfl, ?_⟩
    rw [h0, t.mag_grid (hf.trans (Nat.pow_lt_pow_succ Nat.one_lt_two)).le (.inl rfl), Nat.cast_zero, add_zero]
  · next h0 =>
    obtain ⟨k, hk⟩ := Nat.exists_eq_succ_of_ne_zero h0
    refine ⟨_, _, rfl, ?_⟩
    rw [hk, t.mag_normal k hf]
    rfl

/-- An encoding with the greatest exponent is an infinity or a NaN. -/
theorem Fmt.decode_top (t : Fmt) {x : ℕ} (h : bits x t.fb t.eb = 2 ^ t.eb - 1) :
    (x % 2 ^ t.fb = 0 ∧ t.decode x = .inf (bit x (t.eb + t.fb))) ∨ ∃ q, t.decode x = .nan q := by
  have hd : t.decode x = if x % 2 ^ t.fb = 0 then .inf (bit x (t.eb + t.fb)) else .nan (!(bit (x % 2 ^ t.fb) (t.fb - 1))) := if_pos h
  by_cases h0 : x % 2 ^ t.fb = 0
  · exact .inl ⟨h0, hd.trans (if_pos h0)⟩
  · exact .inr ⟨_, hd.trans (if_neg h0)⟩

theorem Fmt.mag_eq_zero (t : Fmt) {b : ℕ} (h : t.mag b = 0) : b = 0 := by
  refine t.mag_strictMono.injective (h.trans ?_)
  rw [Fmt.mag, Nat.zero_div, if_pos rfl, Nat.cast_zero, zero_mul]

/-- Rounding changes no number of the format (R131, R139). -/
theorem Fmt.ofFp_decode {t : Fmt} (ht : t.Normal) (r : Rnd) {x : ℕ} (hx : x < 2 ^ t.width) : t.ofFp r (t.decode x) =
    if (t.decode x).isNan then (t.nan, if (t.decode x).isSnan then flagNV else 0) else (x, 0) := by
  have he := t.encoding_eq hx
  have hb : bits x t.fb t.eb < 2 ^ t.eb := Nat.mod_lt _ (Nat.two_pow_pos _)
  by_cases h : bits x t.fb t.eb = 2 ^ t.eb - 1
  · obtain ⟨h0, hd⟩ | ⟨q, hd⟩ := t.decode_top h <;> rw [hd]
    · rw [h, h0] at he
      exact congrArg (·, 0) he.symm
    · rfl
  · obtain ⟨m, e, hd, hm⟩ := t.decode_finite h
    have hlt : bits x t.fb t.eb * 2 ^ t.fb + x % 2 ^ t.fb < (2 ^ t.eb - 1) * 2 ^ t.fb := calc
      _ < (bits x t.fb t.eb + 1) * 2 ^ t.fb := (Nat.add_lt_add_left (Nat.mod_lt x (Nat.two_pow_pos _)) _).trans_eq (Nat.succ_mul _ _).symm
      _ ≤ _ := Nat.mul_le_mul_right _ (Nat.lt_of_le_of_ne (Nat.le_sub_one_of_lt hb) h)
    rw [hd]
    refine Eq.trans ?_ (if_neg Bool.false_ne_true).symm
    by_cases h0 : m = 0
    · rw [h0, Nat.cast_zero, zero_mul] at hm
      rw [t.mag_eq_zero hm.symm] at he
      exact (if_pos h0).trans (congrArg (·, 0) he.symm)
    · have hr := Fmt.ofFp_rounds ht r (bit x (t.eb + t.fb)) e h0
      rw [hm] at hr
      rw [hr.exact hlt, ← he]

end Sys2Proof.Machine
end

section
/-! SUPPORT. Exact sums, products and quotients, each rounded once (R128, R149, R166). -/
namespace Sys2Proof.Machine

/-! ### Sums -/

theorem Fp.of_inf {x : Fp} (h : x.isInf = true) : ∃ n, x = .inf n := by
  cases x with
  | inf n => exact ⟨n, rfl⟩
  | nan q => exact absurd h Bool.false_ne_true
  | fin n m e => exact absurd h Bool.false_ne_true

theorem Fp.of_nan {x : Fp} (h : x.isNan = true) : ∃ q, x = .nan q := by
  cases x with
  | nan q => exact ⟨q, rfl⟩
  | inf n => exact absurd h Bool.false_ne_true
  | fin n m e => exact absurd h Bool.false_ne_true

/-- What is neither an infinity nor a NaN is finite. -/
theorem Fp.of_finite {x : Fp} (h : x.isNan = false) (hi : x.isInf = false) : ∃ n m e, x = .fin n m e := by
  cases x with
  | nan q => exact absurd h.symm Bool.false_ne_true
  | inf n => exact absurd hi.symm Bool.false_ne_true
  | fin n m e => exact ⟨n, m, e, rfl⟩

theorem Fp.of_zero {x : Fp} (h : x.isZero = true) : ∃ n e, x = .fin n 0 e := by
  cases x with
  | fin n m e => exact ⟨n, e, beq_iff_eq.mp h ▸ rfl⟩
  | nan q => exact absurd h Bool.false_ne_true
  | inf n => exact absurd h Bool.false_ne_true

theorem Fp.val_dyadic {x : Fp} (hn : x.isNan = false) (hi : x.isInf = false) : x.dyadic.val = x.value := by
  obtain ⟨n, m, e, rfl⟩ := Fp.of_finite hn hi
  cases n
  · change ((m : ℤ) : ℚ) * 2 ^ e = 1 * m * 2 ^ e
    rw [one_mul, Int.cast_natCast]
  · change ((-m : ℤ) : ℚ) * 2 ^ e = -1 * m * 2 ^ e
    rw [Int.cast_neg, Int.cast_natCast, neg_one_mul]

/-- The exact sum of finite terms. -/
theorem val_foldl_add {ts : List Fp} (hn : ts.any Fp.isNan = false) (hi : ts.any Fp.isInf = false) (d : Dyadic) :
    (ts.foldl (fun acc x => acc.add x.dyadic) d).val = d.val + (ts.map Fp.value).sum := by
  induction ts generalizing d with
  | nil => simp
  | cons x ts ih =>
    rw [List.any_cons, Bool.or_eq_false_iff] at hn hi
    rw [List.foldl_cons, ih hn.2 hi.2, Dyadic.val_add, Fp.val_dyadic hn.1 hi.1, List.map_cons, List.sum_cons, add_assoc]

/-- An exact dyadic rounded once; a zero takes the sign it is given. -/
theorem Fmt.roundDyadic_zero (t : Fmt) (r : Rnd) (zn : Bool) {x : Dyadic} (h : x.val = 0) : t.roundDyadic r zn x = (t.zero zn, 0) :=
  if_pos (Dyadic.val_eq_zero.mp h)

theorem Fmt.roundDyadic_rounds {t : Fmt} (ht : t.Normal) (r : Rnd) (zn : Bool) {x : Dyadic} (h : x.val ≠ 0) :
    t.Rounds r (decide (x.val < 0)) (Ord.compare · |x.val|) (t.roundDyadic r zn x) := by
  have hz : x.z ≠ 0 := fun e => h (Dyadic.val_eq_zero.mpr e)
  rw [Fmt.roundDyadic, if_neg hz, show decide (x.val < 0) = decide (x.z < 0) from decide_eq_decide.mpr Dyadic.val_neg]
  exact Fmt.round_exact ht r (Mag.num_ofDyadic_ne_zero (Int.natAbs_ne_zero.mpr hz) _) (Mag.den_ofDyadic_pos _ _)
    ((Mag.val_ofDyadic _ _).trans x.abs_val.symm)

/-- A term 0 × ∞ or a NaN makes the sum a NaN (R128). -/
theorem Fmt.sum_nan (t : Fmt) (r : Rnd) (snan : Bool) {terms : List (Option Fp)}
    (h : terms.any (·.isNone) = true ∨ (terms.filterMap id).any Fp.isNan = true) :
    t.sum r snan terms = (t.nan, if snan = true ∨ terms.any (·.isNone) = true then flagNV else 0) := by
  unfold Fmt.sum
  dsimp only
  rw [if_pos (by simpa only [Bool.or_eq_true] using h), flagIf]
  simp only [Bool.or_eq_true]

theorem zeroSign_eq (a b c : Bool) : (if a = true then true else if b = true then false else c) = (a || (c && !b)) := by
  revert a b c; decide

/-- What a sum of numbers and infinities is (R128). -/
theorem Fmt.sum_of_numbers (t : Fmt) (r : Rnd) (snan : Bool) {terms : List (Option Fp)} (hb : terms.any (·.isNone) = false)
    (hn : (terms.filterMap id).any Fp.isNan = false) :
    t.sum r snan terms = match (terms.filterMap id).filter Fp.isInf with
      | x :: l => if (x :: l).all (fun y => y.isNeg == x.isNeg) then (t.infBits x.isNeg, 0) else (t.nan, flagNV)
      | [] => t.roundDyadic r ((terms.filterMap id).all Fp.isNeg || (r.mode == 3 && (terms.filterMap id).any fun x => !x.isZero || x.isNeg))
          ((terms.filterMap id).foldl (fun acc x => acc.add x.dyadic) ⟨0, 0⟩) := by
  unfold Fmt.sum
  dsimp only
  rw [hb, hn, if_neg (by decide)]
  have sign : ∀ ts : List Fp, (if ts.all Fp.isNeg = true then true else
      if ts.all (fun x => x.isZero && !x.isNeg) = true then false else r.mode == 3) =
      (ts.all Fp.isNeg || (r.mode == 3 && ts.any fun x => !x.isZero || x.isNeg)) := by
    intro ts
    have other : (fun x : Fp => !x.isZero || x.isNeg) = fun x => !(x.isZero && !x.isNeg) := by
      funext x
      rw [Bool.not_and, Bool.not_not]
    rw [other, ← List.not_all_eq_any_not]
    exact zeroSign_eq ..
  cases (terms.filterMap id).filter Fp.isInf with
  | nil => exact congrArg (fun z => t.roundDyadic r z _) (sign _)
  | cons x l => rfl

theorem Fmt.sum_inf (t : Fmt) (r : Rnd) (snan : Bool) {terms : List (Option Fp)} (hb : terms.any (·.isNone) = false)
    (hn : (terms.filterMap id).any Fp.isNan = false) {n : Bool} (h : .inf n ∈ terms.filterMap id) :
    t.sum r snan terms = if .inf (!n) ∈ terms.filterMap id then (t.nan, flagNV) else (t.infBits n, 0) := by
  rw [t.sum_of_numbers r snan hb hn]
  have mem : Fp.inf n ∈ (terms.filterMap id).filter Fp.isInf := List.mem_filter.mpr ⟨h, rfl⟩
  by_cases hm : Fp.inf (!n) ∈ terms.filterMap id
  · have mem' : Fp.inf (!n) ∈ (terms.filterMap id).filter Fp.isInf := List.mem_filter.mpr ⟨hm, rfl⟩
    rw [if_pos hm]
    cases hl : (terms.filterMap id).filter Fp.isInf with
    | nil => exact absurd (hl ▸ mem) List.not_mem_nil
    | cons x l =>
      refine if_neg fun all => ?_
      rw [List.all_eq_true] at all
      rw [hl] at mem mem'
      exact Bool.not_ne_self n ((beq_iff_eq.mp (all _ mem')).trans (beq_iff_eq.mp (all _ mem)).symm)
  · have sign : ∀ y ∈ (terms.filterMap id).filter Fp.isInf, y.isNeg = n := by
      intro y hy
      obtain ⟨hy, hi⟩ := List.mem_filter.mp hy
      obtain ⟨k, rfl⟩ := Fp.of_inf hi
      by_contra hk
      exact hm (Bool.eq_not.mpr hk ▸ hy)
    rw [if_neg hm]
    cases hl : (terms.filterMap id).filter Fp.isInf with
    | nil => exact absurd (hl ▸ mem) List.not_mem_nil
    | cons x l =>
      rw [hl] at sign
      have hx := sign x List.mem_cons_self
      refine (if_pos (List.all_eq_true.mpr fun y hy => beq_iff_eq.mpr ((sign y hy).trans hx.symm))).trans ?_
      rw [hx]

theorem Fmt.sum_finite {t : Fmt} (ht : t.Normal) (r : Rnd) (snan : Bool) {terms : List (Option Fp)} (hb : terms.any (·.isNone) = false)
    (hn : (terms.filterMap id).any Fp.isNan = false) (hi : (terms.filterMap id).any Fp.isInf = false) :
    (((terms.filterMap id).map Fp.value).sum = 0 → t.sum r snan terms =
      (t.zero ((terms.filterMap id).all Fp.isNeg || (r.mode == 3 && (terms.filterMap id).any fun x => !x.isZero || x.isNeg)), 0)) ∧
    (((terms.filterMap id).map Fp.value).sum ≠ 0 → t.Rounds r (decide (((terms.filterMap id).map Fp.value).sum < 0))
      (Ord.compare · |((terms.filterMap id).map Fp.value).sum|) (t.sum r snan terms)) := by
  have hv := val_foldl_add hn hi ⟨0, 0⟩
  have zero : Dyadic.val ⟨0, 0⟩ = 0 := Dyadic.val_eq_zero.mpr rfl
  rw [zero, zero_add] at hv
  have none : (terms.filterMap id).filter Fp.isInf = [] := List.filter_eq_nil_iff.mpr (List.any_eq_false.mp hi)
  rw [t.sum_of_numbers r snan hb hn, none, ← hv]
  exact ⟨t.roundDyadic_zero r _, Fmt.roundDyadic_rounds ht r _⟩

/-! ### Products and quotients -/

theorem Fp.mul_nan {x y : Fp} (h : x.isNan = true ∨ y.isNan = true) : x.mul y = some (.nan false) := by
  obtain h | h := h <;> obtain ⟨q, rfl⟩ := Fp.of_nan h
  · rfl
  · cases x <;> rfl

theorem Fp.mul_inf {x y : Fp} (hx : x.isNan = false) (hy : y.isNan = false) (h : x.isInf = true ∨ y.isInf = true) :
    x.mul y = if x.isZero ∨ y.isZero then none else some (.inf (x.isNeg != y.isNeg)) := by
  have zero : ∀ m : ℕ, m = 0 ↔ (m == 0) = true := fun m => beq_iff_eq.symm
  cases x with
  | nan q => exact absurd hx.symm Bool.false_ne_true
  | inf n =>
    cases y with
    | nan q => exact absurd hy.symm Bool.false_ne_true
    | inf n' => rfl
    | fin n' m e => exact if_congr ((zero m).trans (or_iff_right Bool.false_ne_true).symm) rfl rfl
  | fin n m e =>
    cases y with
    | nan q => exact absurd hy.symm Bool.false_ne_true
    | inf n' => exact if_congr ((zero m).trans (or_iff_left Bool.false_ne_true).symm) rfl (congrArg (fun s => some (Fp.inf s)) (Bool.xor_comm n' n))
    | fin n' m' e' => exact absurd h (not_or.mpr ⟨Bool.false_ne_true, Bool.false_ne_true⟩)

/-- A quotient of magnitudes. -/
theorem Mag.val_div (m m' : ℕ) (q : ℤ) :
    (if 0 ≤ q then (⟨m * 2 ^ q.toNat, m'⟩ : Mag) else ⟨m, m' * 2 ^ (-q).toNat⟩).val = (m / m' : ℚ) * 2 ^ q := by
  split
  · next hq => rw [Mag.val, Nat.cast_mul, natCast_two_pow_toNat hq, mul_div_right_comm]
  · next hq => rw [Mag.val, Nat.cast_mul, natCast_two_pow_toNat (Int.neg_nonneg_of_nonpos (not_le.mp hq).le), zpow_neg, div_mul_eq_div_div,
      div_inv_eq_mul]

theorem Fp.abs_value_fin (n : Bool) (m : ℕ) (e : ℤ) : |(Fp.fin n m e).value| = m * 2 ^ e := by
  rw [Fp.value_fin, abs_mul, abs_mul, Nat.abs_cast, abs_of_pos (two_zpow_pos e)]
  cases n <;> simp

end Sys2Proof.Machine
end

section
/-! SUPPORT. The quotient of two encodings, case by case (R166). -/
namespace Sys2Proof.Machine

section
variable (t : Fmt) (r : Rnd) {a b : ℕ}

theorem Fmt.div_nan (h : (t.decode a).isNan = true ∨ (t.decode b).isNan = true) :
    t.div r a b = (t.nan, if (t.decode a).isSnan || (t.decode b).isSnan then flagNV else 0) := by
  obtain h | h := h <;> obtain ⟨q, hx⟩ := Fp.of_nan h <;> rw [Fmt.div, hx]
  · rfl
  · cases t.decode a <;> rfl

section
variable {n n' : Bool} {m m' : ℕ} {e e' : ℤ}

theorem Fmt.div_inf_inf (hx : t.decode a = .inf n) (hy : t.decode b = .inf n') : t.div r a b = (t.nan, flagNV) := by
  rw [Fmt.div, hx, hy]

theorem Fmt.div_inf_fin (hx : t.decode a = .inf n) (hy : t.decode b = .fin n' m' e') : t.div r a b = (t.infBits (n != n'), 0) := by
  rw [Fmt.div, hx, hy]

theorem Fmt.div_fin_inf (hx : t.decode a = .fin n m e) (hy : t.decode b = .inf n') : t.div r a b = (t.zero (n != n'), 0) := by
  rw [Fmt.div, hx, hy]

theorem Fmt.div_finite (hx : t.decode a = .fin n m e) (hy : t.decode b = .fin n' m' e') : t.div r a b =
    if m' = 0 then (if m = 0 then (t.nan, flagNV) else (t.infBits (n != n'), flagDZ)) else if m = 0 then (t.zero (n != n'), 0) else
      t.round r (n != n') (if 0 ≤ e - e' then ⟨m * 2 ^ (e - e').toNat, m'⟩ else ⟨m, m' * 2 ^ (-(e - e')).toNat⟩) := by
  rw [Fmt.div, hx, hy]

end

/-! ### The quotient by kinds of operands -/

theorem Fmt.div_invalid (h : ((t.decode a).isInf = true ∧ (t.decode b).isInf = true) ∨
    ((t.decode a).isZero = true ∧ (t.decode b).isZero = true)) :
    t.div r a b = (t.nan, flagNV) := by
  obtain ⟨hx, hy⟩ | ⟨hx, hy⟩ := h
  · obtain ⟨n, hx⟩ := Fp.of_inf hx
    obtain ⟨n', hy⟩ := Fp.of_inf hy
    exact t.div_inf_inf r hx hy
  · obtain ⟨n, e, hx⟩ := Fp.of_zero hx
    obtain ⟨n', e', hy⟩ := Fp.of_zero hy
    exact (t.div_finite r hx hy).trans ((if_pos rfl).trans (if_pos rfl))

theorem Fmt.div_of_inf (hy : (t.decode b).isNan = false) (hxi : (t.decode a).isInf = true) (hyi : (t.decode b).isInf = false) :
    t.div r a b = (t.infBits ((t.decode a).isNeg != (t.decode b).isNeg), 0) := by
  obtain ⟨n, hx⟩ := Fp.of_inf hxi
  obtain ⟨n', m', e', hy⟩ := Fp.of_finite hy hyi
  rw [t.div_inf_fin r hx hy, hx, hy]
  rfl

theorem Fmt.div_by_inf (hx : (t.decode a).isNan = false) (hxi : (t.decode a).isInf = false) (hyi : (t.decode b).isInf = true) :
    t.div r a b = (t.zero ((t.decode a).isNeg != (t.decode b).isNeg), 0) := by
  obtain ⟨n, m, e, hx⟩ := Fp.of_finite hx hxi
  obtain ⟨n', hy⟩ := Fp.of_inf hyi
  rw [t.div_fin_inf r hx hy, hx, hy]
  rfl

section
variable {t} (ht : t.Normal) (hx : (t.decode a).isNan = false) (hy : (t.decode b).isNan = false) (hxi : (t.decode a).isInf = false)
  (hyi : (t.decode b).isInf = false)
include hx hy hxi hyi

theorem Fmt.div_by_zero (hx0 : (t.decode a).isZero = false) (hy0 : (t.decode b).isZero = true) :
    t.div r a b = (t.infBits ((t.decode a).isNeg != (t.decode b).isNeg), flagDZ) := by
  obtain ⟨n, m, e, hx⟩ := Fp.of_finite hx hxi
  obtain ⟨n', m', e', hy⟩ := Fp.of_finite hy hyi
  rw [hx] at hx0 ⊢
  rw [hy] at hy0 ⊢
  exact (t.div_finite r hx hy).trans ((if_pos (beq_iff_eq.mp hy0)).trans (if_neg (beq_eq_false_iff_ne.mp hx0)))

theorem Fmt.zero_div (hx0 : (t.decode a).isZero = true) (hy0 : (t.decode b).isZero = false) :
    t.div r a b = (t.zero ((t.decode a).isNeg != (t.decode b).isNeg), 0) := by
  obtain ⟨n, m, e, hx⟩ := Fp.of_finite hx hxi
  obtain ⟨n', m', e', hy⟩ := Fp.of_finite hy hyi
  rw [hx] at hx0 ⊢
  rw [hy] at hy0 ⊢
  exact (t.div_finite r hx hy).trans ((if_neg (beq_eq_false_iff_ne.mp hy0)).trans (if_pos (beq_iff_eq.mp hx0)))

include ht in
/-- Two non-zero finite numbers have the exact quotient rounded once. -/
theorem Fmt.div_rounds (hx0 : (t.decode a).isZero = false) (hy0 : (t.decode b).isZero = false) :
    t.Rounds r ((t.decode a).isNeg != (t.decode b).isNeg) (Ord.compare · |(t.decode a).value / (t.decode b).value|) (t.div r a b) := by
  obtain ⟨n, m, e, hx⟩ := Fp.of_finite hx hxi
  obtain ⟨n', m', e', hy⟩ := Fp.of_finite hy hyi
  rw [hx] at hx0 ⊢
  rw [hy] at hy0 ⊢
  have hm := beq_eq_false_iff_ne.mp hx0
  have hm' := beq_eq_false_iff_ne.mp hy0
  have hv : |(Fp.fin n m e).value / (Fp.fin n' m' e').value| = (m / m' : ℚ) * 2 ^ (e - e') := by
    rw [abs_div, Fp.abs_value_fin, Fp.abs_value_fin, zpow_sub₀ two_ne_zero, mul_div_mul_comm]
  rw [hv, t.div_finite r hx hy, if_neg hm', if_neg hm]
  refine Fmt.round_exact ht r ?_ ?_ (Mag.val_div m m' (e - e'))
  · split
    · exact Nat.mul_ne_zero hm (Nat.two_pow_pos _).ne'
    · exact hm
  · split
    · exact Nat.pos_of_ne_zero hm'
    · exact Nat.mul_pos (Nat.pos_of_ne_zero hm') (Nat.two_pow_pos _)

end

end

end Sys2Proof.Machine
end

section
open Sys2Proof Sys2Proof.Machine

/-- Settles O28: the choice of a neighbour is that of R131 on the grid of the format, and each operation rounds one exact value. -/
theorem roundingKeepsNumbers : Obligations.RoundingKeepsNumbers := by
  intro t r hmem
  have ht := Fmt.normal_of_mem hmem
  refine ⟨fun x hx => Fmt.ofFp_decode ht r hx, fun n m e hm => Fmt.ofFp_rounds ht r n e hm, fun n e => ⟨rfl, rfl⟩, fun snan terms => ?_,
    fun x y => ⟨Fp.mul_nan, Fp.mul_inf, fun n m e n' m' e' hx hy => hx ▸ hy ▸ rfl⟩, fun a b c => ?_⟩
  · intro out ts v bad
    exact ⟨t.sum_nan r snan, fun hb hn => ⟨fun n hm => t.sum_inf r snan hb hn hm, Fmt.sum_finite ht r snan hb hn⟩⟩
  · intro x y z s2
    refine ⟨rfl, rfl, rfl, fun _ _ => rfl, ?_⟩
    intro out neg
    exact ⟨t.div_nan r, fun hx hy => ⟨t.div_invalid r, t.div_of_inf r hy, t.div_by_inf r hx, fun hxi hyi =>
      ⟨Fmt.div_by_zero r hx hy hxi hyi, Fmt.zero_div r hx hy hxi hyi, Fmt.div_rounds r ht hx hy hxi hyi⟩⟩⟩

end

section
/-! SUPPORT. Lane-wise forms: what one writes, and how it runs (R148, R149). -/
namespace Sys2Proof.Machine

/-! ### Elements -/

theorem elemBytes_mul_lanes (y : BitVec 3) : elemBytes y * lanes y = 16 := by
  revert y; decide

theorem elemW_mul_lanes (y : BitVec 3) : elemW y * lanes y = 128 := by
  rw [elemW, Nat.mul_assoc, elemBytes_mul_lanes]

theorem State.el_lt (s : State) (y : BitVec 3) (r : Reg) (i : ℕ) : s.el y r i < 2 ^ elemW y := Nat.mod_lt _ (Nat.two_pow_pos _)

theorem packElems_lt (w : ℕ) (l : List ℕ) : packElems w l < 2 ^ (w * l.length) := by
  induction l with
  | nil => simp [packElems]
  | cons x l ih =>
    have hx := Nat.mod_lt x (Nat.two_pow_pos w)
    rw [packElems, List.length_cons, Nat.mul_succ, Nat.pow_add, Nat.mul_comm (2 ^ (w * l.length))]
    calc _ < 2 ^ w + 2 ^ w * packElems w l := Nat.add_lt_add_right hx _
      _ = 2 ^ w * (packElems w l + 1) := by ring
      _ ≤ _ := Nat.mul_le_mul_left _ ih

/-- The vector whose element `i` is `f i`. -/
noncomputable def vecOf (y : BitVec 3) (f : ℕ → ℕ) : Vec := BitVec.ofNat 128 (packElems (elemW y) ((List.range (lanes y)).map f))

theorem elem_vecOf (y : BitVec 3) (f : ℕ → ℕ) {i : ℕ} (hi : i < lanes y) : elem y (vecOf y f) i = f i % 2 ^ elemW y := by
  have hlt := packElems_lt (elemW y) ((List.range (lanes y)).map f)
  rw [List.length_map, List.length_range, elemW_mul_lanes] at hlt
  rw [elem, vecOf, BitVec.toNat_ofNat, Nat.mod_eq_of_lt hlt, bits,
    packElems_digit (elemW y) _ i (by rwa [List.length_map, List.length_range]), List.getElem_map, List.getElem_range]

/-! ### The state a lane-wise form leaves -/

/-- v[D] with the active elements replaced. -/
noncomputable def State.lanesWith (s : State) (y : BitVec 3) (p : Fin 8) (d : Reg) (f : ℕ → ℕ) : Vec :=
  vecOf y fun i => if active (s.p p) y i then f i else s.el y d i

theorem State.lanewise_lanesWith (s : State) (y : BitVec 3) (p : Fin 8) (d : Reg) (f : ℕ → ℕ) :
    s.Lanewise y p d f (s.lanesWith y p d f) := by
  intro i hi
  rw [State.lanesWith, elem_vecOf y _ hi]
  split
  · rfl
  · exact Nat.mod_eq_of_lt (s.el_lt y d i)

theorem State.mapLanes_eq (s : State) (y : BitVec 3) (p : Fin 8) (d : Reg) (f : ℕ → ℕ × BitVec 5) :
    s.mapLanes y p d f = (s.putLanes y p d (s.lanesWith y p d fun i => (f i).1)).raise (s.laneFlags y p fun i => (f i).2) := by
  have flags : ∀ (fl : BitVec 5) (i : ℕ), fl ||| (if active (s.p p) y i then f i else (elem y (s.v d) i, 0)).2 =
      if active (s.p p) y i then fl ||| (f i).2 else fl := by
    intro fl i
    split
    · rfl
    · exact BitVec.or_zero
  have els : ∀ i, (if active (s.p p) y i then f i else (elem y (s.v d) i, 0)).1 = if active (s.p p) y i then (f i).1 else s.el y d i := by
    intro i
    split <;> rfl
  unfold State.mapLanes State.putLanes State.laneFlags State.lanesWith vecOf
  dsimp only
  rw [List.map_map, List.foldl_map]
  simp only [flags, Function.comp_def, els]

theorem State.laneFlags_zero (s : State) (y : BitVec 3) (p : Fin 8) : (s.laneFlags y p fun _ => 0) = 0 := by
  unfold State.laneFlags
  induction List.range (lanes y) with
  | nil => rfl
  | cons i l ih => simp

/-! ### States that differ in nothing that can be read -/

theorem State.cell_modCur_of_same {x : State} {f : Ctx → Ctx} (hf : f x.cur = x.cur) (n : ℕ) : (x.modCur f).cell n = x.cell n := by
  rw [State.modCur_congr (g := fun _ => x.cur) hf]
  exact x.cell_modCur_same n

/-- An update that leaves the executing context as it is makes no difference to a retirement. -/
theorem runs_modCur_same {i : Instr} {s x : State} {f : Ctx → Ctx} (hf : f x.cur = x.cur) : Runs i s (x.modCur f) ↔ Runs i s x := by
  constructor
  · rintro ⟨t, ht, hr⟩
    exact ⟨t, ht, hr.congr rfl fun n => (State.cell_modCur_of_same hf n).symm⟩
  · rintro ⟨t, ht, hr⟩
    exact ⟨t, ht, hr.congr rfl fun n => State.cell_modCur_of_same hf n⟩

theorem runs_raise_zero {i : Instr} {s x : State} : Runs i s (x.raise 0) ↔ Runs i s x :=
  runs_modCur_same (congrArg (fun f => { x.cur with fflags := f }) BitVec.or_zero)

/-- SRCTR after the draws of an instruction that rounds under `mode`, if it draws at all (R135). -/
noncomputable def State.drew (s : State) (draws : Prop) [Decidable draws] (n : ℕ) : State :=
  s.modCur fun k => { k with srctr := if draws then k.srctr + BitVec.ofNat 64 n else k.srctr }

theorem runs_drew_not {i : Instr} {s x : State} {draws : Prop} [Decidable draws] {n : ℕ} (h : ¬ draws) :
    Runs i s (x.drew draws n) ↔ Runs i s x :=
  runs_modCur_same (by rw [if_neg h])

theorem State.drew_of (x : State) {draws : Prop} [Decidable draws] (n : ℕ) (h : draws) : x.drew draws n = x.advance n :=
  State.modCur_congr (by rw [if_pos h])

theorem State.drew_stepping (x : State) (draws : Prop) [Decidable draws] (n : ℕ) : (x.drew draws n).cur.stepping = x.cur.stepping := by
  rw [State.drew, State.cur_modCur]

/-- A form that leaves `x` and then spends its draws. -/
theorem runs_spent {i : Instr} {s x : State} {body : Body} {draws : Prop} [Decidable draws] {n : ℕ} (he : exec i s = issue i s body)
    (hb : body s = .ok { s := if draws then x.advance n else x }) (hx : Executes i s) (hs : x.cur.stepping = s.cur.stepping) :
    Runs i s (x.drew draws n) := by
  by_cases h : draws
  · rw [if_pos h, ← x.drew_of n h] at hb
    exact Issues.runs ⟨body, he, hb⟩ hx ((x.drew_stepping draws n).trans hs)
  · rw [if_neg h] at hb
    exact (runs_drew_not h).mpr (Issues.runs ⟨body, he, hb⟩ hx hs)

theorem runs_spend {i : Instr} {s x : State} {body : Body} {mode n : ℕ} (he : exec i s = issue i s body)
    (hb : body s = .ok { s := x.spend mode n }) (hx : Executes i s) (hs : x.cur.stepping = s.cur.stepping) :
    Runs i s (x.drew (mode = 4) ((n + 3) / 4)) :=
  runs_spent he hb hx hs

theorem State.drew_congr (x : State) {P Q : Prop} [Decidable P] [Decidable Q] (h : P ↔ Q) (n : ℕ) : x.drew P n = x.drew Q n := by
  unfold State.drew
  simp only [h]

theorem frm_eq_four (x : Ctx) : x.frm.toNat = 4 ↔ x.frm = 4 := by
  rw [BitVec.toNat_eq]
  rfl

/-! ### How a lane-wise form runs -/

section
variable {i : Instr} {s : State} {y : BitVec 3} {p : Fin 8} {d : Reg} {f : State → ℕ → ℕ × BitVec 5} {g : ℕ → ℕ × BitVec 5}

theorem State.mapLanes_stepping (s : State) (y : BitVec 3) (p : Fin 8) (d : Reg) (f : ℕ → ℕ × BitVec 5) :
    (s.mapLanes y p d f).cur.stepping = s.cur.stepping := by
  rw [State.mapLanes_eq, State.raise_cur, State.putLanes, State.setVLanes_cur]
  rfl

/-- A form that rounds nothing. -/
theorem laneOp_runs (he : exec i s = issue i s (laneOp y p d false f)) (hg : f s = g) (hx : Executes i s) :
    ∃ u, s.Lanewise y p d (fun i => (g i).1) u ∧ Runs i s ((s.putLanes y p d u).raise (s.laneFlags y p fun i => (g i).2)) := by
  refine ⟨_, s.lanewise_lanesWith y p d _, ?_⟩
  rw [← State.mapLanes_eq, ← hg]
  exact Issues.runs ⟨_, he, rfl⟩ hx (s.mapLanes_stepping ..)

/-- A form that raises no flag either. -/
theorem laneOp_runs_quiet {g : ℕ → ℕ} (he : exec i s = issue i s (laneOp y p d false f)) (hg : f s = fun i => (g i, 0)) (hx : Executes i s) :
    ∃ u, Runs i s (s.putLanes y p d u) ∧ s.Lanewise y p d g u := by
  obtain ⟨u, hu, hr⟩ := laneOp_runs he hg hx
  rw [s.laneFlags_zero, runs_raise_zero] at hr
  exact ⟨u, hr, hu⟩

/-- A form that rounds under FRM, in a floating-point type: under RSR it draws once for four elements. -/
theorem laneOp_runs_rounding (he : exec i s = issue i s (laneOp y p d true f)) (hy : isFloatTy y = true) (hg : f s = g) (hx : Executes i s) :
    ∃ u, s.Lanewise y p d (fun i => (g i).1) u ∧ Runs i s (((s.putLanes y p d u).raise (s.laneFlags y p fun i => (g i).2)).drew
      (s.cur.frm = 4) ((lanes y + 3) / 4)) := by
  refine ⟨_, s.lanewise_lanesWith y p d _, ?_⟩
  rw [← State.mapLanes_eq, ← hg]
  rw [← State.drew_congr _ (frm_eq_four s.cur)]
  refine runs_spend he ?_ hx (s.mapLanes_stepping ..)
  unfold laneOp
  rw [hy]
  rfl

end

end Sys2Proof.Machine
end

section
/-! SUPPORT. Moves and permutes: one source element for each destination element (R163, R164). -/
namespace Sys2Proof.Machine

/-- An active element is one of the register. -/
theorem lt_lanes_of_active {q : Pred} {y : BitVec 3} {i : ℕ} (h : active q y i = true) : i < lanes y := by
  by_contra hge
  have hle : elemBytes y * lanes y ≤ elemBytes y * i := Nat.mul_le_mul_left _ (Nat.le_of_not_lt hge)
  rw [elemBytes_mul_lanes, Nat.mul_comm] at hle
  have small : q.toNat < 2 ^ (i * elemBytes y) := q.isLt.trans_le (Nat.pow_le_pow_right (by decide) hle)
  rw [active, bit, Nat.div_eq_of_lt small] at h
  exact absurd h (by decide)

theorem State.setVLanes_stepping (s : State) (d : Reg) (w : Vec) (l : ℕ) : (s.setVLanes d w l).cur.stepping = s.cur.stepping := by
  rw [State.setVLanes_cur]
  rfl

/-- VINS writes one element (R163). -/
theorem vins_runs {d a b : Reg} {y : BitVec 3} {s : State} (hx : Executes (.vins d a b y) s) :
    ∃ u, Runs (.vins d a b y) s (s.setVLanes d u (byteLanes y (· == b.val))) ∧
      ∀ i, i < lanes y → elem y u i = if i = b.val then (s.s a).toNat % 2 ^ elemW y else s.el y d i := by
  refine ⟨vecOf y fun i => if i = b.val then (s.s a).toNat % 2 ^ elemW y else s.el y d i,
    Issues.runs ⟨vinsBody d a b y, exec_vins d a b y s, rfl⟩ hx (s.setVLanes_stepping ..), fun i hi => ?_⟩
  rw [elem_vecOf y _ hi]
  split
  · exact Nat.mod_mod _ _
  · exact Nat.mod_eq_of_lt (s.el_lt y d i)

/-- Element `i` of a permute whose source is that element of v[A]: both are active, or it is kept (R164). -/
noncomputable def State.shuffled (s : State) (y : BitVec 3) (p : Fin 8) (d a : Reg) (i : ℕ) : Option ℕ → ℕ
  | some j => if active (s.p p) y i && active (s.p p) y j then s.el y a j else s.el y d i
  | none => s.el y d i

/-- A source past the last element is none. -/
theorem State.shuffled_beyond (s : State) {y : BitVec 3} (p : Fin 8) (d a : Reg) (i j : ℕ) :
    s.shuffled y p d a i (some j) = s.shuffled y p d a i (if j < lanes y then some j else none) := by
  split
  · rfl
  · next h =>
    have off : active (s.p p) y j = false := Bool.eq_false_iff.mpr fun hact => h (lt_lanes_of_active hact)
    simp [State.shuffled, off]

/-- Elements that are moved up have a source from element `n` on. -/
theorem State.shuffled_above (s : State) (y : BitVec 3) (p : Fin 8) (d a : Reg) (i n : ℕ) :
    s.shuffled y p d a i (if n ≤ i then some (i - n) else none) = s.shuffled y p d a i (if i < n then none else some (i - n)) := by
  by_cases h : i < n
  · rw [if_pos h, if_neg (Nat.not_le.mpr h)]
  · rw [if_neg h, if_pos (Nat.le_of_not_lt h)]

theorem shuffle_runs {i : Instr} {s : State} {y : BitVec 3} {p : Fin 8} {d a : Reg} {src : State → ℕ → Option ℕ} {f : ℕ → Option ℕ}
    (he : exec i s = issue i s (shuffle y p d a src)) (hf : ∀ i, s.shuffled y p d a i (src s i) = s.shuffled y p d a i (f i))
    (hx : Executes i s) : ∃ u l, Runs i s (s.setVLanes d u l) ∧ ∀ i, i < lanes y → elem y u i = s.shuffled y p d a i (f i) := by
  refine ⟨_, _, Issues.runs ⟨_, he, rfl⟩ hx (s.setVLanes_stepping ..), fun i hi => ?_⟩
  rw [← hf]
  refine (elem_vecOf y (fun i => match (match src s i with
      | some j => if active (s.p p) y i && active (s.p p) y j && j < lanes y then some j else none
      | none => none) with
    | some j => s.el y a j
    | none => elem y (s.v d) i) hi).trans ?_
  cases src s i with
  | none => exact Nat.mod_eq_of_lt (s.el_lt y d i)
  | some j =>
    rw [State.shuffled]
    dsimp only
    cases hact : active (s.p p) y i && active (s.p p) y j
    · exact Nat.mod_eq_of_lt (s.el_lt y d i)
    · have hlt : j < lanes y := lt_lanes_of_active ((Bool.and_eq_true _ _).mp hact).2
      rw [decide_eq_true hlt]
      exact Nat.mod_eq_of_lt (s.el_lt y a j)

end Sys2Proof.Machine
end

section
/-! SUPPORT. Reductions: the active elements in order, and the pairwise tree (R141, R165). -/
namespace Sys2Proof.Machine

/-! ### The active elements -/

/-- The lanes that are active, in ascending order. -/
noncomputable def State.activeLanes (s : State) (y : BitVec 3) (p : Fin 8) : List ℕ := (List.range (lanes y)).filter fun i => active (s.p p) y i

section
variable {α β : Type} (c : ℕ → Bool) (g : ℕ → α) (l : List ℕ)

theorem any_present {P : α → Bool} {Q : Option α → Bool} (hs : ∀ v, Q (some v) = P v) (hn : Q none = false) :
    (l.map fun i => if c i then some (g i) else none).any Q = (l.filter c).any fun i => P (g i) := by
  induction l with
  | nil => rfl
  | cons i l ih => cases h : c i <;> simp [h, ih, hs, hn]

theorem filterMap_present (f : α → β) : (l.map fun i => if c i then some (g i) else none).filterMap (·.map f) =
    (l.filter c).map fun i => f (g i) := by
  induction l with
  | nil => rfl
  | cons i l ih => cases h : c i <;> simp [h, ih]

theorem sum_present (f : α → ℤ) (acc : ℤ) : (l.map fun i => if c i then some (g i) else none).foldl (fun acc x => acc + (x.map f).getD 0) acc =
    acc + ((l.filter c).map fun i => f (g i)).sum := by
  induction l generalizing acc with
  | nil => simp
  | cons i l ih => cases h : c i <;> simp [h, ih, add_assoc]

end

/-! ### Integer reductions -/

/-- `u` is the one that a minimum, or a maximum, takes of `u` and `v`. -/
def Before (max : Bool) (u v : ℤ) : Prop := if max then v ≤ u else u ≤ v

theorem Before.refl (max : Bool) (u : ℤ) : Before max u u := by
  cases max
  · exact le_refl u
  · exact le_refl u

theorem Before.trans {max : Bool} {u v w : ℤ} (h : Before max u v) (h' : Before max v w) : Before max u w := by
  cases max
  · exact le_trans (α := ℤ) h h'
  · exact le_trans (α := ℤ) h' h

theorem Before.antisymm {max : Bool} {u v : ℤ} (h : Before max u v) (h' : Before max v u) : u = v := by
  cases max
  · exact le_antisymm (α := ℤ) h h'
  · exact le_antisymm (α := ℤ) h' h

/-- The one of two values that a minimum, or a maximum, takes. -/
@[reducible] noncomputable def firstOf (max : Bool) (u v : ℤ) : ℤ := if decide (u ≤ v) != max then u else v

theorem firstOf_before (max : Bool) (u v : ℤ) : Before max (firstOf max u v) u ∧ Before max (firstOf max u v) v ∧
    (firstOf max u v = u ∨ firstOf max u v = v) := by
  rw [firstOf]
  by_cases h : u ≤ v
  · rw [decide_eq_true h]
    cases max
    · exact ⟨le_refl u, h, .inl rfl⟩
    · exact ⟨h, le_refl v, .inr rfl⟩
  · have h' : v ≤ u := le_of_not_ge h
    rw [decide_eq_false h]
    cases max
    · exact ⟨h', le_refl v, .inr rfl⟩
    · exact ⟨le_refl u, h', .inl rfl⟩

/-- The least, or the greatest, of a list and a first value. -/
theorem foldl_firstOf (max : Bool) (l : List ℤ) (x : ℤ) : Before max (l.foldl (firstOf max) x) x ∧
    (∀ v ∈ l, Before max (l.foldl (firstOf max) x) v) ∧ (l.foldl (firstOf max) x = x ∨ l.foldl (firstOf max) x ∈ l) := by
  induction l generalizing x with
  | nil => exact ⟨Before.refl max x, List.forall_mem_nil _, .inl rfl⟩
  | cons v l ih =>
    obtain ⟨px, pv, pick⟩ := firstOf_before max x v
    obtain ⟨h1, h2, h3⟩ := ih (firstOf max x v)
    refine ⟨h1.trans px, List.forall_mem_cons.mpr ⟨h1.trans pv, h2⟩, ?_⟩
    obtain h | h := h3
    · exact pick.imp (h.trans ·) fun e => List.mem_cons.mpr (.inl (h.trans e))
    · exact .inr (List.mem_cons_of_mem _ h)

/-- Where no value is beyond the first, the result is one of the list, if there is one. -/
theorem foldl_firstOf_mem (max : Bool) {l : List ℤ} {x : ℤ} (h : ∀ v ∈ l, Before max v x) (hl : l ≠ []) :
    l.foldl (firstOf max) x ∈ l := by
  obtain ⟨-, h2, h3⟩ := foldl_firstOf max l x
  refine h3.elim (fun e => ?_) id
  obtain ⟨v, hv⟩ := List.exists_mem_of_ne_nil l hl
  rw [e] at h2 ⊢
  exact (h2 v hv).antisymm (h v hv) ▸ hv

/-! ### The pairwise tree -/

theorem forall_cons {α : Type} {P : α → Prop} {a : α} {l : List α} (h : P a) (hl : ∀ x ∈ l, P x) : ∀ x ∈ a :: l, P x :=
  List.forall_mem_cons.mpr ⟨h, hl⟩

/-- Two operands of a node, of which an absent one passes the other on (R141). -/
noncomputable def pairNode {α : Type} (f : α → α → α) : Option α → Option α → Option α
  | some u, some v => some (f u v)
  | some u, none => some u
  | none, v => v

theorem getElem?_pairUp {α : Type} (f : α → α → α) : ∀ (l : List (Option α)) (i : ℕ),
    (pairUp f l)[i]?.join = pairNode f l[2 * i]?.join l[2 * i + 1]?.join
  | [], _ => rfl
  | [x], 0 => by cases x <;> rfl
  | [_], _ + 1 => rfl
  | x :: z :: _, 0 => by cases x <;> cases z <;> rfl
  | _ :: _ :: r, i + 1 => getElem?_pairUp f r i

/-- Node `i` of level `k` of the tree over a list of lanes. -/
noncomputable abbrev treeLevel {α : Type} (f : α → α → α) (l : List (Option α)) (k i : ℕ) : Option α := ((pairUp f)^[k] l)[i]?.join

theorem treeLevel_succ {α : Type} (f : α → α → α) (l : List (Option α)) (k i : ℕ) :
    treeLevel f l (k + 1) i = pairNode f (treeLevel f l k (2 * i)) (treeLevel f l k (2 * i + 1)) := by
  rw [treeLevel, Function.iterate_succ_apply', getElem?_pairUp]

theorem tree_eq_treeLevel {α : Type} (f : α → α → α) (n : ℕ) (l : List (Option α)) : tree f n l = treeLevel f l n 0 := by
  induction n generalizing l with
  | zero => exact congrArg Option.join List.head?_eq_getElem?
  | succ n ih => exact ih (pairUp f l)

/-- Level 0 of the tree over the active elements. -/
theorem treeLevel_zero {α : Type} (f : α → α → α) (c : ℕ → Bool) (g : ℕ → α) (n i : ℕ) :
    treeLevel f ((List.range n).map fun i => if c i then some (g i) else none) 0 i = if i < n ∧ c i = true then some (g i) else none := by
  refine (congrArg Option.join List.getElem?_map).trans ?_
  by_cases h : i < n
  · rw [List.getElem?_range h]
    exact if_congr (and_iff_right h).symm rfl rfl
  · rw [List.getElem?_eq_none (List.length_range.trans_le (Nat.le_of_not_lt h)), if_neg fun a => h a.1]
    rfl

/-! ### How the reductions run -/

section
variable {i : Instr} {s : State} {y : BitVec 3} {p : Fin 8} {d a : Reg}

/-- A broadcast takes the low bits of s[A] (R163). -/
theorem vbcast_runs {d a : Reg} (hx : Executes (.vbcast d a p y) s) :
    ∃ u, Runs (.vbcast d a p y) s (s.putLanes y p d u) ∧ s.Lanewise y p d (fun _ => (s.s a).toNat) u := by
  obtain ⟨u, hr, hu⟩ := laneOp_runs_quiet (exec_vbcast d a p y s) rfl hx
  exact ⟨u, hr, fun i hi => (hu i hi).trans (by rw [Nat.mod_mod])⟩

theorem State.activeEls_any (s : State) (y : BitVec 3) (p : Fin 8) (a : Reg) {P : ℕ → Bool} {Q : Option ℕ → Bool}
    (hs : ∀ v, Q (some v) = P v) (hn : Q none = false) : (s.activeEls y p a).any Q = (s.activeLanes y p).any fun i => P (s.el y a i) :=
  any_present (fun i => active (s.p p) y i) (fun i => s.el y a i) (List.range (lanes y)) hs hn

/-- The sum of an integer type. -/
theorem reduceSum_runs {unsigned : Bool} (he : exec i s = issue i s (reduceSum y p d a unsigned)) (hy : isFloatTy y = false) (hx : Executes i s) :
    Runs i s (s.setS d (BitVec.ofInt 64 (((s.activeLanes y p).map fun i => if unsigned then (s.el y a i : ℤ) else s.elS y a i).sum))) := by
  refine Issues.runs ⟨_, he, ?_⟩ hx (s.cur_setS_stepping d _)
  have h := sum_present (fun i => active (s.p p) y i) (fun i => s.el y a i) (List.range (lanes y))
    (fun v => if unsigned then (v : ℤ) else sext v (elemW y)) 0
  rw [zero_add] at h
  exact (if_neg (hy ▸ Bool.false_ne_true)).trans (congrArg (fun x => (.ok { s := s.setS d (wrap x) } : Except Stop Done)) h)

theorem isFloatTy_of_lt {y : BitVec 3} (h : y.toNat < 3) : isFloatTy y = false := by
  revert y; decide

theorem vrsum_runs (hy : y.toNat < 3) (hx : Executes (.vrsum d a p y) s) :
    Runs (.vrsum d a p y) s (s.setS d (BitVec.ofInt 64 ((s.activeLanes y p).map fun i => s.elS y a i).sum)) := by
  have h := reduceSum_runs (exec_vrsum ..) (isFloatTy_of_lt hy) hx
  simp only [Bool.false_eq_true, if_false] at h
  exact h

theorem vrsumu_runs (hy : y.toNat < 3) (hx : Executes (.vrsumu d a p y) s) :
    Runs (.vrsumu d a p y) s (s.setS d (BitVec.ofNat 64 ((s.activeLanes y p).map fun i => s.el y a i).sum)) := by
  have h := reduceSum_runs (exec_vrsumu ..) (isFloatTy_of_lt hy) hx
  simp only [if_true] at h
  rw [← BitVec.ofInt_natCast, Nat.cast_list_sum, List.map_map]
  exact h

/-- The least or the greatest of an integer type. -/
theorem reduceMinMax_runs {unsigned max : Bool} (he : exec i s = issue i s (reduceMinMax y p d a unsigned max)) (hy : isFloatTy y = false)
    (hx : Executes i s) :
    Runs i s (s.setS d (BitVec.ofInt 64 (((s.activeLanes y p).map fun i => if unsigned then (s.el y a i : ℤ) else s.elS y a i).foldl
      (firstOf max) (if max then intMin (elemW y) unsigned else intMax (elemW y) unsigned)))) := by
  refine Issues.runs ⟨_, he, ?_⟩ hx (s.cur_setS_stepping d _)
  have h := filterMap_present (fun i => active (s.p p) y i) (fun i => s.el y a i) (List.range (lanes y))
    (fun v => if unsigned then (v : ℤ) else sext v (elemW y))
  exact (if_neg (hy ▸ Bool.false_ne_true)).trans (congrArg (fun l : List ℤ => (.ok { s := s.setS d (wrap (l.foldl (firstOf max)
    (if max then intMin (elemW y) unsigned else intMax (elemW y) unsigned))) } : Except Stop Done)) h)

theorem sext_bounds (x : ℕ) {n : ℕ} (hn : n ≠ 0) : -(2 : ℤ) ^ (n - 1) ≤ sext x n ∧ sext x n ≤ 2 ^ (n - 1) - 1 := by
  rw [sext_eq_toInt x hn]
  have lo := BitVec.le_toInt (BitVec.ofNat n x)
  have hi := BitVec.toInt_lt (x := BitVec.ofNat n x)
  exact ⟨lo, Int.le_sub_one_of_lt hi⟩

/-- The bounds of an integer type hold of its elements. -/
theorem elem_before (s : State) (y : BitVec 3) (a : Reg) (unsigned max : Bool) (i : ℕ) :
    Before max (if unsigned then (s.el y a i : ℤ) else s.elS y a i) (if max then intMin (elemW y) unsigned else intMax (elemW y) unsigned) := by
  have hw : elemW y ≠ 0 := by
    intro h
    exact absurd ((Nat.zero_mul _).symm.trans ((congrArg (· * lanes y) h).symm.trans (elemW_mul_lanes y))) (by decide)
  have hlt : (s.el y a i : ℤ) < 2 ^ elemW y := (Int.ofNat_lt.mpr (s.el_lt y a i)).trans_eq (Nat.cast_pow ..)
  obtain ⟨lo, hi⟩ := sext_bounds (s.el y a i) hw
  cases unsigned <;> cases max
  · exact hi
  · exact lo
  · exact Int.le_sub_one_of_lt hlt
  · exact Int.natCast_nonneg _

/-- Its result: of no element the type's own value, else the value of an element that no other is before. -/
theorem reduceMinMax_picks {unsigned max : Bool} (he : exec i s = issue i s (reduceMinMax y p d a unsigned max)) (hy : isFloatTy y = false)
    (hx : Executes i s) :
    ∃ v : ℤ, Runs i s (s.setS d (BitVec.ofInt 64 v)) ∧
      (s.activeLanes y p = [] → v = if max then intMin (elemW y) unsigned else intMax (elemW y) unsigned) ∧
      (s.activeLanes y p ≠ [] → ∃ i ∈ s.activeLanes y p, v = if unsigned then (s.el y a i : ℤ) else s.elS y a i) ∧
      ∀ i ∈ s.activeLanes y p, Before max v (if unsigned then (s.el y a i : ℤ) else s.elS y a i) := by
  refine ⟨_, reduceMinMax_runs he hy hx, fun h => by rw [h]; rfl, fun h => ?_, fun i hi => ?_⟩
  · have mem := foldl_firstOf_mem max (l := (s.activeLanes y p).map fun i => if unsigned then (s.el y a i : ℤ) else s.elS y a i)
      (List.forall_mem_map.mpr fun i _ => elem_before s y a unsigned max i) (by simpa using h)
    obtain ⟨i, hi, e⟩ := List.mem_map.mp mem
    exact ⟨i, hi, e.symm⟩
  · exact (foldl_firstOf max _ _).2.1 _ (List.mem_map_of_mem hi)

/-- The flag of a reduction that meets a signaling NaN (R165). -/
noncomputable def State.snanFlag (s : State) (y : BitVec 3) (p : Fin 8) (a : Reg) : BitVec 5 :=
  if (s.activeLanes y p).any fun i => ((fmtOf y).decode (s.el y a i)).isSnan then flagNV else 0

/-- The bits a floating-point least or greatest takes from its root. -/
noncomputable def Fmt.extreme (t : Fmt) (max : Bool) : Option ℕ → ℕ
  | none => t.infBits max
  | some u => if (t.decode u).isNan then t.nan else u

/-- The bits and the flags a floating-point sum takes from its root, which it rounds once (R141). -/
noncomputable def Fmt.sumRoot (t : Fmt) (r : Rnd) : Option (ℕ × BitVec 5) → ℕ × BitVec 5
  | none => (t.zero false, 0)
  | some u => ((t.ofFp r (f32.decode u.1)).1, u.2 ||| (t.ofFp r (f32.decode u.1)).2)

/-- A leaf of a floating-point sum, and a node, both in f32 (R141). -/
@[reducible] noncomputable def Fmt.sumLeaf (t : Fmt) (x : ℕ) : ℕ × BitVec 5 := ((f32.ofFp .rne (t.decode x)).1, 0)

@[reducible] noncomputable def sumNode (u v : ℕ × BitVec 5) : ℕ × BitVec 5 :=
  ((f32.add .rne u.1 v.1).1, u.2 ||| v.2 ||| (f32.add .rne u.1 v.1).2)

theorem State.raise_stepping (x : State) (f : BitVec 5) : (x.raise f).cur.stepping = x.cur.stepping := by
  rw [State.raise_cur]

theorem reduceMinMax_float {unsigned max : Bool} (he : exec i s = issue i s (reduceMinMax y p d a unsigned max)) (hy : isFloatTy y = true)
    (hx : Executes i s) :
    Runs i s ((s.setS d (BitVec.ofNat 64 ((fmtOf y).extreme max
      (treeLevel (fun u v => ((fmtOf y).minmax max u v).1) (s.activeEls y p a) 4 0)))).raise (s.snanFlag y p a)) := by
  refine Issues.runs ⟨_, he, ?_⟩ hx (((s.setS d _).raise_stepping _).trans (s.cur_setS_stepping d _))
  refine (if_pos hy).trans (congrArg₂ (fun v f => (.ok { s := (s.setS d (BitVec.ofNat 64 v)).raise (flagIf f flagNV) } : Except Stop Done)) ?_
    (s.activeEls_any y p a (P := fun v => ((fmtOf y).decode v).isSnan) (fun _ => rfl) rfl))
  rw [tree_eq_treeLevel]
  generalize treeLevel _ _ 4 0 = g
  cases g <;> rfl

theorem reduceSum_float {unsigned : Bool} (he : exec i s = issue i s (reduceSum y p d a unsigned)) (hy : isFloatTy y = true) (hx : Executes i s) :
    let out := (fmtOf y).sumRoot (s.rnd 0) (treeLevel sumNode ((s.activeEls y p a).map (·.map (fmtOf y).sumLeaf)) 4 0)
    Runs i s (((s.setS d (BitVec.ofNat 64 out.1)).raise (out.2 ||| s.snanFlag y p a)).drew (s.cur.frm = 4) 1) := by
  intro out
  rw [← State.drew_congr _ (frm_eq_four s.cur)]
  refine runs_spend (n := 1) he ?_ hx (((s.setS d _).raise_stepping _).trans (s.cur_setS_stepping d _))
  refine (if_pos hy).trans (congrArg₂ (fun (v : ℕ × BitVec 5) f =>
    (.ok { s := ((s.setS d (BitVec.ofNat 64 v.1)).raise (v.2 ||| flagIf f flagNV)).spend s.cur.frm.toNat 1 } : Except Stop Done)) ?_
    (s.activeEls_any y p a (P := fun v => ((fmtOf y).decode v).isSnan) (fun _ => rfl) rfl))
  change _ = (fmtOf y).sumRoot (s.rnd 0) (treeLevel sumNode _ 4 0)
  rw [tree_eq_treeLevel]
  generalize treeLevel _ _ 4 0 = g
  cases g <;> rfl

theorem activeEls_zero (f : ℕ → ℕ → ℕ) (s : State) (y : BitVec 3) (p : Fin 8) (a : Reg) (i : ℕ) :
    treeLevel f (s.activeEls y p a) 0 i = if i < lanes y ∧ active (s.p p) y i = true then some (s.el y a i) else none :=
  treeLevel_zero f (fun i => active (s.p p) y i) (fun i => s.el y a i) (lanes y) i

theorem sumLeaves_zero (s : State) (y : BitVec 3) (p : Fin 8) (a : Reg) (i : ℕ) :
    treeLevel sumNode ((s.activeEls y p a).map (·.map (fmtOf y).sumLeaf)) 0 i =
      if i < lanes y ∧ active (s.p p) y i = true then some ((fmtOf y).sumLeaf (s.el y a i)) else none := by
  rw [← treeLevel_zero sumNode (fun i => active (s.p p) y i) (fun i => (fmtOf y).sumLeaf (s.el y a i)), State.activeEls, List.map_map]
  congr 2
  funext j
  rw [Function.comp_apply, apply_ite (Option.map _)]
  rfl

/-- A floating-point least or greatest, by the levels of its tree (R165). -/
theorem reduceMinMax_tree {unsigned max : Bool} (he : exec i s = issue i s (reduceMinMax y p d a unsigned max)) (hy : isFloatTy y = true)
    (hx : Executes i s) : ∃ (v : ℕ) (g : ℕ → ℕ → Option ℕ), Runs i s ((s.setS d (BitVec.ofNat 64 v)).raise (s.snanFlag y p a)) ∧
      (∀ i, i < 16 → g 0 i = if i < lanes y ∧ active (s.p p) y i = true then some (s.el y a i) else none) ∧
      (∀ k i, k < 4 → i < 8 / 2 ^ k → g (k + 1) i = pairNode (fun u w => ((fmtOf y).minmax max u w).1) (g k (2 * i)) (g k (2 * i + 1))) ∧
      v = (fmtOf y).extreme max (g 4 0) :=
  ⟨_, _, reduceMinMax_float he hy hx, fun i _ => activeEls_zero _ s y p a i, fun k i _ _ => treeLevel_succ _ _ k i, rfl⟩

/-- The value and the flags of a floating-point sum, from its root (R165). -/
def Fmt.IsSumRoot (t : Fmt) (r : Rnd) (v : ℕ) (fl : BitVec 5) : Option (ℕ × BitVec 5) → Prop
  | none => v = 0 ∧ fl = 0
  | some u => v = (t.ofFp r (f32.decode u.1)).1 ∧ fl = u.2 ||| (t.ofFp r (f32.decode u.1)).2

theorem Fmt.isSumRoot (t : Fmt) (r : Rnd) (g : Option (ℕ × BitVec 5)) : t.IsSumRoot r (t.sumRoot r g).1 (t.sumRoot r g).2 g := by
  cases g
  · exact ⟨Nat.zero_mul _, rfl⟩
  · exact ⟨rfl, rfl⟩

/-- A floating-point sum, by the levels of its tree (R165). -/
theorem reduceSum_tree {unsigned : Bool} (he : exec i s = issue i s (reduceSum y p d a unsigned)) (hy : isFloatTy y = true) (hx : Executes i s) :
    ∃ (v : ℕ) (fl : BitVec 5) (g : ℕ → ℕ → Option (ℕ × BitVec 5)),
      Runs i s (((s.setS d (BitVec.ofNat 64 v)).raise (fl ||| s.snanFlag y p a)).drew (s.cur.frm = 4) 1) ∧
      (∀ i, i < 16 → g 0 i = if i < lanes y ∧ active (s.p p) y i = true then some ((fmtOf y).sumLeaf (s.el y a i)) else none) ∧
      (∀ k i, k < 4 → i < 8 / 2 ^ k → g (k + 1) i = pairNode sumNode (g k (2 * i)) (g k (2 * i + 1))) ∧
      (fmtOf y).IsSumRoot (s.rnd 0) v fl (g 4 0) :=
  ⟨_, _, _, reduceSum_float he hy hx, fun i _ => sumLeaves_zero s y p a i, fun k i _ _ => treeLevel_succ _ _ k i, Fmt.isSumRoot ..⟩

end

end Sys2Proof.Machine
end

section
open Sys2Proof Sys2Proof.Machine

/-- Settles O31: a move is lane-wise, a permute has a source for each element, and a reduction folds the active elements in order. -/
theorem vectorMovesAndReductions : Obligations.VectorMovesAndReductions := by
  refine ⟨fun d a b p y s _ => ?_, fun d a p y s => ?_⟩
  · intro n x act
    exact ⟨laneOp_runs_quiet (exec_vmv ..) rfl, vbcast_runs, vins_runs, runs_of_writes (exec_vext ..) rfl, runs_of_writes (exec_vextu ..) rfl,
      forall_cons (shuffle_runs (exec_vshuf ..) fun _ => rfl) <| forall_cons (shuffle_runs (exec_vsplat ..) fun _ => rfl) <|
      forall_cons (shuffle_runs (exec_vslidedn ..) fun _ => s.shuffled_beyond ..) <|
      forall_cons (shuffle_runs (exec_vslideup ..) fun _ => (s.shuffled_above ..).symm) (List.forall_mem_nil _)⟩
  · intro on w x t snan
    refine ⟨fun hy => ⟨vrsum_runs hy, vrsumu_runs hy, ?_⟩, fun hy => ?_⟩
    · have hy := isFloatTy_of_lt hy
      exact forall_cons (reduceMinMax_picks (exec_vrmin ..) hy) <| forall_cons (reduceMinMax_picks (exec_vrmax ..) hy) <|
        forall_cons (reduceMinMax_picks (exec_vrminu ..) hy) <| forall_cons (reduceMinMax_picks (exec_vrmaxu ..) hy) (List.forall_mem_nil _)
    · intro act
      set_option smartUnfolding false in -- the statement's own matches are those of `pairNode`, `Fmt.extreme` and `Fmt.IsSumRoot`
      exact ⟨forall_cons (reduceMinMax_tree (exec_vrmin ..) hy) <| forall_cons (reduceMinMax_tree (exec_vrmax ..) hy) (List.forall_mem_nil _),
        reduceSum_tree (exec_vrsum ..) hy⟩

end

section
/-! SUPPORT. VCVT: what it reads, what it writes and what it draws (R167-R169). -/
namespace Sys2Proof.Machine

theorem bits_packElems (w : ℕ) (l : List ℕ) {i : ℕ} (hi : i < l.length) : bits (packElems w l) (i * w) w = l[i] % 2 ^ w := by
  rw [bits, Nat.mul_comm, packElems_digit w l i hi]

theorem State.setRegGroup_stepping (s : State) (d : Reg) (g x : ℕ) : (s.setRegGroup d g x).cur.stepping = s.cur.stepping := by
  induction g generalizing s d x with
  | zero => rfl
  | succ g ih => exact (ih ..).trans (by rw [State.setV_cur, Ctx.setV_stepping])

section
variable (s : State) (d a b : Reg) (w x m : BitVec 3)

/-- Element `i` of the source group. -/
noncomputable def State.cvtEl (i : ℕ) : ℕ := bits (s.regGroup a (cvtGroup (cvtCount x w) x)) (i * elemBits x) (elemBits x)

/-- The datum it stands for. -/
noncomputable def State.cvtDatum (i : ℕ) : Fp :=
  if 6 ≤ x.toNat then blockElem (x == 7) (s.cvtEl a w x i) ((s.s b).toNat % 256) ((s.s b).toNat / 256 % 256)
  else (fmtOf x).decode (s.cvtEl a w x i)

/-- Element `i` of a destination that is no block, with its flags. -/
noncomputable def State.cvtOut (i : ℕ) : ℕ × BitVec 5 :=
  let r := s.rndMode (s.cvtMode m) i
  if x.toNat < 3 then
    let v := intOf (s.cvtEl a w x i) (elemBits x) (bit b.val 0)
    if w.toNat < 3 then (toBits (sat v (elemBits w) (bit b.val 1)) (elemBits w), 0) else (fmtOf w).ofInt r v
  else if w.toNat < 3 then fpToInt r (s.cvtDatum a b w x i) (elemBits w) (bit b.val 1)
  else (fmtOf w).ofFp r (s.cvtDatum a b w x i)

/-- The block of a destination that is one: its elements, E0, E1 and the flags. -/
noncomputable def State.cvtBlock : List ℕ × ℕ × ℕ × BitVec 5 :=
  toBlock (w == 7) (s.cvtMode m) (fun i => (s.rndMode (s.cvtMode m) i).draw) ((List.range (cvtCount x w)).map (s.cvtDatum a b w x))

variable {s d a b w x m}

theorem cvtSpend_eq (y : State) {f f' : BitVec 5} (mode n : ℕ) (h : f = f') :
    (.ok { s := if cvtExact x w then y.raise f else (y.raise f).spend mode n } : Except Stop Done) =
      .ok { s := if mode = 4 ∧ cvtExact x w = false then (y.raise f').advance ((n + 3) / 4) else y.raise f' } := by
  rw [h]
  cases cvtExact x w
  · exact congrArg (fun y => (.ok { s := y } : Except Stop Done)) ((if_neg Bool.false_ne_true).trans
      (if_congr (P := mode = 4) (and_iff_left rfl).symm rfl rfl))
  · exact congrArg (fun y => (.ok { s := y } : Except Stop Done)) (if_neg fun c => Bool.false_ne_true c.2.symm).symm

theorem vcvt_runs (hw : w.toNat < 6) (hx : Executes (.vcvt d a b w x m) s) :
    ∃ u, (∀ i, i < cvtCount x w → bits u (i * elemBits w) (elemBits w) = (s.cvtOut a b w x m i).1 % 2 ^ elemBits w) ∧
      Runs (.vcvt d a b w x m) s (((s.setRegGroup d (cvtGroup (cvtCount x w) w) u).raise
        ((List.range (cvtCount x w)).foldl (fun fl i => fl ||| (s.cvtOut a b w x m i).2) 0)).drew
          (s.cvtMode m = 4 ∧ cvtExact x w = false) ((cvtCount x w + 3) / 4)) := by
  refine ⟨packElems (elemBits w) (((List.range (cvtCount x w)).map (s.cvtOut a b w x m)).map (·.1)), fun i hi => ?_, ?_⟩
  · rw [bits_packElems _ _ ((List.length_map _).trans ((List.length_map _).trans List.length_range) ▸ hi), List.getElem_map, List.getElem_map,
      List.getElem_range]
  · exact runs_spent (exec_vcvt ..) ((if_neg (Nat.not_le.mpr hw)).trans (cvtSpend_eq _ _ _ List.foldl_map)) hx
      ((State.raise_stepping _ _).trans (s.setRegGroup_stepping ..))

theorem length_toBlock (four : Bool) (mode : ℕ) (draw : ℕ → ℕ) (xs : List Fp) : (toBlock four mode draw xs).1.length = xs.length := by
  refine (List.length_map _).trans ((List.length_map _).trans (List.length_zip.trans ?_))
  rw [List.length_range, min_self]

theorem vcvt_block_runs (hw : 6 ≤ w.toNat) (hx : Executes (.vcvt d a b w x m) s) :
    let blk := s.cvtBlock a b w x m
    ∃ u, (∀ i, i < cvtCount x w → bits u (i * elemBits w) (elemBits w) = blk.1.getD i 0 % 2 ^ elemBits w) ∧
      Runs (.vcvt d a b w x m) s ((((s.setRegGroup d (cvtGroup (cvtCount x w) w) u).setS b (BitVec.ofNat 64 (blk.2.1 + 256 * blk.2.2.1))).raise
        blk.2.2.2).drew (s.cvtMode m = 4 ∧ cvtExact x w = false) ((cvtCount x w + 3) / 4)) := by
  intro blk
  have len : blk.1.length = cvtCount x w := (length_toBlock ..).trans ((List.length_map _).trans List.length_range)
  refine ⟨packElems (elemBits w) blk.1, fun i hi => ?_, ?_⟩
  · have hi : i < blk.1.length := len ▸ hi
    rw [bits_packElems _ _ hi, List.getD_eq_getElem _ _ hi]
  · exact runs_spent (exec_vcvt ..) ((if_pos hw).trans (cvtSpend_eq _ _ _ rfl)) hx
      ((State.raise_stepping _ _).trans ((State.cur_setS_stepping ..).trans (s.setRegGroup_stepping ..)))

section
variable {n : ℕ} {out : ℕ → ℕ × BitVec 5} {P : Prop} [Decidable P] (hn : cvtCount x w = n)
  (hP : s.cvtMode m = 4 ∧ cvtExact x w = false ↔ P)
  (hx : Executes (.vcvt d a b w x m) s)
include hn hP hx

theorem vcvt_runs_as (hw : w.toNat < 6) (hout : ∀ i, s.cvtOut a b w x m i = out i) :
    ∃ u, (∀ i, i < n → bits u (i * elemBits w) (elemBits w) = (out i).1 % 2 ^ elemBits w) ∧
      Runs (.vcvt d a b w x m) s (((s.setRegGroup d (cvtGroup n w) u).raise
        ((List.range n).foldl (fun fl i => fl ||| (out i).2) 0)).drew P ((n + 3) / 4)) := by
  obtain rfl : s.cvtOut a b w x m = out := funext hout
  subst hn
  obtain ⟨u, hu, hr⟩ := vcvt_runs hw hx
  exact ⟨u, hu, State.drew_congr _ hP _ ▸ hr⟩

theorem vcvt_block_runs_as (hw : 6 ≤ w.toNat) {blk : List ℕ × ℕ × ℕ × BitVec 5} (hblk : s.cvtBlock a b w x m = blk) :
    ∃ u, (∀ i, i < n → bits u (i * elemBits w) (elemBits w) = blk.1.getD i 0 % 2 ^ elemBits w) ∧
      Runs (.vcvt d a b w x m) s ((((s.setRegGroup d (cvtGroup n w) u).setS b (BitVec.ofNat 64 (blk.2.1 + 256 * blk.2.2.1))).raise
        blk.2.2.2).drew P ((n + 3) / 4)) := by
  subst hn hblk
  obtain ⟨u, hu, hr⟩ := vcvt_block_runs hw hx
  exact ⟨u, hu, State.drew_congr _ hP _ ▸ hr⟩

end

theorem vcvt_ok (hx : Executes (.vcvt d a b w x m) s) : cvtOk m x w b a d = true := by
  have h := (Bool.or_eq_false_iff.mp (Bool.or_eq_false_iff.mp hx.decodes).1).1
  exact (Bool.not_eq_false' _).mp h

theorem intOf_eq (i : ℕ) : intOf (s.cvtEl a w x i) (elemBits x) (bit b.val 0) =
    if b.val % 2 = 1 then (s.cvtEl a w x i : ℤ) else sext (s.cvtEl a w x i) (elemBits x) := by
  have lt : s.cvtEl a w x i < 2 ^ elemBits x := Nat.mod_lt _ (Nat.two_pow_pos _)
  rw [intOf, bit, Nat.mod_eq_of_lt lt]
  simp

end

/-- A legal VCVT of a block has a floating-point type on its other side (R168). -/
theorem cvtOk_block {m x w : BitVec 3} {b a d : Reg} (h : cvtOk m x w b a d = true) (hb : 6 ≤ x.toNat ∨ 6 ≤ w.toNat) :
    isFloatTy x = true ∧ 6 ≤ w.toNat ∨ 6 ≤ x.toNat ∧ isFloatTy w = true := by
  have pair : ∀ x w : BitVec 3, 6 ≤ x.toNat ∨ 6 ≤ w.toNat → ∀ ints toFloat toInt floats : Bool,
      (if x.toNat < 3 && w.toNat < 3 then ints else if x.toNat < 3 && isFloatTy w then toFloat
        else if isFloatTy x && w.toNat < 3 then toInt else if isFloatTy x && isFloatTy w then floats
        else (isFloatTy x && 6 ≤ w.toNat) || (6 ≤ x.toNat && isFloatTy w)) = true →
      isFloatTy x = true ∧ 6 ≤ w.toNat ∨ 6 ≤ x.toNat ∧ isFloatTy w = true := by decide
  have ok := (Bool.and_eq_true_iff.mp (Bool.and_eq_true_iff.mp (Bool.and_eq_true_iff.mp (Bool.and_eq_true_iff.mp h).1).1).1).1
  exact pair x w hb _ _ _ _ ok

theorem cvtOk_to_block {m x w : BitVec 3} {b a d : Reg} (h : cvtOk m x w b a d = true) (hw : 6 ≤ w.toNat) :
    x.toNat < 6 ∧ cvtExact x w = false := by
  have ty : ∀ x w : BitVec 3, 6 ≤ w.toNat → (isFloatTy x = true ∧ 6 ≤ w.toNat ∨ 6 ≤ x.toNat ∧ isFloatTy w = true) →
      x.toNat < 6 ∧ cvtExact x w = false := by decide
  exact ty x w hw (cvtOk_block h (.inr hw))

theorem cvtOk_of_block {m x w : BitVec 3} {b a d : Reg} (h : cvtOk m x w b a d = true) (hx : 6 ≤ x.toNat) :
    w.toNat < 6 ∧ ¬ x.toNat < 3 ∧ ¬ w.toNat < 3 ∧ (cvtExact x w = false ↔ w = 4) := by
  have ty : ∀ x w : BitVec 3, 6 ≤ x.toNat → (isFloatTy x = true ∧ 6 ≤ w.toNat ∨ 6 ≤ x.toNat ∧ isFloatTy w = true) →
      w.toNat < 6 ∧ ¬ x.toNat < 3 ∧ ¬ w.toNat < 3 ∧ (cvtExact x w = false ↔ w = 4) := by decide
  exact ty x w hx (cvtOk_block h (.inl hx))

theorem cvtCount_block {x w : BitVec 3} (hb : 6 ≤ x.toNat ∨ 6 ≤ w.toNat) : cvtCount x w = 32 :=
  if_pos (Bool.or_eq_true_iff.mpr (hb.imp decide_eq_true decide_eq_true))

section
variable (s : State) (a b : Reg) {w x : BitVec 3} (m : BitVec 3)

theorem State.cvtBlock_eq (hx : x.toNat < 6) (hw : 6 ≤ w.toNat) : s.cvtBlock a b w x m =
    toBlock (w == 7) (s.cvtMode m) (fun i => (s.rndMode (s.cvtMode m) i).draw)
      ((List.range 32).map fun i => (fmtOf x).decode (bits (s.regGroup a (cvtGroup 32 x)) (i * elemBits x) (elemBits x))) := by
  have datum : s.cvtDatum a b w x = fun i => (fmtOf x).decode (s.cvtEl a w x i) := funext fun i => if_neg (Nat.not_le.mpr hx)
  have el : s.cvtEl a w x = fun i => bits (s.regGroup a (cvtGroup 32 x)) (i * elemBits x) (elemBits x) := by
    rw [← cvtCount_block (x := x) (w := w) (.inr hw)]
    rfl
  rw [State.cvtBlock, datum, el, cvtCount_block (.inr hw)]

theorem State.cvtOut_of_block (hx : 6 ≤ x.toNat) (hx3 : ¬ x.toNat < 3) (hw3 : ¬ w.toNat < 3) (i : ℕ) : s.cvtOut a b w x m i =
    (fmtOf w).ofFp (s.rndMode (s.cvtMode m) i) (blockElem (x == 7) (bits (s.regGroup a (cvtGroup 32 x)) (i * elemBits x) (elemBits x))
      ((s.s b).toNat % 256) ((s.s b).toNat / 256 % 256)) := by
  have el : s.cvtEl a w x i = bits (s.regGroup a (cvtGroup 32 x)) (i * elemBits x) (elemBits x) := by
    rw [← cvtCount_block (x := x) (w := w) (.inl hx)]
    rfl
  rw [← el]
  exact (if_neg hx3).trans ((if_neg hw3).trans (congrArg _ (if_pos hx)))

end

end Sys2Proof.Machine
end

section
open Sys2Proof Sys2Proof.Machine

/-- Settles O32: an element of the destination is the conversion of one of the source, or of the block; legality settles the draws. -/
theorem conversions : Obligations.Conversions := by
  refine ⟨fun d a b w x m s hx hw he => ?_, fun d a b w x m s he => ?_⟩
  · intro n sw dw el mode r int out
    exact vcvt_runs_as rfl Iff.rfl he hw fun i => by
      rw [State.cvtOut, State.cvtDatum, if_neg (Nat.not_le.mpr hx), intOf_eq]
      rfl
  · intro sw dw el mode r
    refine ⟨fun hw => ?_, fun hx => ?_⟩
    · intro blk
      obtain ⟨hx, rounds⟩ := cvtOk_to_block (vcvt_ok he) hw
      exact vcvt_block_runs_as (cvtCount_block (.inr hw)) (and_iff_left rounds) he hw (s.cvtBlock_eq a b m hx hw)
    · intro out
      obtain ⟨hw, hx3, hw3, rounds⟩ := cvtOk_of_block (vcvt_ok he) hx
      exact vcvt_runs_as (cvtCount_block (.inl hx)) (and_congr_right' rounds) he hw fun i => s.cvtOut_of_block a b m hx hx3 hw3 i

end

section
/-! SUPPORT. Atomics: what they read and write, in the rows and the window, and in the global space (R228-R230). -/
namespace Sys2Proof.Machine

/-! ### The operation -/

theorem Memory.read_lt (m : List Host.Cell) (a n : ℕ) : Memory.read m a n < 2 ^ (8 * n) := by
  induction n generalizing a with
  | zero => exact Nat.one_pos
  | succ n ih =>
    have byte := (Memory.get m a).isLt
    rw [Memory.read_succ, Nat.mul_succ, Nat.pow_add, Nat.mul_comm (2 ^ (8 * n))]
    calc _ < 256 + 256 * Memory.read m (a + 1) n := Nat.add_lt_add_right byte _
      _ = 256 * (Memory.read m (a + 1) n + 1) := by rw [Nat.mul_succ, Nat.add_comm]
      _ ≤ _ := Nat.mul_le_mul_left 256 (ih (a + 1))

theorem sext_inj {x y n : ℕ} (hx : x < 2 ^ n) (hy : y < 2 ^ n) (h : sext x n = sext y n) : x = y := by
  obtain rfl | hn := n.eq_zero_or_pos
  · rw [Nat.lt_one_iff.mp hx, Nat.lt_one_iff.mp hy]
  · rw [sext_eq_toInt x hn.ne', sext_eq_toInt y hn.ne', BitVec.toInt_inj, BitVec.toNat_eq, BitVec.toNat_ofNat, BitVec.toNat_ofNat,
      Nat.mod_eq_of_lt hx, Nat.mod_eq_of_lt hy] at h
    exact h

/-- The greater of two, from either side. -/
theorem greater_comm {p q : ℤ} {x y : ℕ} (h : p = q → x = y) : (if q ≤ p then x else y) = if p ≤ q then y else x := by
  obtain hlt | heq | hgt := lt_trichotomy p q
  · rw [if_neg (not_le.mpr hlt), if_pos hlt.le]
  · rw [if_pos heq.ge, if_pos heq.le, h heq]
  · rw [if_pos hgt.le, if_neg (not_le.mpr hgt)]

theorem amoNew_max {n old : ℕ} (b cmp : ℕ) (h : old < 2 ^ (8 * n)) : amoNew 6 n old b cmp =
    (some (if sext old (8 * n) ≤ sext (b % 2 ^ (8 * n)) (8 * n) then b % 2 ^ (8 * n) else old), 0) :=
  congrArg (fun v => (some v, 0)) (greater_comm (sext_inj h (Nat.mod_lt b (Nat.two_pow_pos (8 * n)))))

theorem amoNew_minu (n old b cmp : ℕ) : amoNew 7 n old b cmp =
    (some (if old ≤ b % 2 ^ (8 * n) then old else b % 2 ^ (8 * n)), 0) := congrArg (fun v => (some v, 0)) Nat.min_def

theorem amoNew_maxu (n old b cmp : ℕ) : amoNew 8 n old b cmp =
    (some (if old ≤ b % 2 ^ (8 * n) then b % 2 ^ (8 * n) else old), 0) := congrArg (fun v => (some v, 0)) Nat.max_def

/-- The register result of every AMO but AMOFADD (R229). -/
theorem amoOld_of_integer {fn : ℕ} (hfn : fn ≠ 10) (z : BitVec 1) (old : ℕ) : BitVec.ofNat 64 (amoOld fn (amoSize z) old) =
    if z = 0 then BitVec.ofInt 64 (sext old 32) else BitVec.ofNat 64 old := by
  unfold amoOld amoSize
  by_cases hz : z = 0
  · rw [if_pos hz, if_pos hz, if_pos (by simpa using hfn), BitVec.ofNat_toNat, BitVec.setWidth_eq]
    rfl
  · rw [if_neg hz, if_neg hz]
    rfl

/-- What the place holds after a write of `new`, if there is one. -/
def StoredOpt (m m' : List Host.Cell) (key n : ℕ) : Option ℕ → Prop
  | some v => Stored m m' key n v
  | none => m' = m

/-- The state after an AMO is made on the rows. -/
noncomputable def State.amoNow (s : State) (c x n : ℕ) : Option ℕ → State
  | some v => { s with pad := Memory.writeMasked s.pad (padKey c x) (2 ^ n - 1) n v, badPad := healed s.badPad (padKey c x) n }
  | none => s

/-- The same, its entry of `late` used up. -/
noncomputable def State.amoAt (s : State) (c x n : ℕ) (new : Option ℕ) : State := { s.amoNow c x n new with late := s.late.tail }

theorem State.amoAt_stored {s : State} (c x n : ℕ) (new : Option ℕ) (h : s.MemoryOk) :
    StoredOpt s.pad (s.amoAt c x n new).pad (padKey c x) n new := by
  cases new with
  | none => rfl
  | some v => exact Memory.stored_writeMasked _ _ _ _ h.2 fun j hj => by simpa [Nat.testBit_two_pow_sub_one] using hj

theorem State.amoAt_cur (s : State) (c x n : ℕ) (new : Option ℕ) : (s.amoAt c x n new).cur = s.cur := by
  cases new <;> rfl

theorem State.amoAt_eq (s : State) (c x n : ℕ) (new : Option ℕ) :
    s.amoAt c x n new = { s.timed with pad := (s.amoAt c x n new).pad, badPad := (s.amoAt c x n new).badPad } := by
  cases new <;> rfl

/-! ### In the rows and the window -/

theorem bind_ok {α β : Type} {x : Except Stop α} {a : α} {f : α → Except Stop β} (h : x = .ok a) : (x >>= f) = f a := by
  rw [h]
  rfl

section
variable {s : State} {i : Instr} {fn n : ℕ} {d a b : Reg} {pl : Place} {key : ℕ} {chk : Bool}

section
variable {s : State} {c x n fn b cmp ea : ℕ} {d : Reg}

/-- What an AMO on rows that can be reached now leaves (R217, R223, R229, log 16). -/
noncomputable def State.amoDone (s : State) (c x fn n b cmp ea : ℕ) (d : Reg) : State :=
  if s.late.headD false then s.timed.launched (s.lockedTo ea (.pad c x) (.amo fn n b cmp) d none)
  else ((s.amoAt c x n (amoNew fn n (s.padRead c x n) b cmp).1).setS d (BitVec.ofNat 64 (amoOld fn n (s.padRead c x n)))).raise
    (amoNew fn n (s.padRead c x n) b cmp).2

theorem State.perform_amo (s : State) (c x fn n b cmp : ℕ) : s.perform (.pad c x) 0 (.amo fn n b cmp) =
    some (s.amoNow c x n (amoNew fn n (s.padRead c x n) b cmp).1, amoOld fn n (s.padRead c x n),
      (amoNew fn n (s.padRead c x n) b cmp).2, true) := by
  refine Eq.trans (b := match (amoNew fn n (s.padRead c x n) b cmp).1 with
    | some v => some (s.amoNow c x n (some v), amoOld fn n (s.padRead c x n), (amoNew fn n (s.padRead c x n) b cmp).2, true)
    | none => some (s, amoOld fn n (s.padRead c x n), (amoNew fn n (s.padRead c x n) b cmp).2, true)) rfl ?_
  cases (amoNew fn n (s.padRead c x n) b cmp).1 <;> rfl

theorem bind_error {α β : Type} {x : Except Stop α} {e : Stop} {f : α → Except Stop β} (h : x = .error e) : (x >>= f) = .error e := by
  rw [h]
  rfl

/-- 32 updates of the context are outstanding and this one is for another member's rows, or its word is taken (R223, log 9). -/
noncomputable def State.amoBlocked (s : State) (c x n : ℕ) : Bool := 32 ≤ s.storesOut && !s.ownRows (.pad c x) || s.wordTaken (.pad c x) n

theorem State.ownRows_pad (s : State) (c x : ℕ) : s.ownRows (.pad c x) = (c == s.now.cell) := rfl

theorem State.amoBlocked_eq_true (h : c ≠ s.now.cell ∧ 32 ≤ s.storesOut ∨ s.wordTaken (.pad c x) n = true) : s.amoBlocked c x n = true := by
  unfold State.amoBlocked
  obtain ⟨other, full⟩ | taken := h
  · rw [State.ownRows_pad, beq_false_of_ne other, decide_eq_true full]
    rfl
  · rw [taken, Bool.or_true]

theorem State.amoBlocked_eq_false (room : c = s.now.cell ∨ s.storesOut < 32) (hw : s.wordTaken (.pad c x) n = false) :
    s.amoBlocked c x n = false := by
  rw [State.amoBlocked, hw, Bool.or_false]
  obtain own | few := room
  · rw [State.ownRows_pad, own, beq_self_eq_true, Bool.not_true, Bool.and_false]
  · rw [decide_eq_false (Nat.not_le.mpr few), Bool.false_and]

theorem State.nearResult_amo (hb : s.homeBusy (.pad c x) = false) (hr : s.rowsHeld (.pad c x) = false) (hg : s.placeBad (.pad c x) = false)
    (room : c = s.now.cell ∨ s.storesOut < 32) (hw : s.wordTaken (.pad c x) n = false) :
    s.nearResult (some (.pad c x)) ea (.amo fn n b cmp) d = .ok (s.amoDone c x fn n b cmp ea d) := by
  have free : (s.homeBusy (.pad c x) || s.rowsHeld (.pad c x) || s.amoBlocked c x n) = false := by
    rw [hb, hr, State.amoBlocked_eq_false room hw]
    rfl
  have hl : s.nearLoad (some (.pad c x)) ea true (.amo fn n b cmp) = .ok (s.amoNow c x n (amoNew fn n (s.padRead c x n) b cmp).1,
      amoOld fn n (s.padRead c x n), (amoNew fn n (s.padRead c x n) b cmp).2, true) := by
    refine (if_neg (Bool.eq_false_iff.mp free)).trans ((if_neg (Bool.eq_false_iff.mp hg)).trans ?_)
    rw [State.perform_amo]
  refine (bind_ok hl).trans ?_
  unfold State.amoDone
  cases s.late.headD false <;> rfl

theorem State.nearResult_amo_holds (h : c ≠ s.now.cell ∧ 32 ≤ s.storesOut ∨ s.wordTaken (.pad c x) n = true) :
    s.nearResult (some (.pad c x)) ea (.amo fn n b cmp) d = .error .hold := by
  have held : (s.homeBusy (.pad c x) || s.rowsHeld (.pad c x) || s.amoBlocked c x n) = true := by
    rw [State.amoBlocked_eq_true h, Bool.or_true]
  have stop : s.nearLoad (some (.pad c x)) ea true (.amo fn n b cmp) = .error .hold := if_pos held
  exact bind_error stop

/-! ### How an AMO issues -/

section
variable {i : Instr} {a b : Reg} {u : BitVec 2} {new : Option ℕ} {fl : BitVec 5} {res : Word}

theorem amoBody_near (i : Instr) (fn n : ℕ) (d a b : Reg) (hu : u = 1 ∨ u = 2) (s : State) : amoBody i fn n d a b u s =
    (whenAligned (s.s a).toNat n (s.nearResult (if u = 2 then s.windowPlace (s.s a).toNat else s.localPlace (s.s a).toNat) (s.s a).toNat
      (.amo fn n (s.s b).toNat (s.s d).toNat) d)).map fun t => { s := t } := by
  rw [← bind_aligned]
  unfold amoBody
  have : u ≠ 0 := by rintro rfl; exact absurd hu (by decide)
  simp only [if_neg this]

theorem amo_near (he : exec i s = issue i s (amoBody i fn n d a b u)) (hnew : amoNew fn n (s.padRead c x n) (s.s b).toNat (s.s d).toNat = (new, fl))
    (hres : BitVec.ofNat 64 (amoOld fn n (s.padRead c x n)) = res) (hm : s.MemoryOk) (hx : Executes i s) (hu : u = 1 ∨ u = 2)
    (ha : (s.s a).toNat % n = 0)
    (hp : (if u = 2 then s.windowPlace (s.s a).toNat else s.localPlace (s.s a).toNat) = some (.pad c x))
    (hb : s.homeBusy (.pad c x) = false) (hr : s.rowsHeld (.pad c x) = false) (hg : s.placeBad (.pad c x) = false) :
    (c ≠ s.now.cell ∧ 32 ≤ s.storesOut ∨ s.wordTaken (.pad c x) n = true → exec i s = .next s) ∧
    (c = s.now.cell ∨ s.storesOut < 32 → s.wordTaken (.pad c x) n = false →
      (s.late.headD false = false → ∃ pad' bad',
        Runs i s ((State.setS { s.timed with pad := pad', badPad := bad' } d res).raise fl) ∧ StoredOpt s.pad pad' (padKey c x) n new) ∧
      (s.late.headD false = true →
        Runs i s (s.timed.launched (s.lockedTo (s.s a).toNat (.pad c x) (.amo fn n (s.s b).toNat (s.s d).toNat) d none)))) := by
  have body := amoBody_near i fn n d a b hu s
  rw [whenAligned_of_aligned ha, hp] at body
  constructor
  · intro h
    rw [State.nearResult_amo_holds h] at body
    exact he.trans (issue_hold hx body)
  · intro room hw
    rw [State.nearResult_amo hb hr hg room hw] at body
    unfold State.amoDone at body
    constructor <;> intro hl <;> rw [hl] at body
    · rw [if_neg Bool.false_ne_true, hnew, hres] at body
      have runs := Issues.runs ⟨_, he, body⟩ hx
        ((State.raise_stepping _ _).trans ((State.cur_setS_stepping ..).trans (by rw [s.amoAt_cur])))
      exact ⟨_, _, s.amoAt_eq c x n new ▸ runs, s.amoAt_stored c x n new hm⟩
    · exact Issues.runs ⟨_, he, body⟩ hx rfl

end

end

/-! ### In the global space -/

/-- The access of an AMO before it has a home. -/
noncomputable def State.amoAccess (s : State) (i : Instr) (fn n : ℕ) (d a b : Reg) : Access :=
  { Access.of (s.s a).toNat (.hbm 0) (.amo fn n (s.s b).toNat (s.s d).toNat) (.s d) with
    word := value i s.now.sw, data := (s.s b).toNat + 2 ^ 64 * (s.s d).toNat }

theorem amoBody_global (i : Instr) (fn n : ℕ) (d a b : Reg) (s : State) : amoBody i fn n d a b 0 s =
    (whenAligned (s.s a).toNat n (s.global true (s.amoAccess i fn n d a b))).map fun t => { s := t } :=
  bind_aligned ..

theorem amo_global (he : exec i s = issue i s (amoBody i fn n d a b 0)) (hm : s.Mapped (s.s a).toNat true pl key chk) (hx : Executes i s)
    (ha : (s.s a).toNat % n = 0) :
    Runs i s (s.launched (s.issuedTo i (s.s a).toNat pl key chk (.amo fn n (s.s b).toNat (s.s d).toNat) (.s d)
      ((s.s b).toNat + 2 ^ 64 * (s.s d).toNat))) := by
  have body := amoBody_global i fn n d a b s
  rw [whenAligned_of_aligned ha, State.global_at (a := s.amoAccess i fn n d a b) hm.low hm.free (fun _ => hm.room rfl) hm.home hm.near] at body
  exact Issues.runs ⟨_, he, body⟩ hx rfl

/-! ### AMOBFPADD (R230) -/

/-- The operands that it reads, in one number. -/
noncomputable abbrev State.bfpOps (s : State) (d a b : Reg) : ℕ := (s.s b).toNat + 2 ^ 64 * (s.s d).toNat + 2 ^ 128 * (s.s a).toNat

theorem State.bfpOps_parts (s : State) (d a b : Reg) : bits (s.bfpOps d a b) 0 64 = (s.s b).toNat ∧ s.bfpOps d a b / 2 ^ 128 = (s.s a).toNat ∧
    s.bfpOps d a b % 2 ^ 128 = (s.s b).toNat + 2 ^ 64 * (s.s d).toNat := by
  have hb := (s.s b).isLt
  have hd := (s.s d).isLt
  have small : (s.s b).toNat + 2 ^ 64 * (s.s d).toNat < 2 ^ 128 := by omega
  unfold State.bfpOps
  refine ⟨?_, ?_, ?_⟩
  · rw [bits_zero, Nat.add_assoc, show (2 : ℕ) ^ 128 = 2 ^ 64 * 2 ^ 64 from rfl, Nat.mul_assoc, ← Nat.mul_add, Nat.add_mul_mod_self_left,
      Nat.mod_eq_of_lt hb]
  · rw [Nat.add_mul_div_left _ _ (Nat.two_pow_pos 128), Nat.div_eq_of_lt small, Nat.zero_add]
  · rw [Nat.add_mul_mod_self_left, Nat.mod_eq_of_lt small]

theorem State.localOk_byte {s : State} {n : ℕ} {x : Ctx} {a k j : ℕ} (h : s.localOk n x a k = true) (hj : j < k) :
    s.localOk n x (a + j) 1 = true := by
  have hk : (k == 0) = false := beq_false_of_ne (Nat.ne_zero_of_lt hj)
  rw [State.localOk, hk, Bool.false_or, Bool.and_eq_true, decide_eq_true_eq, decide_eq_true_eq] at h
  obtain ⟨rows, backed⟩ := h
  have row : (a + j + 1 - 1) / 128 ≤ (a + k - 1) / 128 := Nat.div_le_div_right (Nat.sub_le_sub_right (Nat.add_le_add_left hj a) 1)
  rw [State.localOk, Bool.or_eq_true, Bool.and_eq_true, decide_eq_true_eq, decide_eq_true_eq]
  exact .inr ⟨(Nat.add_le_add_left hj a).trans rows, (Nat.add_le_add_left row _).trans_lt backed⟩

theorem State.bfpaddBlock_ok {blk : ℕ} (h : s.BlockOk blk 48 16) : s.bfpaddBlock blk = .ok () := by
  have inside : (List.range 48).find? (fun j => !s.localOk s.now.cell s.cur (blk + j) 1) = none := by
    rw [List.find?_eq_none]
    intro j hj
    rw [State.localOk_byte h.inRows (List.mem_range.mp hj)]
    decide
  unfold State.bfpaddBlock
  rw [if_neg (not_not_intro h.aligned), inside]
  exact State.block_ok h

theorem ofBytes_bytes (m : List Host.Cell) (k n : ℕ) : ofBytes (Memory.bytes m k n) = Memory.read m k n := by
  induction n generalizing k with
  | zero => rfl
  | succ n ih =>
    rw [Memory.read_succ, ← ih, Memory.bytes, List.range_succ_eq_map, List.map_cons, List.map_map, ofBytes]
    simp only [Memory.bytes, Function.comp_def, Nat.succ_eq_add_one, Nat.add_zero, Nat.add_assoc, Nat.add_comm 1]

theorem drop_bytes (m : List Host.Cell) (k j n : ℕ) : (Memory.bytes m k (j + n)).drop j = Memory.bytes m (k + j) n := by
  refine List.ext_getElem (by simp [Memory.bytes]) fun i _ _ => ?_
  simp [Memory.bytes, Nat.add_assoc]

/-- The VA of the pair is the block's last word. -/
theorem ofBytes_drop_localBytes (blk : ℕ) : ofBytes ((s.localBytes blk 48).drop 40) = s.localRead (blk + 40) 8 := by
  have key : padKey s.now.cell (s.localAddr s.now.cell s.cur (blk + 40)) = padKey s.now.cell (s.localAddr s.now.cell s.cur blk) + 40 := by
    simp only [padKey, State.localAddr, Nat.add_assoc]
  rw [State.localRead, State.padRead, ← ofBytes_bytes, key, ← drop_bytes]
  rfl

/-- An access whose home is in this module leaves at once (R178). -/
theorem State.send_place (s : State) (acc : Access) {pl : Place} (h : ∀ dev pa, pl ≠ .remote dev pa) :
    s.send { acc with place := pl } = some (s.enter { acc with place := pl }) := by
  cases pl with
  | remote dev pa => exact absurd rfl (h dev pa)
  | _ => rfl

theorem State.send_near (s : State) {acc : Access} (h : ∀ dev pa, acc.place ≠ .remote dev pa) : s.send acc = some (s.enter acc) :=
  s.send_place acc h

/-- The home of a PA where this module has it: a remote PA of the module itself is one of its own. -/
noncomputable def State.ownHome (s : State) (p : Place) : Place :=
  match p with
  | .remote d a => if d = s.devidx.toNat then .hbm a else p
  | p => p

theorem State.bfpHomes_eq (s : State) (p p' : Place) : s.bfpHomes p p' =
    if sameStack p p' then some (p, p') else if sameStack (s.ownHome p) (s.ownHome p') then some (s.ownHome p, s.ownHome p') else none := by
  rfl

theorem State.ownHome_remote (s : State) (dev a : ℕ) : s.ownHome (.remote dev a) =
    if dev = s.devidx.toNat then .hbm a else .remote dev a := rfl

theorem State.ownHome_near (s : State) {p : Place} (h : ∀ dev pa, p ≠ .remote dev pa) : s.ownHome p = p := by
  cases p with
  | remote dev pa => exact absurd rfl (h dev pa)
  | _ => rfl

theorem State.bfpHomes_near (s : State) {pl pl' : Place} (h : ∀ dev pa, pl ≠ .remote dev pa) (h' : ∀ dev pa, pl' ≠ .remote dev pa) :
    s.bfpHomes pl pl' = if sameStack pl pl' then some (pl, pl') else none := by
  rw [s.bfpHomes_eq, s.ownHome_near h, s.ownHome_near h']
  cases sameStack pl pl' <;> rfl

/-- One home given as a PA of HBM and the other as a PA of module `dev` (R178). -/
theorem State.bfpHomes_mixed (s : State) (dev x y : ℕ) :
    let here := if dev = s.devidx.toNat ∧ (bankOf x).1 = (bankOf y).1 then some (Place.hbm x, Place.hbm y) else none
    s.bfpHomes (.hbm x) (.remote dev y) = here ∧ s.bfpHomes (.remote dev x) (.hbm y) = here := by
  intro here
  have left : s.bfpHomes (.hbm x) (.remote dev y) = if sameStack (.hbm x) (s.ownHome (.remote dev y)) then
      some (.hbm x, s.ownHome (.remote dev y)) else none := (s.bfpHomes_eq ..).trans (if_neg Bool.false_ne_true)
  have right : s.bfpHomes (.remote dev x) (.hbm y) = if sameStack (s.ownHome (.remote dev x)) (.hbm y) then
      some (s.ownHome (.remote dev x), .hbm y) else none := (s.bfpHomes_eq ..).trans (if_neg Bool.false_ne_true)
  rw [left, right, s.ownHome_remote, s.ownHome_remote]
  by_cases own : dev = s.devidx.toNat
  · have both : (if sameStack (.hbm x) (.hbm y) then some (Place.hbm x, Place.hbm y) else none) = here :=
      ite_congr (propext ⟨fun h => ⟨own, beq_iff_eq.mp h⟩, fun h => beq_iff_eq.mpr h.2⟩) (fun _ => rfl) fun _ => rfl
    rw [if_pos own, if_pos own]
    exact ⟨both, both⟩
  · have neither : none = here := (if_neg fun h => own h.1).symm
    rw [if_neg own, if_neg own]
    exact ⟨neither, neither⟩

/-- The access in which an AMOBFPADD leaves for its home. -/
noncomputable def State.bfpLeaves (s : State) (i : Instr) (d a b : Reg) (pl : Place) (key : ℕ) (chk : Bool)
    (pl' : Place) (key' : ℕ) (chk' : Bool) : Access :=
  { s.issuedTo i (s.s a).toNat pl key chk (.bfpadd (s.localBytes (s.s b).toNat 48) pl' key' chk') (.s d)
      ((s.s b).toNat + 2 ^ 64 * (s.s d).toNat) with second := some (s.localRead ((s.s b).toNat + 40) 8) }

/-- Taking a block changes nothing that the way of an access depends on. -/
theorem State.tookBlock_translate (s : State) (va : ℕ) (w : Bool) : s.tookBlock.translate va w = s.translate va w := rfl

theorem State.tookBlock_granuleHeld (s : State) (va : ℕ) : s.tookBlock.granuleHeld va = s.granuleHeld va := rfl

theorem State.tookBlock_storesOut (s : State) : s.tookBlock.storesOut = s.storesOut := rfl

theorem bfpaddBody_mapped {pl' : Place} {key' : ℕ} {chk' : Bool} (h1 : s.AtOnce) (hb : s.BlockOk (s.s b).toNat 48 16) (ha : (s.s a).toNat % 32 = 0)
    (hp : s.localRead ((s.s b).toNat + 40) 8 % 2 = 0) (hm : s.Mapped (s.s a).toNat true pl key chk)
    (hm' : s.Mapped (s.localRead ((s.s b).toNat + 40) 8) true pl' key' chk') : bfpaddBody i d a b s =
      if sameStack pl pl' then .ok { s := s.tookBlock.launched (s.bfpLeaves i d a b pl key chk pl' key' chk') }
      else .error (.trap causePerm (BitVec.ofNat 64 (s.s a).toNat)) := by
  obtain ⟨low, high, data⟩ := s.bfpOps_parts d a b
  rw [← State.kept_of_nil h1.fresh (s.bfpOps d a b)] at low high data
  have pair : ofBytes ((s.tookBlock.localBytes (bits (s.kept (s.bfpOps d a b)) 0 64) 48).drop 40) = s.localRead ((s.s b).toNat + 40) 8 :=
    by rw [low]; exact ofBytes_drop_localBytes ..
  have block : s.bfpaddBlock (bits (s.kept (s.bfpOps d a b)) 0 64) = .ok () := by
    rw [low]
    exact State.bfpaddBlock_ok hb
  have va : aligned (s.kept (s.bfpOps d a b) / 2 ^ 128) 32 = .ok () := by
    rw [high]
    exact if_pos ha
  have read := State.gather_whole (s := s) (s.kept (s.bfpOps d a b)) 1 (bits (s.kept (s.bfpOps d a b)) 0 64) 48 (by rw [h1.first]) h1.whole
  have even : aligned (ofBytes ((s.tookBlock.localBytes (bits (s.kept (s.bfpOps d a b)) 0 64) 48).drop 40)) 2 = .ok () := by
    rw [pair]
    exact if_pos hp
  have held : ¬ (s.tookBlock.granuleHeld (s.kept (s.bfpOps d a b) / 2 ^ 128) || s.tookBlock.granuleHeld (ofBytes ((s.tookBlock.localBytes
      (bits (s.kept (s.bfpOps d a b)) 0 64) 48).drop 40)) || decide (32 ≤ s.tookBlock.storesOut)) = true := by
    rw [s.tookBlock_granuleHeld, s.tookBlock_granuleHeld, s.tookBlock_storesOut, high, pair, hm.free, hm'.free,
      decide_eq_false (Nat.not_le.mpr (hm.room rfl))]
    exact Bool.false_ne_true
  have home : s.tookBlock.translate (s.kept (s.bfpOps d a b) / 2 ^ 128) true = .at ⟨pl, key, chk⟩ := by
    rw [s.tookBlock_translate, high]
    exact hm.home
  have home' : s.tookBlock.translate (ofBytes ((s.tookBlock.localBytes (bits (s.kept (s.bfpOps d a b)) 0 64) 48).drop 40)) true =
      .at ⟨pl', key', chk'⟩ := by
    rw [s.tookBlock_translate, pair]
    exact hm'.home
  have bad : s.tookBlock.badLocal (s.s b).toNat 48 = none := hb.good
  have pair' : ofBytes ((s.tookBlock.localBytes (s.s b).toNat 48).drop 40) = s.localRead ((s.s b).toNat + 40) 8 := ofBytes_drop_localBytes ..
  refine (bind_ok block).trans ((bind_ok va).trans ((bind_ok read).trans ((bind_ok even).trans
    ((if_neg (Nat.not_le.mpr (high.trans_lt hm.low))).trans ((if_neg (Nat.not_le.mpr (pair.trans_lt hm'.low))).trans ((if_neg held).trans ?_))))))
  rw [home, home']
  dsimp only
  rw [State.bfpHomes_near _ hm.near hm'.near]
  cases sameStack pl pl'
  · exact congrArg (fun va => Except.error (Stop.trap causePerm (BitVec.ofNat 64 va))) high
  · refine (bind_ok (by rw [low, bad])).trans ?_
    rw [State.send_near _ hm.near, low, high, data, pair']
    rfl

end

end Sys2Proof.Machine
end

section
open Sys2Proof Sys2Proof.Machine

/-- Settles O35: near AMOs share one body and one answer, global ones leave through `State.global`; an AMOBFPADD by the stack of its homes. -/
theorem atomics : Obligations.Atomics := by
  refine ⟨fun d a b z u s c x hm => ?_, fun d a b z s pl key chk => ?_, fun s dev x y => ?_⟩
  · intro ea n w old y old4 sum done
    have lt : old < 2 ^ (8 * n) := Memory.read_lt ..
    have hres : ∀ fn, fn ≠ 10 → _ := fun _ h => amoOld_of_integer h z old
    constructor
    · exact forall_cons (amo_near (exec_amoswap ..) rfl (hres 0 (by decide)) hm) <|
        forall_cons (amo_near (exec_amoadd ..) rfl (hres 1 (by decide)) hm) <|
        forall_cons (amo_near (exec_amoand ..) rfl (hres 2 (by decide)) hm) <| forall_cons (amo_near (exec_amoor ..) rfl (hres 3 (by decide)) hm) <|
        forall_cons (amo_near (exec_amoxor ..) rfl (hres 4 (by decide)) hm) <| forall_cons (amo_near (exec_amomin ..) rfl (hres 5 (by decide)) hm) <|
        forall_cons (amo_near (exec_amomax ..) (amoNew_max _ _ lt) (hres 6 (by decide)) hm) <|
        forall_cons (amo_near (exec_amominu ..) (amoNew_minu ..) (hres 7 (by decide)) hm) <|
        forall_cons (amo_near (exec_amomaxu ..) (amoNew_maxu ..) (hres 8 (by decide)) hm) <|
        forall_cons (amo_near (exec_amocas ..) rfl (hres 9 (by decide)) hm) (List.forall_mem_nil _)
    · exact amo_near (exec_amofadd ..) rfl rfl hm
  · intro ea n data
    refine ⟨fun hm => ⟨?_, fun hx => amo_global (exec_amofadd ..) hm hx⟩, ?_⟩
    · exact forall_cons (amo_global (exec_amoswap ..) hm) <| forall_cons (amo_global (exec_amoadd ..) hm) <|
        forall_cons (amo_global (exec_amoand ..) hm) <| forall_cons (amo_global (exec_amoor ..) hm) <| forall_cons (amo_global (exec_amoxor ..) hm) <|
        forall_cons (amo_global (exec_amomin ..) hm) <| forall_cons (amo_global (exec_amomax ..) hm) <|
        forall_cons (amo_global (exec_amominu ..) hm) <| forall_cons (amo_global (exec_amomaxu ..) hm) <|
        forall_cons (amo_global (exec_amocas ..) hm) (List.forall_mem_nil _)
    · intro pl' key' chk' blk pair hx h1 hb ha hp hm hm'
      have body := bfpaddBody_mapped (i := .amobfpadd d a b) (d := d) h1 hb ha hp hm hm'
      split
      · next same =>
        rw [if_pos same] at body
        exact Issues.runs ⟨_, exec_amobfpadd .., body⟩ hx rfl
      · next other =>
        rw [if_neg other] at body
        exact Issues.traps ⟨_, exec_amobfpadd .., body⟩ hx
  · exact s.bfpHomes_mixed dev x y

end

section
/-! SUPPORT. The special functions: square roots by their squares, powers of two and their logarithms (R166). -/
namespace Sys2Proof.Machine

/-! ### Values known between two grid points -/

theorem Mag.val_between (n : ℕ) (e : ℤ) : (Mag.between n e).val = (2 * n + 1 : ℕ) * 2 ^ (e - 1) :=
  Mag.val_ofDyadic _ _

/-- A power of two in units of a smaller one. -/
theorem two_zpow_split (e : ℤ) (n : ℕ) : (2 : ℚ) ^ e = (2 ^ n : ℕ) * 2 ^ (e - n) := by
  rw [Nat.cast_pow, Nat.cast_ofNat, ← zpow_natCast, ← zpow_add₀ two_ne_zero, add_sub_cancel]

theorem compare_mul_unit {u : ℚ} (hu : 0 < u) (j n : ℕ) : Ord.compare (j * u) (n * u) = Ord.compare j n := by
  rw [← cmp_eq_compare, ← cmp_eq_compare, cmp_mul_pos_right hu, Nat.strictMono_cast.cmp_map_eq]

/-- A value between two neighbours of a grid compares with every point of it as the middle of the two does. -/
theorem cutsAt_between {v : ℚ → Ordering} {n : ℕ} {e s : ℤ} (hs : e ≤ s) (below : ∀ k : ℕ, k ≤ n → v (k * 2 ^ e) = .lt)
    (above : ∀ k : ℕ, n < k → v (k * 2 ^ e) = .gt) : CutsAt v (Mag.between n e).val (2 ^ s) false := by
  intro k hk
  obtain ⟨k, rfl⟩ := Int.eq_ofNat_of_zero_le (hk.resolve_right Bool.false_ne_true)
  obtain ⟨d, rfl⟩ := Int.le.dest hs
  have point : ((k : ℤ) * 2 ^ (e + d) : ℚ) = ((k * 2 ^ d : ℕ) : ℚ) * 2 ^ e := by
    rw [two_zpow_split (e + d) d, add_sub_cancel_right, Int.cast_natCast, ← mul_assoc, ← Nat.cast_mul]
  have half (j : ℕ) : Ord.compare (j * 2 ^ e : ℚ) (Mag.between n e).val = Ord.compare (j * 2 ^ 1) (2 * n + 1) := by
    rw [Mag.val_between, two_zpow_split e 1, ← mul_assoc, ← Nat.cast_mul]
    exact compare_mul_unit (two_zpow_pos _) _ _
  rw [point, half]
  generalize k * 2 ^ d = j
  obtain h | h := Nat.lt_or_ge n j
  · rw [above j h, eq_comm, compare_gt_iff_gt, Nat.mul_comm j]
    exact Nat.mul_le_mul_left 2 h
  · rw [below j h, eq_comm, compare_lt_iff_lt, Nat.mul_comm j]
    exact Nat.lt_succ_of_le (Nat.mul_le_mul_left 2 h)

/-- A value that is large in units of 2^e is rounded at a place at least 2^16 such units. -/
theorem Fmt.le_lastPlace (t : Fmt) {x : Mag} (hn : x.num ≠ 0) (hd : 0 < x.den) {e : ℤ} (h : (2 : ℚ) ^ (e + 16 + t.fb) ≤ x.val) :
    e ≤ t.lastPlace x - 16 := by
  have exponent := (zpow_lt_zpow_iff_right₀ one_lt_two).mp (h.trans_lt (Mag.log2_spec hn hd).2)
  exact le_sub_iff_add_le.mpr ((le_sub_iff_add_le.mpr (Int.le_of_lt_add_one exponent)).trans (le_max_left _ _))

/-- A value between two neighbours of a grid finer than the format's is rounded as the middle of the two. -/
theorem Fmt.round_between {t : Fmt} (ht : t.Normal) (r : Rnd) {v : ℚ → Ordering} {n : ℕ} {e : ℤ} (big : 2 ^ 64 ≤ n)
    (below : ∀ k : ℕ, k ≤ n → v (k * 2 ^ e) = .lt) (above : ∀ k : ℕ, n < k → v (k * 2 ^ e) = .gt) :
    t.Rounds r false v (t.round r false (Mag.between n e)) := by
  have hnum : (Mag.between n e).num ≠ 0 := Mag.num_ofDyadic_ne_zero (Nat.succ_ne_zero _) _
  have hden : 0 < (Mag.between n e).den := Mag.den_ofDyadic_pos _ _
  have large : (2 : ℚ) ^ (e + 16 + t.fb) ≤ (Mag.between n e).val := calc
    (2 : ℚ) ^ (e + 16 + t.fb) ≤ 2 ^ (e + 64) := zpow_le_zpow_right₀ one_le_two (by have := ht.fb_le; omega)
    _ = (2 ^ 65 : ℕ) * 2 ^ (e - 1) := by rw [two_zpow_split _ 65]; exact congrArg (fun x : ℤ => ((2 ^ 65 : ℕ) : ℚ) * 2 ^ x) (by omega)
    _ ≤ (2 * n + 1 : ℕ) * 2 ^ (e - 1) :=
      mul_le_mul_of_nonneg_right (Nat.cast_le.mpr ((Nat.mul_le_mul_left 2 big).trans (Nat.le_succ _))) (two_zpow_pos _).le
    _ = _ := (Mag.val_between n e).symm
  exact t.round_rounds ht.fb_pos r hnum hden (cutsAt_between (t.le_lastPlace hnum hden large) below above)

/-! ### Square roots -/

theorem isqrt_spec {fuel n : ℕ} (h : n < 4 ^ fuel) : isqrt fuel n * isqrt fuel n ≤ n ∧ n < (isqrt fuel n + 1) * (isqrt fuel n + 1) := by
  induction fuel generalizing n with
  | zero =>
    obtain rfl := Nat.lt_one_iff.mp h
    exact ⟨le_rfl, Nat.one_pos⟩
  | succ fuel ih =>
    obtain ⟨lo, hi⟩ := ih (n := n / 4) (Nat.div_lt_of_lt_mul (h.trans_eq Nat.pow_succ'))
    have four (x : ℕ) : 2 * x * (2 * x) = x * x * 4 := (Nat.mul_mul_mul_comm ..).trans (Nat.mul_comm _ _)
    by_cases odd : (2 * isqrt fuel (n / 4) + 1) * (2 * isqrt fuel (n / 4) + 1) ≤ n
    · have root : isqrt (fuel + 1) n = 2 * isqrt fuel (n / 4) + 1 := if_pos odd
      rw [root]
      exact ⟨odd, ((Nat.div_lt_iff_lt_mul (by decide)).mp hi).trans_eq (four _).symm⟩
    · have root : isqrt (fuel + 1) n = 2 * isqrt fuel (n / 4) := if_neg odd
      rw [root]
      exact ⟨(four _).trans_le ((Nat.le_div_iff_mul_le (by decide)).mp lo), Nat.lt_of_not_le odd⟩

/-- The square root of b / a, rounded once: its square is N / j squares of a unit 2^s, and it is `n` units or between `n` and `n + 1`. -/
theorem Fmt.round_root {t : Fmt} (ht : t.Normal) (r : Rnd) {a b u : ℚ} {j n N : ℕ} {s : ℤ} {exact : Prop} [Decidable exact]
    (ha : 0 < a) (hu : 0 < u) (hau : 2 ^ s * 2 ^ s * a = j * u) (hb : b = N * u) (lo : n * n * j ≤ N) (hi : N < (n + 1) * (n + 1) * j) (he : exact ↔ n * n * j = N)
    (big : 2 ^ 64 ≤ n) :
    t.Rounds r false (fun q => Ord.compare (q * q * a) b) (t.round r false (if exact then Mag.ofDyadic n s else Mag.between n s)) := by
  have square (x : ℚ) : x * 2 ^ s * (x * 2 ^ s) * a = x * x * j * u := by
    rw [mul_mul_mul_comm, mul_assoc, hau, mul_assoc (x * x)]
  have point (k : ℕ) : Ord.compare (k * 2 ^ s * (k * 2 ^ s) * a) b = Ord.compare (k * k * j) N := by
    rw [square, hb, ← Nat.cast_mul, ← Nat.cast_mul]
    exact compare_mul_unit hu _ _
  split
  · next e =>
    refine t.round_rounds ht.fb_pos r (Mag.num_ofDyadic_ne_zero (Nat.ne_zero_of_lt big) s) (Mag.den_ofDyadic_pos n s) fun k hk => ?_
    have root : b = n * 2 ^ s * (n * 2 ^ s) * a := by rw [square, hb, ← he.mp e, Nat.cast_mul, Nat.cast_mul]
    have hk : (0 : ℚ) ≤ k := Int.cast_nonneg (hk.resolve_right Bool.false_ne_true)
    rw [Mag.val_ofDyadic, root, ← cmp_eq_compare, ← cmp_eq_compare, cmp_mul_pos_right ha]
    exact strictMonoOn_mul_self.cmp_map_eq (mul_nonneg hk (two_zpow_pos _).le) (mul_nonneg (Nat.cast_nonneg n) (two_zpow_pos _).le)
  · next e =>
    refine Fmt.round_between ht r big (fun k hk => ?_) fun k hk => ?_
    · rw [point, compare_lt_iff_lt]
      exact (Nat.mul_le_mul_right j (Nat.mul_self_le_mul_self hk)).trans_lt (lt_of_le_of_ne lo (mt he.mpr e))
    · rw [point, compare_gt_iff_gt]
      exact hi.trans_le (Nat.mul_le_mul_right j (Nat.mul_self_le_mul_self hk))

/-- A dyadic with an even exponent, whose root has half of it, and the number under the root. -/
theorem even_parts {m : ℕ} (e : ℤ) (hm : m ≠ 0) (hlt : m < 2 ^ 24) : ∃ (h : ℤ) (k : ℕ), (if e % 2 = 0 then e else e - 1) / 2 = h ∧
    (if e % 2 = 0 then m else 2 * m) = k ∧ (m : ℚ) * 2 ^ e = k * (2 ^ h * 2 ^ h) ∧ 0 < k ∧ k < 2 ^ 25 := by
  obtain ⟨h, rfl | rfl⟩ := Int.even_or_odd' e
  · have even := Int.mul_emod_right 2 h
    refine ⟨h, m, ?_, if_pos even, ?_, Nat.pos_of_ne_zero hm, hlt.trans (by decide)⟩
    · rw [if_pos even, Int.mul_ediv_cancel_left h two_ne_zero]
    · rw [two_mul, zpow_add₀ two_ne_zero]
  · have odd : (2 * h + 1) % 2 ≠ 0 := by omega
    refine ⟨h, 2 * m, ?_, if_neg odd, ?_, Nat.mul_pos Nat.two_pos (Nat.pos_of_ne_zero hm), Nat.mul_lt_mul_of_pos_left hlt Nat.two_pos⟩
    · rw [if_neg odd, add_sub_cancel_right, Int.mul_ediv_cancel_left h two_ne_zero]
    · rw [zpow_add_one₀ two_ne_zero, two_mul, zpow_add₀ two_ne_zero, Nat.cast_mul, Nat.cast_ofNat, mul_comm _ (2 : ℚ), mul_left_comm,
        mul_assoc]

/-- A root of a large number is large. -/
theorem root_large {n N : ℕ} (h : N < (n + 1) * (n + 1)) (hN : 2 ^ 128 ≤ N) : 2 ^ 64 ≤ n := by
  have : 2 ^ 64 < n + 1 := Nat.mul_self_lt_mul_self_iff.mp (hN.trans_lt h)
  exact Nat.le_of_lt_succ this

theorem Fmt.round_sqrtMag {t : Fmt} (ht : t.Normal) (r : Rnd) {m : ℕ} (e : ℤ) (hm : m ≠ 0) (hlt : m < 2 ^ 24) :
    t.Rounds r false (fun q => Ord.compare (q * q) (m * 2 ^ e)) (t.round r false (sqrtMag m e)) := by
  obtain ⟨h, k, hh, hk, hv, k1, k2⟩ := even_parts e hm hlt
  unfold sqrtMag
  dsimp only
  rw [hh, hv, hk]
  obtain ⟨lo, hi⟩ := isqrt_spec (fuel := 120) (n := k * 2 ^ 128) ((Nat.mul_lt_mul_of_pos_right k2 (Nat.two_pow_pos 128)).trans (by decide))
  generalize isqrt 120 (k * 2 ^ 128) = n at lo hi
  have scale : (k * (2 ^ h * 2 ^ h) : ℚ) = (k * 2 ^ 128 : ℕ) * (2 ^ (h - 64) * 2 ^ (h - 64)) := by
    rw [two_zpow_split h 64, mul_mul_mul_comm, ← mul_assoc, ← Nat.cast_mul, ← Nat.cast_mul]
    rfl
  have key := Fmt.round_root ht r (a := 1) (j := 1) (exact := n * n = k * 2 ^ 128) one_pos (mul_pos (two_zpow_pos (h - 64)) (two_zpow_pos (h - 64)))
    (by rw [mul_one, Nat.cast_one, one_mul]) scale ((Nat.mul_one _).trans_le lo) (hi.trans_eq (Nat.mul_one _).symm)
    (by rw [Nat.mul_one]) (root_large hi (Nat.le_mul_of_pos_left _ k1))
  simp only [mul_one] at key
  exact key

theorem Fmt.round_rsqrtMag {t : Fmt} (ht : t.Normal) (r : Rnd) {m : ℕ} (e : ℤ) (hm : m ≠ 0) (hlt : m < 2 ^ 24) :
    t.Rounds r false (fun q => Ord.compare (q * q * (m * 2 ^ e)) 1) (t.round r false (rsqrtMag m e)) := by
  obtain ⟨h, k, hh, hk, hv, k1, k2⟩ := even_parts e hm hlt
  unfold rsqrtMag
  dsimp only
  rw [hh, hv, hk]
  obtain ⟨lo, hi⟩ := isqrt_spec (fuel := 130) (n := 2 ^ 256 / k) (Nat.lt_of_le_of_lt (Nat.div_le_self _ _) (by decide))
  have hN : 2 ^ 128 ≤ 2 ^ 256 / k := (Nat.le_div_iff_mul_le k1).mpr ((Nat.mul_le_mul_left _ k2.le).trans (by decide))
  have unit : (2 ^ (-h - 128) * 2 ^ (-h - 128) * (k * (2 ^ h * 2 ^ h)) : ℚ) = k * (2 ^ (-128 : ℤ) * 2 ^ (-128 : ℤ)) := by
    rw [mul_left_comm, mul_mul_mul_comm, ← zpow_add₀ two_ne_zero, sub_add_eq_add_sub, neg_add_cancel, zero_sub]
  have one : (1 : ℚ) = (2 ^ 256 : ℕ) * (2 ^ (-128 : ℤ) * 2 ^ (-128 : ℤ)) := by
    rw [← zpow_add₀ two_ne_zero, Nat.cast_pow, Nat.cast_ofNat, ← zpow_natCast, ← zpow_add₀ two_ne_zero]
    rfl
  exact Fmt.round_root ht r (mul_pos (Nat.cast_pos.mpr k1) (mul_pos (two_zpow_pos _) (two_zpow_pos _))) (mul_pos (two_zpow_pos _) (two_zpow_pos _))
    unit one ((Nat.le_div_iff_mul_le k1).mp lo) ((Nat.div_lt_iff_lt_mul k1).mp hi) Iff.rfl (root_large hi hN)

/-! ### Powers of two -/

/-- A dyadic that is a whole number, in integers. -/
theorem Dyadic.z_mul_of_val {z : ℤ} {e k : ℤ} (h : (⟨z, e⟩ : Dyadic).val = k) :
    if 0 ≤ e then z * 2 ^ e.toNat = k else z = k * 2 ^ (-e).toNat := by
  have cast (j : ℤ) (hj : 0 ≤ j) : ((2 ^ j.toNat : ℤ) : ℚ) = 2 ^ j := by
    rw [Int.cast_pow, Int.cast_ofNat, ← zpow_natCast, Int.toNat_of_nonneg hj]
  have h : (z : ℚ) * 2 ^ e = k := h
  split
  · next he => exact Int.cast_injective (α := ℚ) ((Int.cast_mul ..).trans ((congrArg _ (cast e he)).trans h))
  · next he =>
    refine Int.cast_injective (α := ℚ) ?_
    rw [Int.cast_mul, cast (-e) (Int.neg_nonneg_of_nonpos (not_le.mp he).le), ← h, mul_assoc, ← zpow_add₀ two_ne_zero,
      add_neg_cancel, zpow_zero, mul_one]

/-- The exponent of a power of two, taken into the range in which it matters. -/
@[reducible] noncomputable def clamp (k : ℤ) : ℤ := max (min k 2000) (-2000)

theorem clamp_of_ge {k : ℤ} (h : 2000 ≤ k) : clamp k = 2000 := by
  rw [clamp, min_eq_right h]
  rfl

theorem clamp_of_le {k : ℤ} (h : k ≤ -2000) : clamp k = -2000 := max_eq_right ((min_le_left _ _).trans h)

theorem clamp_mul_congr (z : ℤ) {p q : ℤ} (hp : 2000 ≤ p) (hq : 2000 ≤ q) : clamp (z * p) = clamp (z * q) := by
  obtain h | rfl | h := lt_trichotomy z 0
  · have small (p : ℤ) (hp : 2000 ≤ p) : z * p ≤ -2000 := calc
      z * p ≤ -1 * p := mul_le_mul_of_nonneg_right (Int.le_sub_one_of_lt h) ((by decide : (0 : ℤ) ≤ 2000).trans hp)
      _ = -p := neg_one_mul p
      _ ≤ -2000 := neg_le_neg hp
    rw [clamp_of_le (small p hp), clamp_of_le (small q hq)]
  · rw [zero_mul, zero_mul]
  · have large (p : ℤ) (hp : 2000 ≤ p) : 2000 ≤ z * p := hp.trans (le_mul_of_one_le_left ((by decide : (0 : ℤ) ≤ 2000).trans hp) h)
    rw [clamp_of_ge (large p hp), clamp_of_ge (large q hq)]

theorem exp2Mag_of_int {x : Dyadic} {k : ℤ} (h : x.val = k) : exp2Mag x = Mag.ofDyadic 1 (clamp k) := by
  obtain ⟨z, e⟩ := x
  have hz := Dyadic.z_mul_of_val h
  by_cases he : 0 ≤ e
  · rw [if_pos he] at hz
    refine (if_pos he).trans (congrArg (Mag.ofDyadic 1) ?_)
    change clamp (z * 2 ^ (min e 20).toNat) = clamp k
    obtain hle | hgt := le_total e 20
    · rw [min_eq_left hle, hz]
    · have far : (2000 : ℤ) ≤ 2 ^ e.toNat :=
        (by decide : (2000 : ℤ) ≤ 2 ^ 20).trans (pow_le_pow_right₀ one_le_two (Int.toNat_le_toNat hgt))
      rw [min_eq_right hgt, ← hz]
      exact clamp_mul_congr z (by decide) far
  · rw [if_neg he] at hz
    have hp : (2 : ℤ) ^ (-e).toNat ≠ 0 := pow_ne_zero _ two_ne_zero
    have rem : (z % 2 ^ (-e).toNat).toNat = 0 := by rw [hz, Int.mul_emod_left]; rfl
    have quot : z / 2 ^ (-e).toNat = k := by rw [hz, Int.mul_ediv_cancel _ hp]
    refine (if_neg he).trans ((if_pos rem).trans (congrArg (Mag.ofDyadic 1) ?_))
    exact congrArg clamp quot

/-- A magnitude from the first that no format holds on is an overflow (R132). -/
theorem Fmt.Rounds.overflow {t : Fmt} {r : Rnd} {neg : Bool} {x : ℚ} {out : ℕ × BitVec 5} (h : t.Rounds r neg (Ord.compare · x) out)
    (hx : t.mag ((2 ^ t.eb - 1) * 2 ^ t.fb) ≤ x) : out =
    (if r.mode = 1 ∨ (r.mode = 2 ∧ neg = true) ∨ (r.mode = 3 ∧ neg = false) then t.maxBits neg else t.infBits neg, flagOF ||| flagNX) := by
  obtain ⟨b, -, hi, c, stay, move, overflow, -⟩ := h
  refine overflow ?_
  have hi := compare_gt_iff_gt.mp hi
  have htop : (2 ^ t.eb - 1) * 2 ^ t.fb ≤ b := Nat.le_of_lt_succ (t.mag_strictMono.lt_iff_lt.mp (hx.trans_lt hi))
  by_contra hlt
  have below : c < b := (Nat.lt_of_not_le hlt).trans_le htop
  refine absurd (move (fun e => below.ne (stay (.inl e))) ?_) (below.trans (Nat.lt_succ_self b)).ne
  by_contra hup
  exact below.ne (stay (.inr hup))

/-- The magnitude of an encoding whose fraction is 0. -/
theorem Fmt.mag_fraction_zero (t : Fmt) (k : ℕ) : t.mag ((k + 1) * 2 ^ t.fb) = 2 ^ (1 - t.bias + k : ℤ) := by
  have h : t.mag ((k + 1) * 2 ^ t.fb) = (2 ^ t.fb : ℕ) * 2 ^ (t.minExp + k) := t.mag_normal k (Nat.two_pow_pos t.fb)
  rw [Nat.cast_pow, Nat.cast_ofNat, ← zpow_natCast, ← zpow_add₀ two_ne_zero, Fmt.minExp, ← add_assoc, add_sub_cancel] at h
  exact h

theorem Fmt.mag_top_le {t : Fmt} (ht : t.Normal) : t.mag ((2 ^ t.eb - 1) * 2 ^ t.fb) ≤ 2 ^ (2000 : ℤ) := by
  obtain ⟨k, hk⟩ := Nat.exists_eq_succ_of_ne_zero (Nat.ne_zero_of_lt ht.bias_lt)
  rw [hk, t.mag_fraction_zero]
  refine zpow_le_zpow_right₀ one_le_two ?_
  have := ht.top_le
  omega

theorem Fmt.round_two_zpow_unclamped {t : Fmt} (ht : t.Normal) (r : Rnd) (k : ℤ) :
    t.Rounds r false (Ord.compare · (2 ^ k)) (t.round r false (Mag.ofDyadic 1 k)) :=
  Fmt.round_exact ht r (Mag.num_ofDyadic_ne_zero one_ne_zero k) (Mag.den_ofDyadic_pos 1 k) (by rw [Mag.val_ofDyadic, Nat.cast_one, one_mul])

/-- Two magnitudes below the finest point that rounding looks at compare with every such point in the same way. -/
theorem CutsAt.of_tiny {x z u : ℚ} (hx : 0 < x) (hz : 0 < z) (hxu : x < u) (hzu : z < u) : CutsAt (Ord.compare · x) z u false := by
  intro j hj
  change Ord.compare _ x = _
  obtain rfl | hj := (hj.resolve_right Bool.false_ne_true).eq_or_lt
  · rw [Int.cast_zero, zero_mul, compare_lt_iff_lt.mpr hx, compare_lt_iff_lt.mpr hz]
  · have hu : u ≤ j * u := le_mul_of_one_le_left (hx.trans hxu).le (Int.cast_one_le_of_pos hj)
    rw [compare_gt_iff_gt.mpr (hxu.trans_le hu), compare_gt_iff_gt.mpr (hzu.trans_le hu)]

/-- 2^k rounded once, though its exponent is taken into ±2000. -/
theorem Fmt.round_two_zpow {t : Fmt} (ht : t.Normal) (r : Rnd) (k : ℤ) :
    t.Rounds r false (Ord.compare · (2 ^ k)) (t.round r false (Mag.ofDyadic 1 (clamp k))) := by
  obtain h | h := le_total 2000 k
  · have big : (2 : ℚ) ^ (2000 : ℤ) ≤ 2 ^ k := zpow_le_zpow_right₀ one_le_two h
    have same : t.round r false (Mag.ofDyadic 1 2000) = t.round r false (Mag.ofDyadic 1 k) :=
      ((Fmt.round_two_zpow_unclamped ht r 2000).overflow (Fmt.mag_top_le ht)).trans
        ((Fmt.round_two_zpow_unclamped ht r k).overflow ((Fmt.mag_top_le ht).trans big)).symm
    rw [clamp_of_ge h, same]
    exact Fmt.round_two_zpow_unclamped ht r k
  obtain h' | h' := le_total k (-2000)
  · rw [clamp_of_le h']
    refine t.round_rounds ht.fb_pos r (Mag.num_ofDyadic_ne_zero one_ne_zero _) (Mag.den_ofDyadic_pos 1 _) ?_
    have place : (-2000 : ℤ) < t.lastPlace (Mag.ofDyadic 1 (-2000)) - 16 := by
      refine lt_of_lt_of_le ?_ (sub_le_sub_right (le_max_right _ _) 16)
      have := ht.bias_le
      have := ht.fb_le
      rw [Fmt.minExp]
      omega
    rw [Mag.val_ofDyadic, Nat.cast_one, one_mul]
    have unit : (2 : ℚ) ^ (-2000 : ℤ) < 2 ^ (t.lastPlace (Mag.ofDyadic 1 (-2000)) - 16) := zpow_lt_zpow_right₀ one_lt_two place
    exact CutsAt.of_tiny (two_zpow_pos _) (two_zpow_pos _) ((zpow_le_zpow_right₀ one_le_two h').trans_lt unit) unit
  · rw [clamp, min_eq_left h, max_eq_left h']
    exact Fmt.round_two_zpow_unclamped ht r k

/-- 2^0 is a number of every format. -/
theorem Fmt.round_one {t : Fmt} (ht : t.Normal) (r : Rnd) : t.round r false (Mag.ofDyadic 1 0) = (t.bias * 2 ^ t.fb, 0) := by
  obtain ⟨k, hk⟩ := Nat.exists_eq_succ_of_ne_zero ht.bias_pos.ne'
  have one : t.mag (t.bias * 2 ^ t.fb) = 2 ^ (0 : ℤ) := by
    rw [hk, t.mag_fraction_zero, hk, Nat.cast_succ, sub_add_eq_sub_sub, sub_right_comm, sub_self, zero_sub, neg_add_cancel]
  have h := Fmt.round_two_zpow_unclamped ht r 0
  rw [← one] at h
  rw [h.exact (Nat.mul_lt_mul_of_pos_right ht.bias_lt (Nat.two_pow_pos _)), Fmt.zero, Bool.toNat_false, Nat.zero_mul, Nat.zero_add]

/-! ### Logarithms -/

/-- The logarithm of a power of two is its exponent. -/
theorem log2Mag_of_two_zpow {m : ℕ} {e k : ℤ} (h : (m : ℚ) * 2 ^ e = 2 ^ k) : log2Mag m e = (decide (k < 0), ⟨k.natAbs, 1⟩) := by
  have hm : (m : ℚ) = 2 ^ (k - e) := by rw [zpow_sub₀ two_ne_zero, eq_div_iff (two_zpow_pos e).ne', h]
  have hm1 : (1 : ℕ) ≤ m := Nat.cast_pos.mp (hm ▸ two_zpow_pos (k - e) : (0 : ℚ) < m)
  have hle : 0 ≤ k - e := (one_le_zpow_iff_right₀ one_lt_two).mp ((Nat.one_le_cast.mpr hm1).trans_eq hm)
  obtain ⟨l, hl⟩ := Int.eq_ofNat_of_zero_le hle
  have hml : m = 2 ^ l := by
    rw [hl, zpow_natCast, ← Nat.cast_ofNat, ← Nat.cast_pow] at hm
    exact Nat.cast_injective hm
  have hk : e + (m.log2 : ℤ) = k := by
    rw [hml, Nat.log2_two_pow, ← hl, add_sub_cancel]
  refine (if_pos (by rw [hml, Nat.log2_two_pow])).trans ?_
  rw [hk]

end Sys2Proof.Machine
end

section
/-! SUPPORT. The special functions case by case (R166). -/
namespace Sys2Proof.Machine

theorem Fmt.decode_significand_lt (t : Fmt) {a m : ℕ} {n : Bool} {e : ℤ} (h : t.decode a = .fin n m e) : m < 2 ^ (t.fb + 1) := by
  have hf : a % 2 ^ t.fb < 2 ^ t.fb := Nat.mod_lt _ (Nat.two_pow_pos _)
  by_cases top : bits a t.fb t.eb = 2 ^ t.eb - 1
  · obtain ⟨-, hd⟩ | ⟨q, hd⟩ := t.decode_top top <;> cases h.symm.trans hd
  · have hd : t.decode a = if bits a t.fb t.eb = 0 then .fin (bit a (t.eb + t.fb)) (a % 2 ^ t.fb) t.minExp
        else .fin (bit a (t.eb + t.fb)) (2 ^ t.fb + a % 2 ^ t.fb) (t.minExp + (bits a t.fb t.eb - 1 : ℕ)) := if_neg top
    by_cases sub : bits a t.fb t.eb = 0
    · obtain ⟨-, rfl, -⟩ := Fp.fin.inj (h.symm.trans (hd.trans (if_pos sub)))
      exact hf.trans (Nat.pow_lt_pow_succ Nat.one_lt_two)
    · obtain ⟨-, rfl, -⟩ := Fp.fin.inj (h.symm.trans (hd.trans (if_neg sub)))
      exact (Nat.add_lt_add_left hf _).trans_eq (Nat.mul_two _).symm

/-- What a special function gives for an infinity. -/
noncomputable def Fmt.sfuInf (t : Fmt) (n : Bool) : Sfu → ℕ × BitVec 5
  | .rcp => (t.zero n, 0)
  | .rsqrt => if n then (t.nan, flagNV) else (t.zero false, 0)
  | .sqrt => if n then (t.nan, flagNV) else (t.infBits false, 0)
  | .exp2 => if n then (t.zero false, 0) else (t.infBits false, 0)
  | .log2 => if n then (t.nan, flagNV) else (t.infBits false, 0)

/-- What it gives for a finite number. -/
noncomputable def Fmt.sfuFin (t : Fmt) (r : Rnd) (n : Bool) (m : ℕ) (e : ℤ) : Sfu → ℕ × BitVec 5
  | .rcp => if m = 0 then (t.infBits n, flagDZ) else t.round r n (if 0 ≤ e then ⟨1, m * 2 ^ e.toNat⟩ else ⟨2 ^ (-e).toNat, m⟩)
  | .rsqrt => if m = 0 then (t.infBits n, flagDZ) else if n then (t.nan, flagNV) else t.round r false (rsqrtMag m e)
  | .sqrt => if m = 0 then (t.zero n, 0) else if n then (t.nan, flagNV) else t.round r false (sqrtMag m e)
  | .exp2 => t.round r false (exp2Mag (Fp.fin n m e).dyadic)
  | .log2 => if m = 0 then (t.infBits true, flagDZ) else if n then (t.nan, flagNV) else
      if (log2Mag m e).2.num = 0 then (t.zero false, 0) else t.round r (log2Mag m e).1 (log2Mag m e).2

section
variable {t : Fmt} (r : Rnd) {a : ℕ}

theorem Fmt.sfu_nan {q : Bool} (hx : t.decode a = .nan q) (f : Sfu) : t.sfu f r a = (t.nan, if q then flagNV else 0) := by
  delta Fmt.sfu
  rw [hx]
  cases f <;> rfl

theorem Fmt.sfu_eq_sfuInf {n : Bool} (hx : t.decode a = .inf n) (f : Sfu) : t.sfu f r a = t.sfuInf n f := by
  delta Fmt.sfu
  rw [hx]
  cases f <;> rfl

theorem Fmt.sfu_eq_sfuFin {n : Bool} {m : ℕ} {e : ℤ} (hx : t.decode a = .fin n m e) (f : Sfu) : t.sfu f r a = t.sfuFin r n m e f := by
  delta Fmt.sfu
  rw [hx]
  cases f <;> rfl

theorem Fmt.sfu_inf {n : Bool} (hx : t.decode a = .inf n) :
    t.sfu .rcp r a = (t.zero n, 0) ∧ t.sfu .exp2 r a = (if n then t.zero false else t.infBits false, 0) ∧
      (∀ f ∈ [Sfu.rsqrt, .sqrt, .log2], n = true → t.sfu f r a = (t.nan, flagNV)) ∧
      (n = false → t.sfu .rsqrt r a = (t.zero false, 0) ∧ t.sfu .sqrt r a = (t.infBits false, 0) ∧ t.sfu .log2 r a = (t.infBits false, 0)) := by
  have eq := Fmt.sfu_eq_sfuInf r hx
  refine ⟨eq .rcp, (eq .exp2).trans (by cases n <;> rfl), ?_, ?_⟩
  · exact forall_cons (fun h => (eq .rsqrt).trans (if_pos h)) <| forall_cons (fun h => (eq .sqrt).trans (if_pos h)) <|
      forall_cons (fun h => (eq .log2).trans (if_pos h)) (List.forall_mem_nil _)
  · rintro rfl
    exact ⟨eq .rsqrt, eq .sqrt, eq .log2⟩

theorem Fmt.sfu_zero (ht : t.Normal) {n : Bool} {e : ℤ} (hx : t.decode a = .fin n 0 e) :
    t.sfu .rcp r a = (t.infBits n, flagDZ) ∧ t.sfu .rsqrt r a = (t.infBits n, flagDZ) ∧ t.sfu .sqrt r a = (t.zero n, 0) ∧
      t.sfu .exp2 r a = (t.bias * 2 ^ t.fb, 0) ∧ t.sfu .log2 r a = (t.infBits true, flagDZ) := by
  have eq := Fmt.sfu_eq_sfuFin r hx
  have zero : (Fp.fin n 0 e).dyadic.val = (0 : ℤ) := by
    rw [Fp.val_dyadic rfl rfl, Fp.value_fin, Nat.cast_zero, mul_zero, zero_mul, Int.cast_zero]
  have one : exp2Mag (Fp.fin n 0 e).dyadic = Mag.ofDyadic 1 0 := exp2Mag_of_int zero
  exact ⟨eq .rcp, eq .rsqrt, eq .sqrt, (eq .exp2).trans ((congrArg (t.round r false) one).trans (Fmt.round_one ht r)), eq .log2⟩

theorem Fmt.sfu_negative {m : ℕ} {e : ℤ} (hx : t.decode a = .fin true m e) (hm : m ≠ 0) :
    ∀ f ∈ [Sfu.rsqrt, .sqrt, .log2], t.sfu f r a = (t.nan, flagNV) :=
  forall_cons ((Fmt.sfu_eq_sfuFin r hx _).trans (if_neg hm)) <| forall_cons ((Fmt.sfu_eq_sfuFin r hx _).trans (if_neg hm)) <|
    forall_cons ((Fmt.sfu_eq_sfuFin r hx _).trans (if_neg hm)) (List.forall_mem_nil _)

theorem Fmt.rcp_rounds (ht : t.Normal) {n : Bool} {m : ℕ} {e : ℤ} (hx : t.decode a = .fin n m e) (hm : m ≠ 0) :
    t.Rounds r n (Ord.compare · (1 / |(t.decode a).value|)) (t.sfu .rcp r a) := by
  have hv : 1 / |(t.decode a).value| = 1 / (m : ℚ) * 2 ^ (-e) := by
    rw [hx, Fp.abs_value_fin, zpow_neg, ← one_div, one_div_mul_one_div]
  have shape : (if 0 ≤ e then (⟨1, m * 2 ^ e.toNat⟩ : Mag) else ⟨2 ^ (-e).toNat, m⟩).val = 1 / (m : ℚ) * 2 ^ (-e) := by
    split
    · next h => rw [Mag.val, Nat.cast_mul, natCast_two_pow_toNat h, zpow_neg, Nat.cast_one, ← one_div, one_div_mul_one_div]
    · next h => rw [Mag.val, natCast_two_pow_toNat (Int.neg_nonneg_of_nonpos (not_le.mp h).le), one_div_mul_eq_div]
  have hr : t.sfu .rcp r a = _ := (Fmt.sfu_eq_sfuFin r hx .rcp).trans (if_neg hm)
  rw [hv, hr]
  refine Fmt.round_exact ht r ?_ ?_ shape
  · split
    · exact one_ne_zero
    · exact (Nat.two_pow_pos _).ne'
  · split
    · exact Nat.mul_pos (Nat.pos_of_ne_zero hm) (Nat.two_pow_pos _)
    · exact Nat.pos_of_ne_zero hm

theorem Fmt.roots_rounds (ht : t.Normal) {m : ℕ} {e : ℤ} (hx : t.decode a = .fin false m e) (hm : m ≠ 0) :
    t.Rounds r false (fun q => Ord.compare (q * q) |(t.decode a).value|) (t.sfu .sqrt r a) ∧
      t.Rounds r false (fun q => Ord.compare (q * q * |(t.decode a).value|) 1) (t.sfu .rsqrt r a) := by
  have lt : m < 2 ^ 24 := (t.decode_significand_lt hx).trans_le (Nat.pow_le_pow_right (by decide) (Nat.succ_le_succ ht.fb_le))
  have hs : t.sfu .sqrt r a = t.round r false (sqrtMag m e) := (Fmt.sfu_eq_sfuFin r hx .sqrt).trans (if_neg hm)
  have hr : t.sfu .rsqrt r a = t.round r false (rsqrtMag m e) := (Fmt.sfu_eq_sfuFin r hx .rsqrt).trans (if_neg hm)
  rw [hs, hr, hx, Fp.abs_value_fin]
  exact ⟨Fmt.round_sqrtMag ht r e hm lt, Fmt.round_rsqrtMag ht r e hm lt⟩

theorem Fmt.exp2_rounds (ht : t.Normal) {n : Bool} {m : ℕ} {e k : ℤ} (hx : t.decode a = .fin n m e) (hk : (t.decode a).value = k) :
    t.Rounds r false (Ord.compare · (2 ^ k)) (t.sfu .exp2 r a) := by
  rw [hx] at hk
  have hd := exp2Mag_of_int ((Fp.val_dyadic rfl rfl).trans hk)
  have he : t.sfu .exp2 r a = t.round r false (exp2Mag (Fp.fin n m e).dyadic) := Fmt.sfu_eq_sfuFin r hx .exp2
  rw [he, hd]
  exact Fmt.round_two_zpow ht r k

theorem Fmt.log2_rounds (ht : t.Normal) {m : ℕ} {e k : ℤ} (hx : t.decode a = .fin false m e) (hm : m ≠ 0)
    (hk : |(t.decode a).value| = 2 ^ k) :
    if k = 0 then t.sfu .log2 r a = (t.zero false, 0)
    else t.Rounds r (decide (k < 0)) (Ord.compare · |(k : ℚ)|) (t.sfu .log2 r a) := by
  rw [hx, Fp.abs_value_fin] at hk
  have hl : t.sfu .log2 r a = if (log2Mag m e).2.num = 0 then (t.zero false, 0) else t.round r (log2Mag m e).1 (log2Mag m e).2 :=
    (Fmt.sfu_eq_sfuFin r hx .log2).trans (if_neg hm)
  rw [log2Mag_of_two_zpow hk] at hl
  split
  · next h0 => exact hl.trans (if_pos (Int.natAbs_eq_zero.mpr h0))
  · next h0 =>
    have hn : k.natAbs ≠ 0 := Int.natAbs_ne_zero.mpr h0
    rw [hl.trans (if_neg hn)]
    exact Fmt.round_exact ht r hn Nat.one_pos (by rw [Mag.val, Nat.cast_one, div_one, Nat.cast_natAbs, Int.cast_abs])

end

/-! ### Points at which 2^x and log2 are pinned -/

theorem exp2_points : ∀ q ∈ [(0x3F000000, 0x3FB504F3), (0xBF000000, 0x3F3504F3), (0x40490FDB, 0x410D331D), (0xC2FD0000, 0x005A827A)],
    (f32.sfu .exp2 .rne q.1).1 = q.2 := by decide +kernel

theorem log2_points : ∀ q ∈ [(0x40400000, 0x3FCAE00D), (0x3F7FFFFF, 0xB3B8AA3C), (0x41200000, 0x40549A78), (0x00000003, 0xC3136A40)],
    (f32.sfu .log2 .rne q.1).1 = q.2 := by decide +kernel

end Sys2Proof.Machine
end

section
/-! SUPPORT. The sign operations of a floating-point type (R161). -/
namespace Sys2Proof.Machine

theorem Fmt.decode_isNeg (t : Fmt) {x : ℕ} (h : (t.decode x).isNan = false) : (t.decode x).isNeg = bit x (t.eb + t.fb) := by
  by_cases top : bits x t.fb t.eb = 2 ^ t.eb - 1
  · obtain ⟨-, hd⟩ | ⟨q, hd⟩ := t.decode_top top
    · rw [hd]; rfl
    · exact absurd ((congrArg Fp.isNan hd).symm.trans h) (Bool.false_ne_true ·.symm)
  · obtain ⟨m, e, hd, -⟩ := t.decode_finite top
    rw [hd]; rfl

/-- The top bit of a number of one bit more. -/
theorem bit_top {x n : ℕ} (h : x < 2 * 2 ^ n) : bit x n = decide (2 ^ n ≤ x) := by
  rw [bit, decide_eq_decide]
  by_cases hle : 2 ^ n ≤ x
  · rw [Nat.div_eq_of_lt_le ((Nat.one_mul _).trans_le hle) h]
    exact iff_of_true rfl hle
  · rw [Nat.div_eq_of_lt (Nat.lt_of_not_le hle)]
    exact iff_of_false Nat.zero_ne_one hle

/-- A number whose top bit is flipped. -/
theorem flip_top {x n : ℕ} (h : x < 2 * n) : x % n + (!decide (n ≤ x)).toNat * n = (x + n) % (2 * n) := by
  obtain hlt | hle := Nat.lt_or_ge x n
  · rw [decide_eq_false (Nat.not_le.mpr hlt), Nat.mod_eq_of_lt hlt, Nat.two_mul, Nat.mod_eq_of_lt (Nat.add_lt_add_right hlt n)]
    exact congrArg _ (Nat.one_mul n)
  · rw [decide_eq_true hle]
    obtain ⟨y, rfl⟩ := Nat.exists_eq_add_of_le hle
    rw [Nat.two_mul] at h ⊢
    rw [Nat.add_right_comm, Nat.add_mod_left, Nat.add_mod_left, Nat.mod_eq_of_lt (Nat.lt_of_add_lt_add_left h),
      Nat.mod_eq_of_lt ((Nat.lt_of_add_lt_add_left h).trans_le (Nat.le_add_left _ _))]
    exact congrArg _ (Nat.zero_mul n)

/-- The sign cleared, or flipped (R161). -/
theorem signOp_eq (t : Fmt) (flip : Bool) {x : ℕ} (hx : x < 2 ^ t.width) : signOp t flip x =
    if (t.decode x).isNan then (t.nan, if (t.decode x).isSnan then flagNV else 0)
    else (if flip then (x + 2 ^ (t.width - 1)) % 2 ^ t.width else x % 2 ^ (t.width - 1), 0) := by
  cases h : (t.decode x).isNan
  · have hw : t.width - 1 = t.eb + t.fb := by rw [Fmt.width, Nat.add_assoc, Nat.add_sub_cancel_left]
    have hp : 2 ^ t.width = 2 * 2 ^ (t.eb + t.fb) := by rw [← Nat.pow_succ', Fmt.width, Nat.add_assoc, Nat.add_comm 1]
    have number : signOp t flip x = (x % 2 ^ (t.eb + t.fb) + t.zero (flip && !(t.decode x).isNeg), 0) := by
      rw [signOp]
      cases hd : t.decode x with
      | nan q => exact absurd ((congrArg Fp.isNan hd).symm.trans h) (Bool.false_ne_true ·.symm)
      | inf n => rfl
      | fin n m e => rfl
    rw [hp] at hx
    rw [number, t.decode_isNeg h, if_neg Bool.false_ne_true, hw, hp, bit_top hx]
    cases flip
    · exact congrArg (·, 0) (congrArg _ (Nat.zero_mul _))
    · exact congrArg (·, 0) (flip_top hx)
  · obtain ⟨q, hd⟩ := Fp.of_nan h
    rw [signOp, hd]
    rfl

theorem elemW_of_float {y : BitVec 3} (h : isFloatTy y = true) : elemW y = (fmtOf y).width := by
  revert y; decide

theorem signLane_eq {y : BitVec 3} (hy : isFloatTy y = true) (flip : Bool) (s : State) (a : Reg) (i : ℕ) (int : ℕ × BitVec 5) :
    (if isFloatTy y = true then signOp (fmtOf y) flip (s.el y a i) else int) =
      if ((fmtOf y).decode (s.el y a i)).isNan then ((fmtOf y).nan, if ((fmtOf y).decode (s.el y a i)).isSnan then flagNV else 0)
      else (if flip then (s.el y a i + 2 ^ ((fmtOf y).width - 1)) % 2 ^ (fmtOf y).width else s.el y a i % 2 ^ ((fmtOf y).width - 1), 0) :=
  (if_pos hy).trans (signOp_eq _ flip (elemW_of_float hy ▸ s.el_lt y a i))

end Sys2Proof.Machine
end

section
open Sys2Proof Sys2Proof.Machine

/-- Settles O27: each form is lane-wise, with or without draws; the special functions by the number they are given. -/
theorem vectorFloat : Obligations.VectorFloat := by
  refine ⟨fun d a b p y s hy => ?_, fun t r a hmem => ?_, exp2_points, log2_points⟩
  · intro t x z c r
    have float {f g : ℕ → ℕ × BitVec 5} : (fun i => if isFloatTy y = true then f i else g i) = f := funext fun _ => if_pos hy
    constructor
    · exact forall_cons (laneOp_runs_rounding (exec_vadd ..) hy float) <| forall_cons (laneOp_runs_rounding (exec_vsub ..) hy float) <|
        forall_cons (laneOp_runs_rounding (exec_vmul ..) hy float) <| forall_cons (laneOp_runs_rounding (exec_vfma ..) hy float) <|
        forall_cons (laneOp_runs_rounding (exec_vfms ..) hy float) <| forall_cons (laneOp_runs_rounding (exec_vfnma ..) hy float) <|
        forall_cons (laneOp_runs_rounding (exec_vfnms ..) hy float) <| forall_cons (laneOp_runs_rounding (exec_vdiv ..) hy rfl) <|
        forall_cons (laneOp_runs_rounding (exec_vrcp ..) hy rfl) <| forall_cons (laneOp_runs_rounding (exec_vrsqrt ..) hy rfl) <|
        forall_cons (laneOp_runs_rounding (exec_vsqrt ..) hy rfl) <| forall_cons (laneOp_runs_rounding (exec_vexp2 ..) hy rfl) <|
        forall_cons (laneOp_runs_rounding (exec_vlog2 ..) hy rfl) <| forall_cons (laneOp_runs_rounding (exec_vtie ..) hy rfl) (List.forall_mem_nil _)
    · exact forall_cons (laneOp_runs (exec_vmin ..) float) <| forall_cons (laneOp_runs (exec_vmax ..) float) <|
        forall_cons (laneOp_runs (exec_vabs ..) (funext fun i => signLane_eq hy false s a i _)) <|
        forall_cons (laneOp_runs (exec_vneg ..) (funext fun i => signLane_eq hy true s a i _)) (List.forall_mem_nil _)
  · have ht := Fmt.normal_of_mem hmem
    intro x out
    refine ⟨fun q hx => Fmt.sfu_nan r hx, fun n hx => Fmt.sfu_inf r hx, fun n e hx => Fmt.sfu_zero r ht hx, fun n m e hx hm => ?_⟩
    intro v
    exact ⟨Fmt.rcp_rounds r ht hx hm, fun h => Fmt.sfu_negative r (h ▸ hx) hm, fun h => Fmt.roots_rounds r ht (h ▸ hx) hm,
      fun k hk => Fmt.exp2_rounds r ht hx hk, fun k h hk => Fmt.log2_rounds r ht (h ▸ hx) hm hk⟩

end
